-- ==== Sys2Proof/Word.lean ====
section
/-!
DEFINITION. The word types of the machine and the keyed table in which sparse state is held.
-/
namespace Sys2Proof

abbrev Byte := BitVec 8
abbrev W16 := BitVec 16
abbrev W32 := BitVec 32
abbrev W64 := BitVec 64
abbrev W128 := BitVec 128

/-- A register number of six bits: a context, a launch queue. -/
abbrev B6 := BitVec 6
/-- A launch handle, R106. -/
abbrev Handle := BitVec 48
/-- A virtual address of 56 bits, R81. -/
abbrev VAddr := BitVec 56
/-- A program counter, bits [47:0]. -/
abbrev PCW := BitVec 48

/-- A table of numbered things, kept with rising keys.
A key that is not listed holds the table's own default, which each reader names. -/
abbrev Tbl (α : Type) := List (Nat × α)

/-- A lane value of a predicate, R6: true, false or undecided. -/
inductive Tri where
  | f | t | u
deriving DecidableEq, Repr

end Sys2Proof
end

