-- ==== Sys2Proof/Config.lean ====
section
/-!
DEFINITION. What the spec leaves to an implementation or leaves open: constants without a body, so that no proof can
know their values. Each is named in a log entry.
-/
namespace Sys2Proof.Config

/-- DESIGN CHOICE, log 3. The free choice with a given number: which of two values a hazard read returns (R163), which
of two writers holds (R164). -/
opaque freeBit : Nat → Bool

/-- DESIGN CHOICE, log 15. A byte of a save block whose place or meaning Table 11.9 leaves open. -/
opaque freeByte : Nat → Byte

/-- DESIGN CHOICE, log 39. Whether a fetch at a cycle, on a core, of an address whose line the instruction cache holds reads
the cache and not the line's home. -/
opaque codeHeld : Nat → Nat → Nat → Bool

/-- DESIGN CHOICE, log 88. What only another package can know, R108, R115 and R117: whether a package has a context active in mode
1 at a time; the time at which the end of a grid of other packages is known here, and whether it ended DONE; the first undealt
index of a counter that is lost with another package. -/
opaque farActive : Nat → Nat → Nat → Bool
opaque farEnd : Nat → Nat
opaque farDone : Nat → Bool
opaque farNext : Nat → Nat

/-- DESIGN CHOICE, log 4. The n-th draw of 256 bits from the entropy source, R60. -/
opaque entropy : Nat → BitVec 256

/-- PRESUMED, log 5. SHA3-384 of a string of bytes, R58 and R67: the function of FIPS 202, not described by the spec. -/
opaque sha3 : List Byte → BitVec 384

/-- PRESUMED, log 5. Ed25519 verification (RFC 8032): public key, message, signature. -/
opaque edVerify : List Byte → List Byte → List Byte → Bool

/-- PRESUMED, log 5. ML-DSA-65 verification (FIPS 204), empty context string: public key, message, signature. -/
opaque mlVerify : List Byte → List Byte → List Byte → Bool

/-- PRESUMED, log 5. The device's Ed25519 signature of a message, 64 bytes, R69. -/
opaque edSign : List Byte → Vector Byte 64

/-- PRESUMED, log 5. The device's ML-DSA-65 signature of a message, 3309 bytes, R69. -/
opaque mlSign : List Byte → Vector Byte 3309

/-- DESIGN CHOICE, log 6. How many mappings a controller's translation region of a given size in GiB holds, R90 (NOSPACE). -/
opaque nodeCapacity : Nat → Nat

/-- DESIGN CHOICE, log 14. The cause, from 0x0100, of a hardware event for which the spec gives no code: 0 thermal trip,
1 no module up, 2 a packet dropped by an I/O die. -/
opaque hwCause : Nat → BitVec 16

/-- DESIGN CHOICE, log 14. The `DETAIL` of such an event, and of the events, by cause, whose `DETAIL` the spec does not give. -/
opaque hwDetail : Nat → BitVec 320

end Sys2Proof.Config
end

