-- ==== Sys2Proof/Syntax.lean ====
section
/-!
DEFINITION. The steps of the machine as syntax: the packets of Table 2.8, the fields of an instruction encoding,
and `Instr`, one constructor for each row of the opcode table.
-/
namespace Sys2Proof

/-! ## Packets, R35 and R39 -/

/-- The packet header of Table 2.3, but for `KIND` and `LEN`, which the body fixes. -/
structure PktHdr where
  ctx : B6
  tag : BitVec 20
  srcPkg : BitVec 8
  dstPkg : BitVec 8
  srcSock : BitVec 5
  dstSock : BitVec 5
deriving DecidableEq, Repr

/-- READ: the address word, R39. -/
structure ReadB where
  va : VAddr
  cntM1 : BitVec 7
  acq : Bool
deriving DecidableEq, Repr

/-- WRITE: the address word and the bytes in address order. -/
structure WriteB where
  va : VAddr
  cntM1 : BitVec 7
  rel : Bool
  bytes : List Byte
deriving DecidableEq, Repr

/-- ATOMIC: operation, width code, sign bit, operand and expected value. -/
structure AtomicB where
  va : VAddr
  op : BitVec 4
  width : BitVec 2
  signed : Bool
  operand : W128
  expected : W128
deriving DecidableEq, Repr

/-- COLL and COLLRES: one part of a roster collective. -/
structure CollB where
  roster : BitVec 8
  gen : W32
  rred : Bool
  part : BitVec 15
  lin : W64
  bytes : List Byte
deriving DecidableEq, Repr

/-- The route word of an enqueue packet. -/
structure Route where
  queue : BitVec 2
  die : BitVec 3
  ackReq : Bool
deriving DecidableEq, Repr

/-- ENQ and BOUNCE: the route word, the grid handle and the record. -/
structure EnqB where
  route : Route
  handle : Handle
  record : List Byte
deriving DecidableEq, Repr

/-- The queue word of TOKEN and NOTICE. -/
structure QueueWord where
  ctx : B6
  queue : B6
  pos : BitVec 36
deriving DecidableEq, Repr

/-- RANGE and RETIRE. -/
structure RangeB where
  handle : Handle
  first : W64
  count : W32
  exhausted : Bool
deriving DecidableEq, Repr

/-- SWEEPREPLY. -/
structure SweepReplyB where
  handle : Handle
  sweep : W64
  unretired : W32
  live : W32
  change : Bool
  faults : List W32
deriving DecidableEq, Repr

/-- BARRIER. -/
structure BarrierB where
  handle : Handle
  kind : BitVec 3
  roster : BitVec 8
  gen : W32
  completion : Bool
  broken : Bool
deriving DecidableEq, Repr

/-- PERMREPLY. -/
structure PermReplyB where
  page : VAddr
  attrs : W16
  grant : Byte
  notMapped : Bool
deriving DecidableEq, Repr

/-- The body of a packet, by `KIND`, Table 2.8. -/
inductive Body where
  | read (b : ReadB)
  | write (b : WriteB)
  | atomic (b : AtomicB)
  | coll (b : CollB)
  | data (status : Byte) (bytes : List Byte)
  | ack (status : Byte)
  | old (status : Byte) (val : W128)
  | collres (b : CollB)
  | enq (b : EnqB)
  | enqack (r : Route) (h : Handle)
  | credit (r : Route) (h : Handle)
  | bounce (b : EnqB)
  | stealreq (h : Handle)
  | grant (h : Handle) (k : W64)
  | stealrec (h : Handle) (pos : W64) (record : List Byte)
  | refuse (h : Handle)
  | stealack (h : Handle) (k : W64)
  | token (q : QueueWord) (tok : List Byte)
  | notice (h : Handle) (q : QueueWord) (cw : W64) (lo : List Byte)
  | recpart (h : Handle) (hi : List Byte)
  | rangereq (h : Handle)
  | range (b : RangeB)
  | retire (b : RangeB)
  | mirrorack (h : Handle) (first : W64)
  | sweep (h : Handle) (n : W64)
  | sweepreply (b : SweepReplyB)
  | cancel (h : Handle)
  | barrier (b : BarrierB)
  | permreq (va : VAddr) (ts : W64)
  | permreply (b : PermReplyB)
  | ready (page : VAddr) (sz : BitVec 2)
  | unpark
  | crread (off : W64)
  | crwrite (off val : W64)
  | crreply (status : Byte) (val : W64)
  | event (record : List Byte)
  | health (h : W32)
  | podseq (n : W64)
deriving DecidableEq, Repr

/-- A packet: its header and its body. -/
structure Packet where
  hdr : PktHdr
  body : Body
deriving DecidableEq, Repr


/-! ## Threads, links and other names that events carry -/

/-- A band (`band = some b`) or the front context (`band = none`) of the crew in a residency slot of a core. -/
structure ThreadRef where
  die : Nat
  core : Nat
  slot : Nat
  band : Option Nat
deriving DecidableEq, Repr

/-- The crew in residency slot `slot` of a core. -/
structure CrewRef where
  die : Nat
  core : Nat
  slot : Nat
deriving DecidableEq, Repr

/-- A die-to-die module (`port = false`) or a pod port of an I/O die (`port = true`), R30 and R50. -/
structure LinkId where
  sock : Nat
  port : Bool
  idx : Nat
deriving DecidableEq, Repr

/-! ## Instruction encodings, chapter 12 -/

/-- An operand field of nine bits that is not a reserved special operand, Table 12.3. -/
inductive Opnd where
  | slot (base : BitVec 7)
  | slotIx0 (base : BitVec 7)
  | slotIx1 (base : BitVec 7)
  | latch (n : Fin 4)
  | hold (n : Fin 3)
  | zero
  | uni (n : BitVec 5)
  /-- An inline integer: the field's base less 96, held as base less 64. -/
  | imm (n : BitVec 6)
deriving DecidableEq, Repr

/-- The forms of Table 12.4. -/
inductive Form where
  | a | b | c | d | e | f
deriving DecidableEq, Repr

/-- Every field of an instruction but its opcode, Tables 12.1, 12.4 and 12.5.
`payload` is `IMM64` in form C, `IMM32` in form D, the command word in form E, `OFF32` in form F, and the
ignored words of a `NOP`. -/
structure Code where
  dist : BitVec 3
  wait : BitVec 12
  setf : BitVec 4
  gpred : BitVec 3
  gmode : BitVec 3
  nw : Bool
  dst : Opnd
  srca : Opnd
  srcb : Opnd
  srcc : Opnd
  form : Form
  mods : BitVec 8
  xlane : BitVec 5
  hold : BitVec 3
  rmode : BitVec 3
  type : BitVec 4
  payload : W64
  annex : Option W64
deriving DecidableEq, Repr

/-- A management message, and the IPv6 address and UDP port that it comes from, R70. -/
structure MgmtMsg where
  addr : W128
  port : W16
  bytes : List Byte
deriving DecidableEq, Repr

/-! ## The steps: one constructor per row of the opcode table -/

/-- One constructor for each row of the opcode table.
Instructions carry the fields of their encoding; events carry what the outside or the sender supplies.
The events without arguments stand last: each happens at the unit that the state's `cur` and `unit` name. -/
inductive Instr where
  | bootCtlCold (cand : BitVec 2)
  | bootCtlWarm (cand : BitVec 2)
  | claim (cand : BitVec 2)
  | handoverRelease (cand : BitVec 2)
  | handoverAccept (cand : BitVec 2)
  | attestationRequest (cand : BitVec 2)
  | attestationDoneWrite (cand : BitVec 2) (k : BitVec 2)
  | mgmtRegisterRead (msg : MgmtMsg)
  | mgmtRegisterWrite (msg : MgmtMsg)
  | mgmtBlockWrite (msg : MgmtMsg)
  | firmwareStage (msg : MgmtMsg)
  | firmwareCommit (msg : MgmtMsg)
  | crread (h : PktHdr) (off : W64)
  | crwrite (h : PktHdr) (off val : W64)
  | crreply (h : PktHdr) (status : Byte) (val : W64)
  | controlRegisterWrite (cand : BitVec 2) (sock : BitVec 5) (off val : W64)
  | create (cand : BitVec 2) (ctx : B6) (val : W64)
  | destroy (cand : BitVec 2) (ctx : B6) (val : W64)
  | ctxUnparkAll (cand : BitVec 2) (ctx : B6)
  | ctxPreemptWrite (cand : BitVec 2) (ctx : B6) (val : W64)
  | ctxResumeWrite (cand : BitVec 2) (ctx : B6) (val : W64)
  | dispCancelWrite (cand : BitVec 2) (ctx : B6) (val : W64)
  | ctxDiescrWrite (cand : BitVec 2) (die : BitVec 3) (ctx : B6) (val : W64)
  | linkCtlRetrain (cand : BitVec 2) (lk : LinkId)
  | linkCtlClrcnt (cand : BitVec 2) (lk : LinkId)
  | timeCtlApply (cand : BitVec 2) (sock : BitVec 5)
  | opcapWrite (cand : BitVec 2) (die : BitVec 3) (val : W64)
  | pwrPkgcapWrite (cand : BitVec 2) (val : W64)
  | powerWindow (avgW : Nat)
  | thermalSample (die : BitVec 3) (temp : Byte)
  | passengerFatalError (sock : BitVec 5) (cause : W16) (detail : List Byte)
  | evqHeadWrite (cand : BitVec 2) (val : W64)
  | evqLogackWrite (cand : BitVec 2) (sock : BitVec 5) (val : W64)
  | flitCloseTimeout (lk : LinkId)
  | dataFlitReceive (lk : LinkId) (flit : List Byte)
  | controlFlitReceive (lk : LinkId) (flit : List Byte)
  | ackTimeout (lk : LinkId)
  | replayTimeout (lk : LinkId)
  | nakRepeat (lk : LinkId)
  | retrainDone (lk : LinkId) (fail : W64)
  | retrainFailed (lk : LinkId) (fail : W64)
  | podPacketArrival (port : Nat) (p : Packet)
  | read (h : PktHdr) (b : ReadB)
  | write (h : PktHdr) (b : WriteB)
  | atomic (h : PktHdr) (b : AtomicB)
  | coll (h : PktHdr) (b : CollB)
  | collres (h : PktHdr) (b : CollB)
  | data (h : PktHdr) (status : Byte) (bytes : List Byte)
  | ack (h : PktHdr) (status : Byte)
  | old (h : PktHdr) (status : Byte) (val : W128)
  | deferredFault (acc : Nat)
  | permreq (h : PktHdr) (va : VAddr) (ts : W64)
  | permreply (h : PktHdr) (b : PermReplyB)
  | ready (h : PktHdr) (page : VAddr) (sz : BitVec 2)
  | unpark (h : PktHdr)
  | launchTokenWrite (addr : W64) (bytes : List Byte)
  | token (h : PktHdr) (q : QueueWord) (tok : List Byte)
  | tokenForwardTimeout (q : QueueWord)
  | notice (h : PktHdr) (g : Handle) (q : QueueWord) (cw : W64) (lo : List Byte)
  | recpart (h : PktHdr) (g : Handle) (hi : List Byte)
  | podseq (h : PktHdr) (n : W64)
  | health (h : PktHdr) (mask : W32)
  | rangereq (h : PktHdr) (g : Handle)
  | mirrorack (h : PktHdr) (g : Handle) (first : W64)
  | range (h : PktHdr) (b : RangeB)
  | retire (h : PktHdr) (b : RangeB)
  | sweep (h : PktHdr) (g : Handle) (n : W64)
  | sweepreply (h : PktHdr) (b : SweepReplyB)
  | cancel (h : PktHdr) (g : Handle)
  | barrier (h : PktHdr) (b : BarrierB)
  | stealRound (die : Nat) (g : Handle)
  | stealRoundWaitExpiry (die : Nat) (g : Handle)
  | stealreq (h : PktHdr) (g : Handle)
  | grant (h : PktHdr) (g : Handle) (k : W64)
  | stealrec (h : PktHdr) (g : Handle) (pos : W64) (record : List Byte)
  | refuse (h : PktHdr) (g : Handle)
  | stealack (h : PktHdr) (g : Handle) (k : W64)
  | enqArrival (h : PktHdr) (b : EnqB)
  | enqack (h : PktHdr) (r : Route) (g : Handle)
  | credit (h : PktHdr) (r : Route) (g : Handle)
  | bounce (h : PktHdr) (b : EnqB)
  | execWrite (c : Code)
  | nestWrite (c : Code)
  | crewMergeWrite (c : Code)
  | crewScrchkClrlog (cand : BitVec 2) (c : CrewRef)
  | nop (c : Code)
  | iadd (c : Code)
  | isub (c : Code)
  | iadds (c : Code)
  | isubs (c : Code)
  | imul (c : Code)
  | imulh (c : Code)
  | imad (c : Code)
  | imulq (c : Code)
  | iabs (c : Code)
  | imin (c : Code)
  | imax (c : Code)
  | ineg (c : Code)
  | ishl (c : Code)
  | ishr (c : Code)
  | ishra (c : Code)
  | andb (c : Code)
  | orb (c : Code)
  | xorb (c : Code)
  | notb (c : Code)
  | andn (c : Code)
  | bsel (c : Code)
  | popc (c : Code)
  | clz (c : Code)
  | ctz (c : Code)
  | brev (c : Code)
  | bfx (c : Code)
  | bfi (c : Code)
  | isetp (c : Code)
  | mov (c : Code)
  | movi (c : Code)
  | sel (c : Code)
  | cvti (c : Code)
  | lea (c : Code)
  | setix (c : Code)
  | bra (c : Code)
  | brx (c : Code)
  | call (c : Code)
  | ret (c : Code)
  | exit (c : Code)
  | ifb (c : Code)
  | elseb (c : Code)
  | endif (c : Code)
  | if3 (c : Code)
  | elsef (c : Code)
  | elseu (c : Code)
  | endif3 (c : Code)
  | loopb (c : Code)
  | brk (c : Code)
  | cont (c : Code)
  | endloop (c : Code)
  | mrg (c : Code)
  | rgn (c : Code)
  | pand (c : Code)
  | por (c : Code)
  | pxor (c : Code)
  | pnot (c : Code)
  | pdec (c : Code)
  | pmov (c : Code)
  | dqpop (c : Code)
  | dqbr (c : Code)
  | shfl (c : Code)
  | vote (c : Code)
  | redi (c : Code)
  | scani (c : Code)
  | rdlane (c : Code)
  | wrlane (c : Code)
  | sop (c : Code)
  | smovi (c : Code)
  | sbr (c : Code)
  | floop (c : Code)
  | dqpush (c : Code)
  | fend (c : Code)
  | fadd (c : Code)
  | fsub (c : Code)
  | fmul (c : Code)
  | ffma (c : Code)
  | fsqr (c : Code)
  | fhull (c : Code)
  | fisect (c : Code)
  | flb (c : Code)
  | fub (c : Code)
  | fmid (c : Code)
  | frad (c : Code)
  | fwid (c : Code)
  | fmag (c : Code)
  | fmig (c : Code)
  | fmk (c : Code)
  | fbis (c : Code)
  | fcmp (c : Code)
  | fneg (c : Code)
  | fabs (c : Code)
  | fmin (c : Code)
  | fmax (c : Code)
  | fdiv (c : Code)
  | fdivp (c : Code)
  | fsqrt (c : Code)
  | frcp (c : Code)
  | frsqrt (c : Code)
  | fexp2 (c : Code)
  | flog2 (c : Code)
  | fsinpi (c : Code)
  | fcospi (c : Code)
  | ftanh (c : Code)
  | fpown (c : Code)
  | fcvt (c : Code)
  | fcoll (c : Code)
  | fq8 (c : Code)
  | ld (c : Code)
  | st (c : Code)
  | atom (c : Code)
  | cas (c : Code)
  | atomFadd (c : Code)
  | atomFmaxa (c : Code)
  | amaxswap (c : Code)
  | fence (c : Code)
  | fenceDrain (c : Code)
  | bar (c : Code)
  | arrive (c : Code)
  | await (c : Code)
  | rmcast (c : Code)
  | rred (c : Code)
  | cpy (c : Code)
  | cpyg (c : Code)
  | cpys (c : Code)
  | cpyAdd (c : Code)
  | qfence (c : Code)
  | emit (c : Code)
  | split (c : Code)
  | tend (c : Code)
  | enq (c : Code)
  | enqA (c : Code)
  | launch (c : Code)
  | gcancel (c : Code)
  | gstatus (c : Code)
  | jpass (c : Code)
  | jbit (c : Code)
  | jstream (c : Code)
  | jbatch (c : Code)
  | jwait (c : Code)
  | jdrain (c : Code)
  | jcfg (c : Code)
  | jclr (c : Code)
  | jqry (c : Code)
  | jsave (c : Code)
  | jload (c : Code)
  | csrr (c : Code)
  | csrw (c : Code)
  | bkpt (c : Code)
  | strap (c : Code)
  | tretResume (c : Code)
  | tretSkip (c : Code)
  | tretWriteSkip (c : Code)
  | tretRetryRegion (c : Code)
  | tretKillLanes (c : Code)
  | tretKillBand (c : Code)
  | event (h : PktHdr) (record : List Byte)
  | startStepComplete (ok : BitVec 26)
  | powerOn
  | startStepTimeout
  | claimWindowClose
  | handoverTimeout
  | attestationReportDone
  | tokenTake
  | flashWriteDone
  | palLeaseExpiry
  | crewRetire
  | bandFormation
  | flushAgeExpiry
  | take
  | activeSetReplacement
  | mrgWaitExpiry
  | multicastWindowClose
  | trapEntry
  | spmaxOverrun
  | crewSave
  | quarterOperation
  | bitmapStep
  | streamJoin
  | drainOperation
  | drainComplete
  | placementRound
  | spillPageReturn
  | opPointChangeDone
  | map
  | unmap
  | unmapWaitExpiry
  | setp
  | copyCommandStart
  | copyCommandComplete
  | batchComplete
  | cpyCtlReset
  | cpyCtlClrerr
deriving DecidableEq, Repr

end Sys2Proof
end

