-- ==== Sys2Proof/Machine/Bytes.lean ====
section
/-!
DEFINITION. Little-endian bytes, R4, and the operations of keyed tables.
-/
namespace Sys2Proof

/-- The number that bytes hold, lowest address first. -/
def leNat : List Byte → Nat
  | [] => 0
  | b :: bs => b.toNat + 256 * leNat bs

/-- The low n bytes of a number, lowest first. -/
def leBytes : Nat → Nat → List Byte
  | 0, _ => []
  | n + 1, v => BitVec.ofNat 8 v :: leBytes n (v / 256)

/-- A field of a record: offset and bytes. -/
def fld (b : List Byte) (off n : Nat) : Nat := leNat ((b.drop off).take n)

/-- The entry of a key, or the table's default. -/
def Tbl.get {α : Type} (d : α) : Tbl α → Nat → α
  | [], _ => d
  | (k, v) :: t, key => if key = k then v else if key < k then d else Tbl.get d t key

/-- The entry of a key, if the table lists it. -/
def Tbl.find? {α : Type} : Tbl α → Nat → Option α
  | [], _ => none
  | (k, v) :: t, key => if key = k then some v else if key < k then none else Tbl.find? t key

/-- Writes the entry of a key, keeping keys in rising order. -/
def Tbl.set {α : Type} : Tbl α → Nat → α → Tbl α
  | [], key, x => [(key, x)]
  | (k, v) :: t, key, x =>
    if key < k then (key, x) :: (k, v) :: t
    else if key = k then (k, x) :: t
    else (k, v) :: Tbl.set t key x

/-- Removes a key. -/
def Tbl.erase {α : Type} : Tbl α → Nat → Tbl α
  | [], _ => []
  | (k, v) :: t, key => if key = k then t else (k, v) :: Tbl.erase t key

/-- Changes the entry of a key. -/
def Tbl.upd {α : Type} (d : α) (t : Tbl α) (key : Nat) (f : α → α) : Tbl α := t.set key (f (t.get d key))

/-! ## Threads and crews -/

def ThreadRef.crew (t : ThreadRef) : CrewRef := { die := t.die, core := t.core, slot := t.slot }
def CrewRef.band (r : CrewRef) (b : Nat) : ThreadRef := { die := r.die, core := r.core, slot := r.slot, band := some b }
def CrewRef.front (r : CrewRef) : ThreadRef := { die := r.die, core := r.core, slot := r.slot, band := none }

end Sys2Proof
end

