-- ==== Sys2Proof/Machine/Formats.lean ====
section
/-!
DEFINITION. Instruction formats of chapter 12: operand fields, the fields of an encoding before it is accepted,
what each opcode permits, and the tests of Table 12.14 that depend on the encoding alone.
-/
namespace Sys2Proof

/-- The nine bits of an operand field, Table 12.3. -/
def Opnd.bits : Opnd → BitVec 9
  | .slot b => 0#2 ++ b
  | .slotIx0 b => 1#2 ++ b
  | .slotIx1 b => 2#2 ++ b
  | .latch n => 3#2 ++ BitVec.ofNat 7 n.val
  | .hold n => 3#2 ++ BitVec.ofNat 7 (4 + n.val)
  | .zero => 3#2 ++ 7#7
  | .uni n => 3#2 ++ BitVec.ofNat 7 (16 + n.toNat)
  | .imm n => 3#2 ++ (1#1 ++ n)

/-- Reads an operand field; none for a reserved special operand, Table 12.3. -/
def Opnd.ofBits (w : BitVec 9) : Option Opnd :=
  let base := w.toNat % 128
  match w.toNat / 128 with
  | 0 => some (.slot (BitVec.ofNat 7 base))
  | 1 => some (.slotIx0 (BitVec.ofNat 7 base))
  | 2 => some (.slotIx1 (BitVec.ofNat 7 base))
  | _ =>
    if base < 4 then some (.latch (Fin.ofNat 4 base))
    else if base < 7 then some (.hold (Fin.ofNat 3 (base - 4)))
    else if base = 7 then some .zero
    else if base < 16 then none
    else if base < 48 then some (.uni (BitVec.ofNat 5 (base - 16)))
    else if base < 64 then none
    else some (.imm (BitVec.ofNat 6 (base - 64)))

/-- The value of an inline integer, base − 96: from −32 to 31. -/
def immVal (n : BitVec 6) : Int := (n.toNat : Int) - 32

/-- The fields of an instruction as it lies in memory, before any test: `second` is the extension word, branch
offset, immediate or command word that follows the base word. -/
structure Raw where
  opc : BitVec 8
  len : BitVec 2
  dist : BitVec 3
  wait : BitVec 12
  setf : BitVec 4
  gpred : BitVec 3
  gmode : BitVec 3
  nw : Bool
  dst : BitVec 9
  srca : BitVec 9
  srcb : BitVec 9
  second : W64
  annex : Option W64
deriving DecidableEq, Repr

/-- The extension word of Table 12.5, or its default of R300. -/
structure Ext where
  mods : BitVec 8
  xlane : BitVec 5
  hold : BitVec 3
  rmode : BitVec 3
  type : BitVec 4
  srcc : BitVec 9
deriving DecidableEq, Repr

/-- Bits [lo + n − 1 : lo] of a number. -/
def field (w lo n : Nat) : Nat := w / 2 ^ lo % 2 ^ n

def Ext.ofNat (w : Nat) : Ext :=
  { mods := BitVec.ofNat 8 (field w 24 8), xlane := BitVec.ofNat 5 (field w 19 5), hold := BitVec.ofNat 3 (field w 16 3),
    rmode := BitVec.ofNat 3 (field w 13 3), type := BitVec.ofNat 4 (field w 9 4), srcc := BitVec.ofNat 9 (field w 0 9) }

def Ext.toNat (e : Ext) : Nat :=
  e.srcc.toNat + 2 ^ 9 * e.type.toNat + 2 ^ 13 * e.rmode.toNat + 2 ^ 16 * e.hold.toNat + 2 ^ 19 * e.xlane.toNat
    + 2 ^ 24 * e.mods.toNat

/-- The default `TYPE` by opcode range, R300. -/
def defaultType (opc : Nat) : BitVec 4 :=
  if opc < 0x40 then 2 else if opc < 0x60 then 0 else if opc < 0x70 then 2 else if opc < 0x80 then 3
  else if opc < 0xB0 then 0xD else 0

def Ext.default (opc : Nat) : Ext :=
  { mods := 0, xlane := 0, hold := 0, rmode := 0, type := defaultType opc, srcc := 0 }

/-! ## What each opcode permits: Tables 12.8 to 12.13 -/

/-- The forms an opcode permits; none when the code is unassigned. -/
def formsOf (opc : Nat) : Option (List Form) :=
  match opc with
  | 0x00 => some [.a, .b, .c]
  | 0x01 => some [.a, .b, .d] | 0x02 => some [.a, .b, .d] | 0x03 => some [.a, .b, .d]
  | 0x04 => some [.a, .b, .d] | 0x05 => some [.a, .b, .d]
  | 0x06 => some [.a, .b] | 0x07 => some [.b] | 0x08 => some [.b] | 0x09 => some [.a, .b]
  | 0x0A => some [.a, .b, .d] | 0x0B => some [.a, .b, .d] | 0x0C => some [.a, .b]
  | 0x0D => some [.a, .b] | 0x0E => some [.a, .b] | 0x0F => some [.a, .b]
  | 0x10 => some [.a, .b, .d] | 0x11 => some [.a, .b, .d] | 0x12 => some [.a, .b, .d]
  | 0x13 => some [.a, .b] | 0x14 => some [.a, .b, .d] | 0x15 => some [.b]
  | 0x16 => some [.a, .b] | 0x17 => some [.a, .b] | 0x18 => some [.a, .b] | 0x19 => some [.a, .b]
  | 0x1A => some [.b] | 0x1B => some [.b] | 0x1C => some [.a, .b, .d] | 0x1D => some [.a, .b]
  | 0x1E => some [.c] | 0x1F => some [.b] | 0x20 => some [.b] | 0x21 => some [.b, .d] | 0x22 => some [.a, .d]
  | 0x40 => some [.f] | 0x41 => some [.a] | 0x42 => some [.f] | 0x43 => some [.a] | 0x44 => some [.a]
  | 0x45 => some [.f] | 0x46 => some [.f] | 0x47 => some [.a] | 0x48 => some [.f] | 0x49 => some [.f]
  | 0x4A => some [.f] | 0x4B => some [.a] | 0x4C => some [.f] | 0x4D => some [.f] | 0x4E => some [.f]
  | 0x4F => some [.f] | 0x50 => some [.a] | 0x51 => some [.e]
  | 0x52 => some [.a] | 0x53 => some [.a] | 0x54 => some [.a] | 0x55 => some [.a]
  | 0x56 => some [.a, .b] | 0x57 => some [.a, .b] | 0x58 => some [.a] | 0x59 => some [.f]
  | 0x60 => some [.a, .b] | 0x61 => some [.b] | 0x62 => some [.b] | 0x63 => some [.b] | 0x64 => some [.b]
  | 0x65 => some [.b]
  | 0x70 => some [.b, .d] | 0x71 => some [.c] | 0x72 => some [.f] | 0x73 => some [.f] | 0x74 => some [.a]
  | 0x75 => some [.a]
  | 0x80 => some [.a, .b] | 0x81 => some [.a, .b] | 0x82 => some [.a, .b] | 0x83 => some [.b]
  | 0x84 => some [.a, .b] | 0x85 => some [.a, .b] | 0x86 => some [.a, .b] | 0x87 => some [.a, .b]
  | 0x88 => some [.a, .b] | 0x89 => some [.a, .b] | 0x8A => some [.a, .b] | 0x8B => some [.a, .b]
  | 0x8C => some [.a, .b] | 0x8D => some [.a, .b] | 0x8E => some [.a, .b] | 0x8F => some [.b]
  | 0x90 => some [.b] | 0x91 => some [.a, .b] | 0x92 => some [.a, .b] | 0x93 => some [.a, .b] | 0x94 => some [.a, .b]
  | 0xA0 => some [.a, .b] | 0xA1 => some [.b] | 0xA2 => some [.a, .b] | 0xA3 => some [.a, .b]
  | 0xA4 => some [.a, .b] | 0xA5 => some [.a, .b] | 0xA6 => some [.a, .b] | 0xA7 => some [.a, .b]
  | 0xA8 => some [.a, .b] | 0xA9 => some [.a, .b] | 0xAA => some [.b] | 0xAB => some [.b] | 0xAC => some [.b]
  | 0xAD => some [.b]
  | 0xB0 => some [.b, .d] | 0xB1 => some [.b, .d] | 0xB2 => some [.b, .d] | 0xB3 => some [.b, .d]
  | 0xB4 => some [.b, .d] | 0xB5 => some [.b, .d] | 0xB6 => some [.b, .d]
  | 0xB7 => some [.a] | 0xB8 => some [.a] | 0xB9 => some [.a, .b] | 0xBA => some [.a, .b]
  | 0xBB => some [.e] | 0xBC => some [.e]
  | 0xD0 => some [.e] | 0xD1 => some [.e] | 0xD2 => some [.e] | 0xD3 => some [.e] | 0xD4 => some [.a]
  | 0xE0 => some [.b] | 0xE1 => some [.b] | 0xE2 => some [.a] | 0xE3 => some [.b] | 0xE4 => some [.b]
  | 0xE5 => some [.a] | 0xE6 => some [.a] | 0xE7 => some [.a]
  | 0xF0 => some [.e] | 0xF1 => some [.e] | 0xF2 => some [.e] | 0xF3 => some [.a] | 0xF4 => some [.a]
  | 0xF5 => some [.e] | 0xF6 => some [.b] | 0xF7 => some [.b] | 0xF8 => some [.b] | 0xF9 => some [.b]
  | 0xFA => some [.a] | 0xFB => some [.a] | 0xFC => some [.a]
  | _ => none

/-- The form that a length selects among the permitted forms, R295. -/
def formFor (fs : List Form) (len : BitVec 2) : Option Form :=
  if len = 0 then (if .a ∈ fs then some .a else none)
  else if len = 1 then (if .b ∈ fs then some .b else if .f ∈ fs then some .f else none)
  else if len = 2 then
    (if .c ∈ fs then some .c else if .d ∈ fs then some .d else if .e ∈ fs then some .e else none)
  else none

/-- The length code of a form, R284. -/
def Form.len : Form → BitVec 2
  | .a => 0 | .b => 1 | .f => 1 | .c => 2 | .d => 2 | .e => 2

/-- Opcodes marked `ng`. -/
def isNg (opc : Nat) : Bool :=
  opc ∈ [0x22, 0x43, 0x46, 0x47, 0x48, 0x49, 0x4A, 0x4B, 0x4C, 0x4F, 0x50, 0x51, 0x58, 0x59, 0x61, 0x64, 0x65,
    0x70, 0x71, 0x72, 0x73, 0x74, 0x75, 0xB7, 0xB8, 0xD4, 0xE5, 0xE6, 0xE7, 0xF3, 0xF4, 0xF5, 0xF6, 0xF7, 0xF9, 0xFC]

/-- Opcodes marked `Fo`. -/
def isFrontOnly (opc : Nat) : Bool := opc ∈ [0x72, 0x73, 0x74, 0x75]

/-- Opcodes marked `F` or `Fo`. -/
def isFrontOk (opc : Nat) : Bool :=
  opc ∈ [0x00, 0x40, 0x41, 0x42, 0x43, 0x70, 0x71, 0x72, 0x73, 0x74, 0x75, 0xB0, 0xB1, 0xB2, 0xB3, 0xB4, 0xB5, 0xB6, 0xB7,
    0xB9, 0xBA, 0xD0, 0xD1, 0xD2, 0xD3, 0xD4, 0xE3, 0xE4, 0xE5, 0xE6, 0xE7, 0xF8, 0xF9, 0xFA, 0xFB]

/-- The four pipes of R169. -/
inductive Pipe where
  | int | float | trans | cross
deriving DecidableEq, Repr

/-- The pipe mark of an opcode in Tables 12.8 to 12.13. -/
def pipeOf (opc : Nat) : Option Pipe :=
  if opc = 0 then none
  else if opc < 0x23 then some .int
  else if 0x52 ≤ opc ∧ opc ≤ 0x57 then some .int
  else if 0x60 ≤ opc ∧ opc ≤ 0x65 then some .cross
  else if opc = 0x70 ∨ opc = 0x71 then some .int
  else if 0x80 ≤ opc ∧ opc ≤ 0x94 then some .float
  else if 0xA0 ≤ opc ∧ opc ≤ 0xAD then some .trans
  else none

/-- Instructions that access memory, send an engine command or touch the decision queue, R167: at most one of the two bands
that issue in a cycle issues one. DESIGN CHOICE, log 54. -/
def usesPort (opc : Nat) : Bool :=
  opc == 0x58 || opc == 0x59 || decide (0xB0 ≤ opc ∧ opc ≤ 0xB6) || decide (0xB9 ≤ opc ∧ opc ≤ 0xBC) ||
    decide (0xD0 ≤ opc ∧ opc ≤ 0xD4) || opc == 0xE5 || (decide (0xF0 ≤ opc ∧ opc ≤ 0xF7) && opc != 0xF4)

/-- Instructions that use `NW`: those with a pipe, but for those whose description requires `NW` zero, and `SETIX` and `SMOVI`, which
write no latch. DEDUCED, log 44. -/
def usesNw (opc : Nat) : Bool := (pipeOf opc).isSome && !([0x1C, 0x22, 0x70, 0x71, 0x90].contains opc)

/-! ## Operand roles -/

/-- What an operand position of an instruction accepts, R293. -/
inductive Role where
  /-- No operand: nine zero bits, R300. -/
  | unused
  /-- A constant held in the field's bits under the mask. -/
  | const (mask : BitVec 9)
  /-- Any source. -/
  | any
  /-- A slot, possibly indexed; in a front context an `s` register. -/
  | slot
  /-- A per-lane destination: slot or zero. -/
  | slotZero
  /-- A destination that may also be uniform. -/
  | slotUniZero
  /-- A uniform register. -/
  | uni
  /-- A uniform register or zero. -/
  | uniZero
  /-- A uniform register, inline integer or zero. -/
  | uniSrc
  /-- A uniform register or inline integer. -/
  | uniImm
  /-- A uniform register, inline integer, zero or slot (`CSRW` of `NEST`). -/
  | uniSrcSlot
  /-- An inline integer. -/
  | imm
  /-- A predicate in mode 00, base 0 to 7. -/
  | pred
  /-- `ix0` or `ix1` of `SETIX`. -/
  | ix
  /-- A field judged later, by a rule of its own. -/
  | late
deriving DecidableEq, Repr

/-- Whether the role is a source whose value is read, so that `HOLD` may name it. -/
def Role.isSource : Role → Bool
  | .any | .slot | .uni | .uniSrc | .uniImm | .uniSrcSlot | .imm | .late => true
  | _ => false

/-- Whether an operand kind is accepted, orders 7 and 8 apart, R291, R293 and R294. -/
def Role.fits (front : Bool) : Role → BitVec 9 → Bool
  | .unused, _ => true
  | .const _, _ => true
  | .late, w => (Opnd.ofBits w).isSome
  | .pred, w => !front && w.toNat < 8
  | .ix, w => w.toNat < 2
  | .any, w =>
    match Opnd.ofBits w with
    | some (.slot b) => !front || b.toNat < 64
    | some .zero | some (.uni _) | some (.imm _) => true
    | some _ => !front
    | none => false
  | .slot, w =>
    match Opnd.ofBits w with
    | some (.slot b) => !front || b.toNat < 64
    | some (.slotIx0 _) | some (.slotIx1 _) => !front
    | some (.uni _) => front
    | _ => false
  | .slotZero, w =>
    match Opnd.ofBits w with
    | some (.slot b) => !front || b.toNat < 64
    | some (.slotIx0 _) | some (.slotIx1 _) => !front
    | some (.uni _) => front
    | some .zero => true
    | _ => false
  | .slotUniZero, w =>
    match Opnd.ofBits w with
    | some (.slot b) => !front || b.toNat < 64
    | some (.slotIx0 _) | some (.slotIx1 _) => !front
    | some (.uni _) | some .zero => true
    | _ => false
  | .uni, w =>
    match Opnd.ofBits w with
    | some (.slot b) => front && b.toNat < 64
    | some (.uni _) => true
    | _ => false
  | .uniZero, w =>
    match Opnd.ofBits w with
    | some (.slot b) => front && b.toNat < 64
    | some (.uni _) | some .zero => true
    | _ => false
  | .uniSrc, w =>
    match Opnd.ofBits w with
    | some (.slot b) => front && b.toNat < 64
    | some (.uni _) | some (.imm _) | some .zero => true
    | _ => false
  | .uniImm, w =>
    match Opnd.ofBits w with
    | some (.slot b) => front && b.toNat < 64
    | some (.uni _) | some (.imm _) => true
    | _ => false
  | .uniSrcSlot, w =>
    match Opnd.ofBits w with
    | some (.slot b) => !front || b.toNat < 64
    | some (.slotIx0 _) | some (.slotIx1 _) => !front
    | some (.uni _) | some (.imm _) | some .zero => true
    | _ => false
  | .imm, w =>
    match Opnd.ofBits w with
    | some (.imm _) => true
    | _ => false

/-- Order 7 of Table 12.14 for one operand field: unused bits are zero. -/
def Role.reservedOk : Role → BitVec 9 → Bool
  | .unused, w => w == 0
  | .const m, w => w &&& ~~~m == 0
  | _, _ => true

structure Roles where
  dst : Role
  a : Role
  b : Role
  c : Role
deriving DecidableEq, Repr

/-- The control-register number of `CSRR` and `CSRW`, R349. -/
def csrNum (e : Ext) : Nat := e.type.toNat * 256 + e.mods.toNat

/-- The roles of the four operand positions, by opcode and, where a description says so, by modifiers. -/
def rolesOf (opc : Nat) (e : Ext) (srca : BitVec 9) : Roles :=
  let m := e.mods.toNat
  let bin : Roles := ⟨.slotZero, .any, .any, .unused⟩
  let un : Roles := ⟨.slotZero, .any, .unused, .unused⟩
  let ter : Roles := ⟨.slotZero, .any, .any, .any⟩
  let none4 : Roles := ⟨.unused, .unused, .unused, .unused⟩
  match opc with
  | 0x01 => bin | 0x02 => bin | 0x03 => bin | 0x04 => bin | 0x05 => bin | 0x06 => bin | 0x08 => bin
  | 0x0A => bin | 0x0B => bin | 0x0D => bin | 0x0E => bin | 0x0F => bin
  | 0x10 => bin | 0x11 => bin | 0x12 => bin | 0x14 => bin | 0x1A => bin | 0x21 => bin
  | 0x07 => ter | 0x15 => ter | 0x1B => ter
  | 0x09 => un | 0x0C => un | 0x13 => un | 0x16 => un | 0x17 => un | 0x18 => un | 0x19 => un | 0x1D => un | 0x20 => un
  | 0x1C => ⟨.pred, .any, .any, .unused⟩
  | 0x1E => ⟨.slotZero, .unused, .unused, .unused⟩
  | 0x1F => ⟨.slotZero, .any, .any, .pred⟩
  | 0x22 => ⟨.ix, .uniSrc, .uniSrc, .unused⟩
  | 0x41 => ⟨.unused, .uni, .unused, .unused⟩
  | 0x42 => ⟨.uni, .unused, .unused, .unused⟩
  | 0x43 => ⟨.unused, .uni, .unused, .unused⟩
  | 0x48 => ⟨.unused, .pred, .unused, .unused⟩
  | 0x4D => ⟨.unused, .const 0xFF, .unused, .unused⟩
  | 0x4E => ⟨.unused, .const 0xFF, .unused, .unused⟩
  | 0x52 => ⟨.pred, .pred, .pred, .unused⟩
  | 0x53 => ⟨.pred, .pred, .pred, .unused⟩
  | 0x54 => ⟨.pred, .pred, .pred, .unused⟩
  | 0x55 => ⟨.pred, .pred, .unused, .unused⟩
  | 0x56 => ⟨.pred, .pred, .unused, .unused⟩
  | 0x57 =>
    if m % 4 = 1 then ⟨.slotZero, .pred, .unused, .unused⟩
    else if m % 4 = 2 then ⟨.pred, .any, .unused, .unused⟩
    else ⟨.pred, .pred, .unused, .unused⟩
  | 0x58 => ⟨.uniZero, .unused, .unused, .unused⟩
  | 0x59 => ⟨.uniZero, .unused, .unused, .unused⟩
  | 0x60 => if m % 2 = 1 then bin else ⟨.slotZero, .unused, .any, .unused⟩
  | 0x61 => ⟨.slotUniZero, .pred, .unused, .unused⟩
  | 0x62 => ⟨.slotUniZero, .any, .unused, .unused⟩
  | 0x63 => un
  | 0x64 => ⟨.uniZero, .any, .uniImm, .unused⟩
  | 0x65 => ⟨.slotZero, .uniImm, .uniImm, .unused⟩
  | 0x70 => if m % 32 = 17 then ⟨.uni, .uniSrc, .unused, .unused⟩ else ⟨.uni, .uniSrc, .uniSrc, .unused⟩
  | 0x71 => ⟨.uniZero, .unused, .unused, .unused⟩
  | 0x72 => ⟨.unused, .uniImm, .unused, .unused⟩
  | 0x73 => ⟨.unused, .uniSrc, .unused, .unused⟩
  | 0x74 => ⟨.unused, .uniSrc, .unused, .unused⟩
  | 0x80 => bin | 0x81 => bin | 0x82 => bin | 0x85 => bin | 0x86 => bin | 0x8E => bin | 0x93 => bin | 0x94 => bin
  | 0x83 => ter
  | 0x84 => un | 0x87 => un | 0x88 => un | 0x89 => un | 0x8A => un | 0x8B => un | 0x8C => un | 0x8D => un
  | 0x91 => un | 0x92 => un
  | 0x8F => ⟨.slotZero, .any, .unused, if m / 2 % 2 = 1 then .pred else .unused⟩
  | 0x90 => ⟨.pred, .any, if m % 8 = 7 then .unused else .any, .unused⟩
  | 0xA0 => bin | 0xA1 => bin | 0xAA => bin
  | 0xA2 => un | 0xA3 => un | 0xA4 => un | 0xA5 => un | 0xA6 => un | 0xA7 => un | 0xA8 => un | 0xA9 => un | 0xAC => un
  | 0xAB => ⟨.slotZero, .any, if m / 64 % 2 = 1 then .any else .unused, .unused⟩
  | 0xAD => ⟨.slotZero, .any, if m / 64 % 2 = 1 then .unused else .any, .unused⟩
  | 0xB0 => bin
  | 0xB1 => ⟨.unused, .any, .any, .any⟩
  | 0xB2 => ter | 0xB3 => ter | 0xB4 => ter | 0xB5 => ter | 0xB6 => ter
  | 0xB7 => ⟨.unused, .const 0x1F, .unused, .unused⟩
  | 0xB8 => ⟨.unused, .const 7, if srca = 2 then .uniSrc else .unused, .unused⟩
  | 0xB9 => ⟨.unused, .any, .any, .unused⟩
  | 0xBA => ⟨.unused, .any, .unused, .unused⟩
  | 0xBB => ⟨.unused, .any, .unused, .unused⟩
  | 0xBC => ⟨.unused, .any, .unused, .unused⟩
  | 0xD0 => ⟨.unused, .uniSrc, .uniSrc, .unused⟩
  | 0xD1 => ⟨.unused, .uniSrc, .uniSrc, .unused⟩
  | 0xD2 => ⟨.unused, .uniSrc, .uniSrc, .unused⟩
  | 0xD3 => ⟨.unused, .uniSrc, .uniSrc, .unused⟩
  | 0xD4 => ⟨.unused, .const 0x1F, .const 7, .unused⟩
  | 0xE0 => ⟨.unused, .slot, .unused, .unused⟩
  | 0xE1 => ⟨.slotZero, .any, if m % 16 = 0 then .unused else .slot, .unused⟩
  | 0xE3 => ⟨.unused, .slot, .any, .unused⟩
  | 0xE4 => ⟨.unused, .slot, .any, .unused⟩
  | 0xE5 => ⟨.uniZero, .uni, .uniImm, .unused⟩
  | 0xE6 => ⟨.unused, .uni, .unused, .unused⟩
  | 0xE7 => ⟨.uniZero, .uniSrc, .unused, .unused⟩
  | 0xF0 => ⟨.unused, .any, .late, .unused⟩
  | 0xF1 => ⟨.unused, .unused, .uni, .unused⟩
  | 0xF2 => ⟨.unused, .unused, .uni, .unused⟩
  | 0xF3 => ⟨.uniZero, .unused, .unused, .unused⟩
  | 0xF4 => ⟨.unused, .uniImm, .unused, .unused⟩
  | 0xF5 => ⟨.unused, .unused, .uni, .unused⟩
  | 0xF6 =>
    if m % 4 = 0 then ⟨.unused, .uniSrc, .unused, .unused⟩
    else if m % 4 = 2 then ⟨.uniZero, .unused, .imm, .unused⟩
    else if m % 4 = 1 then none4 else ⟨.late, .late, .late, .unused⟩
  | 0xF7 => ⟨.unused, .uni, .unused, .unused⟩
  | 0xF8 => if csrNum e = 1 ∨ csrNum e = 2 then ⟨.slotZero, .unused, .unused, .unused⟩
            else ⟨.uniZero, .unused, .unused, .unused⟩
  | 0xF9 => if csrNum e = 1 then ⟨.unused, .uniSrcSlot, .unused, .unused⟩
            else ⟨.unused, .uniSrc, .unused, .unused⟩
  | 0xFB => ⟨.unused, .const 0xFF, .unused, .unused⟩
  | 0xFC => ⟨.unused, .const 7, .unused, .unused⟩
  | _ => none4

/-- Source positions A, B and C that the instruction reads as a binary64 interval, which no uniform register
supplies, R293. -/
def ySources (opc : Nat) (e : Ext) : Bool × Bool × Bool :=
  let y := e.type == 0xE
  if opc = 0x1D then (y, false, false)
  else if opc = 0x60 then (y, y, false)
  else if opc = 0x83 then (y, y, y)
  else if opc = 0xAB then (e.mods.toNat % 32 == 0x0E, false, false)
  else if opc = 0xAA ∨ opc = 0xAC ∨ opc = 0xAD ∨ opc = 0xE1 then (y, false, false)
  else if 0x80 ≤ opc ∧ opc ≤ 0xA9 then (y, y, false)
  else if opc = 0xB1 ∨ opc = 0xB4 ∨ opc = 0xB5 then (false, false, y)
  else (false, false, false)

def isUniField (front : Bool) (w : BitVec 9) : Bool :=
  match Opnd.ofBits w with
  | some (.uni _) => true
  | some (.slot _) => front
  | _ => false

/-- Opcodes whose source B a cross-lane modifier may change, R299 and R358. -/
def xlaneRange (opc : Nat) : Bool :=
  opc < 0x40 || (0x60 ≤ opc && opc < 0x70) || (0x80 ≤ opc && opc < 0xA0)

/-- Source B exists and source C does not, so that `SRCC` serves the modifier. -/
def xlaneFits (opc : Nat) (r : Roles) : Bool :=
  xlaneRange opc && r.b.isSource && r.c == .unused

/-- The modifier of R299 is one the instruction accepts. DEDUCED, log 45. -/
def xlaneOk (opc : Nat) (r : Roles) (e : Ext) : Bool :=
  if e.xlane = 0 then true
  else
    let kind := e.xlane.toNat / 4
    let fill := e.xlane.toNat % 4
    xlaneFits opc r && 1 ≤ kind && kind ≤ 5 &&
      (if kind = 2 ∨ kind = 3 then fill < 3 else fill == 0) &&
      (match Opnd.ofBits e.srcc with
       | some (.imm _) => kind ≤ 4
       | some (.slot _) | some (.slotIx0 _) | some (.slotIx1 _) | some (.uni _) => kind == 5
       | _ => false)

/-! ## Order 9: TYPE, RMODE and MODS -/

def typeOk (opc : Nat) (e : Ext) : Bool :=
  let t := e.type.toNat
  let int := t < 8
  let ivl := 0xC ≤ t && t ≤ 0xE
  if opc = 0 then true
  else if opc = 0x1D ∨ opc = 0x60 then int || ivl
  else if opc = 0x21 then t == 2 || t == 3
  else if opc < 0x40 ∨ (0x61 ≤ opc ∧ opc ≤ 0x65) ∨ opc = 0x70 then int
  else if 0xA4 ≤ opc ∧ opc ≤ 0xA9 then t == 0xC || t == 0xD
  else if 0x80 ≤ opc ∧ opc < 0xB0 then ivl
  else if opc = 0xB0 ∨ opc = 0xB1 then int || ivl
  else if opc = 0xB2 ∨ opc = 0xB3 then t == 2 || t == 3 || t == 6 || t == 7
  else if opc = 0xB4 ∨ opc = 0xB5 then ivl
  else if opc = 0xB6 then t == 6
  else if opc = 0xE1 then ivl
  else if opc = 0xF8 ∨ opc = 0xF9 then true
  else e.type == defaultType opc

def rmodeOk (opc : Nat) (e : Ext) : Bool :=
  let r := e.rmode.toNat
  if opc = 0 then true
  else if opc = 0x08 then r == 1 || r == 2
  else if opc = 0xB0 ∨ opc = 0xB1 then r == 0 || ((r == 1 || r == 2) && (0xC ≤ e.type.toNat && e.type.toNat ≤ 0xE))
  else if opc = 0xB2 then r < 7
  else r == 0

/-- A code of a binary8 format, Table 10.4. -/
def isB8 (code : Nat) : Bool := 0x12 ≤ code && code ≤ 0x1F

/-- Words of an interval view: h 1, x 2, y 4. -/
def viewWords (type : BitVec 4) : Nat :=
  if type = 0xC then 1 else if type = 0xD then 2 else if type = 0xE then 4 else 0

/-- A control-register number that Table 13.7 assigns. -/
def csrAssigned (n : Nat) : Bool :=
  n ≤ 4 || (0x010 ≤ n && n ≤ 0x020) || n == 0x040 || n == 0x041 || (0x050 ≤ n && n ≤ 0x054) ||
  (0x060 ≤ n && n ≤ 0x062) || (0x070 ≤ n && n ≤ 0x088) || (0x090 ≤ n && n ≤ 0x095) || (0x0A0 ≤ n && n ≤ 0x0A2) ||
  (0x0B0 ≤ n && n ≤ 0x0B4) || n == 0x0C0 || n == 0x0D0 || n == 0x0D1 || n == 0x100 || n == 0x101 ||
  (0x200 ≤ n && n < 0x2C0 && n % 8 < 6) || (0x2C0 ≤ n && n < 0x300)

/-- Memory `MODS`: space assigned, and the orderings that the instruction accepts, R377. -/
def memModsOk (opc m : Nat) : Bool :=
  let ord := m / 64
  let scope := m / 8 % 8
  m % 8 < 5 &&
    (if opc = 0xB0 then ord == 1 || (ord == 0 && scope == 0)
     else if opc = 0xB1 then ord == 2 || (ord == 0 && scope == 0)
     else true)

def modsOk (front : Bool) (opc : Nat) (e : Ext) : Bool :=
  let m := e.mods.toNat
  match opc with
  | 0x00 => true
  | 0x08 => m < 64
  | 0x1C => m < 6
  | 0x1F => m < 2
  | 0x20 => m < 16
  | 0x21 => m < 8
  | 0x56 => m < 2
  | 0x57 => m < 3
  | 0x60 => m < 2
  | 0x61 => m < 16 && m % 4 < 3
  | 0x62 => m < 6
  | 0x63 => m < 16 && m % 8 < 6
  | 0x70 => m < 18
  | 0x8F => m < 4
  | 0x90 => m < 8
  | 0xAB => m < 128 && (isB8 (m % 32) || m < 32)
  | 0xAC => m < 12
  | 0xAD => m < 128 && isB8 (m % 32)
  | 0xB0 => memModsOk opc m
  | 0xB1 => memModsOk opc m
  | 0xB2 => memModsOk opc m
  | 0xB3 => memModsOk opc m
  | 0xB4 => memModsOk opc m
  | 0xB5 => memModsOk opc m
  | 0xB6 => memModsOk opc m
  | 0xB9 => m < 2
  | 0xBA => m < 2
  | 0xE1 => let n := m % 16
            n ≤ 12 && n + viewWords e.type ≤ 14 && (m / 128 == 1 || m / 16 % 8 == 0)
  | 0xF6 => m % 4 < 3 && m < 128 && (m / 64 == 0 || m % 4 == 1)
  | 0xF7 => m < 2
  | 0xF8 => csrAssigned (csrNum e) && (!front || 4 ≤ csrNum e)
  | 0xF9 => csrAssigned (csrNum e) && (!front || 4 ≤ csrNum e)
  | _ => m == 0

/-- A front context's limits on memory instructions, R381. -/
def frontMemOk (opc : Nat) (e : Ext) : Bool :=
  if 0xB0 ≤ opc ∧ opc ≤ 0xB6 then e.type.toNat < 8 && !(e.mods.toNat % 8 == 4) && (opc == 0xB2 || e.rmode == 0)
  else true

/-! ## Order 7 and 9 for constants and command words -/

/-- Reserved fields of a command word that make order 7 fail. -/
def cmdReservedOk (opc cmd : Nat) : Bool :=
  match opc with
  | 0x51 => field cmd 56 8 == 0
  | 0xBB => field cmd 0 13 == 0
  | 0xBC => field cmd 0 21 == 0 && field cmd 24 5 < 32
  | 0xD0 => field cmd 0 5 == 0
  | 0xD1 => field cmd 0 5 == 0
  | 0xD2 => field cmd 0 5 == 0
  | 0xD3 => field cmd 0 5 == 0
  | _ => true

/-- The field names a uniform register `s`n with n at most `hi`. -/
def uniUpTo (hi : Nat) (w : BitVec 9) : Bool :=
  match Opnd.ofBits w with
  | some (.uni n) => n.toNat ≤ hi
  | _ => false

def copyCmdOk (opc cmd : Nat) : Bool :=
  let dir := field cmd 61 1
  let acnt := field cmd 55 1
  let aunit := field cmd 54 1
  field cmd 58 3 < 4 && field cmd 56 2 < 3 && field cmd 48 5 ≤ 29 &&
    (acnt == 1 || (aunit == 0 && field cmd 53 1 == 0 && field cmd 24 24 == 0)) &&
    (if opc = 0xD0 then field cmd 5 19 == 0 && aunit == 0
     else if opc = 0xD1 then dir == 0 && field cmd 5 13 != 0
     else if opc = 0xD2 then dir == 1 && field cmd 5 13 != 0
     else dir == 1 && field cmd 5 19 == 0 && aunit == 0)

/-- The formats that `JPASS` and `JBIT` accept for A and B, R434. -/
def passFmtOk (af bf : Nat) : Bool :=
  (isB8 af && isB8 bf) || (af == bf && (af == 0x08 || af == 0x09 || af == 0x0A || af == 0x0D))

def passCmdOk (opc cmd : Nat) : Bool :=
  let af := field cmd 55 5
  let bf := field cmd 50 5
  let msk := field cmd 44 1
  passFmtOk af bf && (field cmd 49 1 == 0 || isB8 af) && (field cmd 48 1 == 0 || isB8 bf) &&
    (field cmd 45 1 == 0 || (isB8 af && isB8 bf)) &&
    (if msk = 0 then field cmd 37 7 == 0 else field cmd 37 2 < 3) &&
    (opc == 0xF1 || field cmd 32 5 == 0) && field cmd 0 32 == 0

def streamCmdOk (cmd : Nat) : Bool :=
  let vf := field cmd 55 5
  (vf == 0x0A || vf == 0x0D) && field cmd 48 7 == 0 && field cmd 0 46 == 0

def drainCmdOk (cmd : Nat) : Bool :=
  let of := field cmd 54 5
  let list := field cmd 59 1
  (if list = 1 then of == 0 else (0x08 ≤ of && of ≤ 0x0E) || isB8 of) &&
    (field cmd 53 1 == 0 || isB8 of) &&
    field cmd 50 2 < 3 && field cmd 48 2 < 3 &&
    (if isB8 of then field cmd 46 2 < 3 else field cmd 46 2 == 0) && field cmd 0 46 == 0

def rredTypeOk (t : Nat) : Bool := t == 2 || t == 3 || t == 6 || t == 7 || t == 0xC || t == 0xD || t == 0xE

/-- Constants, command words and branch offsets that order 9 judges. -/
def cmdOk (opc : Nat) (srca srcb : BitVec 9) (cmd : Nat) : Bool :=
  match opc with
  | 0x51 => field cmd 0 6 + field cmd 14 6 + field cmd 28 6 + field cmd 42 6 ≤ 48
  | 0x73 => cmd < 2 ^ 31
  | 0xB7 => srca.toNat / 8 != 3 || srca.toNat % 8 == 0
  | 0xB8 => srca.toNat < 4
  | 0xBB => field cmd 28 12 != 0
  | 0xBC => field cmd 44 12 != 0 && rredTypeOk (field cmd 24 5) && field cmd 21 3 < 3 &&
            (field cmd 24 5 < 8 || field cmd 21 3 == 0)
  | 0xD0 => copyCmdOk opc cmd
  | 0xD1 => copyCmdOk opc cmd
  | 0xD2 => copyCmdOk opc cmd
  | 0xD3 => copyCmdOk opc cmd
  | 0xD4 => srcb.toNat ≤ 4
  | 0xF0 => uniUpTo 29 srcb && passCmdOk opc cmd
  | 0xF1 => uniUpTo 28 srcb && passCmdOk opc cmd
  | 0xF2 => uniUpTo 30 srcb && streamCmdOk cmd
  | 0xF5 => uniUpTo 28 srcb && drainCmdOk cmd
  | 0xFC => srca.toNat < 6
  | _ => true

/-- `JQRY` names a word from 0 to 3 in source B, R423. -/
def jqryOk (opc : Nat) (e : Ext) (srcb : BitVec 9) : Bool :=
  if opc = 0xF6 ∧ e.mods.toNat % 4 = 2 then
    match Opnd.ofBits srcb with
    | some (.imm n) => decide (0 ≤ immVal n ∧ immVal n ≤ 3)
    | _ => true
  else true

/-! ## The tests in order -/

/-- Why decoding fails: the trap cause and `TRAP_INFO`, Table 12.14. -/
structure DecTrap where
  cause : Nat
  info : W64
deriving DecidableEq, Repr

/-- Cause 2 with a code in `TRAP_INFO` bits [3:1]. -/
def DecTrap.enc (code : Nat) : DecTrap := ⟨2, BitVec.ofNat 64 (2 * code)⟩

/-- The extension word that stands, by form. -/
def extOf (opc : Nat) (fm : Form) (second : W64) : Ext :=
  if opc = 0 then Ext.default opc
  else match fm with
    | .b => Ext.ofNat (second.toNat % 2 ^ 32)
    | .d => Ext.ofNat (second.toNat % 2 ^ 32)
    | _ => Ext.default opc

/-- The immediate, offset or command word, by form; the ignored words of a `NOP` are kept. -/
def payloadOf (opc : Nat) (fm : Form) (second : W64) : W64 :=
  match fm with
  | .a => 0
  | .b => if opc = 0 then second else 0
  | .d => BitVec.ofNat 64 (second.toNat / 2 ^ 32)
  | _ => second

/-- Orders 7 to 9 of Table 12.14 on the fields alone; none when all pass. -/
def checkFields (front : Bool) (r : Raw) (fm : Form) (e : Ext) : Option DecTrap :=
  let opc := r.opc.toNat
  let ro := rolesOf opc e r.srca
  let cmd := (payloadOf opc fm r.second).toNat
  let immB := fm == .c || fm == .d
  let ys := ySources opc e
  let reserved :=
    ro.dst.reservedOk r.dst && ro.a.reservedOk r.srca && (immB || ro.b.reservedOk r.srcb) &&
    (!immB || r.srcb == 0) && ((e.xlane != 0 && xlaneFits opc ro) || ro.c.reservedOk e.srcc) &&
    (!r.nw || usesNw opc) && (r.gmode != 0 || r.gpred == 0) &&
    (e.hold.toNat % 2 == 0 || ro.a.isSource) && (e.hold.toNat / 2 % 2 == 0 || ro.b.isSource) &&
    (e.hold.toNat / 4 == 0 || (ro.c.isSource && !(0xB2 ≤ opc && opc ≤ 0xB6 && e.srcc == Opnd.zero.bits))) &&
    (e.hold == 0 || !(opc == 0xF6 || opc == 0xF7)) &&
    (r.annex.isSome || !(opc == 0x50 || opc == 0x51)) &&
    (match r.annex with
     | some w => field w.toNat 62 2 == 0 && field w.toNat 9 1 == 0
     | none => true) &&
    cmdReservedOk opc cmd
  let kinds :=
    ro.dst.fits front r.dst && ro.a.fits front r.srca && (immB || ro.b.fits front r.srcb) &&
    ro.c.fits front e.srcc && !(ys.1 && isUniField front r.srca) && !(ys.2.1 && !immB && isUniField front r.srcb) &&
    !(ys.2.2 && isUniField front e.srcc)
  let values :=
    typeOk opc e && rmodeOk opc e && modsOk front opc e && xlaneOk opc ro e && cmdOk opc r.srca r.srcb cmd &&
    jqryOk opc e r.srcb && (if front then isFrontOk opc && frontMemOk opc e && r.gmode == 0 else !isFrontOnly opc) &&
    (r.gmode == 0 || !isNg opc)
  if !reserved then some (.enc 1)
  else if !kinds then some (.enc 3)
  else if !values then some (.enc 7)
  else none

/-- Orders 3 to 9 of Table 12.14: the form the instruction takes, or the trap. DEDUCED, log 45. -/
def checkRaw (front : Bool) (r : Raw) : Except DecTrap Form :=
  match formsOf r.opc.toNat with
  | none => .error ⟨1, 0⟩
  | some fs =>
    match formFor fs r.len with
    | none => .error (.enc 2)
    | some fm =>
      if 12 ≤ r.setf.toNat ∧ r.setf.toNat ≤ 14 then .error (.enc 4)
      else if r.gmode = 7 then .error (.enc 5)
      else match checkFields front r fm (extOf r.opc.toNat fm r.second) with
        | some t => .error t
        | none => .ok fm

end Sys2Proof
end

