-- ==== Sys2Proof/Machine/Number.lean ====
section
/-!
DEFINITION. Exact numbers, number formats and rounding: R233 to R238, R241, R252 and R254, and enclosures of the
transcendental functions of R366.
-/
namespace Sys2Proof.Machine

/-! ## Exact numbers -/

/-- The number n / d × 2^e, with d above 0. -/
structure Q where
  n : Int
  d : Nat
  e : Int
deriving DecidableEq, Repr

def Q.ofInt (n : Int) : Q := ⟨n, 1, 0⟩
def Q.zero : Q := Q.ofInt 0
def Q.one : Q := Q.ofInt 1
def Q.pow2 (e : Int) : Q := ⟨1, 1, e⟩
def Q.neg (a : Q) : Q := { a with n := -a.n }
def Q.abs (a : Q) : Q := { a with n := a.n.natAbs }
def Q.mul (a b : Q) : Q := ⟨a.n * b.n, a.d * b.d, a.e + b.e⟩
def Q.add (a b : Q) : Q :=
  let e := min a.e b.e
  if a.n = 0 then b else if b.n = 0 then a
  else ⟨a.n * b.d * 2 ^ (a.e - e).toNat + b.n * a.d * 2 ^ (b.e - e).toNat, a.d * b.d, e⟩
def Q.sub (a b : Q) : Q := a.add b.neg
def Q.half (a : Q) : Q := { a with e := a.e - 1 }
def Q.scale (a : Q) (e : Int) : Q := { a with e := a.e + e }
/-- 1 / a, for a other than 0. -/
def Q.inv (a : Q) : Q := ⟨if a.n < 0 then -a.d else a.d, a.n.natAbs, -a.e⟩
def Q.div (a b : Q) : Q := a.mul b.inv
def Q.lt (a b : Q) : Bool := decide ((a.sub b).n < 0)
def Q.le (a b : Q) : Bool := !b.lt a
def Q.isZero (a : Q) : Bool := decide (a.n = 0)
def Q.isNeg (a : Q) : Bool := decide (a.n < 0)
def Q.eq (a b : Q) : Bool := (a.sub b).isZero

/-- n × 2^k as a fraction. -/
def ratio (n d : Nat) (k : Int) : Nat × Nat := if k < 0 then (n, d * 2 ^ (-k).toNat) else (n * 2 ^ k.toNat, d)

/-- ⌊log2 |a|⌋, for a other than 0. -/
def Q.log2 (a : Q) : Int :=
  let l : Int := (Nat.log2 a.n.natAbs : Int) - Nat.log2 a.d
  let r := ratio a.n.natAbs a.d (-l)
  a.e + (if r.2 ≤ r.1 then l else l - 1)

/-- ⌊a⌋. -/
def Q.floor (a : Q) : Int := if a.e < 0 then a.n / (a.d * 2 ^ (-a.e).toNat : Nat) else a.n * 2 ^ a.e.toNat / (a.d : Nat)
def Q.ceil (a : Q) : Int := -a.neg.floor

/-- The four roundings of R6. -/
inductive Dir where
  | rd | ru | rne | rtz
deriving DecidableEq, Repr

/-- a rounded to an integer. -/
def Q.toInt (dir : Dir) (a : Q) : Int :=
  match dir with
  | .rd => a.floor
  | .ru => a.ceil
  | .rtz => if a.isNeg then a.ceil else a.floor
  | .rne =>
    let f := a.floor
    let r := (a.sub (Q.ofInt f)).sub (Q.pow2 (-1))
    if r.isNeg ∨ (r.isZero ∧ f % 2 = 0) then f else f + 1

/-! ## Bounds: the extended reals -/

inductive Bnd where
  | ninf
  | fin (q : Q)
  | pinf
deriving DecidableEq, Repr

def Bnd.neg : Bnd → Bnd
  | .ninf => .pinf | .pinf => .ninf | .fin q => .fin q.neg
def Bnd.lt : Bnd → Bnd → Bool
  | .ninf, .ninf => false | .ninf, _ => true
  | .fin _, .ninf => false | .fin a, .fin b => a.lt b | .fin _, .pinf => true
  | .pinf, _ => false
def Bnd.le (a b : Bnd) : Bool := !b.lt a
def Bnd.eq (a b : Bnd) : Bool := a.le b && b.le a
def Bnd.min (a b : Bnd) : Bnd := if b.lt a then b else a
def Bnd.max (a b : Bnd) : Bnd := if a.lt b then b else a
def Bnd.zero : Bnd := .fin Q.zero
def Bnd.isNeg (a : Bnd) : Bool := a.lt .zero
def Bnd.isPos (a : Bnd) : Bool := Bnd.zero.lt a
def Bnd.isZero : Bnd → Bool
  | .fin q => q.isZero
  | _ => false
def Bnd.finite : Bnd → Bool
  | .fin _ => true
  | _ => false
def Bnd.abs (a : Bnd) : Bnd := if a.isNeg then a.neg else a
/-- A sum of bounds on one side, where no infinities of both signs meet. -/
def Bnd.add : Bnd → Bnd → Bnd
  | .fin a, .fin b => .fin (a.add b)
  | .fin _, b => b
  | a, _ => a
/-- An endpoint product: 0 times an infinity counts as 0, R241. -/
def Bnd.mul (a b : Bnd) : Bnd :=
  match a, b with
  | .fin x, .fin y => .fin (x.mul y)
  | _, _ => if a.isZero || b.isZero then .zero else if a.isNeg == b.isNeg then .pinf else .ninf
/-- x / y for a divisor other than 0; a quotient by an infinity is 0. -/
def Bnd.div (a b : Bnd) : Bnd :=
  match a, b with
  | .fin x, .fin y => .fin (x.div y)
  | _, .fin y => if y.isNeg then a.neg else a
  | _, _ => .zero

/-! ## Formats -/

/-- A format of positive magnitudes numbered in rising order: precision, least exponent, code of the largest finite. -/
structure Fmt where
  p : Nat
  emin : Int
  top : Nat
  /-- Width in bits of an encoding. -/
  width : Nat
deriving DecidableEq, Repr

def f16 : Fmt := { p := 11, emin := -14, top := 0x7BFF, width := 16 }
def bf16 : Fmt := { p := 8, emin := -126, top := 0x7F7F, width := 16 }
def f32 : Fmt := { p := 24, emin := -126, top := 0x7F7FFFFF, width := 32 }
def f64 : Fmt := { p := 53, emin := -1022, top := 0x7FEFFFFFFFFFFFFF, width := 64 }

/-- The magnitude with a code. -/
def Fmt.value (f : Fmt) (c : Nat) : Q :=
  let h := 2 ^ (f.p - 1)
  let x := f.emin - (f.p - 1 : Nat)
  if c < h then ⟨c, 1, x⟩ else ⟨(c % h + h : Nat), 1, x + (c / h - 1 : Nat)⟩

def Fmt.largest (f : Fmt) : Q := f.value f.top

/-- Whether a magnitude is rounded away from zero, from its floor code and the fraction r / d of a unit above it. At the
largest finite value a tie goes up, R252. DEDUCED, log 53. -/
def roundsUp (dir : Dir) (neg : Bool) (k c top r d : Nat) : Bool :=
  match dir with
  | .rd => neg && r != 0
  | .ru => !neg && r != 0
  | .rtz => false
  | .rne => decide (d < 2 * r) || (decide (2 * r = d) && (k % 2 == 1 || c == top))

/-- The code of a magnitude rounded with an unbounded exponent range; a code above `top` is an overflow. DEDUCED, log 53. -/
def Fmt.code (f : Fmt) (dir : Dir) (q : Q) : Nat :=
  if q.isZero then 0
  else
    let l := q.log2
    let h := 2 ^ (f.p - 1)
    let xmin := f.emin - (f.p - 1 : Nat)
    -- far outside the range the exact magnitude is not needed: its place in the last or first interval is
    if f.emin + (f.top : Int) + 2 < l then f.top + 2
    else if l < xmin - 4 then (if roundsUp dir q.isNeg 0 0 f.top 1 16 then 1 else 0)
    else
      let x := max l f.emin - (f.p - 1 : Nat)
      let r := ratio q.n.natAbs q.d (q.e - x)
      let k := r.1 / r.2
      let c := (x - xmin).toNat * h + k
      if roundsUp dir q.isNeg k c f.top (r.1 % r.2) r.2 then c + 1 else c

/-- A point in a point format, R235 and R236. -/
inductive Pt where
  | nan
  | inf (neg : Bool)
  | fin (q : Q)
deriving DecidableEq, Repr

/-! ## IEEE formats, R235 -/

def Fmt.signBit (f : Fmt) : Nat := 2 ^ (f.width - 1)

def Fmt.decode (f : Fmt) (w : Nat) : Pt :=
  let neg := decide (f.signBit ≤ w % 2 ^ f.width)
  let c := w % f.signBit
  if c = f.top + 1 then .inf neg else if f.top + 1 < c then .nan
  else .fin (if neg then (f.value c).neg else f.value c)

def Fmt.infBits (f : Fmt) (neg : Bool) : Nat := f.top + 1 + (if neg then f.signBit else 0)
/-- The quiet NaN that the device writes. -/
def Fmt.nanBits (f : Fmt) : Nat := f.top + 1 + 2 ^ (f.p - 2)
/-- A magnitude's bits; zero is +0, R234. -/
def Fmt.signed (f : Fmt) (neg : Bool) (c : Nat) : Nat := if c = 0 then 0 else c + (if neg then f.signBit else 0)

/-- A bound rounded down or up: overflow widens outward, R241. -/
def Fmt.bound (f : Fmt) (dir : Dir) (b : Bnd) : Nat :=
  match b with
  | .ninf => f.infBits true
  | .pinf => f.infBits false
  | .fin q =>
    let c := f.code dir q
    let outward := match dir with | .rd => q.isNeg | .ru => !q.isNeg | _ => false
    if f.top < c then (if outward then f.infBits q.isNeg else f.signed q.isNeg f.top) else f.signed q.isNeg c

/-! ## Point types of Table 10.4 -/

/-- A binary8 type with its infinity selector. -/
structure B8 where
  p : Nat
  unsigned : Bool
  inf : Bool
deriving DecidableEq, Repr

def B8.ofCode (code : Nat) (inf : Bool) : B8 :=
  if code < 0x19 then { p := code - 0x11, unsigned := false, inf := inf } else { p := code - 0x18, unsigned := true, inf := inf }

/-- The magnitudes of a binary8 type: the code of a magnitude is its encoding. -/
def B8.fmt (b : B8) : Fmt :=
  { p := b.p, emin := 1 - 2 ^ (if b.unsigned then 8 - b.p else 7 - b.p),
    top := (if b.unsigned then 0xFE else 0x7F) - (if b.inf then 1 else 0), width := 8 }

def B8.nanCode (b : B8) : Nat := if b.unsigned then 0xFF else 0x80

def B8.decode (b : B8) (w : Nat) : Pt :=
  let c := w % 256
  if c = b.nanCode then .nan
  else
    let neg := !b.unsigned && decide (0x80 ≤ c)
    let m := if neg then c - 0x80 else c
    if b.fmt.top < m then .inf neg else .fin (if neg then (b.fmt.value m).neg else b.fmt.value m)

/-- A result with whether it saturates, R252. DEDUCED, log 53. -/
def B8.encode (b : B8) (dir : Dir) (v : Pt) : Nat × Bool :=
  let f := b.fmt
  let put := fun (neg : Bool) (m : Nat) => if m = 0 then 0 else if neg then m + 0x80 else m
  let infCode := if b.inf then f.top + 1 else f.top
  match v with
  | .nan => (b.nanCode, false)
  | .inf neg => if neg && b.unsigned then (0, true) else (put neg infCode, !b.inf)
  | .fin q =>
    let c := f.code dir q
    if q.isNeg && b.unsigned then (0, c != 0)
    else if f.top < c then (put q.isNeg (if dir = .rtz then f.top else infCode), true)
    else (put q.isNeg c, false)

/-- A rounding into an IEEE format, with whether it overflows, R252. -/
def Fmt.encode (f : Fmt) (dir : Dir) (v : Pt) : Nat × Bool :=
  match v with
  | .nan => (f.nanBits, false)
  | .inf neg => (f.infBits neg, false)
  | .fin q =>
    let c := f.code dir q
    if f.top < c then (if dir = .rtz then f.signed q.isNeg f.top else f.infBits q.isNeg, true) else (f.signed q.isNeg c, false)

/-- The value of an `e8m0` code, R253. -/
def e8m0 (code : Nat) : Option Q := if code % 256 = 255 then none else some (Q.pow2 ((code % 256 : Nat) - 127 : Int))

/-- The floating point format of a type code from 0x08 to 0x0B. -/
def ptFmt (code : Nat) : Fmt := match code with | 8 => f16 | 9 => bf16 | 0x0A => f32 | _ => f64

/-- The point that an element of a floating type code holds: 0x08 to 0x0B, 0x0F and 0x12 to 0x1F. -/
def decodePoint (code : Nat) (inf : Bool) (w : Nat) : Pt :=
  if code = 0x0F then (match e8m0 w with | some q => .fin q | none => .nan)
  else if 0x12 ≤ code then (B8.ofCode code inf).decode w
  else (ptFmt code).decode w

/-- A point written in a floating type, with the status that the writing sets, R252. -/
def encodePoint (code : Nat) (inf : Bool) (dir : Dir) (v : Pt) : Nat × Bool :=
  if 0x12 ≤ code then (B8.ofCode code inf).encode dir v else (ptFmt code).encode dir v

/-- The largest finite value of a point type. -/
def largestOf (code : Nat) (inf : Bool) : Q :=
  if 0x12 ≤ code then (B8.ofCode code inf).fmt.largest else (ptFmt code).largest

/-- The scale code of a block of largest magnitude A for a binary8 target, R254. -/
def scaleCode (amax : Q) (m : Q) : Nat :=
  if amax.isZero then 127
  else
    let r := amax.div m
    let l := r.log2
    let t := if r.le (Q.pow2 l) then l else l + 1
    (min 254 (max 0 (127 + t))).toNat

/-! ## Roots -/

def isqrtStep (n : Nat) : Nat → Nat → Nat
  | 0, r => r
  | b + 1, r =>
    let r' := r + 2 ^ b
    isqrtStep n b (if r' * r' ≤ n then r' else r)

/-- ⌊√n⌋. -/
def isqrt (n : Nat) : Nat := isqrtStep n (Nat.log2 n / 2 + 1) 0

/-- Bounds of √q for q at or above 0: equal when the root is exact in 2^-k units far finer than any format. -/
def Q.sqrt (q : Q) : Q × Q :=
  if q.isZero then (Q.zero, Q.zero)
  else
    -- an even exponent, and 512 bits below it
    let e := q.e - q.e % 2
    let n := q.n.natAbs * 2 ^ (q.e % 2).toNat * 2 ^ 512
    let r := isqrt (n / q.d)
    let x := e / 2 - 256
    if r * r * q.d = n then (⟨r, 1, x⟩, ⟨r, 1, x⟩) else (⟨r, 1, x⟩, ⟨r + 1, 1, x⟩)

/-! ## Powers, R363 -/

/-- A positive magnitude m × 2^e cut to 320 bits, down or up. -/
def cut (up : Bool) (m : Nat) (e : Int) : Nat × Int :=
  let l := Nat.log2 m
  if l < 320 then (m, e)
  else
    let s := l - 319
    (m / 2 ^ s + (if up && m % 2 ^ s != 0 then 1 else 0), e + s)

/-- (m × 2^e)^n by squaring, cut to 320 bits at each step. -/
def powCut (up : Bool) : Nat → Nat → Int → Nat → Nat × Int
  | 0, _, _, _ => (1, 0)
  | f + 1, m, e, n =>
    let sq := cut up (m * m) (2 * e)
    let h := powCut up f sq.1 sq.2 (n / 2)
    if n % 2 = 0 then h else cut up (h.1 * m) (h.2 + e)

/-- Bounds of q^n for q above 0 and n above 0; exact where nothing is cut, and n odd mantissas are never cut into a number of
any format. Exponents beyond every format are drawn in, which leaves every rounding as it is. -/
def Q.pow (q : Q) (n : Nat) : Q × Q :=
  let draw := fun (x : Nat × Int) =>
    let l := x.2 + Nat.log2 x.1
    (⟨x.1, 1, if 5000 < l then x.2 - l + 5000 else if l < -5000 then x.2 - l - 5000 else x.2⟩ : Q)
  (draw (powCut false 32 q.n.natAbs q.e n), draw (powCut true 32 q.n.natAbs q.e n))

/-! ## Transcendental functions: enclosures narrower than 2^-380, or than 2^-200 of the value -/

/-- Fixed point with 400 fraction bits. -/
def fxBits : Nat := 400
def fx (q : Q) : Int := (q.scale fxBits).floor
def ofFx (n : Int) : Q := ⟨n, 1, -(fxBits : Int)⟩

/-- π and ln 2, to 440 fraction bits. -/
def piBits : Nat :=
  0x3243f6a8885a308d313198a2e03707344a4093822299f31d0082efa98ec4e6c89452821e638d01377be5466cf34e90c6cc0ac29b7c97c50
def ln2Bits : Nat :=
  0xb17217f7d1cf79abc9e3b39803f2f6af40f343267298b62d8a0d175b8baafa2be7b876206debac98559552fb4afa1b10ed2eae35c13821

/-- The enclosure of a fixed-point value good to 2^16 units. -/
def around (n : Int) : Q × Q := (ofFx (n - 2 ^ 16), ofFx (n + 2 ^ 16))

/-- 1 + y + y²/2! + …, in fixed point: term k and what follows it. -/
def expSeries (y : Int) : Nat → Nat → Int → Int
  | 0, _, t => t
  | f + 1, k, t => t + expSeries y f (k + 1) (t * y / 2 ^ fxBits / (k : Int))

/-- e^y in fixed point, for |y| below 1. -/
def fxExp (y : Int) : Int := expSeries y 120 1 (2 ^ fxBits)

/-- z + z³/3 + z⁵/5 + …, from z and z². -/
def atanhSeries (z2 : Int) : Nat → Nat → Int → Int
  | 0, _, _ => 0
  | f + 1, k, t => t / (k : Int) + atanhSeries z2 f (k + 2) (t * z2 / 2 ^ fxBits)

/-- Alternating series of sine (k = 1) and cosine (k = 0): t is the term of power k. -/
def sinSeries (y2 : Int) : Nat → Nat → Int → Int
  | 0, _, _ => 0
  | f + 1, k, t => t - sinSeries y2 f (k + 2) (t * y2 / 2 ^ fxBits / ((k + 1) * (k + 2) : Nat))

/-- Bounds of 2^q. DEDUCED, log 52. -/
def exp2Q (q : Q) : Q × Q :=
  if 5000 < q.floor then (Q.pow2 5000, Q.pow2 5000)
  else if q.floor < -5000 then (Q.pow2 (-5000), Q.pow2 (-5000))
  else
    let i := q.floor
    let f := q.sub (Q.ofInt i)
    if f.isZero then (Q.pow2 i, Q.pow2 i)
    else
      let b := around (fxExp (fx f * ln2Bits / 2 ^ 440))
      (b.1.scale i, b.2.scale i)

/-- Bounds of log2 q, for q above 0. DEDUCED, log 52. -/
def log2Q (q : Q) : Q × Q :=
  let l := q.log2
  let t := q.scale (-l)
  if t.eq Q.one then (Q.ofInt l, Q.ofInt l)
  else
    let big := Q.le ⟨3, 1, -1⟩ t
    let t' := if big then t.half else t
    let k := if big then l + 1 else l
    let z := fx ((t'.sub Q.one).div (t'.add Q.one))
    let ln := 2 * atanhSeries (z * z / 2 ^ fxBits) 110 1 z
    let b := around (ln * 2 ^ 440 / ln2Bits)
    (b.1.add (Q.ofInt k), b.2.add (Q.ofInt k))

/-- Bounds of sin(πr) for r from 0 to 1/2. -/
def sinFirst (r : Q) : Q × Q :=
  if r.isZero then (Q.zero, Q.zero)
  else if r.eq (Q.pow2 (-1)) then (Q.one, Q.one)
  else if r.le (Q.pow2 (-2)) then
    let y := fx r * piBits / 2 ^ 440
    around (sinSeries (y * y / 2 ^ fxBits) 60 1 y)
  else
    let y := fx ((Q.pow2 (-1)).sub r) * piBits / 2 ^ 440
    let b := around (sinSeries (y * y / 2 ^ fxBits) 60 0 (2 ^ fxBits))
    (b.1, if Q.one.lt b.2 then Q.one else b.2)

/-- Bounds of sin(πq). DEDUCED, log 52. -/
def sinpiQ (q : Q) : Q × Q :=
  let m := q.sub (Q.ofInt (2 * (q.half).floor))
  let neg := Q.one.le m
  let r := if neg then m.sub Q.one else m
  let b := sinFirst (if (Q.pow2 (-1)).lt r then Q.one.sub r else r)
  if neg then (b.2.neg, b.1.neg) else b

/-- Bounds of tanh q. Near 0 the first terms of the series bound it; far out it is just below 1. -/
def tanhPos (q : Q) : Q × Q :=
  if q.isZero then (Q.zero, Q.zero)
  else if q.lt (Q.pow2 (-40)) then
    let c := q.mul (q.mul q)
    (q.sub (c.div (Q.ofInt 3)), q.sub (c.div (Q.ofInt 4)))
  else if (Q.ofInt 128).lt q then (Q.one.sub (Q.pow2 (-300)), Q.one)
  else
    let y := fx (q.scale 1)
    let ln2 : Int := (ln2Bits / 2 ^ 40 : Nat)
    let i := y / ln2
    let e := Q.scale (ofFx (fxExp (y - i * ln2Bits / 2 ^ 40))) i
    let t := Q.one.sub ((Q.ofInt 2).div (e.add Q.one))
    let b := (t.sub (Q.pow2 (-370)), t.add (Q.pow2 (-370)))
    (b.1, if Q.one.lt b.2 then Q.one else b.2)

def tanhQ (q : Q) : Q × Q :=
  if q.isNeg then ((tanhPos q.neg).2.neg, (tanhPos q.neg).1.neg) else tanhPos q

end Sys2Proof.Machine
end

