-- ==== Sys2Proof/Machine/StateDisp.lean ====
section
/-!
DEFINITION. The state of chapters 4 to 6: contexts, translation, launch, dispatch, placement, pools, stealing.
-/
namespace Sys2Proof.Machine

/-! ## Chapter 4 -/

inductive CtxSt where
  | free | active | destroying
deriving DecidableEq, Repr

/-- The stages of `DESTROY`, R80. -/
inductive DestroyStage where
  | none | cancelling | unmapping
deriving DecidableEq, Repr

/-- The registers of one context that exist once per package. -/
structure Ctx where
  st : CtxSt
  mode : BitVec 2
  place : BitVec 3
  gwin : Bool
  lease : Byte
  destroy : DestroyStage
  preNospace : Bool
  preBusy : Bool
  preLimit : W32
  nbv : BitVec 2
  flush : W16
  enqres : BitVec 4
deriving DecidableEq, Repr

def Ctx.reset : Ctx :=
  { st := .free, mode := 0, place := 0, gwin := false, lease := 16, destroy := .none, preNospace := false,
    preBusy := false, preLimit := 1000000#32, nbv := 3, flush := 2048#16, enqres := 2 }

/-- The registers of one context on one compute die. -/
structure CtxDie where
  scrBase : BitVec 9
  scrSize : BitVec 10
  saveBase : BitVec 40
  savePages : W16
  spillBase : BitVec 40
  spillPages : W16
  enqBase : BitVec 40
  /-- Virtual addresses of the 64 KiB save pages in use, R281. -/
  saveUsed : List Nat
  /-- Virtual addresses of the 4 KiB spill pages in use, R139. -/
  spillUsed : List Nat
  /-- Spill pages reserved for grants of steals under way, R460. -/
  spillReserved : Nat
deriving DecidableEq, Repr

def CtxDie.reset : CtxDie :=
  { scrBase := 0, scrSize := 0, saveBase := 0, savePages := 0, spillBase := 0, spillPages := 0, enqBase := 0,
    saveUsed := [], spillUsed := [], spillReserved := 0 }

/-- The page that an UNMAP command in progress names, R97. -/
structure Unmapping where
  ctx : B6
  va : Nat
deriving DecidableEq, Repr

/-- One mapping of a controller's translation table, R88 and R91, with the lease horizon of its page; once its unmap has
started, the `TIME_COUNT` at which the wait of R97 ends. -/
structure Mapping where
  ctx : B6
  va : Nat
  attr : W16
  frame : Nat
  p : Bool
  horizon : Nat
  unmapping : Bool
deriving DecidableEq, Repr

/-- A memory controller, R87 and R90: stacks 0 to 15, then DDR channels 0 to 15 as numbers 16 to 31. -/
structure Ctrl where
  trBase : Byte
  trSize : Byte
  cmd : List W64
  /-- The command that runs, as its start found it. -/
  run : List W64
  busy : Bool
  lost : Bool
  result : Byte
  maps : List Mapping
  unmap : Option Unmapping
deriving DecidableEq, Repr

def Ctrl.reset : Ctrl :=
  { trBase := 0, trSize := 0, cmd := [0, 0, 0, 0], run := [0, 0, 0, 0], busy := false, lost := false, result := 0, maps := [],
    unmap := none }

/-- An entry of a permission-and-attribute lookaside, R94. -/
structure PalE where
  ctx : B6
  page : Nat
  attr : W16
  expiry : Nat
  used : Nat
deriving DecidableEq, Repr

/-! ## Chapter 5 -/

/-- The launch record of Table 5.2. -/
structure LaunchRec where
  hdr : Nat
  gx : Nat
  gy : Nat
  gz : Nat
  deal : Nat
  bands : Nat
  bandw : Nat
  regs : Nat
  scrKB : Nat
  clusKB : Nat
  poolN : Nat
  caddy : Nat
  clw : Nat
  clh : Nat
  rost : Nat
  nrost : Nat
  preload : Nat
  spmax : Nat
  prio : Nat
  ophint : Nat
  podsc : Bool
  replayLost : Bool
  depStrict : Bool
  mergePct : Nat
  scrchkLog : Bool
  after : Nat
  pkgMask : Nat
  fsum : Nat
deriving DecidableEq, Repr

/-- The kernel header of Table 5.4. -/
structure KHdr where
  frontPc : Nat
  bandPc : Nat
  trapVec : Nat
  pren : Nat
  taskBase : Nat
  dest : List Nat
deriving DecidableEq, Repr

/-- A dealt range, R116 to R118. -/
structure RangeRec where
  first : Nat
  count : Nat
  pkg : Nat
  die : Nat
  retired : Bool
  lost : Bool
  replayed : Bool
deriving DecidableEq, Repr

/-- A grid at its owner, Table 5.9. -/
inductive GridSt where
  | waiting | running | cancelling | ended (status : Nat)
deriving DecidableEq, Repr

/-- A record that the deputy has still to acknowledge, R116: a grant goes on to its package and die then; a retirement, and
a copy made for a new deputy, R117, go nowhere. -/
structure PendMirror where
  body : RangeB
  dest : Option (Nat × Nat)
  retirement : Bool
  copy : Bool
deriving DecidableEq, Repr

/-- What the owner of a grid's counter keeps, R115 to R122. -/
structure OwnerSt where
  st : GridSt
  next : Nat
  ranges : List RangeRec
  /-- Lost ranges to be granted again, in the order lost. -/
  replay : List RangeRec
  pendMirror : List PendMirror
  /-- Requests, by package and die, that the owner has not answered yet. -/
  asked : List (Nat × Nat)
  sweepNo : Nat
  clean : Nat
  sweepDirty : Bool
  /-- Packages and dies whose replies to the sweep are still to come. -/
  sweepWait : List (Nat × Nat)
  /-- The owner's cycle at which a cancel arrived, Table 5.9. -/
  cancelAt : Nat
  /-- The sweep that was under way when the cancel came; 0 if none was. -/
  cancelSweep : Nat
  counts : Tbl Nat
  details : List (List Byte)
  never : Nat
  intr : Nat
  lostRanges : List RangeRec
  counterLost : Bool
  failed : Bool
  stopDeal : Bool
  /-- Packages with the mask of their dies that failed during the grid. -/
  dieFail : Tbl Byte
  pkgFail : List Nat
deriving DecidableEq, Repr

/-- A launch that has its handle. -/
structure Grid where
  handle : Handle
  seq : Nat
  srcPkg : Nat
  queue : Nat
  pos : Nat
  utag : W64
  doneVA : Nat
  launch : LaunchRec
  khdr : KHdr
  rosters : List (List Nat)
  own : OwnerSt
  reason : Nat
  /-- The thread and the wait of the `LAUNCH` that submitted it. -/
  submitter : Option (ThreadRef × Nat)
deriving DecidableEq, Repr

/-- A launch token waiting in a queue, R104, with the thread and the wait of the `LAUNCH` that submitted it. -/
structure Token where
  bytes : List Byte
  pos : Nat
  submitter : Option (ThreadRef × Nat)
deriving DecidableEq, Repr

structure LaunchQ where
  drops : W16
  toks : List Token
  nextPos : Nat
deriving DecidableEq, Repr

def LaunchQ.reset : LaunchQ := { drops := 0, toks := [], nextPos := 0 }

/-- A token taken, checked and forwarded, not yet sequenced, R114. -/
structure Forwarded where
  ctx : B6
  queue : Nat
  pos : Nat
  bytes : List Byte
  reason : Nat
  /-- The address that faulted, when the reason is FAULT. -/
  faultVa : Nat
  record : List Byte
  launch : LaunchRec
  khdr : KHdr
  rosters : List (List Nat)
  sentAt : Nat
  submitter : Option (ThreadRef × Nat)
deriving DecidableEq, Repr

/-- A sequence number that the pod leader has assigned, with what its notice carries, R114. -/
structure Assigned where
  srcPkg : Nat
  ctx : B6
  queue : Nat
  pos : Nat
  seq : Nat
  cw : W64
  record : List Byte
deriving DecidableEq, Repr

/-- A drain region: one region, or a pair. -/
structure Drain where
  region : Nat
  pair : Bool
deriving DecidableEq, Repr

/-- A cluster in a placement queue, R128. -/
structure QCluster where
  handle : Handle
  cluster : Nat
  age : Nat
  drain : Option Drain
  /-- Saved cluster number when the cluster is resumed from a save, R282. -/
  saved : Option Nat
deriving DecidableEq, Repr

/-- A cluster saved to memory, R281: the address and the pages of each crew's save block, in rank order. -/
structure SavedCluster where
  cluster : Nat
  blocks : List (Nat × Nat)
deriving DecidableEq, Repr

/-- A notice received and waiting for its turn, R114. -/
structure Notice where
  handle : Handle
  srcPkg : Nat
  queue : QueueWord
  cw : W64
  lo : List Byte
  hi : Option (List Byte)
deriving DecidableEq, Repr

/-! ## Chapter 6 -/

/-- A record in a spill ring: its page, its 64-byte place in the page. -/
structure RingRec where
  page : Nat
  slot : Nat
deriving DecidableEq, Repr

/-- A record in a landing queue: sender package and die, its slot and its address, and its place in the order of arrival. -/
structure Landed where
  pkg : Nat
  die : Nat
  slot : Nat
  va : Nat
  order : Nat
deriving DecidableEq, Repr

/-- What waits for a spill page, R460, in the order of waiting. -/
inductive PageWait where
  | requeue (core slot band lane : Nat)
  | returned (record : List Byte)
  | steal
  /-- A thread that waits at the instruction at a PC. -/
  | thread (core slot : Nat) (band : Option Nat) (pc : PCW)
deriving DecidableEq, Repr

/-- A steal round of a die for a grid, R141. -/
inductive StealSt where
  | idle
  /-- The next die is still to be asked: no page can be reserved yet, R460. -/
  | pending (rest : List Nat)
  | asking (rest : List Nat) (victim : Nat)
  | receiving (victim k : Nat) (got : List (Nat × List Byte))
  | resting (since : Nat)
deriving DecidableEq, Repr

/-- What a die dispatcher keeps for one grid. -/
structure GridDie where
  involved : Bool
  /-- A cluster of the grid has been placed on the die, R125. -/
  placed : Bool
  exhausted : Bool
  asking : Bool
  cancelled : Bool
  halted : Bool
  /-- Crews dealt to the die and not yet retired. -/
  unretired : Nat
  /-- Ranges being run: first index, count, crews of it retired so far. -/
  ranges : List (Nat × Nat × Nat)
  live : Nat
  change : Bool
  counts : Tbl Nat
  ring : List RingRec
  landing : List (List Landed)
  /-- Records that have landed so far. -/
  landed : Nat
  steal : StealSt
  /-- The cycle at which a crew last took records from the ring, R142. -/
  takenAt : Option Nat
  /-- Grants whose acknowledgement is still to come: thief and number, R143. -/
  granted : List (Nat × Nat)
  /-- The last complete steal round ended with every die refusing and the counter zero. -/
  allRefused : Bool
  pageEventPosted : Bool
  saved : List SavedCluster
  /-- Die-scratchpad allotment in force for this grid, R193, and pool regions in force, R154. -/
  scrBase : Nat
  scrSize : Nat
  spillBase : Nat
  spillPages : Nat
  enqBase : Nat
  enqRes : Nat
  /-- Numerics version in force, R260. -/
  nbv : BitVec 2
deriving DecidableEq, Repr

def GridDie.reset : GridDie :=
  { involved := false, placed := false, exhausted := false, asking := false, cancelled := false, halted := false, unretired := 0,
    ranges := [], live := 0, change := false, counts := [], ring := [], landing := [[], [], [], []], landed := 0, steal := .idle, takenAt := none,
    granted := [],
    allRefused := false, pageEventPosted := false, saved := [], scrBase := 0, scrSize := 0,
    spillBase := 0, spillPages := 0, enqBase := 0, enqRes := 2, nbv := 3 }

/-- The part of a compute die that dispatches and pools. -/
structure DieDisp where
  queues : List (List QCluster)
  grids : Tbl GridDie
  nextSeq : Nat
  notices : List Notice
  /-- Mirror kept as deputy: grants and retirements by handle, R116. -/
  mirror : Tbl (List RangeRec)
  /-- Reserved landing slots in use, as (context, package, die, slots in use), R145. -/
  enqUse : List (Nat × Nat × Nat × Nat)
  pageWait : List (Handle × PageWait)
  liveSel : Handle
  /-- The 128-cycle period of the last placement round, R128. -/
  lastRound : Nat
  stealIn : W16
  stealOut : W16
  bounce : W16
deriving DecidableEq, Repr

def DieDisp.reset : DieDisp :=
  { queues := [[], [], [], []], grids := [], nextSeq := 1, notices := [], mirror := [], enqUse := [], pageWait := [],
    liveSel := 0, lastRound := 0, stealIn := 0, stealOut := 0, bounce := 0 }

/-- Package-wide dispatch state: queues, the leader's and pod leader's records, and grids by handle. -/
structure Disp where
  apBase : W64
  podldr : Byte
  depv : Bool
  deputy : BitVec 3
  leader : BitVec 3
  queues : Tbl LaunchQ
  forwarded : List Forwarded
  /-- The pod leader's next sequence number and what it has assigned. -/
  nextSeq : Nat
  assigned : List Assigned
  /-- Notices of another package's pod leader that wait for their second part. -/
  inbox : List Notice
  /-- Highest sequence processed, as each package reports it to a new pod leader. -/
  podSeq : Tbl Nat
  /-- Packages from which a new pod leader still awaits that number. -/
  collect : List Nat
  grids : Tbl Grid
deriving DecidableEq, Repr

def Disp.reset : Disp :=
  { apBase := 0, podldr := 0, depv := false, deputy := 0, leader := 0, queues := [], forwarded := [],
    nextSeq := 1, assigned := [], inbox := [], podSeq := [], collect := [], grids := [] }

end Sys2Proof.Machine
end

