-- ==== Sys2Proof/Machine/StateCore.lean ====
section
/-!
DEFINITION. The state of chapters 7 to 16 that lies on a core: bands and front contexts, crews, latches, accesses in
flight, the L1 and the lookasides, copy channels, the Infuser and the Caddy.
-/
namespace Sys2Proof.Machine

/-! ## Registers of a band -/

/-- The registers that a region restart restores, R102. Slots are keyed lane × 256 + slot, predicates
lane × 8 + number, nesting counters by lane. A front context has only `uni`, keyed 0 to 63. -/
structure BandRegs where
  slots : Tbl W32
  preds : Tbl Tri
  uni : Tbl W64
  ix0 : Byte
  ix1 : Byte
  nest : Tbl Byte
  exited : BitVec 64
  status : BitVec 6
deriving DecidableEq, Repr

def BandRegs.reset : BandRegs :=
  { slots := [], preds := [], uni := [], ix0 := 0, ix1 := 0, nest := [], exited := 0, status := 0 }

/-- What a filled latch remembers of the register it was filled with, R170: an effective slot or a uniform register,
its width in words, and the cross-lane modifier read through: the `XLANE` bits, the amount, and for kind 101 the
register that names the lane. -/
structure Remember where
  uniform : Bool
  num : Nat
  words : Nat
  xlane : BitVec 5
  amt : Nat
  idx : Option (Bool × Nat)
deriving DecidableEq, Repr

/-- A result or hold latch, R169. -/
structure Latch where
  live : Bool
  bytes : Nat
  vals : Tbl W128
  reg : Option Remember
deriving DecidableEq, Repr

def Latch.reset : Latch := { live := false, bytes := 0, vals := [], reg := none }

/-- The trap registers of Table 11.3. -/
structure TrapRegs where
  cause : Byte
  pc : PCW
  fpc : PCW
  insn0 : W64
  insn1 : W64
  annex : W64
  decode : W64
  lanes : W64
  exec : W64
  info : W64
  wstat : BitVec 6
  scr : List W64
  bpEn : List Bool
  bpPc : List PCW
  rsvdw : Bool
deriving DecidableEq, Repr

def TrapRegs.reset : TrapRegs :=
  { cause := 0, pc := 0, fpc := 0, insn0 := 0, insn1 := 0, annex := 0, decode := 0, lanes := 0, exec := 0, info := 0,
    wstat := 0, scr := [0, 0, 0, 0], bpEn := [false, false], bpPc := [0, 0], rsvdw := false }

/-- What a result writes to its pipe's latch: the latch, its width, the values of the lanes written, and the register
written with it. -/
structure LatchW where
  num : Nat
  live : Bool
  bytes : Nat
  vals : List (Nat × W128)
  reg : Option Remember
deriving DecidableEq, Repr

/-- A result on its way to the registers: fixed latency when `ready` is a cycle, variable latency otherwise.
`writes` names registers by key: slot n of lane l is 256 l + n, predicate k of lane l is 2^15 + 8 l + k, uniform register
n is 2^16 + n, index register k is 2^17 + k. -/
structure Pend where
  id : Nat
  ready : Option Nat
  flag : Option Nat
  writes : List (Nat × W64)
  latch : Option LatchW
  status : BitVec 6
  /-- A control register of the crew that the instruction writes when it gets there, and the value, R351. -/
  csr : Option (Nat × W64) := none
deriving DecidableEq, Repr

/-- The current region of a band, R101 and R335: restart point, tag, registers as they stood, stores so far. -/
structure Region where
  restart : PCW
  tag : Byte
  snap : BandRegs
  stores : Nat
deriving DecidableEq, Repr

/-! ## Accesses in flight -/

/-- The spaces of Table 15.1. -/
inductive Space where
  | glob | core | clus | die | lane
deriving DecidableEq, Repr

/-- The page kind an access found in its lookaside entry, R88. -/
inductive PageKind where
  | strict | release | free
deriving DecidableEq, Repr

inductive PieceSt where
  /-- Not yet sent: it waits for the order of Table 9.1. -/
  | held
  | sent
  | done
  /-- Its home refused it, R100. -/
  | refused
deriving DecidableEq, Repr

/-- One part of a `glob` access: a run of bytes within one 64-byte line. -/
structure Piece where
  /-- The lane it belongs to; for a store, the lowest lane that writes it, R99. -/
  lane : Nat
  /-- The lanes that it belongs to. -/
  mask : BitVec 64
  va : Nat
  len : Nat
  /-- A store's bytes, then a load's or an atomic's. -/
  bytes : List Byte
  kind : PageKind
  ddr : Bool
  st : PieceSt
  /-- The fill of a load may install its line: no invalidation and no store of the core to the line came between, R200. -/
  install : Bool
deriving DecidableEq, Repr

inductive AccKind where
  | load | store | atomic | fetch
deriving DecidableEq, Repr

/-- What is done with a load's or atomic's value when it returns: effective first slot or uniform register, or none to
discard it; sign extension; 1 for `mid32` and 2 for `mid64`; and the interval view. -/
structure AccDest where
  num : Option Nat
  uniform : Bool
  /-- Words of the register. -/
  words : Nat
  /-- Bytes in memory. -/
  width : Nat
  signed : Bool
  compressed : Nat
  view : Nat
deriving DecidableEq, Repr

/-- The `glob` part of one instruction in flight. -/
structure Acc where
  id : Nat
  kind : AccKind
  pc : PCW
  flag : Option Nat
  lanes : BitVec 64
  dest : AccDest
  pieces : List Piece
  /-- An acquire whose scope is CORE or wider, or any acquire: no later access of the band issues before it is
  performed. -/
  acquire : Bool
  atHome : Bool
  release : Bool
  committing : Bool
  /-- Operation of the ATOMIC packet, R39, its width code and signedness, operands and expected values by lane. -/
  op : Nat
  width : Nat
  signed : Bool
  operands : Tbl W128
  expects : Tbl W128
  status : BitVec 6
  /-- Place of the store among the stores of its region. -/
  index : Nat
  /-- What each lane of a store writes: lane, address, bytes. -/
  stores : List (Nat × Nat × List Byte)
deriving DecidableEq, Repr

/-- What else of a band's instructions is still under way and holds a flag. -/
inductive WaitKind where
  /-- `AWAIT`: the space, and the counter of each lane whose condition does not hold yet. -/
  | await (clus : Bool) (offs : List (Nat × Nat))
  /-- A `FENCE.ACQ`: its scope, and the number of the first access it does not wait for. -/
  | fence (scope upto : Nat)
  | enq
  /-- A `LAUNCH`, which writes its handle to this uniform register. -/
  | launch (dest : Nat)
  | copy
  | infuser
  /-- A `JDRAIN`, whose accesses belong to the region that it opened, R449. -/
  | drain
  /-- A `JBATCH` whose batch is pending, R428. -/
  | batch (n : Nat)
  /-- A `JQRY`, which writes these registers when it completes. -/
  | query (keys : List Nat)
  | coll
deriving DecidableEq, Repr

structure Waiter where
  id : Nat
  flag : Option Nat
  pc : PCW
  kind : WaitKind
deriving DecidableEq, Repr

/-- A barrier arrival that the band waits on, R394. -/
structure BarWait where
  kind : Nat
  roster : Nat
  gen : Nat
  pc : PCW
  sp : Bool
deriving DecidableEq, Repr

/-- Why a band is parked, R103: the page whose signal resumes it. -/
structure ParkInfo where
  ctx : B6
  page : Nat
  va : Nat
deriving DecidableEq, Repr

/-- A trap accepted and not yet entered, R269. -/
structure PendTrap where
  cause : Nat
  info : W64
  lanes : BitVec 64
  fpc : PCW
  restart : PCW
  srcs : List (Nat × List W128)
  insn0 : W64
  insn1 : W64
  annex : W64
  decode : W64
deriving DecidableEq, Repr

/-- A page whose permissions an access or a fetch waits for, R94: the page's base, the first address, the lanes, the
store index, and whether it is a fetch. -/
structure Ask where
  va : Nat
  lanes : BitVec 64
  index : Nat
  fetch : Bool
deriving DecidableEq, Repr

/-- How far the current instruction of a band has got, where it must wait in the middle. -/
inductive Phase where
  | fresh
  /-- Held for permission replies. -/
  | lookup (asks : List Ask)
  /-- A committing instruction has performed and waits for its own acknowledgement, R101. -/
  | performed (acc : Nat)
  | barrier (w : BarWait)
  /-- An enqueue has sent these lanes' records, under this number; credits for the others have still to return, R145. -/
  | sending (sent : BitVec 64) (wait : Nat)
  /-- A `LAUNCH` waits for its handle, R410. -/
  | launching (wait : Nat)
  /-- Waits at a `MRG` for a partner since this cycle, R185. -/
  | merging (since : Nat)
  /-- Every lane has left; a requeue is still to complete, R460. -/
  | ending
deriving DecidableEq, Repr

/-- A band, or a front context with one lane. -/
structure Exec where
  pc : PCW
  chain : Option (PCW × Nat)
  lt : List Latch
  hd : List Latch
  near : List Nat
  workSet : List Nat
  lastIssue : Option Nat
  notBefore : Nat
  half : Nat
  /-- Whether the band was eligible at the end of the last cycle, and the first cycle of which that holds, R165 and R167. -/
  ready : Bool
  since : Nat
  phase : Phase
  lastLen : Nat
  lastSp : Bool
  lastAnnex : W64
  /-- Cycle at which bits of `NUM_STATUS` were last set, and those bits, R265. -/
  statusAt : Nat
  statusNew : BitVec 6
deriving DecidableEq, Repr

structure Band where
  r : BandRegs
  x : Exec
  width : Nat
  launchBand : Bool
  running : Bool
  trapPriv : Bool
  trap : TrapRegs
  /-- The handler's PC and the registers as the last trap entry left them, R274. -/
  handlerAt : PCW
  handlerSnap : BandRegs
  /-- The counters as the last trap entry found them, R182. -/
  entryNest : Tbl Byte
  pending : Option PendTrap
  flags : Tbl Nat
  pends : List Pend
  accs : List Acc
  waits : List Waiter
  clob : List (Nat × Nat × Nat)
  region : Region
  parked : Option ParkInfo
  dqPos : Nat
  /-- Lanes that run a task, R132. -/
  tasks : BitVec 64
  /-- Lanes whose requeue waits for a spill page, R460. -/
  requeue : BitVec 64
  /-- Lanes that a resumed nesting overflow runs, R181. -/
  only : Option (BitVec 64)
  /-- The instruction whose breakpoint match is suppressed for its next execution, R352. -/
  bpSkip : Option PCW
  cancelTrap : Bool
  stopReq : Option Nat
  stopped : Bool
  /-- The band has stopped in the middle of its region: a save keeps all of its registers, R280. -/
  full : Bool
  gens : Tbl Nat
  batchNext : Nat
  batchPend : Tbl Bool
  /-- Status bits of the ended operations of each pending batch, and under 16 of those that are in no batch yet, R265. -/
  batchSt : Tbl (BitVec 6)
deriving DecidableEq, Repr

def Exec.reset : Exec :=
  { pc := 0, chain := none, lt := List.replicate 4 Latch.reset, hd := List.replicate 3 Latch.reset, near := [],
    workSet := [], lastIssue := none, notBefore := 0, half := 0, ready := false, since := 0,
    phase := .fresh, lastLen := 8, lastSp := false, lastAnnex := 0, statusAt := 0, statusNew := 0 }

def Region.reset : Region := { restart := 0, tag := 0, snap := BandRegs.reset, stores := 0 }

def Band.reset : Band :=
  { r := BandRegs.reset, x := Exec.reset, width := 32, launchBand := false, running := false, trapPriv := false,
    trap := TrapRegs.reset, handlerAt := 0, handlerSnap := BandRegs.reset, entryNest := [], pending := none, flags := [], pends := [], accs := [], waits := [], clob := [],
    region := Region.reset, parked := none, dqPos := 0, tasks := 0, requeue := 0, only := none, bpSkip := none,
    cancelTrap := false, stopReq := none, stopped := false, full := false, gens := [], batchNext := 0, batchPend := [], batchSt := [] }

/-- An open hardware loop, R160: iterations left, trip count, first and last instruction; and that it has been exhausted, has its
original count again as its outer loop goes on, and has not come to its end since. DEDUCED, log 13. -/
structure HwLoop where
  left : Nat
  count : Nat
  first : PCW
  last : PCW
  again : Bool
deriving DecidableEq, Repr

structure Front where
  th : Band
  loops : List HwLoop
  ended : Bool
deriving DecidableEq, Repr

/-! ## What the engines hold -/

/-- A tensor record read by an engine, Table 8.5. -/
structure TensorRec where
  base : Nat
  space : Nat
  esz : Nat
  dt : Nat
  ndim : Nat
  pad : Nat
  padb : Byte
  size : List Nat
  box : List Nat
  stride : List Nat
deriving DecidableEq, Repr

inductive EngSt where
  | queued | running | parked (va : Nat)
deriving DecidableEq, Repr

inductive JOpKind where
  | pass | bit | stream | drain | cfg | clr (reset : Bool) | qry (w : Nat) | qfence (mask : Nat)
deriving DecidableEq, Repr

/-- The sum that a pass delivers to a key, R258: exact bounds, none for Empty; its status; and the place that it has in the
progress counter of a stream. -/
structure JSum where
  key : Nat
  val : Option (Bnd × Bnd)
  st : BitVec 6
  a : Nat
  pos : Nat
deriving DecidableEq, Repr

/-- An operation in the Infuser queue, R427 and Table 16.12. -/
structure JOp where
  kind : JOpKind
  seq : Nat
  slot : Nat
  thread : ThreadRef
  waitId : Nat
  pc : PCW
  base : W64
  cmd : W64
  tbl : Nat
  unis : List W64
  /-- A-row offsets of the quarter's lanes, none for a lane that does not act; or the descriptor of a `JCFG`. -/
  rows : List (Option Nat)
  quarter : Nat
  desc : List Byte
  dst : Option Nat
  batch : Option Nat
  step : Nat
  keyPos : Nat
  /-- Sums of the pass under way that are not yet placed; of a drain, the values that it emits. -/
  sums : List JSum
  /-- A drain's tile record, once read. -/
  rcd : Option TensorRec
  /-- A list drain's current row: first chunk, last chunk, tuples in the last chunk. -/
  row : List Nat
  /-- An error that ends the operation once its sums are placed. -/
  fails : Nat
  st : EngSt
  stopped : Bool
  /-- The chunk-pool-exhausted trap has been delivered for this stop, R271. -/
  told : Bool
  readDone : Bool
  written : Bool
  /-- Address of a drain's write that a home has refused; the deferred fault returns when the drain has sent its last write. -/
  refused : Option Nat
  logged : Bool
  status : BitVec 6
deriving DecidableEq, Repr

/-- An operation with nothing but its kind, its issuer and its place. -/
def JOp.make (kind : JOpKind) (seq : Nat) (t : ThreadRef) (waitId : Nat) (pc : PCW) (base : W64) : JOp :=
  { kind := kind, seq := seq, slot := t.slot, thread := t, waitId := waitId, pc := pc, base := base, cmd := 0, tbl := 0,
    unis := [], rows := [], quarter := 0, desc := [], dst := none, batch := none, step := 0, keyPos := 0, sums := [],
    rcd := none, row := [0, 0, 0], fails := 0, st := .queued, stopped := false, told := false, readDone := false,
    written := false, refused := none, logged := false, status := 0 }

/-! ## Crews -/

/-- A record in a Hatbox window: order and cycle of entry, R134. -/
structure WinRec where
  record : List Byte
  order : Nat
  at_ : Nat
deriving DecidableEq, Repr

/-- One crew's copy state per channel, Table 8.4. -/
structure CpyCrew where
  bytes : W64
  err : Byte
deriving DecidableEq, Repr

/-- A Caddy table of a crew, R417 and R420 to R426. -/
structure JTable where
  mode : Nat
  kind : Nat
  plim : Nat
  chsz : Nat
  base : Nat
  size : Nat
  width : Nat
  i0 : Nat
  j0 : Nat
  chbase : Nat
  chlimit : Nat
  chnext : Nat
  sphead : Nat
  sptail : Nat
  /-- Tuples in the tail chunk. -/
  spcount : Nat
  spills : Nat
  outwin : Nat
  err : Nat
  stopped : Bool
deriving DecidableEq, Repr

def JTable.off : JTable :=
  { mode := 0, kind := 0, plim := 0, chsz := 0, base := 0, size := 0, width := 0, i0 := 0, j0 := 0, chbase := 0,
    chlimit := 0, chnext := 0, sphead := 0, sptail := 0, spcount := 0, spills := 0, outwin := 0, err := 0, stopped := false }

/-- What the crew's own registers and allotments are, R110, R127, R184 and R197. -/
structure CrewCfg where
  handle : Handle
  lin : Nat
  bands : Nat
  width : Nat
  regs : Nat
  scrKB : Nat
  clusKB : Nat
  poolN : Nat
  caddy : Nat
  caddyBase : Nat
  /-- First KiB of the crew's range in the core scratchpad. -/
  kbBase : Nat
  /-- First KiB of the cluster contribution on the core of each rank. -/
  clusBase : List Nat
  laneBase : Nat
  rank : Nat
  clw : Nat
  clh : Nat
  core0 : Nat
  prio : Nat
  taskBase : Nat
  trapVec : Nat
  bandPc : Nat
  nbv : BitVec 2
  spmax : Nat
  rosters : List Nat
  /-- Uniform registers that a launch band is given, R110. -/
  preUni : List (Nat × W64)
deriving DecidableEq, Repr

structure CrewCtl where
  mergePct : Nat
  scrchkLog : Bool
  wlogCnt : Nat
  wlog : List W64
  cpy : List CpyCrew
  cancelled : Bool
  killed : Bool
  /-- The crew is being stopped for a save: no band forms, R278. -/
  stopping : Bool
  /-- The band that is parked in a `JSAVE`: the crew's operations stay stopped, R452. -/
  jHold : Option Nat
  /-- The operations that a `JSAVE` has removed and no `JLOAD` restored. -/
  jsaved : List JOp
  /-- Roster collectives issued so far: `RMCAST` of roster r at 2 r, `RRED` at 2 r + 1. -/
  collGens : Tbl Nat
deriving DecidableEq, Repr

structure Crew where
  cfg : CrewCfg
  ctl : CrewCtl
  bands : Tbl Band
  front : Option Front
  dq : List W64
  /-- Index of the first entry of `dq` in push order. -/
  dqBase : Nat
  window : List WinRec
  winNext : Nat
  tables : Tbl JTable
  /-- The tables as the instructions issued so far will leave them, R417. -/
  planned : Tbl JTable
deriving DecidableEq, Repr

/-! ## Core blocks -/

structure L1Line where
  ctx : B6
  line : Nat
  bytes : List Byte
  free : Bool
  used : Nat
deriving DecidableEq, Repr

inductive CopyOp where
  | cpy | cpyg | cpys | cpyAdd | qfence (mask : Nat)
deriving DecidableEq, Repr

/-- A command in a copy channel. -/
structure CopyCmd where
  op : CopyOp
  seq : Nat
  slot : Nat
  thread : ThreadRef
  waitId : Nat
  pc : PCW
  cmd : W64
  recAddr : W64
  dense : W64
  origin : List Nat
  idxOff : Nat
  st : EngSt
  rcd : Option TensorRec
  idx : List Nat
  /-- Elements delivered. -/
  pos : Nat
  /-- Bytes of the elements from `pos` on that have been read and not yet delivered. -/
  buf : List (List Byte)
  logged : Bool
  status : BitVec 6
deriving DecidableEq, Repr

/-- A request to another package by an engine, or by a band for its own use: the tag of its packet, the asker as slot,
engine and sequence number, what was asked, and the answer once it has come: status and bytes. -/
structure Remote where
  tag : Nat
  asker : Nat × Nat × Nat
  body : Body
  ans : Option (Byte × List Byte)
deriving DecidableEq, Repr

/-- A line of the instruction cache, Table 7.1. -/
structure ILine where
  ctx : B6
  line : Nat
  bytes : List Byte
deriving DecidableEq, Repr

/-- An entry of the Caddy, at its first slot: key and the two bounds as bits of the entry's format. -/
structure CEntry where
  key : Nat
  lo : W64
  hi : W64
deriving DecidableEq, Repr

/-- A multicast window at the port of a core, R204: its block of 256 bytes, when it opened, the other cores of the cluster, and
the readers that have joined, each as core, slot, and 0 for the front context, 1 + b for band b, 100 for the Infuser or 101 + n
for copy channel n; once it has closed, the bytes that the joined readers are to receive. -/
structure McWin where
  block : Nat
  openedAt : Nat
  others : List Nat
  joined : List (Nat × Nat × Nat)
  data : Option (List Byte)
deriving DecidableEq, Repr

/-- The issue selector of a core, R165 to R167. -/
structure Sel where
  active : List (Nat × Nat)
  half0 : Option (Nat × Nat)
  half1 : Option (Nat × Nat)
  /-- Slot and cycle of the front context that issued last, R158. -/
  frontLast : Nat
  frontAt : Option Nat
  /-- A band that collects its operands holds a half: slot, band, and the cycle of its issue, R176. -/
  held0 : Option (Nat × Nat × Nat)
  held1 : Option (Nat × Nat × Nat)
  /-- Cycle up to which each half's float pipe and transcendental/convert pipe is occupied, R162, R360 and R361. -/
  busy0 : Nat
  busy1 : Nat
  trans0 : Nat
  trans1 : Nat
  /-- Cycle at which a band last entered the set, R165. -/
  lastSetChange : Option Nat
  /-- Cycle at which a band last issued an instruction that uses memory, an engine or the decision queue, R167. -/
  portAt : Option Nat
deriving DecidableEq, Repr

structure Core where
  crews : Tbl Crew
  sel : Sel
  pal : List PalE
  wpal : List PalE
  l1 : List L1Line
  /-- Valid words of the core scratchpad, by word number, R195. -/
  valid : Tbl Bool
  copy : List (List CopyCmd)
  jq : List JOp
  jqParked : Option Nat
  caddy : Tbl CEntry
  windows : List McWin
  /-- Lines of code, the one used last at the end. -/
  icache : List ILine
  remote : List Remote
  nextId : Nat
  seq : Nat
deriving DecidableEq, Repr

def Core.reset : Core :=
  { crews := [], sel := { active := [], half0 := none, half1 := none, frontLast := 0, frontAt := none, held0 := none, held1 := none,
                          busy0 := 0, busy1 := 0, trans0 := 0, trans1 := 0, lastSetChange := none, portAt := none },
    pal := [], wpal := [], l1 := [], valid := [], copy := [[], [], [], []], jq := [], jqParked := none, caddy := [],
    windows := [], icache := [], remote := [], nextId := 1, seq := 0 }

/-- The Infuser queue is parked only while one of its operations is, R450. -/
def Core.parkedOnly (c : Core) : Core :=
  { c with jqParked := if c.jq.any fun o => match o.st with | .parked _ => true | _ => false then c.jqParked else none }

/-- Who waits for the reply that carries a tag. -/
inductive TagUse where
  | piece (t : ThreadRef) (acc : Nat) (piece : Nat)
  | perm (core : Nat) (ctx : B6) (va ts : Nat)
  /-- An enqueue, with its destination. -/
  | enq (t : ThreadRef) (wait : Nat) (h : Handle) (pkg die : Nat)
  /-- A request of an engine's lookaside to another package. -/
  | wperm (core : Nat) (ctx : B6) (ts : Nat)
  /-- A request of an engine, R39. -/
  | engine (core : Nat)
  /-- The fetch of a line of code from another package. -/
  | fetch (core : Nat) (ctx : B6) (line : Nat)
deriving DecidableEq, Repr

end Sys2Proof.Machine
end

