-- ==== Sys2Proof/Machine/StateHost.lean ====
section
/-!
DEFINITION. The state of chapters 1 to 3: operating points and time, links, ownership, start, attestation,
firmware, events and fault logs.
-/
namespace Sys2Proof.Machine

/-! ## Chapter 1: power and time -/

/-- A compute die's operating point, Tables 1.5 and 1.6, with the change in progress of R21. -/
structure Pwr where
  temp : BitVec 8
  trans : Bool
  target : BitVec 3
  ceilPkg : BitVec 3
  ceilTherm : BitVec 3
  hint : BitVec 3
  cur : BitVec 3
  opcap : BitVec 3
  /-- The point toward which the change in progress runs. -/
  going : BitVec 3
deriving DecidableEq, Repr

def Pwr.reset : Pwr :=
  { temp := 0, trans := false, target := 0, ceilPkg := 7, ceilTherm := 7, hint := 0, cur := 0, opcap := 7, going := 0 }

/-- The conversion registers of Table 1.8: staged pair and in-force pair. -/
structure TimeConv where
  offset : W64
  rate : W32
  offsetNow : W64
  rateNow : W32
deriving DecidableEq, Repr

def TimeConv.reset : TimeConv :=
  { offset := 0, rate := 0x40000000#32, offsetNow := 0, rateNow := 0x40000000#32 }

/-! ## Chapter 2: links -/

inductive TxSt where
  | send | replay | hold | down
deriving DecidableEq, Repr

inductive RxSt where
  | accept | discard | hold | down
deriving DecidableEq, Repr

/-- A data flit kept in the replay buffer: its sequence number, channel and payload slots of 16 bytes. -/
structure TxFlit where
  seq : W16
  vc : Nat
  slots : List (List Byte)
  sentAt : Nat
deriving DecidableEq, Repr

/-- The flit being filled, R38. -/
structure OpenFlit where
  vc : Nat
  slots : List (List Byte)
  lastAt : Nat
  closed : Bool
deriving DecidableEq, Repr

/-- The registers of Table 2.7 that are not views of the transmitter or the receiver. -/
structure LinkRegs where
  width : BitVec 2
  half : Bool
  errThr : Byte
  retrains : W16
  protErr : W16
  crcErr : W32
  /-- The reference period of the last failure, and the failures and protocol errors counted in it. -/
  errAt : Nat
  crcNow : W32
  protNow : W16
  laneMap : W64
  /-- The retrain in progress was asked for through `LINK_CTL.RETRAIN`. -/
  retrainByCtl : Bool
deriving DecidableEq, Repr

/-- The transmitter of one direction, R37, R38, R40 and Table 2.5. -/
structure LinkTx where
  st : TxSt
  next : W16
  /-- The replay buffer, oldest first. -/
  buf : List TxFlit
  /-- Flits of `buf` still to be resent in REPLAY, counted from the end of `buf`. -/
  resend : Nat
  sent : List Byte
  freed : List Byte
  /-- Packets offered and not yet placed in a flit, per virtual channel. -/
  pending : List (List Packet)
  opened : Option OpenFlit
  lastVc : Nat
  /-- Flits sent, as bytes, newest last: the output of the transmitter. -/
  wire : List (List Byte)
deriving DecidableEq, Repr

/-- The receiver of one direction, R36, R37, R41, R44 and Table 2.5. -/
structure LinkRx where
  st : RxSt
  exp : W16
  /-- The buffer of each virtual channel: packets accepted that have not left it, oldest first. -/
  bufs : List (List Packet)
  /-- Slots freed per virtual channel, modulo 256. -/
  freed : List Byte
  /-- Virtual channel whose freed count the next flit reports. -/
  reportVc : Nat
  /-- Data flits accepted since `exp` was last reported, and when that was. -/
  unreported : Nat
  reportedAt : Nat
  nakAt : Nat
  /-- Times of failures within the last 1,000,000 reference periods, newest first. -/
  failTimes : List Nat
deriving DecidableEq, Repr

structure Link where
  regs : LinkRegs
  tx : LinkTx
  rx : LinkRx
deriving DecidableEq, Repr

/-- DEDUCED, log 19. -/
def Link.reset : Link :=
  { regs := { width := 0, half := false, errThr := 8, retrains := 0, protErr := 0, crcErr := 0, errAt := 0, crcNow := 0,
              protNow := 0, laneMap := 0, retrainByCtl := false },
    tx := { st := .send, next := 0, buf := [], resend := 0, sent := List.replicate 6 0, freed := List.replicate 6 0,
            pending := List.replicate 6 [], opened := none, lastVc := 5, wire := [] },
    rx := { st := .accept, exp := 0, bufs := List.replicate 6 [], freed := List.replicate 6 0, reportVc := 0, unreported := 0,
            reportedAt := 0, nakAt := 0, failTimes := [] } }

/-- The pod routing registers of one I/O die, R52. -/
structure PodRt where
  pkg : Byte
  drop : W32
  /-- Entry n: the mask of ports toward package n. -/
  masks : Tbl (BitVec 18)
deriving DecidableEq, Repr

def PodRt.reset : PodRt := { pkg := 0, drop := 0, masks := [] }

/-! ## Chapter 3: fuses, start, ownership, attestation, firmware, events -/

/-- What the fuses hold, R17, R58, R67 and R68. No step writes them. -/
structure Fuses where
  present : BitVec 26
  /-- SHA3-384 hashes of the candidates' keys, all zero when the candidate is disabled. -/
  candHash : List (BitVec 384)
  fwHash : BitVec 384
  fwMin : List W32
  idEdPub : List Byte
  idMlPub : List Byte
  /-- SHA3-384 hash of the two identity keys, concatenated, R68. -/
  idHash : BitVec 384
  /-- The fuses' parity is bad: step 1 of a start fails. -/
  parityBad : Bool
  /-- Populated capacity of each DDR channel in GiB, 0 when the channel is empty, R15. -/
  ddrGiB : List Nat
deriving DecidableEq, Repr

inductive StartKind where
  | cold | warm | safe
deriving DecidableEq, Repr

inductive StartSt where
  | running | done | failed
deriving DecidableEq, Repr

/-- `BOOT_STATUS` of Table 3.6 and what a start keeps besides. -/
structure Start where
  step : BitVec 3
  kind : StartKind
  st : StartSt
  wfail : BitVec 2
  cfail : BitVec 2
  /-- A cold start has succeeded since power-on, R64. -/
  coldDone : Bool
  /-- `BOOT_HEALTHY` when the start began, R64. -/
  healthyAtStart : BitVec 26
  /-- Passengers whose steps have succeeded so far in this start. -/
  okSoFar : BitVec 26
  /-- When the step under way began. -/
  stepAt : Nat
deriving DecidableEq, Repr

/-- A report buffer of R68. -/
structure AttBuf where
  serial : W32
  cand : BitVec 2
  run : Bool
  done : Bool
  nonce : BitVec 256
  bytes : List Byte
deriving DecidableEq, Repr

def AttBuf.reset : AttBuf := { serial := 0, cand := 0, run := false, done := false, nonce := 0, bytes := [] }

/-- `OWN_STATUS` of Table 3.3 with the claim window and the handover limit. -/
structure Own where
  denied : W16
  rsvdw : Byte
  hopend : Bool
  hoto : BitVec 2
  owned : Bool
  owner : BitVec 2
  /-- The nonce of this start has been drawn: claims may be made. -/
  drawn : Bool
  windowOpen : Bool
  windowOpenedAt : Nat
  /-- Candidates whose valid claim arrived in the open window. -/
  valid : List (BitVec 2)
  hoAt : Nat
  /-- When a claim after the window made its candidate owner, R61. -/
  claimedAt : Option Nat
deriving DecidableEq, Repr

/-- The boot registers of Tables 1.2 and 3.11. -/
structure Boot where
  present : BitVec 26
  healthy : BitVec 26
  nonce : BitVec 256
  hostMem : W16
  /-- GiB of the host partition as placed at step 3 of the last cold start, R86. -/
  hostPlaced : Nat
  podPkg : Byte
  podEn : Bool
  attNonce : List (BitVec 256)
  attBusy : Bool
  att : List AttBuf
  /-- Buffers whose requests wait or run, in the order taken. -/
  attQueue : List Nat
  serial : W32
  /-- Draws made from the entropy source, R60. -/
  draws : Nat
  /-- Key hashes latched at step 1. -/
  keyHash : List (BitVec 384)
deriving DecidableEq, Repr

/-- Firmware: staging buffers, the staged images in the boot flash, and the digests of the running images. -/
structure Fw where
  staging : List (Tbl Byte)
  flash : List (List Byte)
  running : List (BitVec 384)
  flashBusy : Bool
  /-- The image that the flash write in progress will leave. -/
  writing : Option (Nat × List Byte)
deriving DecidableEq, Repr

/-- One entry of a fault log, R72. -/
structure LogEntry where
  record : List Byte
  acked : Bool
deriving DecidableEq, Repr

/-- Per-socket event state, R72 and Table 3.9. -/
structure SockEv where
  eseq : W32
  log : List LogEntry
  lost : W32
  logDrop : W32
  logAck : W32
deriving DecidableEq, Repr

def SockEv.reset : SockEv := { eseq := 0, log := [], lost := 0, logDrop := 0, logAck := 0 }

/-- The event queue registers, R73 and Table 3.9. -/
structure Evq where
  base : W64
  tail : W16
  head : W16
  overflow : Bool
  socks : Tbl SockEv
deriving DecidableEq, Repr

/-- A management reply, R70 and Table 3.15: the address and port that it is sent to, and its bytes. -/
structure MgmtReply where
  addr : W128
  port : W16
  bytes : List Byte
deriving DecidableEq, Repr

/-- Package power control, R22 and R24. -/
structure PkgPwr where
  capW : W16
  /-- Consecutive windows below 95% of the cap. -/
  lowWindows : Nat
deriving DecidableEq, Repr

structure HostSt where
  fuses : Fuses
  boot : Boot
  start : Start
  own : Own
  mailbox : Tbl W64
  fw : Fw
  evq : Evq
  pwr : PkgPwr
  /-- Management replies, in the order sent. -/
  mgmtOut : List MgmtReply
  /-- CRREPLY packets that reached this package as the pod leader's agent. -/
  crReplies : List Packet
  /-- Packets routed to a pod port that its I/O die has not yet handed to the port's transmitter: port and packet, in order, R52. -/
  podOut : List (Nat × Packet)
  /-- `BOOT_HEALTHY` of the other packages of the pod, as last received, R113. -/
  peerHealth : Tbl W32
  /-- Step 7 of the last start has joined the package to a pod, R64. -/
  inPod : Bool
deriving DecidableEq, Repr

end Sys2Proof.Machine
end

