-- ==== Sys2Proof/Machine/State.lean ====
section
/-!
DEFINITION. The whole state of a package, as plain data; the stops of a step; the state right after reset.
-/
namespace Sys2Proof.Machine

/-- A memory controller's home cache holds this line: context and line address, R201. -/
structure L2Tag where
  ctx : B6
  line : Nat
deriving DecidableEq, Repr

/-- A crew's issue of a roster collective, R397, until its result is written. -/
structure CollIssue where
  handle : Handle
  lin : Nat
  rred : Bool
  roster : Nat
  gen : Nat
  cmd : W64
  src : Nat
  bytes : List Byte
  thread : ThreadRef
  waitId : Nat
  /-- Result bytes received so far, by part. -/
  got : Tbl (List Byte)
deriving DecidableEq, Repr

/-- A part of a collective that has reached the collecting die. -/
structure CollPart where
  handle : Handle
  rred : Bool
  roster : Nat
  gen : Nat
  lin : Nat
  part : Nat
  bytes : List Byte
deriving DecidableEq, Repr

/-- A crew saved to memory, R281: what its block holds. Scratch bytes, valid words, lane slices and Caddy entries are keyed
from the start of the crew's own ranges, the contribution to its cluster from 2^20 on. -/
structure SavedCrew where
  handle : Handle
  cluster : Nat
  rank : Nat
  /-- Where the crew ran, by which completions under way still name its threads, R414. -/
  home : CrewRef
  /-- Virtual address of its block. -/
  block : Nat
  crew : Crew
  scr : Tbl Byte
  valid : Tbl Bool
  slices : Tbl Byte
  caddy : Tbl CEntry
  copy : List (List CopyCmd)
  jq : List JOp
deriving DecidableEq, Repr

/-- A compute die. -/
structure Die where
  /-- Cycles of the arithmetic clock, and thousandths of a cycle of the running period. -/
  cyc : Nat
  frac : Nat
  stopped : Bool
  pwr : Pwr
  disp : DieDisp
  ctxs : Tbl CtxDie
  cores : Tbl Core
  tags : Tbl TagUse
  l2 : List L2Tag
  colls : List CollPart
  savedCrews : List SavedCrew
deriving DecidableEq, Repr

def Die.reset : Die :=
  { cyc := 0, frac := 0, stopped := false, pwr := Pwr.reset, disp := DieDisp.reset, ctxs := [], cores := [],
    tags := [], l2 := [], colls := [], savedCrews := [] }

/-- What the schedule may ask of one step. -/
inductive Turn where
  /-- An event happens at a unit: thread or core, and channel, controller or batch number. -/
  | event (at_ : ThreadRef) (unit : Nat) (i : Instr)
  /-- The selector or the front-end picks this thread, R158 and R167. -/
  | issue (t : ThreadRef)
  /-- The packet at this place in flight arrives, if no packet of its route is ahead of it, R43. -/
  | deliver (n : Nat)
  /-- A held part of an access leaves the core, if Table 9.1 lets it. -/
  | send (t : ThreadRef) (acc piece : Nat)
  /-- A variable-latency result reaches its registers. -/
  | land (t : ThreadRef) (id : Nat)
  /-- Reference periods pass. -/
  | elapse (periods : Nat)
  /-- The package network offers a packet to a module's transmitter. -/
  | offer (lk : LinkId) (p : Packet)
  /-- The packet at this place on the package ring makes its next hop, R49. -/
  | hop (n : Nat)
  /-- The oldest packet of a virtual channel leaves the buffer of a receiver, R37. -/
  | unload (lk : LinkId) (vc : Nat)
  /-- An I/O die hands a packet routed to a pod port to the port's transmitter, R52. -/
  | podOffer (n : Nat)
  /-- A transmitter with no data flit ready sends a control flit, R38. -/
  | idle (lk : LinkId)
  /-- The far end of a module or port has begun a retrain, R44. -/
  | peerRetrain (lk : LinkId) (byCtl : Bool)
  /-- A host core, or a peripheral of the host complex, stores bytes at a host-physical address, R53 to R55. -/
  | host (peripheral : Bool) (pa : W64) (bytes : List Byte)
deriving DecidableEq, Repr

/-- The machine's state. -/
structure State where
  /-- Reference periods since cold start: `TIME_COUNT` of every passenger, R27. -/
  time : Nat
  /-- Every byte of the package's memories, by flat key, in canonical form. -/
  mem : List Host.Cell
  host : HostSt
  links : Tbl Link
  podrt : Tbl PodRt
  timeConv : Tbl TimeConv
  ctxs : Tbl Ctx
  ctrls : Tbl Ctrl
  disp : Disp
  dies : Tbl Die
  /-- Barrier generations completed, by grid, kind and roster. -/
  barDone : List (Handle × Nat × Nat × Nat)
  colls : List CollIssue
  /-- Packets in flight, oldest first. -/
  net : List Packet
  /-- Packets of virtual channel 3 on the package ring, oldest first, with the die at which each stands, R49. -/
  ring : List (Nat × Packet)
  /-- The thread whose instruction runs, and the core at which an event happens. -/
  cur : ThreadRef
  /-- The channel, controller or batch at which an event happens. -/
  unit : Nat
  /-- Number of the next free choice, log 3: the model's own field. -/
  free : Nat
  /-- What the schedule and the outside have in store, earliest first: the model's own field. -/
  agenda : List Turn
deriving DecidableEq, Repr

/-- Why a step stops. -/
inductive Fault where
  /-- An instruction is executed where `cur` names no running band or front context. Raised by the meanings of
  instructions; safe: no such instruction exists on the hardware. -/
  | noThread
deriving DecidableEq, Repr

/-- Why a step has no meaning. -/
inductive Refusal where
  /-- The instruction's meaning is not written. Raised by `exec` only; safe. -/
  | notModelled (mnemonic : String)
deriving DecidableEq, Repr

abbrev Out := Host.Outcome State Fault Refusal

/-- DESIGN CHOICE, log 7: what the fuses and the sockets of this package hold. -/
def Fuses.reset : Fuses :=
  { present := 0x3FFFFFF#26, candHash := [1, 2, 3], fwHash := 4, fwMin := [0, 0, 0], idEdPub := List.replicate 32 0,
    idMlPub := List.replicate 1952 0, idHash := 5, parityBad := false, ddrGiB := List.replicate 16 256 }

def HostSt.reset : HostSt :=
  { fuses := Fuses.reset,
    boot := { present := Fuses.reset.present, healthy := 0, nonce := 0, hostMem := 64, hostPlaced := 0, podPkg := 0, podEn := false,
              attNonce := [0, 0, 0], attBusy := false, att := List.replicate 4 AttBuf.reset, attQueue := [],
              serial := 0, draws := 0, keyHash := [0, 0, 0] },
    start := { step := 0, kind := .cold, st := .running, wfail := 0, cfail := 0, coldDone := false,
               healthyAtStart := 0, okSoFar := 0, stepAt := 0 },
    own := { denied := 0, rsvdw := 0, hopend := false, hoto := 0, owned := false, owner := 0, drawn := false, windowOpen := false,
             windowOpenedAt := 0, valid := [], hoAt := 0, claimedAt := none },
    mailbox := [],
    fw := { staging := [[], [], []], flash := [[], [], []], running := [0, 0, 0], flashBusy := false, writing := none },
    evq := { base := 0, tail := 0, head := 0, overflow := false, socks := [] },
    pwr := { capW := 3000, lowWindows := 0 }, mgmtOut := [], crReplies := [], podOut := [], peerHealth := [], inPod := false }

/-- The machine at power-on: registers at their reset values, memory with nothing listed, and the power-on itself as
the first turn. -/
def State.reset : State :=
  { time := 0, mem := [], host := HostSt.reset, links := [], podrt := [], timeConv := [], ctxs := [], ctrls := [],
    disp := Disp.reset, dies := [], barDone := [], colls := [], net := [], ring := [],
    cur := { die := 0, core := 0, slot := 0, band := none }, unit := 0, free := 0,
    agenda := [.event { die := 0, core := 0, slot := 0, band := none } 0 .powerOn] }

end Sys2Proof.Machine
end

