-- ==== Sys2Proof/Machine/Memory.lean ====
section
/-!
DEFINITION. The package's memories as one list of bytes in canonical form, the places of the parts of the state, and
the translation of chapter 4 as far as it is arithmetic.
-/
namespace Sys2Proof.Machine

/-! ## Memory in canonical form: addresses strictly rising, no listed byte zero, log 10 -/

/-- The byte at a key; an unlisted key reads as zero, log 10. -/
def Memory.read : List Host.Cell → Nat → Byte
  | [], _ => 0
  | (k, v) :: t, a => if a = k then v else if a < k then 0 else Memory.read t a

/-- Writes one byte, keeping the canonical form. -/
def Memory.write : List Host.Cell → Nat → Byte → List Host.Cell
  | [], a, b => if b = 0 then [] else [(a, b)]
  | (k, v) :: t, a, b =>
    if a < k then (if b = 0 then (k, v) :: t else (a, b) :: (k, v) :: t)
    else if a = k then (if b = 0 then t else (k, b) :: t)
    else (k, v) :: Memory.write t a b

/-- Every key of the list is above a bound, keys rise, and no byte is zero. -/
def Memory.wfFrom : Option Nat → List Host.Cell → Bool
  | _, [] => true
  | lo, (k, v) :: t => (match lo with | none => true | some l => decide (l < k)) && v != 0 && Memory.wfFrom (some k) t

/-- The canonical form. -/
def Memory.wf (m : List Host.Cell) : Bool := Memory.wfFrom none m

/-- The n bytes from a key on. -/
def Memory.readN (m : List Host.Cell) : Nat → Nat → List Byte
  | _, 0 => []
  | a, n + 1 => Memory.read m a :: Memory.readN m (a + 1) n

/-- Writes bytes from a key on. -/
def Memory.writeN (m : List Host.Cell) : Nat → List Byte → List Host.Cell
  | _, [] => m
  | a, b :: bs => Memory.writeN (Memory.write m a b) (a + 1) bs

/-- Makes the n bytes from a key on zero. -/
def Memory.clear (m : List Host.Cell) (a n : Nat) : List Host.Cell := m.filter fun c => c.1 < a || a + n ≤ c.1

/-! ## Where each memory lies in the list -/

/-- HBM stack, R13: 64 GiB each. -/
def hbmKey (stack off : Nat) : Nat := stack * 2 ^ 36 + off
/-- DDR channel, R15: up to 256 GiB each. -/
def ddrKey (ch off : Nat) : Nat := 2 ^ 40 + ch * 2 ^ 38 + off
/-- Core scratchpad, R188: 512 KiB. -/
def coreKey (die core off : Nat) : Nat := 2 ^ 44 + (die * 256 + core) * 2 ^ 19 + off
/-- Lane-private slice of a lane context, R189: 256 bytes; 1024 places for each residency slot. -/
def laneKey (die core lane off : Nat) : Nat := 2 ^ 45 + ((die * 256 + core) * 8192 + lane) * 256 + off
/-- Die scratchpad, R193: 32 MiB. -/
def dieKey (die off : Nat) : Nat := 2 ^ 46 + die * 2 ^ 25 + off

/-! ## Places of the state -/

def State.dieOf (s : State) (d : Nat) : Die := s.dies.get Die.reset d
def State.setDie (s : State) (d : Nat) (x : Die) : State := { s with dies := s.dies.set d x }
def State.updDie (s : State) (d : Nat) (f : Die → Die) : State := s.setDie d (f (s.dieOf d))
def State.coreOf (s : State) (d c : Nat) : Core := (s.dieOf d).cores.get Core.reset c
def State.setCore (s : State) (d c : Nat) (x : Core) : State :=
  s.updDie d fun y => { y with cores := y.cores.set c x }
def State.updCore (s : State) (d c : Nat) (f : Core → Core) : State := s.setCore d c (f (s.coreOf d c))
def State.crewOf (s : State) (r : CrewRef) : Option Crew := (s.coreOf r.die r.core).crews.find? r.slot
def State.setCrew (s : State) (r : CrewRef) (cw : Crew) : State :=
  s.updCore r.die r.core fun c => { c with crews := c.crews.set r.slot cw }
def State.updCrew (s : State) (r : CrewRef) (f : Crew → Crew) : State :=
  match s.crewOf r with
  | some cw => s.setCrew r (f cw)
  | none => s

/-- The thread of a crew: a band, or the front context while it has not ended. -/
def Crew.thread (cw : Crew) : Option Nat → Option Band
  | some b => cw.bands.find? b
  | none => match cw.front with
    | some f => if f.ended then none else some f.th
    | none => none

def Crew.setThread (cw : Crew) (n : Option Nat) (b : Band) : Crew :=
  match n with
  | some k => { cw with bands := cw.bands.set k b }
  | none => { cw with front := cw.front.map fun f => { f with th := b } }

def State.thread (s : State) (t : ThreadRef) : Option Band :=
  match s.crewOf t.crew with
  | some cw => cw.thread t.band
  | none => none

def State.setThread (s : State) (t : ThreadRef) (b : Band) : State := s.updCrew t.crew fun cw => cw.setThread t.band b

def State.updThread (s : State) (t : ThreadRef) (f : Band → Band) : State :=
  match s.thread t with
  | some b => s.setThread t (f b)
  | none => s

def State.ctxOf (s : State) (c : Nat) : Ctx := s.ctxs.get Ctx.reset c
def State.updCtx (s : State) (c : Nat) (f : Ctx → Ctx) : State := { s with ctxs := s.ctxs.set c (f (s.ctxOf c)) }
def State.ctxDie (s : State) (d c : Nat) : CtxDie := (s.dieOf d).ctxs.get CtxDie.reset c
def State.updCtxDie (s : State) (d c : Nat) (f : CtxDie → CtxDie) : State :=
  s.updDie d fun x => { x with ctxs := x.ctxs.set c (f (s.ctxDie d c)) }
def State.ctrlOf (s : State) (n : Nat) : Ctrl := s.ctrls.get Ctrl.reset n
def State.updCtrl (s : State) (n : Nat) (f : Ctrl → Ctrl) : State := { s with ctrls := s.ctrls.set n (f (s.ctrlOf n)) }
def State.gridDie (s : State) (d : Nat) (h : Handle) : GridDie := (s.dieOf d).disp.grids.get GridDie.reset h.toNat
def State.updDisp (s : State) (d : Nat) (f : DieDisp → DieDisp) : State := s.updDie d fun x => { x with disp := f x.disp }
def State.updGridDie (s : State) (d : Nat) (h : Handle) (f : GridDie → GridDie) : State :=
  s.updDisp d fun x => { x with grids := x.grids.set h.toNat (f (x.grids.get GridDie.reset h.toNat)) }
def State.gridOf (s : State) (h : Handle) : Option Grid := s.disp.grids.find? h.toNat
def State.updGrid (s : State) (h : Handle) (f : Grid → Grid) : State :=
  match s.gridOf h with
  | some g => { s with disp := { s.disp with grids := s.disp.grids.set h.toNat (f g) } }
  | none => s
def State.updOwner (s : State) (h : Handle) (f : OwnerSt → OwnerSt) : State :=
  s.updGrid h fun g => { g with own := f g.own }

/-- The context of a grid: bits [5:0] of the handle, R106. -/
def handleCtx (h : Handle) : B6 := h.extractLsb' 0 6

def State.setMem (s : State) (m : List Host.Cell) : State := { s with mem := m }
def State.readKey (s : State) (k n : Nat) : List Byte := Memory.readN s.mem k n
def State.writeKey (s : State) (k : Nat) (bs : List Byte) : State := s.setMem (Memory.writeN s.mem k bs)
def State.clearKey (s : State) (k n : Nat) : State := s.setMem (Memory.clear s.mem k n)

/-- This package's id, R52. -/
def State.pkg (s : State) : Nat := ((s.podrt.get PodRt.reset 24).pkg).toNat

/-- `TIME_COUNT` in nanoseconds, one per reference period, R27. -/
def State.timeCount (s : State) : Nat := s.time

/-- A passenger is healthy, R17. -/
def State.healthy (s : State) (sock : Nat) : Bool := s.host.boot.healthy.getLsbD sock

/-! ## Masks of lanes -/

/-- The number whose bit l, below n, says whether the lane satisfies p. -/
def maskNat (n : Nat) (p : Nat → Bool) : Nat := (List.range n).foldl (fun m l => if p l then m + 2 ^ l else m) 0
def maskOf (n : Nat) (p : Nat → Bool) : BitVec 64 := BitVec.ofNat 64 (maskNat n p)
def lanesOf (m : BitVec 64) : List Nat := (List.range 64).filter fun l => m.getLsbD l
/-- The lowest lane of a mask, zero when there is none. -/
def lowestLane (m : BitVec 64) : Nat := (lanesOf m).headD 0
def popCount (m : BitVec 64) : Nat := (lanesOf m).length

/-! ## Pages, granules and pieces: R81 to R86 -/

def inWindow (va : Nat) : Bool := 0x00F0000000000000 ≤ va
/-- The package that holds a slice of the global shared window, R82. -/
def windowPkg (va : Nat) : Nat := field va 44 8
def pageSize (sz : Nat) : Nat := match sz with | 0 => 2 ^ 16 | 1 => 2 ^ 21 | 2 => 2 ^ 30 | _ => 2 ^ 34
def alignDown (a n : Nat) : Nat := a / n * n

/-- The fold of R84 over k bits at a time; fuel is the number of bits of a granule number. -/
def foldBits (k : Nat) : Nat → Nat → Nat
  | 0, _ => 0
  | fuel + 1, g => if k = 0 ∨ g = 0 then 0 else (g % 2 ^ k) ^^^ foldBits k fuel (g / 2 ^ k)

/-- Which of 2^k stacks or channels holds va's granule, R84. -/
def granuleIndex (k va : Nat) : Nat := foldBits k 44 (va / 2 ^ 12)

/-- The offset of va in its piece, R85. -/
def pieceOff (size k va : Nat) : Nat := va % size / 2 ^ (12 + k) * 2 ^ 12 + va % 2 ^ 12

/-- k and the base stack of a context's mode, R84. -/
def modeSpread (mode place : Nat) : Nat × Nat :=
  if mode = 0 then (4, 0) else if mode = 1 then (3, 8 * (place % 2)) else (1, 2 * place)

/-- Populated DDR channels in order. -/
def State.ddrPopulated (s : State) : List Nat := (List.range 16).filter fun c => s.host.fuses.ddrGiB.getD c 0 != 0

/-- m such that 2^m is the largest power of two not above n. -/
def log2Floor (n : Nat) : Nat := Nat.log2 n

/-- The DDR-tier channels: the first 2^m populated, R86. -/
def State.tierChannels (s : State) : List Nat := s.ddrPopulated.take (2 ^ log2Floor s.ddrPopulated.length)

/-- The context whose mappings an address uses: 0 in the global window, R81. -/
def effCtx (ctx : B6) (va : Nat) : B6 := if inWindow va then 0 else ctx

def State.spread (s : State) (ctx : B6) (va : Nat) : Nat × Nat :=
  if inWindow va then (4, 0) else modeSpread (s.ctxOf ctx.toNat).mode.toNat (s.ctxOf ctx.toNat).place.toNat

/-- The stack that holds va's granule: where permission requests go, R94. -/
def State.stackOf (s : State) (ctx : B6) (va : Nat) : Nat :=
  let p := s.spread ctx va
  p.2 + granuleIndex p.1 va

/-- The DDR channel that holds va's granule, R86. DEDUCED, log 70. -/
def State.channelOf (s : State) (va : Nat) : Nat :=
  let m := log2Floor s.ddrPopulated.length
  s.tierChannels.getD (granuleIndex m va) 0

/-- The controller number of an address: 0 to 15 a stack, 16 to 31 a DDR channel. -/
def State.ctrlFor (s : State) (ctx : B6) (va : Nat) (ddr : Bool) : Nat :=
  if ddr then 16 + s.channelOf va else s.stackOf ctx va

/-- The socket of a controller: HBM stacks on sockets 8 to 23, DDR channels on the I/O dies, R12. -/
def ctrlSock (n : Nat) : Nat := if n < 16 then 8 + n else if n < 24 then 24 else 25

/-- Attributes of Table 4.5. -/
def attrSz (a : W16) : Nat := field a.toNat 10 2
def attrOrd (a : W16) : Nat := field a.toNat 8 2
def attrDdr (a : W16) : Bool := a.getLsbD 7
def attrA (a : W16) : Bool := a.getLsbD 3
def attrX (a : W16) : Bool := a.getLsbD 2
def attrW (a : W16) : Bool := a.getLsbD 1
def attrR (a : W16) : Bool := a.getLsbD 0
def attrKind (a : W16) : PageKind := if attrOrd a = 0 then .strict else if attrOrd a = 1 then .release else .free

def Mapping.covers (m : Mapping) (ctx : B6) (va : Nat) : Bool :=
  m.ctx == ctx && m.va ≤ va && va < m.va + pageSize (attrSz m.attr)

/-- The mapping that a controller's table holds for an address. -/
def Ctrl.find (c : Ctrl) (ctx : B6) (va : Nat) : Option Mapping := c.maps.find? fun m => m.covers ctx va

/-- The bytes of a piece: the page's size over the stacks or channels it is spread over, R85. -/
def State.pieceShift (s : State) (ctx : B6) (va : Nat) (ddr : Bool) : Nat :=
  if ddr then log2Floor s.ddrPopulated.length else (s.spread ctx va).1

/-- The key of a byte of a `glob` page of this package, when its controller holds the piece present, R100. -/
def State.globKey (s : State) (ctx : B6) (va : Nat) (ddr : Bool) : Option Nat :=
  let cx := effCtx ctx va
  let n := s.ctrlFor ctx va ddr
  match (s.ctrlOf n).find cx va with
  | some m =>
    if !m.p || m.unmapping || attrDdr m.attr != ddr then none
    else
      let off := m.frame + pieceOff (pageSize (attrSz m.attr)) (s.pieceShift ctx va ddr) va
      some (if ddr then ddrKey (n - 16) off else hbmKey n off)
  | none => none

/-- The key of the byte, a store to a line held in its home L2 being performed whatever `P` says, R99. -/
def State.globKeyCached (s : State) (ctx : B6) (va : Nat) (ddr : Bool) : Option Nat :=
  let cx := effCtx ctx va
  let n := s.ctrlFor ctx va ddr
  let held := !ddr && ((s.dieOf (n / 2)).l2.any fun t => t.ctx == cx && t.line == va / 64)
  match (s.ctrlOf n).find cx va with
  | some m =>
    if attrDdr m.attr != ddr || (!held && (!m.p || m.unmapping)) then none
    else
      let off := m.frame + pieceOff (pageSize (attrSz m.attr)) (s.pieceShift ctx va ddr) va
      some (if ddr then ddrKey (n - 16) off else hbmKey n off)
  | none => none

/-- The package's own attributes of a page, from the controller that answers for va, R94. -/
def State.attrAt (s : State) (ctx : B6) (va : Nat) : Option W16 :=
  match (s.ctrlOf (s.stackOf ctx va)).find (effCtx ctx va) va with
  | some m => if m.unmapping then none else some m.attr
  | none => none

end Sys2Proof.Machine
end

