-- ==== Sys2Proof/Machine/Report.lean ====
section
/-!
DEFINITION. Packets out of a passenger, and the fault records of R72 to R74: logs, the event ring, the fatal slots.
-/
namespace Sys2Proof.Machine

/-! ## Packets -/

def State.hdr (s : State) (ctx : B6) (tag src dst : Nat) : PktHdr :=
  { ctx := ctx, tag := BitVec.ofNat 20 tag, srcPkg := BitVec.ofNat 8 s.pkg, dstPkg := BitVec.ofNat 8 s.pkg,
    srcSock := BitVec.ofNat 5 src, dstSock := BitVec.ofNat 5 dst }

/-- A response copies `TAG` and `CTXID` and exchanges source and destination, R39. -/
def PktHdr.reply (h : PktHdr) : PktHdr :=
  { h with srcPkg := h.dstPkg, dstPkg := h.srcPkg, srcSock := h.dstSock, dstSock := h.srcSock }

/-- The I/O die by whose table a passenger's packets leave the package: an I/O die's own, and I/O die 0's for every other
passenger. DEDUCED, log 21. -/
def podTable (sock : Nat) : Nat := if sock = 25 then 25 else 24

/-- The lowest port of a mask of I/O die 0 that leads toward a package, R52. DEDUCED, log 21. -/
def State.podPort (s : State) (pkg : Nat) : Option Nat :=
  let mask := (s.podrt.get PodRt.reset 24).masks.get 0 pkg
  (List.range 18).find? fun n => mask.getLsbD n

/-- The port by which a packet leaves the package: the (h + 1)-th set bit of the mask in an I/O die's table, R52. -/
def State.podPortFor (s : State) (iod : Nat) (h : PktHdr) : Option Nat :=
  let mask := (s.podrt.get PodRt.reset iod).masks.get 0 h.dstPkg.toNat
  let ports := (List.range 18).filter fun n => mask.getLsbD n
  ports[((h.srcPkg.toNat * 32 + h.srcSock.toNat) * 32 + h.dstSock.toNat) % ports.length]?

/-- Routes a packet toward another package by an I/O die's table; none where its mask is empty. -/
def State.toPod (s : State) (iod : Nat) (p : Packet) : Option State :=
  (s.podPortFor iod p.hdr).map fun n => { s with host := { s.host with podOut := s.host.podOut ++ [(n, p)] } }

/-- Puts a packet on its way: within the package it joins the packets in flight; toward another package it is routed to a
pod port, or is lost where the route mask is empty. DESIGN CHOICE, log 16. -/
def State.send (s : State) (h : PktHdr) (b : Body) : State :=
  if h.dstPkg.toNat = s.pkg then { s with net := s.net ++ [⟨h, b⟩] }
  else (s.toPod (podTable h.srcSock.toNat) ⟨h, b⟩).getD s

/-- The other packages of the pod: those toward which this package has a route, while it belongs to a pod. DEDUCED, log 21. -/
def State.podMembers (s : State) : List Nat :=
  if s.host.inPod then ((s.podrt.get PodRt.reset 24).masks.filter fun m => m.2 != 0 && m.1 != s.pkg).map fun m => m.1 else []

/-! ## Leaders and owners, R113 -/

/-- The healthy compute dies of a package, as this package knows them. -/
def State.healthyDies (s : State) (pkg : Nat) : List Nat :=
  let mask := if pkg = s.pkg then s.host.boot.healthy.toNat else (s.host.peerHealth.get 0 pkg).toNat
  (List.range 8).filter fun d => mask.testBit d

/-- The package leader of a package, R113. -/
def State.leaderOf (s : State) (pkg : Nat) : Nat := (s.healthyDies pkg).headD 0

/-- The package and die of the owner of a grid's counter: the pod leader's die for a pod launch, else the package leader's. -/
def State.ownerAt (s : State) (h : Handle) : Nat × Nat :=
  let p := match s.disp.grids.find? h.toNat with
    | some g => if g.launch.podsc then s.disp.podldr.toNat else s.pkg
    | none => s.pkg
  (p, s.leaderOf p)

/-- A packet from a socket of this package to a die of a package. -/
def State.sendTo (s : State) (ctx : B6) (tag src : Nat) (dst : Nat × Nat) (b : Body) : State :=
  s.send { s.hdr ctx tag src dst.2 with dstPkg := BitVec.ofNat 8 dst.1 } b

/-! ## The host DDR partition, R53 and R86 -/

/-- Walks whole channels: the channel and offset of a host-physical address, or what is left of it. -/
def hostWhole (s : State) : List Nat → Nat → Nat ⊕ (Nat × Nat)
  | [], pa => .inl pa
  | c :: cs, pa =>
    let cap := s.host.fuses.ddrGiB.getD c 0 * 2 ^ 30
    if pa < cap then .inr (c, pa) else hostWhole s cs (pa - cap)

/-- The key of a byte of the host DDR partition. -/
def State.hostKey (s : State) (pa : Nat) : Option Nat :=
  let tier := s.tierChannels
  let size := s.host.boot.hostPlaced * 2 ^ 30
  if size ≤ pa then none
  else match hostWhole s (s.ddrPopulated.drop tier.length) pa with
    | .inr (c, off) => some (ddrKey c off)
    | .inl rest =>
      let g := rest / 2 ^ 12
      some (ddrKey (tier.getD (g % tier.length) 0) (g / tier.length * 2 ^ 12 + rest % 2 ^ 12))

/-- Bytes of each tier channel that the host partition takes, R86. -/
def State.hostShare (s : State) : Nat :=
  let tier := s.tierChannels
  let extra := ((s.ddrPopulated.drop tier.length).map fun c => s.host.fuses.ddrGiB.getD c 0).sum
  (s.host.boot.hostPlaced - extra + (tier.length - 1)) / tier.length * 2 ^ 30

def State.hostWrite (s : State) : Nat → List Byte → State
  | _, [] => s
  | pa, b :: bs =>
    match s.hostKey pa with
    | some k => (s.writeKey k [b]).hostWrite (pa + 1) bs
    | none => s.hostWrite (pa + 1) bs

def State.hostRead (s : State) (pa n : Nat) : List Byte :=
  (List.range n).map fun i => match s.hostKey (pa + i) with
    | some k => Memory.read s.mem k
    | none => 0

/-! ## Fault records -/

def pad (n : Nat) (bs : List Byte) : List Byte := (bs ++ List.replicate n 0).take n

def State.sockEv (s : State) (k : Nat) : SockEv := s.host.evq.socks.get SockEv.reset k
def State.updEvq (s : State) (f : Evq → Evq) : State := { s with host := { s.host with evq := f s.host.evq } }
def State.updSockEv (s : State) (k : Nat) (f : SockEv → SockEv) : State :=
  s.updEvq fun e => { e with socks := e.socks.set k (f (e.socks.get SockEv.reset k)) }

/-- Increments without passing the greatest value of the width. -/
def satInc {w : Nat} (x : BitVec w) : BitVec w := if x == BitVec.allOnes w then x else x + 1

/-- A record is lost to a full ring or an occupied slot, R74. -/
def State.evLost (s : State) (sock : Nat) : State :=
  (s.updSockEv sock fun e => { e with lost := satInc e.lost }).updEvq fun e => { e with overflow := true }

/-- Writes a record to the ring or to its socket's fatal slot, R73 and R74. DESIGN CHOICE, log 80. -/
def State.postRecord (s : State) (r : List Byte) : State :=
  let sock := (r.getD 4 0).toNat
  let base := s.host.evq.base.toNat
  if (r.getD 6 0).getLsbD 0 then
    let slot := base + 0x4000 + 64 * sock
    if ((s.hostRead (slot + 6) 1).headD 0).getLsbD 7 then s.evLost sock
    else (s.hostWrite slot (r.take 6)).hostWrite (slot + 7) (r.drop 7) |>.hostWrite (slot + 6) [r.getD 6 0 ||| 0x80]
  else if s.host.evq.tail - s.host.evq.head == 256 then s.evLost sock
  else
    (s.hostWrite (base + 64 * (s.host.evq.tail.toNat % 256)) r).updEvq fun e => { e with tail := e.tail + 1 }

/-- The place of the oldest acknowledged entry of a log. -/
def oldestAcked : List LogEntry → Option Nat
  | [] => none
  | e :: t => if e.acked then some 0 else (oldestAcked t).map (· + 1)

/-- Enters a record into its socket's log of 64 entries, R72. DESIGN CHOICE, log 78. -/
def SockEv.logRecord (e : SockEv) (r : List Byte) : SockEv :=
  let x : LogEntry := { record := r, acked := false }
  if e.log.length < 64 then { e with log := e.log ++ [x] }
  else match oldestAcked e.log with
    | some i => { e with log := e.log.eraseIdx i ++ [x] }
    | none => { e with logDrop := satInc e.logDrop }

/-- The 64 bytes of Table 3.8. -/
def State.mkRecord (s : State) (sock : Nat) (fatal : Bool) (ctx : Option B6) (cause : Nat) (grid : Handle)
    (detail : List Byte) : List Byte :=
  leBytes 4 (s.sockEv sock).eseq.toNat ++ [BitVec.ofNat 8 sock, BitVec.ofNat 8 s.pkg, if fatal then 1 else 0,
    match ctx with | some c => BitVec.ofNat 8 c.toNat | none => 0xFF] ++ leBytes 8 s.timeCount ++ leBytes 2 cause
    ++ leBytes 6 grid.toNat ++ pad 40 detail

/-- A passenger makes a fault record, logs it and posts it: I/O die 0 writes its own at once, every other passenger
sends an EVENT packet. The record also reaches the owner of the grid it names, R121. -/
def State.report (s : State) (sock : Nat) (fatal : Bool) (ctx : Option B6) (cause : Nat) (grid : Handle)
    (detail : List Byte) : State :=
  let r := s.mkRecord sock fatal ctx cause grid detail
  let s1 := s.updSockEv sock fun e => { e.logRecord r with eseq := e.eseq + 1 }
  let s2 := s1.updOwner grid fun o => if o.details.length < 16 then { o with details := o.details ++ [r] } else o
  if sock = 24 then s2.postRecord r else s2.send (s2.hdr (ctx.getD 0) 0 sock 24) (.event r)

/-- Counts a cause of Table 11.1 in the grid's counts at a die, R121 and R275. DESIGN CHOICE, log 29. -/
def State.countCause (s : State) (d : Nat) (h : Handle) (cause : Nat) : State :=
  s.updGridDie d h fun g => { g with counts := g.counts.upd 0 cause (· + 1) }

end Sys2Proof.Machine
end

