-- ==== Sys2Proof/Machine/Ops.lean ====
section
/-!
DEFINITION. The named operations over registers and threads: results landing, hazards, latches, flags, the end of a
band, and the one operation that takes a trap, R266 to R276, with the return from one beside it.
-/
namespace Sys2Proof.Machine

/-- A `DETAIL` of which the spec gives only the first bytes, or none: the others are free, log 14. -/
def openDetail (cause : Nat) (known : List Byte) : List Byte :=
  known ++ (leBytes 40 (Config.hwDetail cause).toNat).drop known.length

/-! ## Registers by key -/

def slotKey (lane n : Nat) : Nat := 256 * lane + n
def predKey (lane k : Nat) : Nat := 2 ^ 15 + 8 * lane + k
def uniKey (n : Nat) : Nat := 2 ^ 16 + n
def ixKey (k : Nat) : Nat := 2 ^ 17 + k

/-- The lane a key belongs to; 64 for a register of the whole band. -/
def keyLane (key : Nat) : Nat := if key < 2 ^ 15 then key / 256 else if key < 2 ^ 16 then (key - 2 ^ 15) / 8 else 64

/-- Predicate codes: 0 F, 1 T, 2 U; code 11 reads as U, R248. -/
def triOf (n : Nat) : Tri := if n = 0 then .f else if n = 1 then .t else .u
def triNum : Tri → Nat
  | .f => 0 | .t => 1 | .u => 2

def BandRegs.getKey (r : BandRegs) (key : Nat) : W64 :=
  if key < 2 ^ 15 then BitVec.ofNat 64 (r.slots.get 0 key).toNat
  else if key < 2 ^ 16 then BitVec.ofNat 64 (triNum (r.preds.get .f (key - 2 ^ 15)))
  else if key < 2 ^ 17 then r.uni.get 0 (key - 2 ^ 16)
  else BitVec.ofNat 64 (if key = 2 ^ 17 then r.ix0 else r.ix1).toNat

def BandRegs.putKey (r : BandRegs) (key : Nat) (v : W64) : BandRegs :=
  if key < 2 ^ 15 then { r with slots := r.slots.set key (BitVec.ofNat 32 v.toNat) }
  else if key < 2 ^ 16 then { r with preds := r.preds.set (key - 2 ^ 15) (triOf (v.toNat % 4)) }
  else if key < 2 ^ 17 then { r with uni := r.uni.set (key - 2 ^ 16) v }
  else if key = 2 ^ 17 then { r with ix0 := BitVec.ofNat 8 v.toNat } else { r with ix1 := BitVec.ofNat 8 v.toNat }

/-! ## Nesting counters, R178 -/

def Band.count (b : Band) (l : Nat) : Nat := (b.r.nest.get 0 l).toNat
def Band.gone (b : Band) (l : Nat) : Bool := b.r.exited.getLsbD l || !decide (l < b.width)
/-- A lane is active exactly when its counter is 0 and it has not exited. -/
def Band.active (b : Band) (l : Nat) : Bool := !b.gone l && b.count l == 0
def Band.exec (b : Band) : BitVec 64 := maskOf b.width b.active
def Band.setCount (b : Band) (l n : Nat) : Band :=
  { b with r := { b.r with nest := b.r.nest.set l (BitVec.ofNat 8 n) } }
/-- Lanes that have not exited. -/
def Band.alive (b : Band) : List Nat := (List.range b.width).filter fun l => !b.gone l
def Band.setCounts (b : Band) (f : Nat → Nat) : Band := b.alive.foldl (fun b l => b.setCount l (f l)) b
def Band.exitLanes (b : Band) (m : BitVec 64) : Band := { b with r := { b.r with exited := b.r.exited ||| m } }

/-! ## Completion flags, R161 -/

def Band.flagUp (b : Band) : Option Nat → Band
  | some f => { b with flags := b.flags.upd 0 f (· + 1) }
  | none => b
def Band.flagDown (b : Band) : Option Nat → Band
  | some f => { b with flags := b.flags.upd 0 f (· - 1) }
  | none => b

/-! ## Latches, R169 and R170 -/

/-- The latches are lost: a later read re-reads the remembered register. -/
def Band.loseLatches (b : Band) : Band :=
  { b with
    x := { b.x with lt := b.x.lt.map (fun l => { l with live := false }), hd := b.x.hd.map fun l => { l with live := false } },
    pends := b.pends.map fun p => { p with latch := p.latch.map fun w => { w with live := false } } }

/-- What a latch holds after a write: lanes not written keep what a live latch held, and otherwise hold zero. -/
def Latch.write (l : Latch) (w : LatchW) : Latch :=
  { live := w.live, bytes := w.bytes, vals := w.vals.foldl (fun t x => t.set x.1 x.2) (if l.live then l.vals else []),
    reg := w.reg }

/-! ## Results landing, R162 to R164 -/

/-- The keys that an instruction's wait will write when it ends. -/
def Waiter.keys (w : Waiter) : List Nat := match w.kind with | .query ks => ks | _ => []

/-- A register writer's result has not reached its registers yet. -/
def Band.underWay (b : Band) (id : Nat) : Bool :=
  (b.pends.any fun q => q.id == id) || (b.accs.any fun a => a.id == id) || b.waits.any fun w => w.id == id && !w.keys.isEmpty

/-- The other party of a recorded pair of writers. -/
def otherWriter (c : Nat × Nat × Nat) (id : Nat) : Option Nat :=
  if c.1 = id then some c.2.1 else if c.2.1 = id then some c.1 else none

/-- Whether a key's final value is fixed only as that of one of two writers: the other party of a recorded pair has
landed already, R164. -/
def Band.contested (b : Band) (p : Pend) (key : Nat) : Bool :=
  b.clob.any fun c => c.2.2 == key && match otherWriter c p.id with | some o => !b.underWay o | none => false

/-- Bits of `NUM_STATUS` are set at a cycle, R265. -/
def Band.addStatus (b : Band) (at_ : Nat) (st : BitVec 6) : Band :=
  if st = 0 then b
  else { b with r := { b.r with status := b.r.status ||| st },
                x := { b.x with statusAt := max at_ b.x.statusAt,
                                statusNew := if at_ = b.x.statusAt then b.x.statusNew ||| st
                                             else if at_ < b.x.statusAt then b.x.statusNew else st } }

/-- One result reaches its registers. A contested write takes the free choice numbered by its lane. -/
def Band.land (b : Band) (now free : Nat) (p : Pend) : Band :=
  let b1 := { b with pends := b.pends.filter fun q => q.id != p.id }
  let r := p.writes.foldl (fun (r : BandRegs) w =>
      if b.contested p w.1 && Config.freeBit (free + keyLane w.1) then r else r.putKey w.1 w.2) b.r
  let x := match p.latch with
    | some w => { b.x with lt := b.x.lt.modify w.num fun l => l.write w }
    | none => b.x
  let clob := b.clob.filter fun c => match otherWriter c p.id with | some o => b1.underWay o | none => true
  Band.flagDown ({ b1 with r := r, x := x, clob := clob }.addStatus (p.ready.getD now) p.status) p.flag

/-- The first result due at the earliest cycle up to now. -/
def duePend (now : Nat) : List Pend → Option Pend
  | [] => none
  | p :: ps =>
    match p.ready, duePend now ps with
    | some r, some q => if r ≤ now ∧ r ≤ q.ready.getD 0 then some p else some q
    | some r, none => if r ≤ now then some p else none
    | none, o => o

/-- Lands every fixed-latency result that is due, in the order of the cycles at which they land. Each landing may use
65 free choices. -/
def Band.settleN (now : Nat) : Nat → Nat → Band → Band
  | 0, _, b => b
  | n + 1, free, b =>
    match duePend now b.pends with
    | some p => Band.settleN now n (free + 65) (b.land now free p)
    | none => b
def Band.settle (b : Band) (now free : Nat) : Band := Band.settleN now b.pends.length free b

/-- The keys that a memory access will write when it completes. -/
def Acc.keys (a : Acc) : List Nat :=
  match a.dest.num with
  | none => []
  | some n =>
    if a.dest.uniform then [uniKey n]
    else (lanesOf a.lanes).flatMap fun l => (List.range a.dest.words).map fun i => slotKey l (n + i)

/-- Records the results under way, of variable latency, whose destinations a new write also names, R164. -/
def Band.noteClob (b : Band) (id : Nat) (keys : List Nat) : Band :=
  let old := (b.pends.filter fun q => q.ready.isNone).flatMap (fun q => q.writes.filterMap fun w =>
      if keys.contains w.1 then some (q.id, id, w.1) else none)
  let mem := b.accs.flatMap fun a => a.keys.filterMap fun k => if keys.contains k then some (a.id, id, k) else none
  let qry := b.waits.flatMap fun w => w.keys.filterMap fun k => if keys.contains k then some (w.id, id, k) else none
  { b with clob := b.clob ++ old ++ mem ++ qry }

/-- Puts a result on its way, its flag counted. -/
def Band.pend (b : Band) (p : Pend) : Band :=
  let b1 := b.noteClob p.id (p.writes.map (·.1))
  Band.flagUp { b1 with pends := b1.pends ++ [p] } p.flag

/-- A register read, R163: each result under way that writes the key and has not landed gives its value or not, by a free
choice of the reading lane. -/
def Band.look (b : Band) (free lane key : Nat) : W64 :=
  (b.pends.foldl (fun (v : W64 × Nat) p =>
    (match p.writes.find? fun w => w.1 == key with
      | some w => if Config.freeBit (free + 64 * v.2 + lane) then w.2 else v.1
      | none => v.1, v.2 + 1)) (b.r.getKey key, 0)).1

/-- A latch read, R163: its value in a lane, and what it remembers once lost. -/
def Band.lookLatch (b : Band) (free lane num : Nat) : Latch :=
  (b.pends.foldl (fun (v : Latch × Nat) p =>
    (match p.latch with
      | some w => if w.num == num && Config.freeBit (free + 64 * v.2 + lane) then v.1.write w else v.1
      | none => v.1, v.2 + 1)) (b.x.lt.getD num Latch.reset, 0)).1

/-- Cycles of a die's arithmetic clock. -/
def State.cyc (s : State) (d : Nat) : Nat := (s.dieOf d).cyc

/-- Settles a thread at its die's present cycle. -/
def State.settle (s : State) (t : ThreadRef) : State :=
  match s.thread t with
  | some b => { s.setThread t (b.settle (s.cyc t.die) s.free) with free := s.free + 65 * b.pends.length }
  | none => s

/-! ## Accesses of the device itself: vector entries, records, rings, save blocks -/

/-- Why an access of the device fails: no mapping, no permission, not present. -/
inductive DevFault where
  | page (va : Nat)
  | perm (va : Nat)
  | absent (va : Nat)
deriving DecidableEq, Repr

def DevFault.va : DevFault → Nat
  | .page v => v | .perm v => v | .absent v => v

/-- The key of a byte of the package's own memory under an access kind: permission at the page, presence at the home. -/
def State.devKey (s : State) (ctx : B6) (need : W16 → Bool) (va : Nat) : Except DevFault Nat :=
  if 2 ^ 56 ≤ va ∨ (inWindow va ∧ windowPkg va ≠ s.pkg) then .error (.page va)
  else match s.attrAt ctx va with
    | none => .error (.page va)
    | some a =>
      if !need a then .error (.perm va)
      else match s.globKeyCached ctx va (attrDdr a) with
        | some k => .ok k
        | none => .error (.absent va)

def State.devKeys (s : State) (ctx : B6) (need : W16 → Bool) : Nat → Nat → Except DevFault (List Nat)
  | _, 0 => .ok []
  | va, n + 1 =>
    match s.devKey ctx need va, s.devKeys ctx need (va + 1) n with
    | .ok k, .ok ks => .ok (k :: ks)
    | .error e, _ => .error e
    | _, .error e => .error e

/-- DEDUCED, log 40. -/
def State.devRead (s : State) (ctx : B6) (need : W16 → Bool) (va n : Nat) : Except DevFault (List Byte) :=
  match s.devKeys ctx need va n with
  | .ok ks => .ok (ks.map (Memory.read s.mem))
  | .error e => .error e

/-- DEDUCED, log 40. -/
def State.devWrite (s : State) (ctx : B6) (va : Nat) (bs : List Byte) : Except DevFault State :=
  match s.devKeys ctx (fun a => attrW a) va bs.length with
  | .ok ks => .ok (s.setMem ((ks.zip bs).foldl (fun m x => Memory.write m x.1 x.2) s.mem))
  | .error e => .error e

/-! ## Live work, R149 -/

def State.liveAdd (s : State) (d : Nat) (h : Handle) (n : Nat) : State :=
  s.updGridDie d h fun g => { g with live := g.live + n, change := true, allRefused := false }
def State.liveSub (s : State) (d : Nat) (h : Handle) (n : Nat) : State :=
  s.updGridDie d h fun g => { g with live := g.live - n }

/-! ## Barriers, R124 and R394: kinds 0 to 3 of Table 15.8, and 4 and 5 for the collectives of R397 -/

/-- The number of generations a band has arrived at, of a kind and a roster. -/
def Band.gen (b : Band) (kind roster : Nat) : Nat := b.gens.get 0 (256 * kind + roster)

/-- The first generation of a barrier that waits on a crew: what all its running launch bands have arrived at lies below. -/
def Crew.waitedGen (cw : Crew) (kind roster : Nat) : Option Nat :=
  (cw.bands.filterMap fun b => if b.2.launchBand && b.2.running then some (b.2.gen kind roster) else none).min?

/-- Every launch band of a crew has arrived at a generation, or has ended. -/
def Crew.arrivedAt (cw : Crew) (kind roster gen : Nat) : Bool :=
  match cw.waitedGen kind roster with | none => true | some g => decide (gen < g)

def clusterOf (cfg : CrewCfg) : Nat := cfg.lin / max 1 (cfg.clw * cfg.clh)

/-- The barriers that wait on a crew, as (kind, id, first generation): broken when it is killed. -/
def Crew.barriers (cw : Crew) : List (Nat × Nat × Nat) :=
  let one := fun kind roster id => (cw.waitedGen kind roster).toList.map fun g => (kind, id, g)
  one 0 0 cw.cfg.lin ++ one 1 0 (clusterOf cw.cfg) ++ cw.cfg.rosters.flatMap (fun r => one 2 r r) ++ one 3 0 0

/-- The collectives that wait on a crew: broken when it is killed or retires. -/
def Crew.collectives (cw : Crew) : List (Nat × Nat × Nat) :=
  cw.cfg.rosters.flatMap fun r => [(4, r, cw.ctl.collGens.get 0 (2 * r)), (5, r, cw.ctl.collGens.get 0 (2 * r + 1))]

/-- Entries of `barDone` name a grid, a key, an id and a generation. Key k, below 8, says that a barrier of kind k has completed up
to the generation; 8 + k, that it is broken from the generation on; k + 16 (d + 1), that die d has been told of completion;
k + 2^16 + 16 (8 p + d), that die d of package p has arrived. -/
def State.setBarDone (s : State) (h : Handle) (key id gen : Nat) : State :=
  { s with barDone := (s.barDone.filter fun e => !(e.1 == h && e.2.1 == key && e.2.2.1 == id && decide (e.2.2.2 < gen)))
      ++ [(h, key, id, gen)] }

/-- DEDUCED, log 56. -/
def State.barReached (s : State) (h : Handle) (key id gen : Nat) : Bool :=
  s.barDone.any fun e => e.1 == h && e.2.1 == key && e.2.2.1 == id && decide (gen ≤ e.2.2.2)

/-- Breaks barriers of a grid. -/
def State.breakAll (s : State) (h : Handle) (xs : List (Nat × Nat × Nat)) : State :=
  { s with barDone := s.barDone ++ xs.map fun x => (h, 8 + x.1, x.2.1, x.2.2) }

def State.barBroken (s : State) (h : Handle) (kind id gen : Nat) : Bool :=
  s.barDone.any fun e => e.1 == h && e.2.1 == 8 + kind && e.2.2.1 == id && decide (e.2.2.2 ≤ gen)

/-- Where arrivals of a barrier are counted: at the package's leader for package scope, else at the grid's owner. -/
def State.barDest (s : State) (h : Handle) (kind : Nat) : Nat × Nat :=
  if kind = 3 then (s.pkg, s.leaderOf s.pkg) else s.ownerAt h

def State.barSend (s : State) (d : Nat) (h : Handle) (tgt : Nat × Nat) (kind roster gen : Nat) (completion broken : Bool) : State :=
  s.sendTo (handleCtx h) 0 d tgt (.barrier
    { handle := h, kind := BitVec.ofNat 3 kind, roster := BitVec.ofNat 8 roster, gen := BitVec.ofNat 32 gen,
      completion := completion, broken := broken })

/-- Breaks barriers and collectives of a grid; those that crews of other packages may wait at are told to the grid's owner, which
tells the others, R124. DEDUCED, log 56. -/
def State.breakTold (s : State) (d : Nat) (h : Handle) (xs : List (Nat × Nat × Nat)) : State :=
  let pod := match s.gridOf h with | some g => g.launch.podsc | none => false
  let s1 := s.breakAll h xs
  if pod then (xs.filter fun x => x.1 == 2 || decide (4 ≤ x.1)).foldl (fun (s : State) x =>
      s.barSend d h (s.ownerAt h) x.1 x.2.1 x.2.2 false true) s1
  else s1

/-- A crew that is killed breaks what waits on it. -/
def State.breakBarriers (s : State) (d : Nat) (cw : Crew) : State := s.breakTold d cw.cfg.handle (cw.barriers ++ cw.collectives)

/-- The crews of a grid on a die, resident or saved. -/
def State.gridCrews (s : State) (d : Nat) (h : Handle) : List Crew :=
  ((s.dieOf d).cores.flatMap fun c => (c.2.crews.filter fun w => w.2.cfg.handle == h).map fun w => w.2)
    ++ ((s.dieOf d).savedCrews.filter fun x => x.handle == h).map fun x => x.crew

/-- The roster's list of crews. -/
def State.rosterOf (s : State) (h : Handle) (r : Nat) : List Nat :=
  match s.gridOf h with
  | some g => g.rosters.getD r []
  | none => []

/-- The linear indices that take part in a barrier of kind 2 or 3. DEDUCED, log 56. -/
def State.takesPart (s : State) (h : Handle) (kind roster lin : Nat) : Bool := kind == 3 || (s.rosterOf h roster).contains lin

/-- Every crew of a grid that has been dealt to a die and takes part has arrived; a crew that has retired counts as arrived,
one that waits for placement does not. -/
def State.dieArrived (s : State) (d : Nat) (h : Handle) (kind roster gen : Nat) (p : Nat → Bool) : Bool :=
  let size := match s.gridOf h with | some g => g.launch.clw * g.launch.clh | none => 1
  ((s.gridCrews d h).all fun w => !p w.cfg.lin || w.arrivedAt kind roster gen) &&
    (s.dieOf d).disp.queues.flatten.all fun c =>
      c.handle != h || c.saved.isSome || !((List.range size).any fun i => p (size * c.cluster + i))

/-- A die reports that all its crews have arrived. DEDUCED, log 56. -/
def State.barArrive (s : State) (d : Nat) (h : Handle) (kind roster gen : Nat) : State :=
  if s.dieArrived d h kind roster gen (s.takesPart h kind roster) then
    s.barSend d h (s.barDest h kind) kind roster gen false false
  else s

/-- Looks again at every roster and package barrier at which a band of the die waits. -/
def State.barNudge (s : State) (d : Nat) (h : Handle) : State :=
  let waits := (s.gridCrews d h).flatMap fun w => w.bands.filterMap fun b =>
      match b.2.x.phase with
      | .barrier x => if 2 ≤ x.kind then some x else none
      | _ => none
  waits.foldl (fun s x => s.barArrive d h x.kind x.roster x.gen) s

/-! ## Regions: R101 -/

/-- A band has committed its region: every access it issued since the head is acknowledged, those of a drain too, R449. DEDUCED, log 35. -/
def Band.committed (b : Band) : Bool := b.accs.isEmpty && b.waits.all fun w => w.kind != .drain

/-- The registers as they will stand once every result under way has landed. -/
def Band.landed (b : Band) (free : Nat) : BandRegs := (b.pends.foldl (fun b p => b.land 0 free p) b).r

/-- A new region opens at a PC, R335: the tag rises by 1. At TRAP privilege none opens: the handler is one region, which
starts at the trap entry, R274. -/
def Band.openRegion (b : Band) (free : Nat) (pc : PCW) : Band :=
  if b.trapPriv then b else { b with region := { restart := pc, tag := b.region.tag + 1, snap := b.landed free, stores := 0 } }

/-- The acknowledgement that a committing instruction waits for has come: a new region opens at the next instruction, R101. -/
def Band.acked (b : Band) (free id : Nat) : Band :=
  if b.x.phase = .performed id then { b.openRegion free b.x.pc with x := { b.x with phase := .fresh } } else b

/-! ## Crew registers, written by a band or by the owner -/

/-- `CREW_MERGE.PCT`, Table 7.6. -/
def mergePctOf (v : Nat) : Nat := let p := v % 128; if p = 0 then 25 else if 100 < p then 100 else p

def State.writeMerge (s : State) (r : CrewRef) (v : W64) : State :=
  s.updCrew r fun cw => { cw with ctl := { cw.ctl with mergePct := mergePctOf v.toNat } }

/-- `CREW_SCRCHK`, Table 8.3. -/
def State.writeScrchk (s : State) (r : CrewRef) (v : W64) : State :=
  s.updCrew r fun cw => { cw with ctl := { cw.ctl with scrchkLog := v.getLsbD 0,
                                                       wlogCnt := if v.getLsbD 1 then 0 else cw.ctl.wlogCnt } }

/-- The commands of a crew in a copy channel. -/
def Core.copyOf (c : Core) (slot ch : Nat) : List CopyCmd := (c.copy.getD ch []).filter fun x => x.slot == slot

/-- The count of a crew's delivered bytes on a channel returns to 0 while the channel holds no command of it, R206. -/
def State.cpyReset (s : State) (r : CrewRef) (ch : Nat) : State :=
  if ((s.coreOf r.die r.core).copyOf r.slot ch).isEmpty then
    s.updCrew r fun cw => { cw with ctl := { cw.ctl with cpy := cw.ctl.cpy.modify ch fun x => { x with bytes := 0 } } }
  else s

def State.cpyClrerr (s : State) (r : CrewRef) (ch : Nat) : State :=
  s.updCrew r fun cw => { cw with ctl := { cw.ctl with cpy := cw.ctl.cpy.modify ch fun x => { x with err := 0 } } }

/-- `CPY_CTL`, Table 8.4. -/
def State.writeCpyCtl (s : State) (r : CrewRef) (v : W64) : State :=
  let s1 := (List.range 4).foldl (fun (s : State) ch => if v.getLsbD ch then s.cpyReset r ch else s) s
  (List.range 4).foldl (fun (s : State) ch => if v.getLsbD (4 + ch) then s.cpyClrerr r ch else s) s1

/-- A band's write reaches a register of its crew, R351. -/
def State.performCsr (s : State) (r : CrewRef) (w : Nat × W64) : State :=
  if w.1 = 0x060 then s.writeMerge r w.2 else if w.1 = 0x061 then s.writeScrchk r w.2 else s.writeCpyCtl r w.2

/-! ## The end of a band -/

/-- Lanes leave and do not come back with the restart of a region or the end of a handler: their tasks are over. -/
def Band.exitForGood (b : Band) (m : BitVec 64) : Band :=
  let mark := fun (r : BandRegs) => { r with exited := r.exited ||| m }
  { b with r := mark b.r, region := { b.region with snap := mark b.region.snap }, handlerSnap := mark b.handlerSnap }

/-- No lane of the band comes back: it has ended, or it is killed and waits for a requeue. -/
def Band.leaves (b : Band) : Bool := !b.running || b.region.snap.exited == BitVec.allOnes 64

/-- A band ends with no lane left: its stores and atomics under way go on to their acknowledgement, and so do the accesses of a
drain. -/
def Band.ended (b : Band) : Band :=
  { b with running := false, pending := none, parked := none, pends := [],
           accs := b.accs.filter fun a => a.kind == .store || a.kind == .atomic,
           waits := b.waits.filter fun w => w.kind == .drain,
           x := { b.x with phase := .fresh, chain := none } }

/-- The tasks of lanes that have left end with the commit, R138; those that are to be requeued go on. -/
def State.tasksEnd (s : State) (t : ThreadRef) : State :=
  match s.crewOf t.crew, s.thread t with
  | some cw, some b =>
    let done := b.tasks &&& b.r.exited &&& ~~~b.requeue
    if done = 0 || !b.committed then s
    else (s.setThread t { b.exitForGood done with tasks := b.tasks &&& ~~~done }).liveSub t.die cw.cfg.handle (popCount done)
  | _, _ => s

/-- A band ends, and the writes that it has sent to registers of its crew get there; one with a requeue still to complete ends only then,
R460. -/
def State.endBand (s : State) (t : ThreadRef) : State :=
  match s.crewOf t.crew, s.thread t with
  | some cw, some b =>
    if b.requeue ≠ 0 then s.setThread t { b with pending := none, x := { b.x with phase := .ending } }
    else
      let s1 := (b.pends.filterMap fun p => p.csr).foldl (fun (s : State) w => s.performCsr t.crew w) s
      ((s1.setThread t b.ended).tasksEnd t).barNudge t.die cw.cfg.handle
  | _, _ => s

/-- A band ends once no lane is left and its region is committed, R331, unless a requeue has still to complete, R460. -/
def State.endIfEmpty (s : State) (t : ThreadRef) : State :=
  match s.thread t with
  | some b =>
    if !b.running || !b.alive.isEmpty then s
    else if b.requeue = 0 && b.committed then s.endBand t
    else s.setThread t { b with x := { b.x with phase := .ending } }
  | none => s

/-- Lanes exit: those that run a task end it, R138. -/
def State.exitLanes (s : State) (t : ThreadRef) (m : BitVec 64) : State :=
  ((s.updThread t fun b => b.exitLanes m).tasksEnd t).endIfEmpty t

/-- Key of a band whose slot another has taken while accesses of it were still to be acknowledged: slot k and a multiple of
this number. -/
def lateBand : Nat := 4096

/-- Such a band is forgotten with its last acknowledgement. -/
def State.dropLate (s : State) (t : ThreadRef) : State :=
  match t.band, s.thread t with
  | some k, some b => if lateBand ≤ k && b.accs.isEmpty && b.waits.isEmpty then
      s.updCrew t.crew fun cw => { cw with bands := cw.bands.erase k } else s
  | _, _ => s

/-- What an acknowledgement may complete: the ends of tasks and of the band. -/
def State.settleEnd (s : State) (t : ThreadRef) : State := ((s.tasksEnd t).endIfEmpty t).dropLate t

/-- A band is killed: every lane exits, the crew counts in `INTR` once, and barriers that wait on it break, R123, R124
and R272. -/
def State.killBand (s : State) (t : ThreadRef) : State :=
  match s.crewOf t.crew, s.thread t with
  | some cw, some b =>
    let s1 := s.breakBarriers t.die cw
    let s2 := s1.updCrew t.crew fun w => { w with ctl := { w.ctl with killed := true } }
    let s3 := if cw.ctl.killed then s2 else s2.updOwner cw.cfg.handle fun o => { o with intr := o.intr + 1 }
    (s3.setThread t (b.exitForGood (BitVec.allOnes 64))).endBand t
  | _, _ => s

/-! ## Waits -/

/-- A wait ends, and its flag clears. -/
def Band.dropWait (b : Band) (id : Nat) : Band :=
  match b.waits.find? fun w => w.id == id with
  | some w => Band.flagDown { b with waits := b.waits.filter fun x => x.id != id } w.flag
  | none => b

/-- A front context ends: loops close, and it issues nothing more, R348. -/
def State.endFront (s : State) (r : CrewRef) : State :=
  s.updCrew r fun cw => { cw with front := cw.front.map fun f => { f with ended := true, loops := [] } }

/-! ## Taking a trap -/

/-- The lane context of a lane of a band, by which its slice is found, R156. -/
def Crew.laneCtx (cw : Crew) (band lane : Nat) : Nat := cw.cfg.laneBase + band * cw.cfg.width + lane

def Crew.sliceKey (cw : Crew) (t : ThreadRef) (lane off : Nat) : Nat :=
  laneKey t.die t.core (cw.laneCtx (t.band.getD 0) lane) off

/-- `DETAIL` of an event for a trap of a band, Table 11.10. -/
def trapDetail (fpc info lanes core band kind first second : Nat) : List Byte :=
  leBytes 8 fpc ++ leBytes 8 info ++ leBytes 8 lanes ++ leBytes 2 core ++ leBytes 2 band
    ++ [BitVec.ofNat 8 kind, BitVec.ofNat 8 first, BitVec.ofNat 8 second]

/-- The event of a killed or unhandled trap, R275. -/
def State.trapEvent (s : State) (t : ThreadRef) (h : Handle) (cause fpc info lanes kind : Nat) : State :=
  s.report t.die false (some (handleCtx h)) cause h (trapDetail fpc info lanes t.core (t.band.getD 0) kind 0 0)

/-- Double trap, R274: the band is killed and an event with cause 16 is posted. -/
def State.doubleTrap (s : State) (t : ThreadRef) (h : Handle) (fpc info lanes kind first second : Nat) : State :=
  ((s.report t.die false (some (handleCtx h)) 16 h
    (trapDetail fpc info lanes t.core (t.band.getD 0) kind first second)).countCause t.die h 16).killBand t

/-- A register-writing instruction of the band has not completed, R269: a result that goes to a register or a latch, an access that
returns a value to one, a `JQRY`. -/
def Band.writersOut (b : Band) : Bool :=
  (b.pends.any fun p => !p.writes.isEmpty || p.latch.isSome || p.status != 0) || (b.accs.any fun a => !a.keys.isEmpty) ||
    b.waits.any fun w => !w.keys.isEmpty

/-- The save area of a lane but for `RES`, Table 11.2: bytes 128 to 191. DEDUCED, log 47. -/
def Band.saveBytes (b : Band) (lane : Nat) (srcs : List W128) : List Byte :=
  leBytes 16 (srcs.getD 0 0).toNat ++ leBytes 16 (srcs.getD 1 0).toNat ++ leBytes 16 (srcs.getD 2 0).toNat
    ++ [BitVec.ofNat 8 (b.count lane), if b.gone lane then 1 else 0]
    ++ leBytes 2 ((List.range 8).foldl (fun n k => n + 4 ^ k * (b.r.getKey (predKey lane k)).toNat) 0)
    ++ List.replicate 12 0

/-- DEDUCED, log 47. -/
def State.saveLanes (s : State) (cw : Crew) (t : ThreadRef) (b : Band) (srcs : List (Nat × List W128)) : State :=
  b.alive.foldl (fun s l =>
    s.writeKey (cw.sliceKey t l 128) (b.saveBytes l (match srcs.find? fun x => x.1 == l with | some x => x.2 | none => []))) s

/-- What the vector table answers for a cause, R268. -/
inductive Vector where
  | none
  | handler (pc : Nat)
  | failed (kind : Nat)
deriving DecidableEq, Repr

def State.vector (s : State) (ctx : B6) (trapVec cause : Nat) : Vector :=
  if trapVec = 0 then .none
  else match s.devRead ctx attrR (trapVec + 8 * cause) 8 with
    | .error (.perm _) => .failed 1
    | .error _ => .failed 2
    | .ok bs =>
      let w := leNat bs
      if w = 0 ∨ 2 ^ 48 ≤ w ∨ w % 8 ≠ 0 then .none
      else match s.attrAt ctx w with
        | some a => if attrX a then .handler w else .failed 3
        | none => .handler w

/-- The trap registers written at entry, Table 11.3. -/
def TrapRegs.enter (r : TrapRegs) (p : PendTrap) (exec : BitVec 64) : TrapRegs :=
  { r with cause := BitVec.ofNat 8 p.cause, pc := p.restart, fpc := p.fpc, insn0 := p.insn0, insn1 := p.insn1,
           annex := p.annex, decode := p.decode, lanes := p.lanes, exec := exec, info := p.info, wstat := 0 }

/-- The band as it enters the handler: latches lost, trap registers written, faulting lanes at 0 and the others at 1,
TRAP privilege, R269 steps 2 and 4 to 6. -/
def Band.enterHandler (b : Band) (p : PendTrap) (pc : Nat) : Band :=
  let b1 := b.loseLatches
  let b2 := b1.setCounts fun l => if p.lanes.getLsbD l then 0 else 1
  { b2 with trap := b.trap.enter p b.exec, pending := none, trapPriv := true, handlerAt := BitVec.ofNat 48 pc,
            handlerSnap := b2.r, entryNest := b.r.nest, cancelTrap := p.cause == 12, bpSkip := if p.cause = 13 then none else b.bpSkip,
            x := { b2.x with pc := BitVec.ofNat 48 pc, chain := none, phase := .fresh, lastSp := false } }

/-- The trap that has been accepted is entered, R269; the bound of a cancel handler counts from here, R123. A breakpoint without a handler is ignored: execution goes on after a
`BKPT`, or at the matched instruction, whose raising has set `bpSkip`. -/
def State.enterTrap (s : State) (t : ThreadRef) : State :=
  match s.crewOf t.crew, s.thread t with
  | some cw, some b =>
    match b.pending with
    | none => s
    | some p =>
      let h := cw.cfg.handle
      let s1 := s.countCause t.die h p.cause
      match s.vector (handleCtx h) cw.cfg.trapVec p.cause with
      | .handler pc =>
        let b1 := b.enterHandler p pc
        (s1.saveLanes cw t b p.srcs).setThread t (if p.cause = 12 then { b1 with stopReq := some (s.cyc t.die) } else b1)
      | .none =>
        if p.cause = 13 then
          if b.bpSkip = some p.fpc then s.setThread t { b with pending := none }
          else s.setThread t { b with pending := none, x := { b.x with
            pc := b.x.pc + (if p.insn0.getLsbD 2 then 16 else 8), lastSp := p.insn0.getLsbD 2, lastAnnex := p.annex } }
        else (s1.trapEvent t h p.cause p.fpc.toNat p.info.toNat p.lanes.toNat 0).killBand t
      | .failed k => s1.doubleTrap t h p.fpc.toNat p.info.toNat p.lanes.toNat k p.cause 7
  | _, _ => s

/-- A front context's fault, R276: it stops, an event is posted, the crew's bands are killed. -/
def State.frontFault (s : State) (t : ThreadRef) (p : PendTrap) : State :=
  match s.crewOf t.crew with
  | some cw =>
    let h := cw.cfg.handle
    let detail := leBytes 8 p.fpc.toNat ++ leBytes 8 p.insn0.toNat ++ leBytes 8 p.insn1.toNat ++ leBytes 8 p.info.toNat
      ++ leBytes 2 t.core
    let s1 := (s.report t.die false (some (handleCtx h)) p.cause h detail).countCause t.die h p.cause
    let s2 := cw.bands.foldl (fun s b => if b.2.running then s.killBand (t.crew.band b.1) else s) s1
    let s3 := match s2.crewOf t.crew with
      | some w =>
        if w.ctl.killed then s2
        else (s2.setCrew t.crew { w with ctl := { w.ctl with killed := true } }).updOwner h
          fun o => { o with intr := o.intr + 1 }
      | none => s2
    s3.endFront t.crew
  | none => s

/-- Takes a trap: the ONE way in. A front context stops; a band at TRAP privilege takes a double trap; any other band
accepts the trap, and enters it as soon as every earlier instruction that writes a register has completed. -/
def State.takeTrap (s : State) (t : ThreadRef) (p : PendTrap) : State :=
  match t.band with
  | none => s.frontFault t p
  | some _ =>
    match s.crewOf t.crew, s.thread t with
    | some cw, some b =>
      if b.trapPriv then
        (s.countCause t.die cw.cfg.handle p.cause).doubleTrap t cw.cfg.handle b.trap.fpc.toNat b.trap.info.toNat
          b.trap.lanes.toNat 0 b.trap.cause.toNat p.cause
      else
        let s1 := s.setThread t { b with pending := some p }
        if b.writersOut then s1 else s1.enterTrap t
    | _, _ => s

/-! ## Leaving the handler, R272 and R273 -/

/-- Counters, exited bits and predicates as the save areas of the lanes saved at entry hold them. -/
def State.restoreLanes (s : State) (cw : Crew) (t : ThreadRef) (b : Band) : Band :=
  ((List.range b.width).filter fun l => !b.handlerSnap.exited.getLsbD l).foldl (fun (b : Band) l =>
    let bs := s.readKey (cw.sliceKey t l 176) 4
    let preds := leNat (bs.drop 2)
    let b1 := b.setCount l (bs.getD 0 0).toNat
    let one := 1#64 <<< l
    let ex := if (bs.getD 1 0).getLsbD 0 then b1.r.exited ||| one else b1.r.exited &&& ~~~one
    let r := { b1.r with exited := ex }
    { b1 with r := (List.range 8).foldl (fun (r : BandRegs) k =>
        r.putKey (predKey l k) (BitVec.ofNat 64 (preds / 4 ^ k % 4))) r }) b

/-- The bytes of a destination register that WRITE_SKIP fills, by the instruction's destination width. -/
def State.writeSkip (s : State) (cw : Crew) (t : ThreadRef) (b : Band) (bytes : Nat) : Band :=
  let desc := field b.trap.decode.toNat 48 16
  let kind := desc / 2 ^ 12
  let num := desc % 2 ^ 12
  let lanes := (lanesOf b.trap.lanes).filter b.active
  if kind = 0 then
    if cw.cfg.regs ≤ num then b
    else lanes.foldl (fun b l =>
      let res := s.readKey (cw.sliceKey t l 112) bytes
      { b with r := (List.range (bytes / 4)).foldl (fun r i =>
          r.putKey (slotKey l (num + i)) (BitVec.ofNat 64 (leNat ((res.drop (4 * i)).take 4)))) b.r }) b
  else if kind = 6 then
    lanes.foldl (fun b l =>
      let res := s.readKey (cw.sliceKey t l 112) 1
      { b with r := b.r.putKey (predKey l num) (BitVec.ofNat 64 ((res.headD 0).toNat % 4)) }) b
  else if kind = 4 then
    match lanes.head? with
    | some l => { b with r := b.r.putKey (uniKey num) (BitVec.ofNat 64 (leNat (s.readKey (cw.sliceKey t l 112) 8))) }
    | none => b
  else b

end Sys2Proof.Machine
end

