-- ==== Sys2Proof/Machine/Blocks.lean ====
section
/-!
DEFINITION. Save blocks: what Table 11.9 puts into each section, the layout of the sections, the reading of a thread back from its
section, and the completions that reach a crew, be it resident or saved: R281 to R283 and R414. DESIGN CHOICE, log 15.
-/
namespace Sys2Proof.Machine

def bit (b : Bool) (n : Nat) : Nat := if b then 2 ^ n else 0

/-! ## The trap registers by number, Table 11.3 -/

/-- What a trap register reads as. -/
def TrapRegs.read (t : TrapRegs) (n : Nat) : W64 :=
  match n with
  | 0x004 => BitVec.ofNat 64 t.cause.toNat
  | 0x010 => BitVec.ofNat 64 t.pc.toNat | 0x011 => BitVec.ofNat 64 t.fpc.toNat | 0x012 => t.insn0 | 0x013 => t.insn1
  | 0x014 => t.annex | 0x015 => t.decode | 0x016 => t.lanes | 0x017 => t.exec | 0x018 => t.info
  | 0x019 => BitVec.ofNat 64 t.wstat.toNat
  | 0x01A => t.scr.getD 0 0 | 0x01B => t.scr.getD 1 0 | 0x01C => t.scr.getD 2 0 | 0x01D => t.scr.getD 3 0
  | 0x01E => BitVec.ofNat 64 (bit (t.bpEn.getD 0 false) 48 + (t.bpPc.getD 0 0).toNat)
  | 0x01F => BitVec.ofNat 64 (bit (t.bpEn.getD 1 false) 48 + (t.bpPc.getD 1 0).toNat)
  | 0x020 => BitVec.ofNat 64 (bit t.rsvdw 0)
  | _ => 0

/-- The trap registers in the order in which a block holds them. -/
def trapNums : List Nat := 0x004 :: (List.range 17).map fun i => 0x010 + i

/-- The trap registers from what each reads as. -/
def TrapRegs.ofWords (w : Nat → W64) : TrapRegs :=
  { cause := (w 0x004).setWidth 8, pc := (w 0x010).setWidth 48, fpc := (w 0x011).setWidth 48, insn0 := w 0x012, insn1 := w 0x013,
    annex := w 0x014, decode := w 0x015, lanes := w 0x016, exec := w 0x017, info := w 0x018, wstat := (w 0x019).setWidth 6,
    scr := [w 0x01A, w 0x01B, w 0x01C, w 0x01D], bpEn := [(w 0x01E).getLsbD 48, (w 0x01F).getLsbD 48],
    bpPc := [(w 0x01E).setWidth 48, (w 0x01F).setWidth 48], rsvdw := (w 0x020).getLsbD 0 }

/-! ## The sections: Table 11.9 -/

/-- Bytes that the spec gives no content. -/
def freeBytes (free n : Nat) : List Byte := (List.range n).map fun i => Config.freeByte (free + i)

/-- Fields of a section: where each lies, and its bytes. -/
abbrev Fields := List (Nat × List Byte)

/-- The sizes of the sections, in their order. -/
def CrewCfg.sections (c : CrewCfg) : List Nat :=
  [256, 1024, c.bands * 1024, c.bands * (c.width * c.regs * 4), c.bands * (c.width * 256), 576, c.scrKB * 1056, c.clusKB * 1056,
   c.poolN * 64 + 256, 8192, c.caddy * 8 + 4096, 256]

/-- Where a section begins: 0 the header, 1 the front context, 2 band state, 3 registers, 4 lane slices, 5 the decision queue,
6 the core scratchpad, 7 the cluster contribution, 8 the Hatbox window, 9 the copy channels, 10 the Infuser, 11 the warning log. -/
def CrewCfg.sectionAt (c : CrewCfg) (k : Nat) : Nat := (c.sections.take k).sum

/-- Bytes of a crew's block. -/
def CrewCfg.blockBytes (c : CrewCfg) : Nat := c.sections.sum

/-- Whole pages of 64 KiB. -/
def CrewCfg.blockPages (c : CrewCfg) : Nat := (c.blockBytes + 65535) / 65536

/-- A section of some bytes with these fields; the rest is free. -/
def layFields (n free : Nat) (fs : Fields) : List Byte :=
  fs.foldl (fun (bs : List Byte) f => bs.take f.1 ++ f.2 ++ bs.drop (f.1 + f.2.length)) (freeBytes free n)

def word8 (off : Nat) (v : Nat) : Nat × List Byte := (off, leBytes 8 v)

/-- What the section of a thread holds of it: `unis` uniform registers, and a word for each lane: its counter, its predicates by
two bits each, and whether it has exited. -/
def Band.fields (b : Band) (unis : Nat) : Fields :=
  let park := b.parked.getD { ctx := 0, page := 0, va := 0 }
  let lane := fun (l : Nat) => b.count l + 2 ^ 24 * bit (b.r.exited.getLsbD l) 0 +
    2 ^ 8 * ((List.range 8).map fun k => 4 ^ k * triNum (b.r.preds.get .f (8 * l + k))).sum
  [word8 0 b.x.pc.toNat, word8 8 b.region.restart.toNat, word8 16 b.exec.toNat] ++
    (List.range 12).map (fun f => (24 + 2 * f, leBytes 2 (b.flags.get 0 f))) ++
    [(48, [b.r.ix0]), (49, [b.r.ix1]), (50, [b.r.status.setWidth 8]), (51, leBytes 1 (bit b.trapPriv 0)),
     (52, leBytes 1 (bit b.parked.isSome 0)), word8 56 b.dqPos, word8 64 b.x.lastAnnex.toNat, word8 72 park.page, word8 80 park.va,
     word8 88 park.ctx.toNat] ++
    (List.range unis).map (fun k => word8 (96 + 8 * k) (b.r.uni.get 0 k).toNat) ++
    ((List.range 18).zip trapNums).map (fun x => word8 (96 + 8 * unis + 8 * x.1) (b.trap.read x.2).toNat) ++
    (List.range b.width).map fun l => (240 + 8 * unis + 4 * l, leBytes 4 (lane l))

/-- A thread that is saved, as its section has it; a parked one stands at its restart point. -/
def Band.ofSection (b : Band) (unis : Nat) (bs : List Byte) : Band :=
  let n := fun (off k : Nat) => fld bs off k
  let pcAt := fun (off : Nat) => BitVec.ofNat 48 (n off 8 / 4 * 4)
  let lane := fun (l : Nat) => n (240 + 8 * unis + 4 * l) 4
  let lanes := List.range b.width
  let parked := if n 52 1 = 0 then none else some { ctx := BitVec.ofNat 6 (n 88 8), page := n 72 8, va := n 80 8 : ParkInfo }
  let priv := n 51 1 % 2 == 1
  let trapWord := fun (k : Nat) => BitVec.ofNat 64 (n (96 + 8 * unis + 8 * (trapNums.idxOf k)) 8)
  let exited := maskOf 64 fun l => if l < b.width then (lane l).testBit 24 else b.r.exited.getLsbD l
  { b with
    r := { b.r with
      uni := (List.range unis).filterMap fun k => let v := n (96 + 8 * k) 8; if v = 0 then none else some (k, BitVec.ofNat 64 v),
      ix0 := BitVec.ofNat 8 (n 48 1), ix1 := BitVec.ofNat 8 (n 49 1), status := BitVec.ofNat 6 (n 50 1), exited := exited,
      nest := lanes.map fun l => (l, BitVec.ofNat 8 (lane l)),
      preds := lanes.flatMap fun l => (List.range 8).map fun k => (8 * l + k, triOf (lane l / 2 ^ 8 / 4 ^ k % 4)) },
    x := { b.x with pc := if parked.isSome && !priv then pcAt 8 else pcAt 0, lastAnnex := BitVec.ofNat 64 (n 64 8) },
    region := { b.region with restart := pcAt 8 },
    flags := (List.range 12).map fun f => (f, n (24 + 2 * f) 2),
    trapPriv := priv, parked := parked, dqPos := n 56 8, trap := TrapRegs.ofWords trapWord }

/-- The loops of a front context, behind its thread. -/
def Front.fields (f : Front) : Fields :=
  let loop := fun (k : Nat) => f.loops.getD k { left := 0, count := 0, first := 0, last := 0, again := false }
  f.th.fields 64 ++ [word8 760 f.loops.length] ++ (List.range 2).flatMap fun k =>
    [word8 (768 + 32 * k) (loop k).left, word8 (776 + 32 * k) (loop k).count, word8 (784 + 32 * k) (loop k).first.toNat,
     word8 (792 + 32 * k) ((loop k).last.toNat + if (loop k).again then 2 ^ 48 else 0)]

def Front.ofSection (f : Front) (bs : List Byte) : Front :=
  let n := fun (off : Nat) => fld bs off 8
  { f with
    th := f.th.ofSection 64 bs,
    loops := (List.range (min 2 (n 760))).map fun k =>
      { left := n (768 + 32 * k), count := n (776 + 32 * k), first := BitVec.ofNat 48 (n (784 + 32 * k)),
        last := BitVec.ofNat 48 (n (792 + 32 * k)), again := 2 ^ 48 ≤ n (792 + 32 * k) } }

/-- What the section of a command of a channel holds: the operation, the issuer, its flag, status and state, the command and what
it has read of its operands, the elements delivered; the arrival counter is named in the command word. -/
def CopyCmd.fields (k : CopyCmd) (flag : Option Nat) : Fields :=
  let op := match k.op with | .cpy => 1 | .cpyg => 2 | .cpys => 3 | .cpyAdd => 4 | .qfence _ => 5
  let mask := match k.op with | .qfence m => m | _ => 0
  let st := match k.st with | .queued => 0 | .running => 1 | .parked _ => 2
  let va := match k.st with | .parked va => va | _ => 0
  [(0, leBytes 8 (op + 2 ^ 8 * k.thread.band.getD 255 + 2 ^ 16 * flag.getD 255 + 2 ^ 24 * k.status.toNat + 2 ^ 32 * st + 2 ^ 40 * mask)),
   word8 8 k.cmd.toNat, word8 16 k.recAddr.toNat, word8 24 k.dense.toNat, word8 32 k.idxOff, word8 40 k.pos, word8 48 k.pc.toNat,
   word8 56 va] ++ (List.range 5).map fun i => word8 (64 + 8 * i) (k.origin.getD i 0)

/-- A command as its section has it. -/
def CopyCmd.ofSection (k : CopyCmd) (bs : List Byte) : CopyCmd :=
  let n := fun (off : Nat) => fld bs off 8
  { k with
    cmd := BitVec.ofNat 64 (n 8), recAddr := BitVec.ofNat 64 (n 16), dense := BitVec.ofNat 64 (n 24), idxOff := n 32, pos := n 40,
    pc := BitVec.ofNat 48 (n 48), status := BitVec.ofNat 6 (fld bs 3 1), origin := (List.range 5).map fun i => n (64 + 8 * i),
    st := if fld bs 4 1 = 1 then .running else if fld bs 4 1 = 2 then .parked (n 56) else .queued }

/-- Moves fields to where their section begins. -/
def Fields.from_ (at_ : Nat) (fs : Fields) : Fields := fs.map fun f => (at_ + f.1, f.2)

/-- Where a band's state, and where a command, lies in its block. -/
def CrewCfg.bandAt (c : CrewCfg) (b : Nat) : Nat := c.sectionAt 2 + 1024 * b
def CrewCfg.copyAt (c : CrewCfg) (ch i : Nat) : Nat := c.sectionAt 9 + 2048 * ch + 128 * i

/-- The bands that have a section. -/
def SavedCrew.bandsIn (sv : SavedCrew) : Tbl Band := sv.crew.bands.filter fun b => decide (b.1 < sv.crew.cfg.bands)

/-- The commands of the channels: channel, place, command. -/
def SavedCrew.commands (sv : SavedCrew) : List (Nat × Nat × CopyCmd) :=
  ((List.range 4).zip sv.copy).flatMap fun q => ((List.range 16).zip q.2).map fun x => (q.1, x.1, x.2)

/-- The flag that an operation of a saved crew holds. -/
def Crew.flagOf (cw : Crew) (t : ThreadRef) (id : Nat) : Option Nat :=
  match cw.thread t.band with
  | some b => (b.waits.find? fun w => w.id == id).bind fun w => w.flag
  | none => none

/-- The fields of a block that a completion or a signal can change. -/
def SavedCrew.fields (sv : SavedCrew) : Fields :=
  let c := sv.crew.cfg
  (match sv.crew.front with | some f => Fields.from_ (c.sectionAt 1) f.fields | none => []) ++
    sv.bandsIn.flatMap (fun b => Fields.from_ (c.bandAt b.1) (b.2.fields 32)) ++
    sv.commands.flatMap fun k => Fields.from_ (c.copyAt k.1 k.2.1) (k.2.2.fields (sv.crew.flagOf k.2.2.thread k.2.2.waitId))

/-- Writes fields of a block; one whose page takes no write is left. -/
def State.putFields (s : State) (sv : SavedCrew) (fs : Fields) : State :=
  fs.foldl (fun (s : State) f => match s.devWrite (handleCtx sv.handle) (sv.block + f.1) f.2 with
    | .ok s1 => s1
    | .error _ => s) s

/-- What happens to the saved crews of a die is recorded in their blocks. -/
def State.updSaved (s : State) (d : Nat) (f : SavedCrew → SavedCrew) : State :=
  let changed := (s.dieOf d).savedCrews.filter fun v => f v != v
  let note := fun (s : State) (v : SavedCrew) =>
    s.putFields v (((f v).fields.zip v.fields).filterMap fun x => if x.1 = x.2 then none else some x.1)
  changed.foldl note (s.updDie d fun x => { x with savedCrews := x.savedCrews.map f })

/-! ## Completions -/

/-- Changes the thread that a completion names, be its crew resident or saved, R414. -/
def State.updWaiting (s : State) (t : ThreadRef) (id : Nat) (f : Band → Band) : State :=
  let waits_ := fun (cw : Crew) => match cw.thread t.band with
    | some b => (b.waits.any fun w => w.id == id)
    | none => false
  match s.crewOf t.crew with
  | some cw =>
    if waits_ cw then s.updThread t f else saved s waits_
  | none => saved s waits_
where
  saved (s : State) (waits_ : Crew → Bool) : State :=
    s.updSaved t.die fun x =>
      if x.home == t.crew && waits_ x.crew then
        match x.crew.thread t.band with
        | some b => { x with crew := x.crew.setThread t.band (f b) }
        | none => x
      else x

/-- What a thread waits for has come. -/
def State.waitDone (s : State) (t : ThreadRef) (id : Nat) : State :=
  { s.updWaiting t id fun b => (b.dropWait id).acked s.free id with free := s.free + 65 }.settleEnd t

/-! ## Registers that a save loses -/

/-- The registers of a restart point after a save: one that still holds its value there, among what the save keeps, has it again; any
other is lost, R283. -/
def BandRegs.keptAt (free regs width : Nat) (now old : BandRegs) : BandRegs :=
  let w := fun (k n : Nat) => leNat (freeBytes (free + 8 * k) n)
  let ix := fun (k : Nat) (a b : Byte) => if a = b then b else BitVec.ofNat 8 (w k 1)
  if old = now then old
  else
    { slots := (List.range width).flatMap fun l => (List.range regs).map fun n =>
        let v := old.slots.get 0 (slotKey l n)
        (slotKey l n, if v = now.slots.get 0 (slotKey l n) then v else BitVec.ofNat 32 (w (slotKey l n) 4)),
      preds := (List.range (8 * width)).map fun k =>
        let v := old.preds.get .f k
        (k, if v = now.preds.get .f k then v else triOf (w (2 ^ 14 + k) 1 % 3)),
      uni := (List.range 64).map fun k =>
        let v := old.uni.get 0 k
        (k, if v = now.uni.get 0 k then v else BitVec.ofNat 64 (w (2 ^ 14 + 512 + k) 8)),
      ix0 := ix (2 ^ 14 + 576) now.ix0 old.ix0, ix1 := ix (2 ^ 14 + 577) now.ix1 old.ix1,
      nest := (List.range width).map fun l => (l, ix (2 ^ 14 + 580 + l) (now.nest.get 0 l) (old.nest.get 0 l)),
      exited := old.exited,
      status := if old.status = now.status then old.status else BitVec.ofNat 6 (w (2 ^ 14 + 578) 1) }

end Sys2Proof.Machine
end

