-- ==== Sys2Proof/Decode.lean ====
section
/-!
DEFINITION. The decoder, total on any bytes, and the encoder written from the same tables.
-/
namespace Sys2Proof

/-! ## From the fields of an encoding to an instruction and back -/

/-- The fields of an accepted encoding, with operands read under Table 12.3. -/
def Code.ofRaw (r : Raw) (fm : Form) : Code :=
  let e := extOf r.opc.toNat fm r.second
  { dist := r.dist, wait := r.wait, setf := r.setf, gpred := r.gpred, gmode := r.gmode, nw := r.nw,
    dst := (Opnd.ofBits r.dst).getD .zero, srca := (Opnd.ofBits r.srca).getD .zero,
    srcb := (Opnd.ofBits r.srcb).getD .zero, srcc := (Opnd.ofBits e.srcc).getD .zero,
    form := fm, mods := e.mods, xlane := e.xlane, hold := e.hold, rmode := e.rmode, type := e.type,
    payload := payloadOf r.opc.toNat fm r.second, annex := r.annex }

/-- The extension word of the fields of an instruction. -/
def Code.ext (c : Code) : Ext :=
  { mods := c.mods, xlane := c.xlane, hold := c.hold, rmode := c.rmode, type := c.type, srcc := c.srcc.bits }

/-- What follows the base word, by form, Table 12.4. -/
def Code.second (opc : Nat) (c : Code) : W64 :=
  match c.form with
  | .a => 0
  | .b => if opc = 0 then c.payload else BitVec.ofNat 64 c.ext.toNat
  | .d => BitVec.ofNat 64 (c.ext.toNat + 2 ^ 32 * c.payload.toNat)
  | _ => c.payload

/-- The fields as they are laid out in memory. -/
def Code.toRaw (opc : Nat) (c : Code) : Raw :=
  { opc := BitVec.ofNat 8 opc, len := c.form.len, dist := c.dist, wait := c.wait, setf := c.setf, gpred := c.gpred,
    gmode := c.gmode, nw := c.nw, dst := c.dst.bits, srca := c.srca.bits, srcb := c.srcb.bits,
    second := c.second opc, annex := c.annex }

/-- The control-register number of a decoded `CSRR` or `CSRW`, R349. -/
def Code.csr (c : Code) : Nat := csrNum c.ext

/-- The instruction of an opcode: where several mnemonics share a code, `MODS`, a constant or the control-register
number selects among them, R302. -/
def mkInstr (opc : Nat) (c : Code) : Option Instr :=
  match opc with
  | 0x00 => some (.nop c)
  | 0x01 => some (.iadd c)
  | 0x02 => some (.isub c)
  | 0x03 => some (.iadds c)
  | 0x04 => some (.isubs c)
  | 0x05 => some (.imul c)
  | 0x06 => some (.imulh c)
  | 0x07 => some (.imad c)
  | 0x08 => some (.imulq c)
  | 0x09 => some (.iabs c)
  | 0x0A => some (.imin c)
  | 0x0B => some (.imax c)
  | 0x0C => some (.ineg c)
  | 0x0D => some (.ishl c)
  | 0x0E => some (.ishr c)
  | 0x0F => some (.ishra c)
  | 0x10 => some (.andb c)
  | 0x11 => some (.orb c)
  | 0x12 => some (.xorb c)
  | 0x13 => some (.notb c)
  | 0x14 => some (.andn c)
  | 0x15 => some (.bsel c)
  | 0x16 => some (.popc c)
  | 0x17 => some (.clz c)
  | 0x18 => some (.ctz c)
  | 0x19 => some (.brev c)
  | 0x1A => some (.bfx c)
  | 0x1B => some (.bfi c)
  | 0x1C => some (.isetp c)
  | 0x1D => some (.mov c)
  | 0x1E => some (.movi c)
  | 0x1F => some (.sel c)
  | 0x20 => some (.cvti c)
  | 0x21 => some (.lea c)
  | 0x22 => some (.setix c)
  | 0x40 => some (.bra c)
  | 0x41 => some (.brx c)
  | 0x42 => some (.call c)
  | 0x43 => some (.ret c)
  | 0x44 => some (.exit c)
  | 0x45 => some (.ifb c)
  | 0x46 => some (.elseb c)
  | 0x47 => some (.endif c)
  | 0x48 => some (.if3 c)
  | 0x49 => some (.elsef c)
  | 0x4A => some (.elseu c)
  | 0x4B => some (.endif3 c)
  | 0x4C => some (.loopb c)
  | 0x4D => some (.brk c)
  | 0x4E => some (.cont c)
  | 0x4F => some (.endloop c)
  | 0x50 => some (.mrg c)
  | 0x51 => some (.rgn c)
  | 0x52 => some (.pand c)
  | 0x53 => some (.por c)
  | 0x54 => some (.pxor c)
  | 0x55 => some (.pnot c)
  | 0x56 => some (.pdec c)
  | 0x57 => some (.pmov c)
  | 0x58 => some (.dqpop c)
  | 0x59 => some (.dqbr c)
  | 0x60 => some (.shfl c)
  | 0x61 => some (.vote c)
  | 0x62 => some (.redi c)
  | 0x63 => some (.scani c)
  | 0x64 => some (.rdlane c)
  | 0x65 => some (.wrlane c)
  | 0x70 => some (.sop c)
  | 0x71 => some (.smovi c)
  | 0x72 => some (.sbr c)
  | 0x73 => some (.floop c)
  | 0x74 => some (.dqpush c)
  | 0x75 => some (.fend c)
  | 0x80 => some (.fadd c)
  | 0x81 => some (.fsub c)
  | 0x82 => some (.fmul c)
  | 0x83 => some (.ffma c)
  | 0x84 => some (.fsqr c)
  | 0x85 => some (.fhull c)
  | 0x86 => some (.fisect c)
  | 0x87 => some (.flb c)
  | 0x88 => some (.fub c)
  | 0x89 => some (.fmid c)
  | 0x8A => some (.frad c)
  | 0x8B => some (.fwid c)
  | 0x8C => some (.fmag c)
  | 0x8D => some (.fmig c)
  | 0x8E => some (.fmk c)
  | 0x8F => some (.fbis c)
  | 0x90 => some (.fcmp c)
  | 0x91 => some (.fneg c)
  | 0x92 => some (.fabs c)
  | 0x93 => some (.fmin c)
  | 0x94 => some (.fmax c)
  | 0xA0 => some (.fdiv c)
  | 0xA1 => some (.fdivp c)
  | 0xA2 => some (.fsqrt c)
  | 0xA3 => some (.frcp c)
  | 0xA4 => some (.frsqrt c)
  | 0xA5 => some (.fexp2 c)
  | 0xA6 => some (.flog2 c)
  | 0xA7 => some (.fsinpi c)
  | 0xA8 => some (.fcospi c)
  | 0xA9 => some (.ftanh c)
  | 0xAA => some (.fpown c)
  | 0xAB => some (.fcvt c)
  | 0xAC => some (.fcoll c)
  | 0xAD => some (.fq8 c)
  | 0xB0 => some (.ld c)
  | 0xB1 => some (.st c)
  | 0xB2 => some (.atom c)
  | 0xB3 => some (.cas c)
  | 0xB4 => some (.atomFadd c)
  | 0xB5 => some (.atomFmaxa c)
  | 0xB6 => some (.amaxswap c)
  | 0xB8 => some (.bar c)
  | 0xB9 => some (.arrive c)
  | 0xBA => some (.await c)
  | 0xBB => some (.rmcast c)
  | 0xBC => some (.rred c)
  | 0xD0 => some (.cpy c)
  | 0xD1 => some (.cpyg c)
  | 0xD2 => some (.cpys c)
  | 0xD3 => some (.cpyAdd c)
  | 0xD4 => some (.qfence c)
  | 0xE0 => some (.emit c)
  | 0xE1 => some (.split c)
  | 0xE2 => some (.tend c)
  | 0xE3 => some (.enq c)
  | 0xE4 => some (.enqA c)
  | 0xE5 => some (.launch c)
  | 0xE6 => some (.gcancel c)
  | 0xE7 => some (.gstatus c)
  | 0xF0 => some (.jpass c)
  | 0xF1 => some (.jbit c)
  | 0xF2 => some (.jstream c)
  | 0xF3 => some (.jbatch c)
  | 0xF4 => some (.jwait c)
  | 0xF5 => some (.jdrain c)
  | 0xF8 => some (.csrr c)
  | 0xFA => some (.bkpt c)
  | 0xFB => some (.strap c)
  | 0xB7 => if c.srca.bits.toNat / 8 = 3 then some (.fenceDrain c) else some (.fence c)
  | 0xF6 => if c.mods.toNat % 4 = 0 then some (.jcfg c) else if c.mods.toNat % 4 = 1 then some (.jclr c) else some (.jqry c)
  | 0xF7 => if c.mods.toNat % 2 = 0 then some (.jsave c) else some (.jload c)
  | 0xF9 => if c.csr = 0 then some (.execWrite c) else if c.csr = 1 then some (.nestWrite c)
            else if c.csr = 0x060 then some (.crewMergeWrite c) else some (.csrw c)
  | 0xFC =>
    match c.srca.bits.toNat with
    | 0 => some (.tretResume c)
    | 1 => some (.tretSkip c)
    | 2 => some (.tretWriteSkip c)
    | 3 => some (.tretRetryRegion c)
    | 4 => some (.tretKillLanes c)
    | _ => some (.tretKillBand c)
  | _ => none

/-- The opcode and the fields of an instruction; none for an event, which has no encoding. -/
def Instr.code : Instr → Option (Nat × Code)
  | .powerOn .. => none
  | .bootCtlCold .. => none
  | .bootCtlWarm .. => none
  | .startStepTimeout .. => none
  | .claim .. => none
  | .claimWindowClose .. => none
  | .handoverRelease .. => none
  | .handoverAccept .. => none
  | .handoverTimeout .. => none
  | .attestationRequest .. => none
  | .attestationReportDone .. => none
  | .attestationDoneWrite .. => none
  | .mgmtRegisterRead .. => none
  | .mgmtRegisterWrite .. => none
  | .mgmtBlockWrite .. => none
  | .firmwareStage .. => none
  | .firmwareCommit .. => none
  | .crread .. => none
  | .crwrite .. => none
  | .crreply .. => none
  | .controlRegisterWrite .. => none
  | .create .. => none
  | .destroy .. => none
  | .ctxUnparkAll .. => none
  | .ctxPreemptWrite .. => none
  | .ctxResumeWrite .. => none
  | .dispCancelWrite .. => none
  | .ctxDiescrWrite .. => none
  | .linkCtlRetrain .. => none
  | .linkCtlClrcnt .. => none
  | .timeCtlApply .. => none
  | .opcapWrite .. => none
  | .pwrPkgcapWrite .. => none
  | .opPointChangeDone .. => none
  | .powerWindow .. => none
  | .thermalSample .. => none
  | .passengerFatalError .. => none
  | .evqHeadWrite .. => none
  | .evqLogackWrite .. => none
  | .flitCloseTimeout .. => none
  | .dataFlitReceive .. => none
  | .controlFlitReceive .. => none
  | .ackTimeout .. => none
  | .replayTimeout .. => none
  | .nakRepeat .. => none
  | .retrainDone .. => none
  | .retrainFailed .. => none
  | .podPacketArrival .. => none
  | .read .. => none
  | .write .. => none
  | .atomic .. => none
  | .coll .. => none
  | .collres .. => none
  | .data .. => none
  | .ack .. => none
  | .old .. => none
  | .deferredFault .. => none
  | .permreq .. => none
  | .permreply .. => none
  | .palLeaseExpiry .. => none
  | .ready .. => none
  | .unpark .. => none
  | .map .. => none
  | .unmap .. => none
  | .unmapWaitExpiry .. => none
  | .setp .. => none
  | .launchTokenWrite .. => none
  | .tokenTake .. => none
  | .token .. => none
  | .tokenForwardTimeout .. => none
  | .notice .. => none
  | .recpart .. => none
  | .podseq .. => none
  | .health .. => none
  | .rangereq .. => none
  | .mirrorack .. => none
  | .range .. => none
  | .retire .. => none
  | .sweep .. => none
  | .sweepreply .. => none
  | .cancel .. => none
  | .barrier .. => none
  | .placementRound .. => none
  | .crewRetire .. => none
  | .bandFormation .. => none
  | .flushAgeExpiry .. => none
  | .take .. => none
  | .stealRound .. => none
  | .stealRoundWaitExpiry .. => none
  | .stealreq .. => none
  | .grant .. => none
  | .stealrec .. => none
  | .refuse .. => none
  | .stealack .. => none
  | .enqArrival .. => none
  | .enqack .. => none
  | .credit .. => none
  | .bounce .. => none
  | .spillPageReturn .. => none
  | .activeSetReplacement .. => none
  | .mrgWaitExpiry .. => none
  | .multicastWindowClose .. => none
  | .copyCommandStart .. => none
  | .copyCommandComplete .. => none
  | .trapEntry .. => none
  | .spmaxOverrun .. => none
  | .crewSave .. => none
  | .quarterOperation .. => none
  | .bitmapStep .. => none
  | .streamJoin .. => none
  | .drainOperation .. => none
  | .drainComplete .. => none
  | .batchComplete .. => none
  | .execWrite c => some (0xF9, c)
  | .nestWrite c => some (0xF9, c)
  | .crewMergeWrite c => some (0xF9, c)
  | .crewScrchkClrlog .. => none
  | .cpyCtlReset .. => none
  | .cpyCtlClrerr .. => none
  | .nop c => some (0x00, c)
  | .iadd c => some (0x01, c)
  | .isub c => some (0x02, c)
  | .iadds c => some (0x03, c)
  | .isubs c => some (0x04, c)
  | .imul c => some (0x05, c)
  | .imulh c => some (0x06, c)
  | .imad c => some (0x07, c)
  | .imulq c => some (0x08, c)
  | .iabs c => some (0x09, c)
  | .imin c => some (0x0A, c)
  | .imax c => some (0x0B, c)
  | .ineg c => some (0x0C, c)
  | .ishl c => some (0x0D, c)
  | .ishr c => some (0x0E, c)
  | .ishra c => some (0x0F, c)
  | .andb c => some (0x10, c)
  | .orb c => some (0x11, c)
  | .xorb c => some (0x12, c)
  | .notb c => some (0x13, c)
  | .andn c => some (0x14, c)
  | .bsel c => some (0x15, c)
  | .popc c => some (0x16, c)
  | .clz c => some (0x17, c)
  | .ctz c => some (0x18, c)
  | .brev c => some (0x19, c)
  | .bfx c => some (0x1A, c)
  | .bfi c => some (0x1B, c)
  | .isetp c => some (0x1C, c)
  | .mov c => some (0x1D, c)
  | .movi c => some (0x1E, c)
  | .sel c => some (0x1F, c)
  | .cvti c => some (0x20, c)
  | .lea c => some (0x21, c)
  | .setix c => some (0x22, c)
  | .bra c => some (0x40, c)
  | .brx c => some (0x41, c)
  | .call c => some (0x42, c)
  | .ret c => some (0x43, c)
  | .exit c => some (0x44, c)
  | .ifb c => some (0x45, c)
  | .elseb c => some (0x46, c)
  | .endif c => some (0x47, c)
  | .if3 c => some (0x48, c)
  | .elsef c => some (0x49, c)
  | .elseu c => some (0x4A, c)
  | .endif3 c => some (0x4B, c)
  | .loopb c => some (0x4C, c)
  | .brk c => some (0x4D, c)
  | .cont c => some (0x4E, c)
  | .endloop c => some (0x4F, c)
  | .mrg c => some (0x50, c)
  | .rgn c => some (0x51, c)
  | .pand c => some (0x52, c)
  | .por c => some (0x53, c)
  | .pxor c => some (0x54, c)
  | .pnot c => some (0x55, c)
  | .pdec c => some (0x56, c)
  | .pmov c => some (0x57, c)
  | .dqpop c => some (0x58, c)
  | .dqbr c => some (0x59, c)
  | .shfl c => some (0x60, c)
  | .vote c => some (0x61, c)
  | .redi c => some (0x62, c)
  | .scani c => some (0x63, c)
  | .rdlane c => some (0x64, c)
  | .wrlane c => some (0x65, c)
  | .sop c => some (0x70, c)
  | .smovi c => some (0x71, c)
  | .sbr c => some (0x72, c)
  | .floop c => some (0x73, c)
  | .dqpush c => some (0x74, c)
  | .fend c => some (0x75, c)
  | .fadd c => some (0x80, c)
  | .fsub c => some (0x81, c)
  | .fmul c => some (0x82, c)
  | .ffma c => some (0x83, c)
  | .fsqr c => some (0x84, c)
  | .fhull c => some (0x85, c)
  | .fisect c => some (0x86, c)
  | .flb c => some (0x87, c)
  | .fub c => some (0x88, c)
  | .fmid c => some (0x89, c)
  | .frad c => some (0x8A, c)
  | .fwid c => some (0x8B, c)
  | .fmag c => some (0x8C, c)
  | .fmig c => some (0x8D, c)
  | .fmk c => some (0x8E, c)
  | .fbis c => some (0x8F, c)
  | .fcmp c => some (0x90, c)
  | .fneg c => some (0x91, c)
  | .fabs c => some (0x92, c)
  | .fmin c => some (0x93, c)
  | .fmax c => some (0x94, c)
  | .fdiv c => some (0xA0, c)
  | .fdivp c => some (0xA1, c)
  | .fsqrt c => some (0xA2, c)
  | .frcp c => some (0xA3, c)
  | .frsqrt c => some (0xA4, c)
  | .fexp2 c => some (0xA5, c)
  | .flog2 c => some (0xA6, c)
  | .fsinpi c => some (0xA7, c)
  | .fcospi c => some (0xA8, c)
  | .ftanh c => some (0xA9, c)
  | .fpown c => some (0xAA, c)
  | .fcvt c => some (0xAB, c)
  | .fcoll c => some (0xAC, c)
  | .fq8 c => some (0xAD, c)
  | .ld c => some (0xB0, c)
  | .st c => some (0xB1, c)
  | .atom c => some (0xB2, c)
  | .cas c => some (0xB3, c)
  | .atomFadd c => some (0xB4, c)
  | .atomFmaxa c => some (0xB5, c)
  | .amaxswap c => some (0xB6, c)
  | .fence c => some (0xB7, c)
  | .fenceDrain c => some (0xB7, c)
  | .bar c => some (0xB8, c)
  | .arrive c => some (0xB9, c)
  | .await c => some (0xBA, c)
  | .rmcast c => some (0xBB, c)
  | .rred c => some (0xBC, c)
  | .cpy c => some (0xD0, c)
  | .cpyg c => some (0xD1, c)
  | .cpys c => some (0xD2, c)
  | .cpyAdd c => some (0xD3, c)
  | .qfence c => some (0xD4, c)
  | .emit c => some (0xE0, c)
  | .split c => some (0xE1, c)
  | .tend c => some (0xE2, c)
  | .enq c => some (0xE3, c)
  | .enqA c => some (0xE4, c)
  | .launch c => some (0xE5, c)
  | .gcancel c => some (0xE6, c)
  | .gstatus c => some (0xE7, c)
  | .jpass c => some (0xF0, c)
  | .jbit c => some (0xF1, c)
  | .jstream c => some (0xF2, c)
  | .jbatch c => some (0xF3, c)
  | .jwait c => some (0xF4, c)
  | .jdrain c => some (0xF5, c)
  | .jcfg c => some (0xF6, c)
  | .jclr c => some (0xF6, c)
  | .jqry c => some (0xF6, c)
  | .jsave c => some (0xF7, c)
  | .jload c => some (0xF7, c)
  | .csrr c => some (0xF8, c)
  | .csrw c => some (0xF9, c)
  | .bkpt c => some (0xFA, c)
  | .strap c => some (0xFB, c)
  | .tretResume c => some (0xFC, c)
  | .tretSkip c => some (0xFC, c)
  | .tretWriteSkip c => some (0xFC, c)
  | .tretRetryRegion c => some (0xFC, c)
  | .tretKillLanes c => some (0xFC, c)
  | .tretKillBand c => some (0xFC, c)
  | .event .. => none
  | .startStepComplete .. => none
  | .flashWriteDone .. => none

/-! ## Words -/

/-- The base word of Table 12.1. -/
def Raw.base (r : Raw) : Nat :=
  r.len.toNat + 2 ^ 2 * r.annex.isSome.toNat + 2 ^ 3 * r.dist.toNat + 2 ^ 6 * r.wait.toNat + 2 ^ 18 * r.setf.toNat
    + 2 ^ 22 * r.gpred.toNat + 2 ^ 25 * r.gmode.toNat + 2 ^ 28 * r.opc.toNat + 2 ^ 36 * r.dst.toNat
    + 2 ^ 45 * r.nw.toNat + 2 ^ 46 * r.srca.toNat + 2 ^ 55 * r.srcb.toNat

/-- Bytes after the base word, by length code, R284. -/
def secondBytes (len : BitVec 2) : Nat := if len = 1 then 4 else if len = 2 then 8 else 0

/-- The fields of a base word with what follows it. -/
def Raw.ofWords (base second : Nat) (annex : Option W64) : Raw :=
  { len := BitVec.ofNat 2 (field base 0 2), dist := BitVec.ofNat 3 (field base 3 3), wait := BitVec.ofNat 12 (field base 6 12),
    setf := BitVec.ofNat 4 (field base 18 4), gpred := BitVec.ofNat 3 (field base 22 3),
    gmode := BitVec.ofNat 3 (field base 25 3), opc := BitVec.ofNat 8 (field base 28 8),
    dst := BitVec.ofNat 9 (field base 36 9), nw := field base 45 1 == 1, srca := BitVec.ofNat 9 (field base 46 9),
    srcb := BitVec.ofNat 9 (field base 55 9), second := BitVec.ofNat 64 second, annex := annex }

/-- An instruction with its length in bytes, annex included. -/
structure Decoded where
  instr : Instr
  len : Nat
deriving DecidableEq, Repr

/-- An annex follows the instruction that a base word begins; a word with `LEN` = 11 begins none, R285. -/
def hasAnnex (first : Nat) : Bool := field first 2 1 == 1 && field first 0 2 != 3

/-- Bytes of the instruction that a base word begins, its annex included. -/
def wordBytes (first : Nat) : Nat := 8 + secondBytes (BitVec.ofNat 2 (field first 0 2)) + (if hasAnnex first then 8 else 0)

/-- The bytes that a fetch block still holds do not reach to the end of the instruction, R286. -/
def reachesPast (bs : List Byte) : Bool := decide (bs.length < wordBytes (leNat (bs.take 8)))

/-- What the bytes at a PC hold, orders 1 and 2 of Table 12.14 done: the fields and the length with the annex. -/
def splitBytes (front : Bool) (bs : List Byte) : Except DecTrap (Raw × Nat) :=
  let first := leNat (bs.take 8)
  let len := BitVec.ofNat 2 (field first 0 2)
  let sp := hasAnnex first
  let n := 8 + secondBytes len
  let total := wordBytes first
  if reachesPast bs then .error ⟨2, 1⟩
  else if len = 3 ∨ (sp ∧ front) ∨ (sp ∧ field (leNat ((bs.drop n).take 8)) 0 2 ≠ 3) then .error (.enc 2)
  else
    let annex := if sp then some (BitVec.ofNat 64 (leNat ((bs.drop n).take 8))) else none
    .ok (Raw.ofWords first (leNat ((bs.drop 8).take (n - 8))) annex, total)

/-- Decodes the bytes at a PC, of which there are as many as the fetch block still holds, R284 to R304. -/
def decode (front : Bool) (bs : List Byte) : Except DecTrap Decoded :=
  match splitBytes front bs with
  | .error t => .error t
  | .ok (r, total) =>
    match checkRaw front r with
    | .error t => .error t
    | .ok fm =>
      match mkInstr r.opc.toNat (Code.ofRaw r fm) with
      | some i => .ok ⟨i, total⟩
      | none => .error ⟨1, 0⟩

/-- A `TRET` with a reserved action and no other fault, R354. -/
def reservedTret (bs : List Byte) : Bool :=
  match splitBytes false bs with
  | .ok (r, _) => r.opc == 0xFC && r.srca.toNat / 2 == 3 && (match checkRaw false { r with srca := 0 } with | .ok _ => true | .error _ => false)
  | .error _ => false

/-- The bytes of a set of fields, base word first, annex last. -/
def Raw.bytes (r : Raw) : List Byte :=
  leBytes 8 r.base ++ leBytes (secondBytes r.len) r.second.toNat ++
    (match r.annex with
     | some w => leBytes 8 w.toNat
     | none => [])

/-- The encoder: the bytes of an instruction; none for an event. -/
def encode (i : Instr) : List Byte :=
  match i.code with
  | some (opc, c) => (c.toRaw opc).bytes
  | none => []

/-- The instruction that the decoder reads from a word numbered from the first byte up, the bits above `nbits` zero:
as a band decodes it, or else as a front context does. -/
def decodeTableWord (nbits w : Nat) : Option Instr :=
  let bs := leBytes 24 (w % 2 ^ nbits)
  match decode false bs with
  | .ok d => some d.instr
  | .error _ =>
    match decode true bs with
    | .ok d => some d.instr
    | .error _ => none

/-- The length in bytes of an instruction with its annex, R285. -/
def Code.len (c : Code) : Nat :=
  (match c.form with | .a => 8 | .b => 12 | .f => 12 | _ => 16) + (if c.annex.isSome then 8 else 0)

/-- `IMM64` of form C or the sign-extended `IMM32` of form D, in place of source B, R295. -/
def Code.immB (c : Code) : Option Int :=
  match c.form with
  | .c => some c.payload.toNat
  | .d => some (BitVec.ofNat 32 c.payload.toNat).toInt
  | _ => none

end Sys2Proof
end

