-- ==== Sys2Proof/Machine/Operands.lean ====
section
/-!
DEFINITION. Operand forms: what each instruction reads and writes, effective slots, sources of every kind, cross-lane
modifiers, holds, and the decode tests that depend on registers, orders 9 to 12 of Table 12.14.
-/
namespace Sys2Proof.Machine

/-! ## Widths of operands -/

/-- Words of a register operand and the alignment of its first slot, R292; no words for no register operand. -/
structure Need where
  words : Nat
  align : Nat
deriving DecidableEq, Repr

def Need.none : Need := ⟨0, 1⟩
def Need.of (words : Nat) : Need := ⟨words, words⟩

structure Needs where
  dst : Need
  a : Need
  b : Need
  c : Need
deriving DecidableEq, Repr

/-- Width in bits of an integer type code, Table 10.4. -/
def intBits (code : Nat) : Nat := match code % 4 with | 0 => 8 | 1 => 16 | 2 => 32 | _ => 64
def intSigned (code : Nat) : Bool := code < 4
def intWords (code : Nat) : Nat := if code % 4 = 3 then 2 else 1

/-- Words of a `TYPE` that is an integer or a view. -/
def typeWords (t : BitVec 4) : Nat := if 0xC ≤ t.toNat then viewWords t else if t.toNat < 8 then intWords t.toNat else 1

/-- Words of an element of a five-bit type code in a register. -/
def codeWords (code : Nat) : Nat :=
  if code < 8 then intWords code else if code = 0x0B ∨ code = 0x11 then 2
  else if code = 0x0D then 2 else if code = 0x0E then 4 else 1

/-- Bytes of a `TYPE` in memory, Table 15.2. -/
def memBytes (t : BitVec 4) : Nat :=
  if 0xC ≤ t.toNat then 4 * viewWords t else intBits t.toNat / 8

/-- Words that each operand position of an instruction takes. -/
def needs (opc : Nat) (c : Code) : Needs :=
  let t := c.type
  let w := Need.of (typeWords t)
  let n := Need.none
  let one := Need.of 1
  let m := c.mods.toNat
  if 0x01 ≤ opc ∧ opc ≤ 0x1B then ⟨w, w, w, w⟩
  else match opc with
  | 0x1C => ⟨n, w, w, n⟩ | 0x1D => ⟨w, w, n, n⟩ | 0x1E => ⟨one, n, n, n⟩ | 0x1F => ⟨w, w, w, n⟩
  | 0x20 => ⟨Need.of (intWords (m % 8)), w, n, n⟩ | 0x21 => ⟨w, w, w, n⟩
  | 0x57 => if m % 4 = 1 then ⟨one, n, n, n⟩ else if m % 4 = 2 then ⟨n, one, n, n⟩ else ⟨n, n, n, n⟩
  | 0x60 => ⟨w, w, w, n⟩
  | 0x61 => ⟨one, n, n, n⟩ | 0x62 => ⟨w, w, n, n⟩ | 0x63 => ⟨w, w, n, n⟩ | 0x64 => ⟨n, w, n, n⟩ | 0x65 => ⟨w, n, n, n⟩
  | 0x8F => ⟨w, w, n, n⟩ | 0x90 => ⟨n, w, w, n⟩
  | 0xA1 => ⟨⟨2 * typeWords t, typeWords t⟩, w, w, n⟩
  | 0xAA => ⟨w, w, one, n⟩
  | 0xAB => ⟨w, Need.of (codeWords (m % 32)), one, n⟩
  | 0xAC => ⟨Need.of (codeWords (m % 32)), w, n, n⟩
  | 0xAD => ⟨one, w, one, n⟩
  | 0xB0 => ⟨w, if m % 8 = 0 then ⟨2, 2⟩ else one, one, n⟩
  | 0xB1 => ⟨n, if m % 8 = 0 then ⟨2, 2⟩ else one, one, w⟩
  | 0xB5 => ⟨one, if m % 8 = 0 then ⟨2, 2⟩ else one, one, w⟩
  | 0xB2 => ⟨w, if m % 8 = 0 then ⟨2, 2⟩ else one, one, w⟩
  | 0xB3 => ⟨w, if m % 8 = 0 then ⟨2, 2⟩ else one, one, w⟩
  | 0xB4 => ⟨w, if m % 8 = 0 then ⟨2, 2⟩ else one, one, w⟩
  | 0xB6 => ⟨one, if m % 8 = 0 then ⟨2, 2⟩ else one, one, one⟩
  | 0xB9 => ⟨n, one, one, n⟩ | 0xBA => ⟨n, one, n, n⟩ | 0xBB => ⟨n, one, n, n⟩ | 0xBC => ⟨n, one, n, n⟩
  | 0xE0 => ⟨n, ⟨16, 1⟩, n, n⟩
  | 0xE1 => ⟨w, w, ⟨m % 16, 1⟩, n⟩
  | 0xE3 => ⟨n, ⟨16, 1⟩, one, n⟩ | 0xE4 => ⟨n, ⟨16, 1⟩, one, n⟩
  | 0xF0 => ⟨n, one, n, n⟩
  | 0xF8 => ⟨one, n, n, n⟩
  | 0xF9 => if Code.csr c = 1 then ⟨n, one, n, n⟩ else ⟨n, n, n, n⟩
  | _ => if 0x80 ≤ opc ∧ opc < 0xB0 then ⟨w, w, w, w⟩ else ⟨n, n, n, n⟩

/-! ## What an instruction sees -/

/-- The thread that executes, its band with due results landed, and the lanes in which the instruction acts. -/
structure Env where
  t : ThreadRef
  opc : Nat
  c : Code
  b : Band
  front : Bool
  regs : Nat
  now : Nat
  /-- Number of the first free choice of this instruction's reads. -/
  free : Nat
  /-- Number under which the instruction's result, access or wait is known. -/
  id : Nat
  lanes : BitVec 64
deriving DecidableEq, Repr

/-- The guard of Table 12.2 on a predicate value. -/
def guardHolds (gmode : Nat) (p : Tri) : Bool :=
  match gmode with
  | 0 => true
  | 1 => p == .t
  | 2 => p == .f
  | 3 => p == .u
  | 4 => p == .t || p == .u
  | 5 => p == .f || p == .u
  | _ => p == .t || p == .f

/-- Free choices that one source position of an instruction may use. -/
def Band.choices (b : Band) : Nat := 64 * b.pends.length

/-- Lanes whose guard holds. The guard's predicate is read as source position 4. -/
def Band.guard (b : Band) (free : Nat) (c : Code) : BitVec 64 :=
  maskOf b.width fun l =>
    guardHolds c.gmode.toNat (triOf (b.look (free + 4 * b.choices) l (predKey l c.gpred.toNat)).toNat)

/-- The band that collects its operands for a half. -/
def Sel.held (sel : Sel) (k : Nat) : Option (Nat × Nat × Nat) := if k = 1 then sel.held1 else sel.held0

/-- The thread holds the half for its own issue, R176. -/
def Sel.holds (sel : Sel) (t : ThreadRef) (k : Nat) : Bool :=
  match sel.held k with | some h => h.1 == t.slot && some h.2.1 == t.band | none => false

/-- The halves of a core that a band may issue on in this cycle: a half is taken by the band that issued there in this
cycle, and held by a chain and by a band that collects its operands, R167, R171 and R176. -/
def State.halfFree (s : State) (t : ThreadRef) (now k : Nat) : Bool :=
  let sel := (s.coreOf t.die t.core).sel
  if !sel.holds t k && (match sel.held k with | some h => decide (now ≤ h.2.2) | none => false) then false else
  match if k = 0 then sel.half0 else sel.half1 with
  | none => true
  | some p =>
    if some p.2 = t.band ∧ p.1 = t.slot then true
    else match s.thread { t with slot := p.1, band := some p.2 } with
      | none => true
      | some b => !b.running || !(b.x.half == 2 || b.x.half == k) || (b.x.lastIssue != some now && b.x.chain.isNone)

/-- The half that the band takes: both for 64 lanes, else the one that it holds, or where it issued last unless that is taken. -/
def State.halfFor (s : State) (t : ThreadRef) (b : Band) (now : Nat) : Option Nat :=
  if b.width = 64 then (if s.halfFree t now 0 && s.halfFree t now 1 then some 2 else none)
  else
    let sel := (s.coreOf t.die t.core).sel
    let k := if sel.holds t 0 then 0 else if sel.holds t 1 || b.x.half = 1 then 1 else 0
    if s.halfFree t now k then some k
    else if s.halfFree t now (1 - k) && b.x.chain.isNone then some (1 - k) else none

/-- A band that issues on a half loses its latches when the half is another than before, R170. -/
def Band.onHalf (b : Band) (k : Option Nat) : Band :=
  match k with
  | some k => if b.x.half = k then b else { b.loseLatches with x := { b.loseLatches.x with half := k } }
  | none => b

/-- A thread as its instruction finds it: due results landed, on the half where it issues. -/
def State.issuing (s : State) (t : ThreadRef) (b : Band) : Band :=
  let b1 := b.settle (s.cyc t.die) s.free
  if t.band.isNone then b1 else b1.onHalf (s.halfFor t b1 (s.cyc t.die))

/-- What the instruction sees, if `cur` names a thread that runs. -/
def mkEnv (opc : Nat) (c : Code) (s : State) : Option Env :=
  match s.crewOf s.cur.crew, s.thread s.cur with
  | some cw, some b0 =>
    if !b0.running then none
    else
      let now := s.cyc s.cur.die
      let b := s.issuing s.cur b0
      let free := s.free + 65 * b0.pends.length
      let only := b.only.getD (BitVec.allOnes 64)
      some { t := s.cur, opc := opc, c := c, b := b, front := s.cur.band.isNone, regs := cw.cfg.regs, now := now,
             free := free, id := (s.coreOf s.cur.die s.cur.core).nextId,
             lanes := b.exec &&& b.guard free c &&& only }
  | _, _ => none

/-- Lanes in which the instruction acts, ascending. -/
def Env.ls (e : Env) : List Nat := lanesOf e.lanes
def Env.width (e : Env) : Nat := e.b.width
/-- Free choices used by the instruction's reads: five positions. -/
def Env.used (e : Env) : Nat := 5 * e.b.choices

/-! ## Effective slots and registers -/

/-- The effective first slot of a slot operand, R292. -/
def Band.eslot (b : Band) : Opnd → Option Nat
  | .slot n => some n.toNat
  | .slotIx0 n => some (n.toNat + b.r.ix0.toNat)
  | .slotIx1 n => some (n.toNat + b.r.ix1.toNat)
  | _ => none

/-- The uniform register that an operand names, in a band or in a front context, R294. -/
def uniOf (front : Bool) : Opnd → Option Nat
  | .uni n => some n.toNat
  | .slot n => if front then some n.toNat else none
  | _ => none

/-- Words read from slot n of a lane on, as read by another lane; slots beyond the last are zero. -/
def Env.slots (e : Env) (pos reader lane n words : Nat) : Nat :=
  leNatWords ((List.range words).map fun i =>
    if n + i < 256 then BitVec.ofNat 32 (e.b.look (e.free + pos * e.b.choices) reader (slotKey lane (n + i))).toNat else 0)
where
  leNatWords : List W32 → Nat
    | [] => 0
    | w :: ws => w.toNat + 2 ^ 32 * leNatWords ws

def Env.uni (e : Env) (pos reader n : Nat) : Nat :=
  (e.b.look (e.free + pos * e.b.choices) reader (uniKey n)).toNat

/-- The source lane of Table 12.6; none where `fill0` gives zero. -/
def xlaneSrc (w : Nat) (x : BitVec 5) (amt lane : Nat) : Option Nat :=
  let a := amt % w
  let fill := x.toNat % 4
  match x.toNat / 4 with
  | 0 => some lane
  | 1 => some (lane ^^^ a)
  | 2 => if a ≤ lane then some (lane - a)
         else if fill = 0 then some (lane + w - a) else if fill = 1 then none else some lane
  | 3 => if lane + a < w then some (lane + a)
         else if fill = 0 then some (lane + a - w) else if fill = 1 then none else some lane
  | _ => some a

/-- Reads a remembered register through its remembered modifier, R170. -/
def Env.reread (e : Env) (pos reader lane : Nat) (m : Remember) : Nat :=
  let amt := match m.idx with
    | some (true, n) => e.uni pos reader n
    | some (false, n) => e.slots pos reader lane n 1
    | none => m.amt
  match xlaneSrc e.width m.xlane amt lane with
  | none => 0
  | some src => if m.uniform then e.uni pos reader m.num else e.slots pos reader src m.num m.words

/-- A latch's value in a lane: held, re-read, or zero, R170. -/
def Env.latch (e : Env) (pos reader lane : Nat) (l : Latch) : Nat :=
  if l.live then (l.vals.get 0 lane).toNat
  else match l.reg with
    | some m => e.reread pos reader lane m
    | none => 0

/-- An integer taken modulo 2^bits. -/
def wrapNat (bits : Nat) (v : Int) : Nat := (v % (2 ^ bits : Int)).toNat

/-- The format of an interval view's bounds, Table 10.1. -/
def viewFmt (t : Nat) : Fmt := if t = 0xC then f16 else if t = 0xD then f32 else f64

/-- The interval view in which a source position is read, if it holds an interval, R356. -/
def ivView (opc : Nat) (c : Code) (pos : Nat) : Option Nat :=
  let t := c.type.toNat
  let from_ := c.mods.toNat % 32
  let iv := if 0xC ≤ t then some t else none
  if opc = 0x1D ∨ opc = 0x60 then iv
  else if 0x80 ≤ opc ∧ opc ≤ 0x94 then (if opc = 0x8F ∧ pos = 3 then none else some t)
  else if opc = 0xA0 ∨ opc = 0xA1 then some t
  else if opc = 0xAB then (if pos = 1 ∧ 0xC ≤ from_ ∧ from_ ≤ 0xE then some from_ else none)
  else if 0xA2 ≤ opc ∧ opc ≤ 0xAD then (if pos = 1 then some t else none)
  else if opc = 0xB1 ∨ opc = 0xB4 ∨ opc = 0xB5 then (if pos = 3 then iv else none)
  else none

/-- The pair [n, n] of a small integer in a view. -/
def intPair (t : Nat) (n : Int) : Nat :=
  let f := viewFmt t
  let w := f.bound .rd (.fin (Q.ofInt n))
  w + w * 2 ^ f.width

/-- The bits of a source operand in a lane, at a width, R293 and R312. -/
def Env.opnd (e : Env) (pos : Nat) (o : Opnd) (reader lane bits : Nat) : Nat :=
  let words := (bits + 31) / 32
  match o with
  | .zero => 0
  | .imm n =>
    match ivView e.opc e.c pos with
    | some t => intPair t (immVal n)
    | none => wrapNat bits (immVal n)
  | .latch n => e.latch pos reader lane (e.b.lookLatch (e.free + pos * e.b.choices) reader n.val) % 2 ^ bits
  | .hold n => e.latch pos reader lane (e.b.x.hd.getD n.val Latch.reset) % 2 ^ bits
  | o =>
    match uniOf e.front o, e.b.eslot o with
    | some n, _ => e.uni pos reader n % 2 ^ bits
    | none, some n => e.slots pos reader lane n words % 2 ^ bits
    | none, none => 0

/-- The amount or register that source C gives a cross-lane modifier. -/
def Env.xamount (e : Env) (lane : Nat) : Nat :=
  match e.c.srcc with
  | .imm n => wrapNat 32 (immVal n)
  | o => e.opnd 3 o lane lane 32

/-- The lane from which source B is read, R299. -/
def Env.xsrc (e : Env) (lane : Nat) : Option Nat := xlaneSrc e.width e.c.xlane (e.xamount lane) lane

def Env.srcA (e : Env) (lane bits : Nat) : Nat := e.opnd 1 e.c.srca lane lane bits
def Env.srcB (e : Env) (lane bits : Nat) : Nat :=
  match e.xsrc lane, e.c.immB with
  | none, _ => 0
  | some _, some v => wrapNat bits v
  | some src, none => e.opnd 2 e.c.srcb lane src bits
def Env.srcC (e : Env) (lane bits : Nat) : Nat := e.opnd 3 e.c.srcc lane lane bits
/-- The destination register's present value, as `CAS` reads it. -/
def Env.srcD (e : Env) (lane bits : Nat) : Nat := e.opnd 0 e.c.dst lane lane bits
/-- A predicate operand's value in a lane. -/
def Env.pred (e : Env) (pos : Nat) (o : Opnd) (lane : Nat) : Tri :=
  match o with
  | .slot n => triOf (e.b.look (e.free + pos * e.b.choices) lane (predKey lane (n.toNat % 8))).toNat
  | _ => .f

/-! ## Decode tests on registers: orders 9 to 12 -/

def slotBad (b : Band) (need : Need) (o : Opnd) : Bool :=
  match b.eslot o with
  | some n => need.words != 0 && n % need.align != 0
  | none => false

def slotOut (b : Band) (regs : Nat) (need : Need) (o : Opnd) : Bool :=
  match b.eslot o with
  | some n => need.words != 0 && decide (regs < n + need.words)
  | none => false

/-- Source C also names a slot where a kind-101 modifier reads its lane, R299. -/
def needC (opc : Nat) (c : Code) : Need := if c.xlane.toNat / 4 = 5 then Need.of 1 else (needs opc c).c

def slotTests (opc : Nat) (c : Code) (f : Need → Opnd → Bool) : Bool :=
  let n := needs opc c
  f n.dst c.dst || f n.a c.srca || (c.immB.isNone && f n.b c.srcb) || f (needC opc c) c.srcc

/-- The instruction lies outside what a chain may hold, R171. -/
def chainOutside (opc : Nat) (c : Code) : Bool :=
  !(opc < 0x40 || (0x60 ≤ opc && opc < 0x70) || (0x80 ≤ opc && opc < 0xB0)) || pipeOf opc == some .trans
    || c.annex.isSome || [c.dst, c.srca, c.srcb, c.srcc].any fun o =>
      match o with | .slotIx0 _ => true | .slotIx1 _ => true | _ => false

/-- Order 12: the instruction breaks a rule of the chain it begins or continues. -/
def chainBad (x : Exec) (opc : Nat) (c : Code) : Bool :=
  (c.nw || x.chain.isSome) && (chainOutside opc c ||
    (c.nw && match x.chain with | some (_, n) => 3 ≤ n | none => false))

/-- The tests of order 9 that depend on the band: `BALLOT` to a slot of a 64-lane band, R339, and a barrier or a drain
in a band that the Blocker formed, R393 and R444. -/
def bandBad (e : Env) : Bool :=
  (e.opc == 0x61 && e.c.mods.toNat % 4 == 2 && e.width == 64 && (e.b.eslot e.c.dst).isSome) ||
  ((e.opc == 0xB8 || e.opc == 0xF5) && !e.b.launchBand)

/-- The first test that fails, orders 9 to 12. -/
def Env.decodeTrap (e : Env) : Option DecTrap :=
  if e.front then none
  else if bandBad e then some (.enc 7)
  else if slotTests e.opc e.c (slotBad e.b) then some (.enc 6)
  else if slotTests e.opc e.c (slotOut e.b e.regs) then some ⟨3, BitVec.ofNat 64 e.regs⟩
  else if chainBad e.b.x e.opc e.c then some ⟨4, 0⟩
  else none

/-! ## Collection of operands: R176 -/

/-- A read of the latch reads the register that it remembers, R170. -/
def Latch.rereads (l : Latch) : Bool := !l.live && l.reg.isSome

/-- Slots that an instruction reads, `CAS` its destination among them, and the lost latches that it re-reads. -/
def readSlots (opc : Nat) (c : Code) (b : Band) : List Nat × Nat :=
  let n := needs opc c
  let ro := rolesOf opc c.ext c.srca.bits
  let used := fun (r : Role) (need : Need) => if r.isSource then need else Need.none
  let one := fun (need : Need) (o : Opnd) =>
    match b.eslot o with
    | some k => ((List.range need.words).map fun i => k + i, 0)
    | none =>
      match o with
      | .latch i => ([], if (b.x.lt.getD i.val Latch.reset).rereads then 1 else 0)
      | .hold i => ([], if (b.x.hd.getD i.val Latch.reset).rereads then 1 else 0)
      | _ => ([], 0)
  let a := one (used ro.a n.a) c.srca
  let b' := if c.immB.isSome then ([], 0) else one (used ro.b n.b) c.srcb
  let d := one (if c.xlane.toNat / 4 = 5 then Need.of 1 else used ro.c n.c) c.srcc
  let x := if opc = 0xB3 then one n.dst c.dst else ([], 0)
  (a.1 ++ b'.1 ++ d.1 ++ x.1, a.2 + b'.2 + d.2)

/-- T of R176. -/
def collectCycles (opc : Nat) (c : Code) (b : Band) : Nat :=
  let r := readSlots opc c b
  let slots := r.1.eraseDups
  let here := slots.filter fun n => b.x.near.contains n
  let bank := fun k => (here.filter fun n => n % 6 == k).length
  let most := (List.range 6).foldl (fun m k => max m (bank k)) 1
  (if here.length = slots.length then most else max most 3) + r.2

/-- Cycles that cross-lane modifiers add to a fixed latency: the instruction's own, and that of each re-read through one, R170 and
R299. -/
def Env.modCycles (e : Env) : Nat :=
  let one := fun (l : Latch) => if l.rereads && (match l.reg with | some m => m.xlane != 0 | none => false) then 3 else 0
  let of := fun (o : Opnd) => match o with
    | .latch i => one (e.b.x.lt.getD i.val Latch.reset)
    | .hold i => one (e.b.x.hd.getD i.val Latch.reset)
    | _ => 0
  (if e.c.xlane = 0 then 0 else 3) + of e.c.srca + (if e.c.immB.isSome then 0 else of e.c.srcb) + of e.c.srcc

/-! ## What a trap is told of its instruction: Table 11.4 and R270 -/

/-- A decoded operand of 16 bits. -/
def descOf (front : Bool) (b : Band) (role : Role) (bits : BitVec 9) : Nat :=
  let kind := fun k n => k * 2 ^ 12 + n % 2 ^ 12
  match role with
  | .unused => kind 15 0
  | .const _ => kind 15 0
  | .pred => kind 6 (bits.toNat % 8)
  | .ix => kind 15 0
  | _ =>
    match Opnd.ofBits bits with
    | none => kind 15 0
    | some .zero => kind 3 0
    | some (.latch n) => kind 1 n.val
    | some (.hold n) => kind 2 n.val
    | some (.imm n) => kind 5 (wrapNat 12 (immVal n))
    | some o =>
      match uniOf front o, b.eslot o with
      | some n, _ => kind 4 n
      | none, some n => kind 0 n
      | none, none => kind 15 0

/-- Roles by which a trap describes operands: an unassigned opcode is taken to have all of them that its form holds. DEDUCED, log 45. -/
def trapRoles (r : Raw) (e : Ext) : Roles :=
  if (formsOf r.opc.toNat).isNone then
    ⟨.slotUniZero, .any, if r.len = 2 then .unused else .any, if r.len = 1 then .any else .unused⟩
  else rolesOf r.opc.toNat e r.srca

def Raw.form (r : Raw) : Form :=
  match formsOf r.opc.toNat with
  | some fs => (formFor fs r.len).getD (if r.len = 1 then .b else if r.len = 2 then .e else .a)
  | none => if r.len = 1 then .b else if r.len = 2 then .c else .a

/-- `TRAP_DECODE` of an encoding. -/
def trapDecode (front : Bool) (b : Band) (r : Raw) : W64 :=
  let fm := Raw.form r
  let e := extOf r.opc.toNat fm r.second
  let ro := trapRoles r e
  let immB := fm == .c || fm == .d
  BitVec.ofNat 64 (2 ^ 48 * descOf front b ro.dst r.dst + 2 ^ 32 * descOf front b ro.a r.srca
    + 2 ^ 16 * descOf front b (if immB then .unused else ro.b) r.srcb + descOf front b ro.c e.srcc)

/-- The values of sources A, B and C in a lane, as the save area holds them; a memory instruction's data stands in the
third place, an enqueue's record as far as it fits, R413. -/
def Env.trapSrcs (e : Env) (lane : Nat) : List W128 :=
  let n := needs e.opc e.c
  let bits := fun (x : Need) (o : Opnd) =>
    if x.words = 0 then (match uniOf e.front o with | some _ => 64 | none => 0) else 32 * min x.words 4
  let ro := rolesOf e.opc e.c.ext e.c.srca.bits
  let va := if ro.a.isSource then e.srcA lane (bits n.a e.c.srca) else 0
  let vb := if e.c.immB.isSome ∨ ro.b.isSource then e.srcB lane (if e.c.immB.isSome then 64 else bits n.b e.c.srcb) else 0
  let vc := if e.opc = 0xE3 ∨ e.opc = 0xE4 then va else if e.opc = 0xB3 then e.srcD lane (bits n.dst e.c.dst)
            else if ro.c.isSource then e.srcC lane (bits n.c e.c.srcc) else 0
  [BitVec.ofNat 128 va, BitVec.ofNat 128 vb, BitVec.ofNat 128 vc]

/-- A trap of an instruction: what entry will record, R269. The restart point is the chain's first instruction. -/
def Env.trap (e : Env) (cause : Nat) (info : W64) (lanes : BitVec 64) : PendTrap :=
  let raw := e.c.toRaw e.opc
  { cause := cause, info := info, lanes := lanes, fpc := e.b.x.pc,
    restart := match e.b.x.chain with | some (p, _) => p | none => e.b.x.pc,
    srcs := e.b.alive.map fun l => (l, e.trapSrcs l),
    insn0 := BitVec.ofNat 64 raw.base, insn1 := if raw.len = 0 then 0 else raw.second,
    annex := e.c.annex.getD 0, decode := trapDecode e.front e.b raw }

/-- An encoding that decoding refuses, as a trap: operands by the generic fields, widths by `TYPE`. DEDUCED, log 46. -/
def rawTrap (front : Bool) (b : Band) (regs now free id : Nat) (t : ThreadRef) (r : Raw) (d : DecTrap) (exec : BitVec 64) :
    PendTrap :=
  let fm := Raw.form r
  let c := Code.ofRaw r fm
  let e : Env := { t := t, opc := r.opc.toNat, c := c, b := b, front := front, regs := regs, now := now, free := free,
                   id := id, lanes := exec }
  let ro := trapRoles r (extOf r.opc.toNat fm r.second)
  let bits := 32 * typeWords c.type
  { cause := d.cause, info := d.info, lanes := exec, fpc := b.x.pc,
    restart := match b.x.chain with | some (p, _) => p | none => b.x.pc,
    srcs := b.alive.map fun l =>
      (l, [BitVec.ofNat 128 (if ro.a.isSource then e.srcA l bits else 0),
           BitVec.ofNat 128 (if ro.b.isSource then e.srcB l bits else 0),
           BitVec.ofNat 128 (if ro.c.isSource then e.srcC l bits else 0)]),
    insn0 := BitVec.ofNat 64 r.base, insn1 := if r.len = 0 then 0 else r.second, annex := r.annex.getD 0,
    decode := trapDecode front b r }

/-! ## Ending an instruction -/

/-- What a hold keeps of a source register, R170; nothing of an immediate. -/
def Env.rememberSrc (e : Env) (pos words : Nat) (o : Opnd) : Option Remember :=
  let reg := if pos = 2 && e.c.immB.isSome then none else match uniOf e.front o, e.b.eslot o with
    | some n, _ => some (true, n)
    | none, some n => some (false, n)
    | none, none => none
  reg.map fun r =>
    if pos = 2 ∧ e.c.xlane ≠ 0 then
      { uniform := r.1, num := r.2, words := words, xlane := e.c.xlane, amt := e.xamount 0,
        idx := if e.c.xlane.toNat / 4 = 5 then
          (match uniOf e.front e.c.srcc, e.b.eslot e.c.srcc with
            | some n, _ => some (true, n)
            | none, some n => some (false, n)
            | none, none => none) else none }
    else { uniform := r.1, num := r.2, words := words, xlane := 0, amt := 0, idx := none }

/-- A hold latch as the instruction leaves it: the source's value in the acting lanes, R169. -/
def Env.holdOne (e : Env) (pos : Nat) (need : Need) (o : Opnd) (read : Nat → Nat) (l : Latch) : Latch :=
  if e.c.hold.getLsbD (pos - 1) then
    l.write { num := pos - 1, live := true, bytes := 4 * need.words, vals := e.ls.map fun k => (k, BitVec.ofNat 128 (read k)),
              reg := e.rememberSrc pos need.words o }
  else l

/-- The hold latches after the instruction. DEDUCED, log 44. -/
def Env.holds (e : Env) : List Latch :=
  if e.c.hold = 0 then e.b.x.hd
  else
    let n := needs e.opc e.c
    let bits := fun (x : Need) => if x.words = 0 then 64 else 32 * min x.words 4
    [e.holdOne 1 n.a e.c.srca (fun l => e.srcA l (bits n.a)) (e.b.x.hd.getD 0 Latch.reset),
     e.holdOne 2 n.b e.c.srcb (fun l => e.srcB l (bits n.b)) (e.b.x.hd.getD 1 Latch.reset),
     e.holdOne 3 n.c e.c.srcc (fun l => e.srcC l (bits n.c)) (e.b.x.hd.getD 2 Latch.reset)]

/-- The next sequential PC, R285. -/
def Env.next (e : Env) : PCW := e.b.x.pc + BitVec.ofNat 48 e.c.len

/-- The chain after the instruction, R171. -/
def Env.chain (e : Env) : Option (PCW × Nat) :=
  if e.c.nw then
    match e.b.x.chain with
    | some (p, n) => some (p, n + 1)
    | none => some (e.b.x.pc, 1)
  else none

/-- The band as every completed issue leaves it: at the given PC, holds taken, chain advanced, safe point noted, its
waiting age at 0, R167. -/
def Env.advance (e : Env) (pc : PCW) (b : Band) : Band :=
  { b with only := none, bpSkip := if b.bpSkip = some e.b.x.pc then none else b.bpSkip,
           x := { b.x with pc := pc, hd := e.holds, chain := e.chain, phase := .fresh, lastLen := e.c.len,
                           lastSp := e.c.annex.isSome, lastAnnex := e.c.annex.getD 0,
                           lastIssue := some e.now, ready := false, since := e.now + 1 } }

/-- The flag that the instruction sets, R161 and R290. -/
def Env.flag (e : Env) : Option Nat := if e.c.setf.toNat < 12 then some e.c.setf.toNat else none

/-- A band issues on half k: the band that issued there before loses its latches, R170. -/
def State.claimHalf (s : State) (t : ThreadRef) (me : Nat × Nat) (k : Nat) : State :=
  let sel := (s.coreOf t.die t.core).sel
  let old := if k = 0 then sel.half0 else sel.half1
  if old = some me && (sel.held k).isNone then s
  else
    let s1 := s.updCore t.die t.core fun c =>
      { c with sel := if k = 0 then { c.sel with half0 := some me, held0 := none } else { c.sel with half1 := some me, held1 := none } }
    match old with
    | some p => if p = me then s1 else s1.updThread { t with slot := p.1, band := some p.2 } fun b =>
        if b.x.half = 2 ∨ b.x.half = k then b.loseLatches else b
    | none => s1

/-- A band's use of memory, an engine or the decision queue takes the place of its cycle, R167. -/
def State.takePort (s : State) (t : ThreadRef) (opc now : Nat) : State :=
  s.updCore t.die t.core fun c => { c with sel := { c.sel with portAt := if usesPort opc then some now else c.sel.portAt } }

/-- A front context's issue moves the round robin of R158; a band's claims its half or both, and the place of its cycle for
memory, engines and the decision queue, R167. -/
def Env.claim (e : Env) (s : State) : State :=
  match e.t.band with
  | none => s.updCore e.t.die e.t.core fun c => { c with sel := { c.sel with frontLast := e.t.slot, frontAt := some e.now } }
  | some b =>
    let me := (e.t.slot, b)
    let s1 := s.takePort e.t e.opc e.now
    if e.b.x.half = 2 then (s1.claimHalf e.t me 0).claimHalf e.t me 1 else s1.claimHalf e.t me e.b.x.half

/-- What passing an instruction does to the open loops of a front context, innermost first, and the next PC: R160. -/
def loopStep (pc next : PCW) : List HwLoop → List HwLoop × PCW
  | [] => ([], next)
  | i :: outer =>
    if i.last = pc ∧ 1 < i.left then ({ i with left := i.left - 1, again := false } :: outer, i.first)
    else
      let done := i.last == pc
      match outer with
      | [] => (if done then [] else [i], next)
      | o :: rest =>
        let inner := if done then { i with left := i.count, again := true } else i
        if o.last ≠ pc then (if done then outer else i :: outer, next)
        else if 1 < o.left then (inner :: { o with left := o.left - 1 } :: rest, o.first)
        else (if done then rest else i :: rest, next)

/-- The open loops with one more, R345: a third one overflows. A loop that R160 has restarted with its outer loop is opened by its `FLOOP`
again, and is no third one. DEDUCED, log 13. -/
def openLoop (l : HwLoop) : List HwLoop → Option (List HwLoop)
  | [] => some [l]
  | [i] => some [l, i]
  | [i, o] => if i.again ∧ i.first = l.first ∧ i.last = l.last then some [l, o] else none
  | _ => none

/-- A front context that falls through the end instruction of a loop goes back to its first. -/
def Env.loops (e : Env) (b : Band) (s : State) : State :=
  if !e.front || b.x.pc != e.b.x.pc + BitVec.ofNat 48 e.c.len then s.setThread e.t b
  else s.updCrew e.t.crew fun cw => { cw with front := cw.front.map fun f =>
    let r := loopStep e.b.x.pc b.x.pc f.loops
    { f with th := { b with x := { b.x with pc := r.2 } }, loops := r.1 } }

/-- Writes the thread back, with the instruction's number and free choices used up. -/
def Env.commit (e : Env) (b : Band) (s : State) : State :=
  let s1 := e.loops b s
  let s2 := s1.updCore e.t.die e.t.core fun c => { c with nextId := e.id + 1 }
  { e.claim s2 with free := e.free + e.used }

/-- A result of fixed latency, in cycles from issue. DESIGN CHOICE, log 55. -/
def Env.fixed (e : Env) (lat : Nat) (writes : List (Nat × W64)) (latch : Option LatchW) (status : BitVec 6) : Pend :=
  { id := e.id, ready := some (e.now + lat), flag := e.flag, writes := writes, latch := latch, status := status }

/-- A result of variable latency. DESIGN CHOICE, log 55. -/
def Env.varied (e : Env) (writes : List (Nat × W64)) (latch : Option LatchW) (status : BitVec 6) : Pend :=
  { e.fixed 0 writes latch status with ready := none }

/-- The state after an instruction that writes nothing but what `b` already holds: its flag clears one cycle after issue,
as a `NOP`'s does, R305. -/
def Env.done (e : Env) (pc : PCW) (b : Band) (s : State) : State :=
  let b1 := e.advance pc b
  e.commit (match e.flag with | some _ => b1.pend (e.fixed 1 [] none 0) | none => b1) s

def Env.finish (e : Env) (pc : PCW) (b : Band) (s : State) : Out := .next (e.done pc b s)

/-- Ends an instruction whose result is on its way. -/
def Env.result (e : Env) (p : Pend) (s : State) : Out := .next (e.commit ((e.advance e.next e.b).pend p) s)

/-- The state with the thread's due results landed. -/
def Env.settled (e : Env) (s : State) : State := { s.setThread e.t e.b with free := e.free + e.used }

/-- The instruction raises a trap, R267: nothing else of it happens. -/
def Env.raise (e : Env) (cause : Nat) (info : W64) (lanes : BitVec 64) (s : State) : State :=
  (e.settled s).takeTrap e.t (e.trap cause info lanes)

/-- The instruction waits at issue: nothing changes. DEDUCED, log 73. -/
def waits (s : State) : Out := .next s

/-- Runs an instruction: no thread is a fault; a failing decode test is a trap; otherwise the meaning proper. DEDUCED, log 73. DESIGN CHOICE, log 74. -/
def runInstr (opc : Nat) (c : Code) (s : State) (k : Env → Out) : Out :=
  match mkEnv opc c s with
  | none => .fault .noThread
  | some e =>
    match e.decodeTrap with
    | some d => .next (e.raise d.cause d.info e.lanes s)
    | none => k e

/-! ## Destinations -/

/-- Writes of a value to a per-lane destination, low word first; a zero destination writes nothing. -/
def Env.slotWrites (e : Env) (o : Opnd) (lane words v : Nat) : List (Nat × W64) :=
  match e.b.eslot o with
  | some n => (List.range words).map fun i => (slotKey lane (n + i), BitVec.ofNat 64 (v / 2 ^ (32 * i) % 2 ^ 32))
  | none => []

/-- The number of a pipe's latch, R169. DEDUCED, log 44. -/
def pipeLatch : Pipe → Nat
  | .int => 0 | .float => 1 | .trans => 2 | .cross => 3

/-- What a pipe's latch receives with a per-lane result. DEDUCED, log 44. -/
def Env.latchW (e : Env) (words : Nat) (vals : List (Nat × Nat)) : Option LatchW :=
  (pipeOf e.opc).map fun p =>
    { num := pipeLatch p, live := true, bytes := 4 * words, vals := vals.map fun x => (x.1, BitVec.ofNat 128 x.2),
      reg := if e.c.nw then none else
        match uniOf e.front e.c.dst, e.b.eslot e.c.dst with
        | some n, _ => some { uniform := true, num := n, words := words, xlane := 0, amt := 0, idx := none }
        | none, some n => some { uniform := false, num := n, words := words, xlane := 0, amt := 0, idx := none }
        | none, none => none }

/-- A per-lane result: values by lane, to the destination and to the pipe's latch, or to the latch only, R171. -/
def Env.laneWrites (e : Env) (words : Nat) (vals : List (Nat × Nat)) : List (Nat × W64) :=
  if e.c.nw then [] else vals.flatMap fun x => e.slotWrites e.c.dst x.1 words x.2

/-- A uniform result, to the destination register. -/
def Env.uniWrites (e : Env) (v : Nat) : List (Nat × W64) :=
  match uniOf e.front e.c.dst with
  | some n => [(uniKey n, BitVec.ofNat 64 v)]
  | none => []

/-- Values by predicate destination. -/
def Env.predWrites (o : Opnd) (vals : List (Nat × Tri)) : List (Nat × W64) :=
  match o with
  | .slot n => vals.map fun x => (predKey x.1 (n.toNat % 8), BitVec.ofNat 64 (triNum x.2))
  | _ => []

end Sys2Proof.Machine
end

