-- ==== Sys2Proof/Machine/Flags.lean ====
section
/-!
DEFINITION. Flags: the bits of `NUM_STATUS`, R264, Kleene logic on predicates, R248, and integer types with their
comparisons, R311 to R314.
-/
namespace Sys2Proof.Machine

/-! ## NUM_STATUS, Table 10.14 -/

def stIll : BitVec 6 := 1
def stDomain : BitVec 6 := 2
def stEmpty : BitVec 6 := 4
def stUnbounded : BitVec 6 := 8
def stConvSat : BitVec 6 := 16
def stNan : BitVec 6 := 32

def stIf (p : Bool) (f : BitVec 6) : BitVec 6 := if p then f else 0

/-! ## Kleene logic, Table 10.8 -/

def triAnd : Tri → Tri → Tri
  | .f, _ => .f | _, .f => .f | .t, x => x | x, .t => x | .u, .u => .u
def triOr : Tri → Tri → Tri
  | .t, _ => .t | _, .t => .t | .f, x => x | x, .f => x | .u, .u => .u
def triXor : Tri → Tri → Tri
  | .u, _ => .u | _, .u => .u | .f, x => x | x, .f => x | .t, .t => .f
def triNot : Tri → Tri
  | .f => .t | .t => .f | .u => .u
def triOfBool (b : Bool) : Tri := if b then .t else .f

/-! ## Integer types -/

/-- Width and signedness of an integer type, R311. -/
structure ITy where
  bits : Nat
  signed : Bool
deriving DecidableEq, Repr

def ITy.of (code : Nat) : ITy := { bits := intBits code, signed := intSigned code }

/-- The value of w bits, R312. -/
def ITy.read (t : ITy) (n : Nat) : Int :=
  let v := n % 2 ^ t.bits
  if t.signed && decide (2 ^ (t.bits - 1) ≤ v) then (v : Int) - 2 ^ t.bits else v

def ITy.max (t : ITy) : Int := if t.signed then 2 ^ (t.bits - 1) - 1 else 2 ^ t.bits - 1
def ITy.min (t : ITy) : Int := if t.signed then -(2 ^ (t.bits - 1)) else 0
/-- wrap of R314. -/
def ITy.wrap (t : ITy) (x : Int) : Int := t.read (wrapNat t.bits x)
/-- sat of R314. -/
def ITy.sat (t : ITy) (x : Int) : Int := if x < t.min then t.min else if t.max < x then t.max else x
/-- The register bits of a result, R313: extended to 32 bits below that width. -/
def ITy.reg (t : ITy) (x : Int) : Nat := wrapNat (if t.bits < 32 then 32 else t.bits) x
/-- The 64 bits of a uniform result, extended by the type's signedness, R342. -/
def ITy.uni (_ : ITy) (x : Int) : Nat := wrapNat 64 x
/-- The bits read as unsigned. -/
def ITy.bitsOf (t : ITy) (x : Int) : Nat := wrapNat t.bits x

/-- The relations of R321. -/
def intRel (rel : Nat) (a b : Int) : Bool :=
  match rel with
  | 0 => decide (a < b) | 1 => decide (a ≤ b) | 2 => decide (a = b) | 3 => decide (a ≠ b) | 4 => decide (b < a)
  | _ => decide (b ≤ a)

end Sys2Proof.Machine
end

