-- ==== Sys2Proof/Machine/Ivl.lean ====
section
/-!
DEFINITION. Intervals: pairs, set images, bounds, comparisons, conversions and compressed forms, R233 to R257 and R363 to
R375, as functions of values.
-/
namespace Sys2Proof.Machine

/-- An interval: Empty, or two bounds in order. -/
inductive Ivl where
  | empty
  | mk (lo hi : Bnd)
deriving DecidableEq, Repr

def Ivl.isEmpty : Ivl → Bool
  | .empty => true
  | .mk _ _ => false
def Ivl.bounded : Ivl → Bool
  | .empty => false
  | .mk lo hi => lo.finite && hi.finite
def Ivl.entire : Ivl := .mk .ninf .pinf
def Ivl.point (q : Q) : Ivl := .mk (.fin q) (.fin q)
def Ivl.hull : Ivl → Ivl → Ivl
  | .empty, b => b
  | a, .empty => a
  | .mk a1 a2, .mk b1 b2 => .mk (a1.min b1) (a2.max b2)

/-- A result: the bits of a pair or a point, and the status that making it sets. -/
structure Res where
  bits : Nat
  st : BitVec 6
deriving DecidableEq, Repr

/-! ## Pairs, R233 and R234 -/

def Pt.bnd : Pt → Option Bnd
  | .nan => none
  | .inf neg => some (if neg then .ninf else .pinf)
  | .fin q => some (.fin q)

/-- Reads a pair; an ill-formed one reads as Empty, and the second component says so. -/
def Fmt.readPair (f : Fmt) (w : Nat) : Ivl × Bool :=
  match (f.decode w).bnd, (f.decode (w / 2 ^ f.width)).bnd with
  | some lo, some hi =>
    if lo = .pinf ∧ hi = .ninf then (.empty, false)
    else if lo = .pinf ∨ hi = .ninf ∨ hi.lt lo then (.empty, true)
    else (.mk lo hi, false)
  | _, _ => (.empty, true)

/-- A pair's bits with its bounds rounded outward, R240; Empty is canonical. -/
def Fmt.pair (f : Fmt) (v : Ivl) : Nat :=
  let put := fun lo hi => lo + hi * 2 ^ f.width
  match v with
  | .empty => put (f.infBits false) (f.infBits true)
  | .mk lo hi => put (f.bound .rd lo) (f.bound .ru hi)

/-- Whether the rounded pair has an infinite bound. -/
def Fmt.infinite (f : Fmt) (v : Ivl) : Bool :=
  match v with
  | .empty => false
  | .mk lo hi => f.bound .rd lo == f.infBits true || f.bound .ru hi == f.infBits false

/-- A finite bound overflows the format when it is rounded outward. -/
def Fmt.overflows (f : Fmt) (v : Ivl) : Bool :=
  match v with
  | .empty => false
  | .mk lo hi => (lo != .ninf && f.bound .rd lo == f.infBits true) || (hi != .pinf && f.bound .ru hi == f.infBits false)

/-- A conversion that rounds outward: a bound that overflows sets `UNBOUNDED_MADE`, R250. -/
def Fmt.narrow (f : Fmt) (v : Ivl) : Res := ⟨f.pair v, stIf (f.overflows v) stUnbounded⟩

/-- The rounded result as an interval of the format again. -/
def Fmt.round (f : Fmt) (v : Ivl) : Ivl := (f.readPair (f.pair v)).1

/-! ## Set images, R240 to R243 -/

/-- The exact image of an operation, and whether a point of the operands lay outside its domain. -/
structure Img where
  s : Ivl
  clip : Bool
deriving DecidableEq, Repr

/-- The result of R240 for operands and their image. -/
def Fmt.image (f : Fmt) (ops : List Ivl) (img : Img) : Res :=
  if ops.any Ivl.isEmpty then ⟨f.pair .empty, 0⟩
  else ⟨f.pair img.s, stIf img.clip stDomain ||| stIf img.s.isEmpty stEmpty
    ||| stIf (f.infinite img.s && ops.all Ivl.bounded) stUnbounded⟩

def ivAdd : Ivl → Ivl → Ivl
  | .mk a1 a2, .mk b1 b2 => .mk (a1.add b1) (a2.add b2)
  | _, _ => .empty
def ivNeg : Ivl → Ivl
  | .empty => .empty
  | .mk a1 a2 => .mk a2.neg a1.neg
def ivMul : Ivl → Ivl → Ivl
  | .mk a1 a2, .mk b1 b2 =>
    let p := a1.mul b1
    let q := a1.mul b2
    let r := a2.mul b1
    let t := a2.mul b2
    .mk ((p.min q).min (r.min t)) ((p.max q).max (r.max t))
  | _, _ => .empty
def ivSqr : Ivl → Ivl
  | .empty => .empty
  | .mk a1 a2 =>
    let p := a1.mul a1
    let q := a2.mul a2
    if a1.isPos || a2.isNeg then .mk (p.min q) (p.max q) else .mk .zero (p.max q)

/-- a / b for a divisor within [0, b2], b2 above 0, with the point 0 removed. -/
def divPos (a1 a2 b1 b2 : Bnd) : Ivl :=
  let lo := if b1.isPos then (if a1.isNeg then a1.div b1 else a1.div b2)
            else if a1.isNeg then .ninf else a1.div b2
  let hi := if b1.isPos then (if a2.isPos then a2.div b1 else a2.div b2)
            else if a2.isPos then .pinf else a2.div b2
  .mk lo hi

/-- The two pieces of R242 for a divisor with 0 in its interior. -/
def divPieces (a1 a2 b1 b2 : Bnd) : Ivl × Ivl :=
  (divPos a2.neg a1.neg .zero b1.neg, divPos a1 a2 .zero b2)

def ivDiv (a b : Ivl) : Img :=
  match a, b with
  | .mk a1 a2, .mk b1 b2 =>
    if b1.isZero && b2.isZero then ⟨.empty, true⟩
    else if !b1.isNeg then ⟨divPos a1 a2 b1 b2, b1.isZero⟩
    else if !b2.isPos then ⟨divPos a2.neg a1.neg b2.neg b1.neg, b2.isZero⟩
    else
      let p := divPieces a1 a2 b1 b2
      ⟨p.1.hull p.2, true⟩
  | _, _ => ⟨.empty, false⟩

/-- The two results of `FDIVP`, R242: two pieces exactly when the divisor has 0 in its interior and 0 is not in the
dividend, which is when the exact images are disjoint. -/
def Fmt.divp (f : Fmt) (a b : Ivl) : Res × Nat :=
  match a, b with
  | .mk a1 a2, .mk b1 b2 =>
    if b1.isNeg && b2.isPos && (a1.isPos || a2.isNeg) then
      let p := divPieces a1 a2 b1 b2
      -- a positive dividend's piece over the negative divisor lies below
      let q := if a1.isPos then p else (p.2, p.1)
      let st := stDomain ||| stIf ((f.infinite q.1 || f.infinite q.2) && a.bounded && b.bounded) stUnbounded
      (⟨f.pair q.1, st⟩, f.pair q.2)
    else (f.image [a, b] (ivDiv a b), f.pair .empty)
  | _, _ => (⟨f.pair .empty, 0⟩, f.pair .empty)

/-- A bound of an increasing function: its own lower or upper enclosure, and its limits at the infinities. -/
def mono (f : Q → Q × Q) (atNinf atPinf : Bnd) (a1 a2 : Bnd) : Ivl :=
  let lo := match a1 with | .ninf => atNinf | .pinf => atPinf | .fin q => .fin (f q).1
  let hi := match a2 with | .ninf => atNinf | .pinf => atPinf | .fin q => .fin (f q).2
  .mk lo hi

def ivSqrt : Ivl → Img
  | .empty => ⟨.empty, false⟩
  | .mk a1 a2 =>
    if a2.isNeg then ⟨.empty, true⟩
    else ⟨mono Q.sqrt .zero .pinf (a1.max .zero) a2, a1.isNeg⟩

/-- Bounds of 1/√q, for q above 0. -/
def rsqrtQ (q : Q) : Q × Q := Q.sqrt q.inv

def ivRsqrt : Ivl → Img
  | .empty => ⟨.empty, false⟩
  | .mk a1 a2 =>
    if !a2.isPos then ⟨.empty, true⟩
    else
      let hi := match a1.max .zero with
        | .fin q => if q.isZero then .pinf else .fin (rsqrtQ q).2
        | _ => .pinf
      let lo := match a2 with
        | .fin q => .fin (rsqrtQ q).1
        | _ => .zero
      ⟨.mk lo hi, !a1.isPos⟩

def ivLog2 : Ivl → Img
  | .empty => ⟨.empty, false⟩
  | .mk a1 a2 =>
    if !a2.isPos then ⟨.empty, true⟩
    else
      let lo := match a1.max .zero with
        | .fin q => if q.isZero then .ninf else .fin (log2Q q).1
        | _ => .ninf
      let hi := match a2 with
        | .fin q => .fin (log2Q q).2
        | _ => .pinf
      ⟨.mk lo hi, !a1.isPos⟩

def ivExp2 : Ivl → Img
  | .empty => ⟨.empty, false⟩
  | .mk a1 a2 => ⟨mono exp2Q .zero .pinf a1 a2, false⟩

def ivTanh : Ivl → Img
  | .empty => ⟨.empty, false⟩
  | .mk a1 a2 => ⟨mono tanhQ (.fin Q.one.neg) (.fin Q.one) a1 a2, false⟩

/-- Whether a point 2k + r, k an integer, lies in [a, b]. -/
def meets (a b r : Q) : Bool := a.le ((Q.ofInt (2 * ((b.sub r).half).floor)).add r)

def ivSinpi : Ivl → Img
  | .empty => ⟨.empty, false⟩
  | .mk (.fin a) (.fin b) =>
    let p := sinpiQ a
    let q := sinpiQ b
    let lo := if meets a b ⟨3, 1, -1⟩ then Q.one.neg else if p.1.le q.1 then p.1 else q.1
    let hi := if meets a b (Q.pow2 (-1)) then Q.one else if p.2.le q.2 then q.2 else p.2
    ⟨.mk (.fin lo) (.fin hi), false⟩
  | .mk _ _ => ⟨.mk (.fin Q.one.neg) (.fin Q.one), false⟩

/-- cos(πx) = sin(π(x + 1/2)). -/
def ivCospi (v : Ivl) : Img :=
  let h : Bnd := .fin (Q.pow2 (-1))
  ivSinpi (ivAdd v (.mk h h))

/-- Bounds of x^n at a bound, n above 0. -/
def powBnd (n : Nat) : Bnd → Bnd × Bnd
  | .ninf => if n % 2 = 0 then (.pinf, .pinf) else (.ninf, .ninf)
  | .pinf => (.pinf, .pinf)
  | .fin q =>
    if q.isZero then (.zero, .zero)
    else
      let p := Q.pow q n
      if q.isNeg ∧ n % 2 = 1 then (.fin p.2.neg, .fin p.1.neg) else (.fin p.1, .fin p.2)

/-- x^n over an interval, n above 0, R363. -/
def powPos (n : Nat) : Ivl → Ivl
  | .empty => .empty
  | .mk a1 a2 =>
    let p := powBnd n a1
    let q := powBnd n a2
    if n % 2 = 1 then .mk p.1 q.2
    else if a1.isPos || a2.isNeg then .mk (p.1.min q.1) (p.2.max q.2)
    else .mk .zero (p.2.max q.2)

def ivPown (a : Ivl) (n : Int) : Img :=
  match a with
  | .empty => ⟨.empty, false⟩
  | .mk a1 a2 =>
    if n = 0 then ⟨Ivl.point Q.one, false⟩
    else if 0 < n then ⟨powPos n.toNat a, false⟩
    else
      -- 1 / x^−n; an even power of an operand around 0 starts at 0
      let d := ivDiv (Ivl.point Q.one) (powPos n.natAbs a)
      ⟨d.s, !a1.isPos && !a2.isNeg⟩

/-! ## Midpoint, R246 and R251 -/

/-- The exact q of the midpoint rule; Empty has none. -/
def Fmt.midQ (f : Fmt) (v : Ivl) : Option Q :=
  match v with
  | .mk (.fin a) (.fin b) => some (a.add b).half
  | .mk (.fin _) _ => some f.largest
  | .mk _ (.fin _) => some f.largest.neg
  | .mk _ _ => some Q.zero
  | .empty => none

/-- The midpoint in the interval's own format. -/
def Fmt.mid (f : Fmt) (v : Ivl) : Option Q :=
  (f.midQ v).map fun q =>
    let c := f.code .rne q
    if q.isNeg then (f.value c).neg else f.value c

/-- The halves of a splittable interval, R246. -/
def Fmt.halves (f : Fmt) (v : Ivl) : Option (Ivl × Ivl) :=
  match v, f.mid v with
  | .mk lo hi, some m =>
    if lo.lt (.fin m) && (Bnd.fin m).lt hi then some (.mk lo (.fin m), .mk (.fin m) hi) else none
  | _, _ => none

/-! ## Set operations and bounds, R368 and R369 -/

/-- A point as a pair: an infinite point has the largest finite value on its other side. -/
def Fmt.pointPair (f : Fmt) (b : Bnd) : Ivl :=
  match b with
  | .ninf => .mk .ninf (.fin f.largest.neg)
  | .pinf => .mk (.fin f.largest) .pinf
  | b => .mk b b

def ivIsect : Ivl → Ivl → Ivl
  | .mk a1 a2, .mk b1 b2 => let lo := a1.max b1
                            let hi := a2.min b2
                            if hi.lt lo then .empty else .mk lo hi
  | _, _ => .empty
def ivAbs : Ivl → Ivl
  | .empty => .empty
  | .mk a1 a2 => if !a1.isNeg then .mk a1 a2 else if !a2.isPos then .mk a2.neg a1.neg else .mk .zero (a1.neg.max a2)
def ivMin : Ivl → Ivl → Ivl
  | .mk a1 a2, .mk b1 b2 => .mk (a1.min b1) (a2.min b2)
  | _, _ => .empty
def ivMax : Ivl → Ivl → Ivl
  | .mk a1 a2, .mk b1 b2 => .mk (a1.max b1) (a2.max b2)
  | _, _ => .empty
def ivMag : Ivl → Option Bnd
  | .empty => none
  | .mk a1 a2 => some (a1.abs.max a2.abs)
def ivMig : Ivl → Option Bnd
  | .empty => none
  | .mk a1 a2 => some (if !a1.isPos && !a2.isNeg then .zero else a1.abs.min a2.abs)

/-- A point result, Empty for none. -/
def Fmt.pt (f : Fmt) (b : Option Bnd) : Res :=
  match b with
  | some x => ⟨f.pair (f.pointPair x), 0⟩
  | none => ⟨f.pair .empty, 0⟩

def Fmt.rad (f : Fmt) (v : Ivl) : Res :=
  match v, f.mid v with
  | .empty, _ => ⟨f.pair .empty, 0⟩
  | .mk (.fin a) (.fin b), some m =>
    let l := m.sub a
    let r := b.sub m
    let w := f.bound .ru (.fin (if l.lt r then r else l))
    if w = f.infBits false then ⟨f.pair (f.pointPair .pinf), stUnbounded⟩ else ⟨w + w * 2 ^ f.width, 0⟩
  | _, _ => ⟨f.pair (f.pointPair .pinf), 0⟩

def Fmt.wid (f : Fmt) (v : Ivl) : Res :=
  match v with
  | .empty => ⟨f.pair .empty, 0⟩
  | .mk (.fin a) (.fin b) =>
    let w : Ivl := .mk (.fin (b.sub a)) (.fin (b.sub a))
    ⟨f.pair w, stIf (f.infinite w) stUnbounded⟩
  | .mk _ _ => ⟨f.pair (f.pointPair .pinf), 0⟩

/-- `FMK`: Empty from an ill-formed pair, with `ILLFORMED`. -/
def Fmt.mkPair (f : Fmt) (a b : Ivl) : Res :=
  match a, b with
  | .mk lo _, .mk _ hi => if hi.lt lo then ⟨f.pair .empty, stIll⟩ else ⟨f.pair (.mk lo hi), 0⟩
  | _, _ => ⟨f.pair .empty, stIll⟩

/-! ## Comparison, Table 10.7 -/

def ivCmp (rel : Nat) (a b : Ivl) : Tri :=
  match a, b with
  | .mk a1 a2, .mk b1 b2 =>
    let same := a1.eq a2 && a2.eq b1 && b1.eq b2
    let apart := a2.lt b1 || b2.lt a1
    match rel with
    | 0 => if a2.lt b1 then .t else if b2.le a1 then .f else .u
    | 1 => if a2.le b1 then .t else if b2.lt a1 then .f else .u
    | 2 => if same then .t else if apart then .f else .u
    | 3 => if apart then .t else if same then .f else .u
    | 4 => triOfBool (b1.le a1 && a2.le b2)
    | 5 => triOfBool ((b1.lt a1 || (a1 == .ninf && b1 == .ninf)) && (a2.lt b2 || (a2 == .pinf && b2 == .pinf)))
    | 6 => triOfBool apart
    | _ => .f
  | .empty, _ => triOfBool (rel == 7)
  | _, _ => .f

/-! ## Compressed intervals, R255 and R256 -/

/-- Layout of `mid32` and `mid64`: exponent, fraction and radius bits. -/
structure MidFmt where
  eb : Nat
  fb : Nat
  rb : Nat
deriving DecidableEq, Repr

def mid32 : MidFmt := ⟨8, 15, 8⟩
def mid64 : MidFmt := ⟨11, 40, 12⟩
def MidFmt.bias (m : MidFmt) : Int := 2 ^ (m.eb - 1) - 1
def MidFmt.fmt (m : MidFmt) : Fmt :=
  { p := m.fb + 1, emin := 1 - m.bias, top := (2 ^ m.eb - 1) * 2 ^ m.fb - 1, width := m.eb + m.fb + 1 }

/-- The exact value of a word; a reserved code reads as Empty, and the second component says so. -/
def MidFmt.decode (m : MidFmt) (w : Nat) : Ivl × Bool :=
  let rho := w % 2 ^ m.rb
  let c := w / 2 ^ m.rb % 2 ^ (m.eb + m.fb)
  let e := c / 2 ^ m.fb
  if e = 2 ^ m.eb - 1 ∧ rho = 0 then (.empty, false)
  else if rho = 2 ^ m.rb - 1 then (Ivl.entire, false)
  else if e = 2 ^ m.eb - 1 then (.empty, true)
  else
    let v := m.fmt.value c
    let mid := if w / 2 ^ (m.rb + m.eb + m.fb) % 2 = 1 then v.neg else v
    let r := Q.scale (Q.ofInt rho) (max e 1 - m.bias - m.fb)
    (.mk (.fin (mid.sub r)) (.fin (mid.add r)), false)

/-- The word that encloses an interval. -/
def MidFmt.encode (m : MidFmt) (v : Ivl) : Res :=
  let entire := 2 ^ m.rb - 1
  match v with
  | .empty => ⟨(2 ^ m.eb - 1) * 2 ^ (m.fb + m.rb), 0⟩
  | .mk (.fin lo) (.fin hi) =>
    let q := (lo.add hi).half
    let f := m.fmt
    let c := f.code .rne q
    if f.top < c then ⟨entire, stUnbounded⟩
    else
      let mid := if q.isNeg then (f.value c).neg else f.value c
      let l := mid.sub lo
      let r := hi.sub mid
      let far := if l.lt r then r else l
      let rho := ((far.scale (m.bias + m.fb - max (c / 2 ^ m.fb) 1)).ceil).toNat
      if entire ≤ rho then ⟨entire, stUnbounded⟩ else ⟨f.signed q.isNeg c * 2 ^ m.rb + rho, 0⟩
  | .mk _ _ => ⟨entire, 0⟩

/-! ## Conversions -/

/-- A point as an interval, R249. -/
def Fmt.ofPoint (f : Fmt) (p : Pt) : Res :=
  match p with
  | .nan => ⟨f.pair .empty, stEmpty⟩
  | .inf neg => ⟨f.pair (f.pointPair (if neg then .ninf else .pinf)), stUnbounded⟩
  | .fin q => f.narrow (Ivl.point q)

/-- A point scaled by an `e8m0` code, R253. -/
def scaled (p : Pt) (s : Nat) : Pt :=
  match e8m0 s, p with
  | none, _ => .nan
  | some k, .fin q => .fin (q.mul k)
  | some _, p => p

/-- `FCVT`: the source's bits, its type code, its infinity selector and its scale, R372. -/
def Fmt.convert (f : Fmt) (code : Nat) (inf : Bool) (scale : Option Nat) (w : Nat) : Res :=
  if code < 8 then f.narrow (Ivl.point (Q.ofInt ((ITy.of code).read w)))
  else if 0x0C ≤ code ∧ code ≤ 0x0E then
    let v := (viewFmt code).readPair w
    let r := f.narrow v.1
    ⟨r.bits, r.st ||| stIf v.2 stIll⟩
  else if code = 0x10 ∨ code = 0x11 then
    let v := (if code = 0x10 then mid32 else mid64).decode w
    let r := f.narrow v.1
    ⟨r.bits, r.st ||| stIf v.2 stIll⟩
  else
    let p := decodePoint code inf w
    f.ofPoint (match scale with | some s => scaled p s | none => p)

/-- `FCOLL`: RNE of the exact midpoint into a type, R373. -/
def Fmt.collapse (f : Fmt) (code : Nat) (v : Ivl) : Res :=
  if code < 8 then
    let t := ITy.of code
    match f.midQ v with
    | none => ⟨0, stConvSat⟩
    | some q =>
      let n := q.toInt .rne
      ⟨t.reg (t.sat n), stIf (t.sat n != n) stConvSat⟩
  else
    match f.midQ v with
    | none => ⟨(encodePoint code false .rne .nan).1, stNan⟩
    | some q =>
      let r := encodePoint code false .rne (.fin q)
      ⟨r.1, stIf r.2 stConvSat⟩

/-- `FQ8`: the code under a scale, with the scale in bits [15:8], R374. -/
def Fmt.quant (f : Fmt) (code : Nat) (inf : Bool) (s : Nat) (v : Ivl) : Res :=
  let b := B8.ofCode code inf
  match e8m0 s, f.midQ v with
  | some k, some q =>
    let r := b.encode .rne (.fin (q.div k))
    ⟨s * 256 + r.1, stIf r.2 stConvSat⟩
  | _, _ => ⟨s * 256 + b.nanCode, stNan⟩

/-- The magnitude of an amax update in binary32: RU of mag(X), R375; none for Empty. -/
def magWord (v : Ivl) : Option Nat := (ivMag v).map fun m => f32.bound .ru m

/-- The amax word after an update by a binary32 magnitude, R375. -/
def amaxUpdate (w v : Nat) : Nat :=
  let old := match f32.decode w with
    | .nan => 0
    | .inf neg => if neg then 0 else w
    | .fin q => if q.isNeg ∨ q.isZero then 0 else w
  if old < v then v else old

end Sys2Proof.Machine
end

