-- ==== Sys2Proof/Machine/Access.lean ====
section
/-!
DEFINITION. The memory path of a core: scratch levels, lookaside, L1, accesses in flight, regions and their restart,
the homes of `glob` bytes: R89, R94 to R103, R188 to R203, R214 to R217.
-/
namespace Sys2Proof.Machine

/-! ## Scratch levels: R189 to R197 -/

def Space.ofCode (n : Nat) : Space :=
  match n with | 0 => .glob | 1 => .core | 2 => .clus | 3 => .die | _ => .lane

/-- The core that holds rank k of a crew's cluster, R111 and R126. DEDUCED, log 58. -/
def CrewCfg.rankCore (c : CrewCfg) (k : Nat) : Nat := c.core0 + k % max 1 c.clw + 16 * (k / max 1 c.clw)

/-- Bytes of a crew's space, R194. -/
def State.spaceSize (s : State) (d : Nat) (cw : Crew) (sp : Space) : Nat :=
  match sp with
  | .glob => 2 ^ 56
  | .core => cw.cfg.scrKB * 1024
  | .clus => cw.cfg.clw * cw.cfg.clh * cw.cfg.clusKB * 1024
  | .die => (s.gridDie d cw.cfg.handle).scrSize * 65536
  | .lane => 256

/-- Where a scratch byte lies: its key, and the core and word whose valid bit guards it, R192, R193 and R195. -/
structure Spot where
  key : Nat
  word : Option (Nat × Nat)
deriving DecidableEq, Repr

/-- DEDUCED, log 58. -/
def State.spot (s : State) (r : CrewRef) (cw : Crew) (sp : Space) (laneCtx off : Nat) : Spot :=
  match sp with
  | .lane => ⟨laneKey r.die r.core laneCtx (off % 256), none⟩
  | .die => ⟨dieKey r.die ((s.gridDie r.die cw.cfg.handle).scrBase * 65536 + off), none⟩
  | .clus =>
    let n := max 1 (cw.cfg.clw * cw.cfg.clh)
    let k := off / 256 % n
    let c := cw.cfg.rankCore k
    let o := cw.cfg.clusBase.getD k 0 * 1024 + off / 256 / n * 256 + off % 256
    ⟨coreKey r.die c o, some (c, o / 4)⟩
  | _ =>
    let o := cw.cfg.kbBase * 1024 + off
    ⟨coreKey r.die r.core o, some (r.core, o / 4)⟩

def State.validAt (s : State) (d : Nat) : Option (Nat × Nat) → Bool
  | none => true
  | some w => (s.coreOf d w.1).valid.get false w.2

/-- Writes a scratch byte: the first write of a word makes its other bytes zero and sets its bit. -/
def State.putSpot (s : State) (d : Nat) (p : Spot) (v : Byte) : State :=
  match p.word with
  | none => s.writeKey p.key [v]
  | some w =>
    if s.validAt d p.word then s.writeKey p.key [v]
    else
      let s1 := (s.clearKey (coreKey d w.1 (4 * w.2)) 4).writeKey p.key [v]
      s1.updCore d w.1 fun c => { c with valid := c.valid.set w.2 true }

/-- A scratch byte; a byte of an uninitialised word reads as 0. -/
def State.getSpot (s : State) (d : Nat) (p : Spot) : Byte := if s.validAt d p.word then Memory.read s.mem p.key else 0

def State.putScr (s : State) (r : CrewRef) (cw : Crew) (sp : Space) (laneCtx off : Nat) (bs : List Byte) : State :=
  ((List.range bs.length).zip bs).foldl (fun s x => s.putSpot r.die (s.spot r cw sp laneCtx (off + x.1)) x.2) s

def State.getScr (s : State) (r : CrewRef) (cw : Crew) (sp : Space) (laneCtx off n : Nat) : List Byte :=
  (List.range n).map fun i => s.getSpot r.die (s.spot r cw sp laneCtx (off + i))

/-- The first address, word by word, of an uninitialised word that a read meets. -/
def State.uninit (s : State) (r : CrewRef) (cw : Crew) (sp : Space) (off n : Nat) : Option Nat :=
  let words := (List.range ((off % 4 + n + 3) / 4)).map fun i => off / 4 * 4 + 4 * i
  words.find? fun a => !s.validAt r.die (s.spot r cw sp 0 a).word

/-! ## Multicast windows: R204 -/

/-- The port at which a byte of the cluster's space lies: owning core, block of 256 bytes, offset in the block. -/
def State.mcSpot (s : State) (r : CrewRef) (cw : Crew) (off : Nat) : Nat × Nat × Nat :=
  match (s.spot r cw .clus 0 off).word with
  | some w => (w.1, w.2 / 64, w.2 % 64 * 4 + off % 4)
  | none => (0, 0, 0)

/-- What a reader finds at a block: no window that concerns it, an open window that it waits at or may join, or the bytes
of one that has closed. -/
inductive McFound where
  | none
  | waits
  | joins
  | bytes (bs : List Byte)
deriving DecidableEq, Repr

def Core.mcFind (c : Core) (block : Nat) (me : Nat × Nat × Nat) : McFound :=
  match c.windows.find? fun w => w.block == block && w.joined.contains me with
  | some w => (match w.data with | some bs => .bytes bs | none => .waits)
  | none => if c.windows.any fun w => w.block == block && w.data.isNone then .joins else .none

/-- A reader joins the open window of a block. -/
def Core.mcJoin (c : Core) (block : Nat) (me : Nat × Nat × Nat) : Core :=
  { c with windows := c.windows.map fun w =>
      if w.block = block ∧ w.data.isNone then { w with joined := w.joined ++ [me] } else w }

/-- A reader has received the bytes of a window that closed. -/
def Core.mcLeave (c : Core) (block : Nat) (me : Nat × Nat × Nat) : Core :=
  let leave := fun (w : McWin) => if w.block = block ∧ w.data.isSome then { w with joined := w.joined.erase me } else w
  { c with windows := (c.windows.map leave).filter fun w => w.data.isNone || !w.joined.isEmpty }

/-- The blocks that reads of the cluster's space touch, each once. -/
def State.mcBlocks (s : State) (r : CrewRef) (cw : Crew) (offs : List Nat) : List (Nat × Nat) :=
  (offs.map fun o => let p := s.mcSpot r cw o; (p.1, p.2.1)).eraseDups

/-- What holds a reader of the cluster's space: it joins the open windows of its blocks, and waits until they have closed. -/
def State.mcHeld (s : State) (r : CrewRef) (cw : Crew) (me : Nat × Nat × Nat) (offs : List Nat) : Option State :=
  let found := (s.mcBlocks r cw offs).map fun b => (b, (s.coreOf r.die b.1).mcFind b.2 me)
  if found.any fun x => x.2 == .joins || x.2 == .waits then
    some (found.foldl (fun (s : State) x => if x.2 = .joins then s.updCore r.die x.1.1 fun c => c.mcJoin x.1.2 me else s) s)
  else none

/-- A byte of the cluster's space as a reader that has waited sees it. -/
def State.mcByte (s : State) (r : CrewRef) (cw : Crew) (me : Nat × Nat × Nat) (off : Nat) : Byte :=
  let p := s.mcSpot r cw off
  match (s.coreOf r.die p.1).mcFind p.2.1 me with
  | .bytes bs => bs.getD p.2.2 0
  | _ => s.getSpot r.die (s.spot r cw .clus 0 off)

def State.mcRead (s : State) (r : CrewRef) (cw : Crew) (me : Nat × Nat × Nat) (off n : Nat) : List Byte :=
  (List.range n).map fun i => s.mcByte r cw me (off + i)

def State.mcLeaves (s : State) (r : CrewRef) (cw : Crew) (me : Nat × Nat × Nat) (offs : List Nat) : State :=
  (s.mcBlocks r cw offs).foldl (fun (s : State) b => s.updCore r.die b.1 fun c => c.mcLeave b.2 me) s

/-- A thread as a reader. -/
def ThreadRef.reader (t : ThreadRef) : Nat × Nat × Nat := (t.core, t.slot, match t.band with | some b => b + 1 | none => 0)

/-- An entry of the warning log, R196 and R197. -/
def State.logUninit (s : State) (r : CrewRef) (eng : Bool) (clus : Bool) (lane addr pc : Nat) : State :=
  s.updCrew r fun cw =>
    let e := BitVec.ofNat 64 ((if eng then 2 ^ 63 else 0) + (if clus then 2 ^ 62 else 0) + lane % 64 * 2 ^ 56
      + addr % 2 ^ 24 * 2 ^ 32 + pc % 2 ^ 32)
    let n := cw.ctl.wlogCnt
    { cw with ctl := { cw.ctl with
        wlog := if n < 16 then (if n < cw.ctl.wlog.length then cw.ctl.wlog.set n e else cw.ctl.wlog ++ [e]) else cw.ctl.wlog,
        wlogCnt := min (n + 1) (2 ^ 32 - 1) } }

/-! ## The L1: R199 and R200 -/

def Core.l1Find (c : Core) (ctx : B6) (va : Nat) : Option L1Line := c.l1.find? fun l => l.ctx == ctx && l.line == va / 64

/-- A read piece of a line no longer installs it. DEDUCED, log 37. -/
def Acc.noInstall (a : Acc) (f : Piece → Bool) : Acc :=
  if a.kind = .load then { a with pieces := a.pieces.map fun p => { p with install := p.install && !f p } } else a

def Band.noInstall (b : Band) (f : Piece → Bool) : Band := { b with accs := b.accs.map fun a => a.noInstall f }

/-- Invalidates lines, and keeps fills already sent from installing theirs. -/
def Core.l1Drop (c : Core) (f : B6 → Nat → Bool → Bool) : Core :=
  let hitBy := fun (w : Crew) (p : Piece) => f (effCtx (handleCtx w.cfg.handle) p.va) (p.va / 64) (p.kind == .free)
  let fix := fun (w : Crew) => { w with
    bands := w.bands.map fun b => (b.1, b.2.noInstall (hitBy w)),
    front := w.front.map fun fr => { fr with th := fr.th.noInstall (hitBy w) } }
  { c with l1 := c.l1.filter fun l => !f l.ctx l.line l.free, crews := c.crews.map fun w => (w.1, fix w.2) }

def State.l1Drop (s : State) (d c : Nat) (f : B6 → Nat → Bool → Bool) : State := s.updCore d c fun x => x.l1Drop f

/-- An acquire of scope CORE or wider drops every RELEASE line; a drain drops every FREE line. DEDUCED, log 38. -/
def State.l1Acquire (s : State) (d c : Nat) : State := s.l1Drop d c fun _ _ free => !free
def State.l1Drain (s : State) (d c : Nat) : State := s.l1Drop d c fun _ _ free => free

/-- The least recently used line of a set. -/
def lruLine : List L1Line → Option L1Line
  | [] => none
  | l :: t => match lruLine t with
    | some m => if l.used ≤ m.used then some l else some m
    | none => some l

/-- A load has hit a line, which becomes the one used last. -/
def Core.l1Use (c : Core) (l : L1Line) (now : Nat) : Core :=
  { c with l1 := (c.l1.filter fun x => !(x.ctx == l.ctx && x.line == l.line)) ++ [{ l with used := now }] }

/-- Enters a line that a fill brought: 256 sets of 8 ways, least recently used replaced. -/
def Core.l1Install (c : Core) (ctx : B6) (va now : Nat) (free : Bool) (bs : List Byte) : Core :=
  let line := va / 64
  let rest := c.l1.filter fun l => !(l.ctx == ctx && l.line == line)
  let set := rest.filter fun l => l.line % 256 == line % 256
  let rest' := if set.length < 8 then rest else match lruLine set with
    | some v => rest.filter fun l => !(l.ctx == v.ctx && l.line == v.line)
    | none => rest
  { c with l1 := rest' ++ [{ ctx := ctx, line := line, bytes := bs, free := free, used := now }] }

def spliceBytes (bs : List Byte) (off : Nat) (new : List Byte) : List Byte :=
  bs.take off ++ new ++ bs.drop (off + new.length)

/-- A store of the core updates its line, and no fill already sent installs it. -/
def Core.l1Store (c : Core) (ctx : B6) (va : Nat) (bs : List Byte) : Core :=
  let hit := c.l1Find ctx va
  let c1 := c.l1Drop fun x l _ => x == ctx && l == va / 64
  match hit with
  | some l => { c1 with l1 := c1.l1 ++ [{ l with bytes := spliceBytes l.bytes (va % 64) bs }] }
  | none => c1

/-! ## The lookaside: R94 -/

def PalE.covers (e : PalE) (ctx : B6) (va : Nat) : Bool :=
  e.ctx == ctx && e.page ≤ va && va < e.page + pageSize (attrSz e.attr)

def palFind (pal : List PalE) (ctx : B6) (va time : Nat) : Option PalE :=
  pal.find? fun e => e.covers (effCtx ctx va) va && time < e.expiry

/-- Each part of [va, va + len) that lies in one block of a size. -/
def splitAt (blk va : Nat) : Nat → List (Nat × Nat)
  | len => (List.range ((va % blk + len + blk - 1) / blk)).map fun i =>
      let lo := max va (va / blk * blk + i * blk)
      (lo, min (va + len) (va / blk * blk + (i + 1) * blk) - lo)

/-- The first key not used in a table with rising keys. -/
def Tbl.gap {α : Type} : Nat → Tbl α → Nat
  | n, [] => n
  | n, (k, _) :: t => if k = n then Tbl.gap (n + 1) t else n

/-- Takes a tag for a request of a die. -/
def State.newTag (s : State) (d : Nat) (u : TagUse) : Nat × State :=
  let n := Tbl.gap 0 (s.dieOf d).tags
  (n, s.updDie d fun x => { x with tags := x.tags.set n u })

/-- The package that answers for an address. -/
def State.pkgOf (s : State) (va : Nat) : Nat := if inWindow va then windowPkg va else s.pkg

/-- Two addresses of a context lie in one page: of one mapping that a controller of this package holds, or, where none
holds both, of one block of 64 KiB. DESIGN CHOICE, log 83. -/
def State.samePage (s : State) (cx : B6) (a b : Nat) : Bool :=
  a / 65536 == b / 65536 || s.ctrls.any fun k => k.2.maps.any fun m => m.covers cx a && m.covers cx b

/-- The core's request for the permissions of a page is under way. -/
def State.permAsked (s : State) (d c : Nat) (cx : B6) (va : Nat) : Bool :=
  (s.dieOf d).tags.any fun u => match u.2 with | .perm k x v _ => k == c && x == cx && s.samePage cx v va | _ => false

/-- Asks a page's permissions, unless the core has asked already, R94 and R95. -/
def State.askPerm (s : State) (d c : Nat) (ctx : B6) (va : Nat) : State :=
  let cx := effCtx ctx va
  if s.permAsked d c cx va then s
  else
    let n := s.newTag d (.perm c cx va s.timeCount)
    let h := n.2.hdr cx n.1 d (8 + s.stackOf ctx va)
    n.2.send { h with dstPkg := BitVec.ofNat 8 (s.pkgOf va) } (.permreq (BitVec.ofNat 56 va) (BitVec.ofNat 64 s.timeCount))

/-! ## Requests of engines to other packages: R39, R82, R94 and R208 -/

/-- Enters a permission in the walk-ahead lookaside, replacing the oldest of 64 entries, log 12. DESIGN CHOICE, log 41. -/
def State.wpalEnter (s : State) (d c : Nat) (e : PalE) : State :=
  s.updCore d c fun k => { k with wpal := (if 64 ≤ k.wpal.length then k.wpal.drop 1 else k.wpal) ++ [e] }

/-- Asks a socket of the package that holds an address, unless the asker has asked the same already: the answer, once it has
come. `key` is what stands for the question. -/
def State.askRemote (s : State) (d c : Nat) (asker : Nat × Nat × Nat) (ctx : B6) (va sock : Nat) (key sent : Body) (use : TagUse) :
    Option (Byte × List Byte) × State :=
  match (s.coreOf d c).remote.find? fun x => x.asker == asker && x.body == key with
  | some x => (x.ans, s)
  | none =>
    let n := s.newTag d use
    let s1 := n.2.updCore d c fun k => { k with remote := k.remote ++ [{ tag := n.1, asker := asker, body := key, ans := none }] }
    (none, s1.send { s1.hdr ctx n.1 d sock with dstPkg := BitVec.ofNat 8 (s.pkgOf va) } sent)

/-- An asker has used the answers that it asked for. -/
def State.forgetRemote (s : State) (d c : Nat) (asker : Nat × Nat × Nat) : State :=
  if (s.coreOf d c).remote.any fun x => x.asker == asker then
    s.updCore d c fun k => { k with remote := k.remote.filter fun x => x.asker != asker }
  else s

/-- The bytes of an answer that were asked for: a packet's last slot may hold more. -/
def Remote.wanted (x : Remote) (bs : List Byte) : List Byte :=
  match x.body with
  | .read b => bs.take (b.cntM1.toNat + 1)
  | _ => bs

/-- The answer to a request comes. -/
def State.answerRemote (s : State) (d c tag : Nat) (ans : Byte × List Byte) : State :=
  s.updCore d c fun k => { k with remote := k.remote.map fun x =>
    if x.tag = tag then { x with ans := some (ans.1, x.wanted ans.2) } else x }

/-- A thread that reads for itself, as an asker. -/
def ThreadRef.asker (t : ThreadRef) : Nat × Nat × Nat := (t.slot, (match t.band with | some b => 6 + b | none => 5), 0)

/-- The socket of the home of a byte. DEDUCED, log 70. -/
def State.homeSock (s : State) (ctx : B6) (va : Nat) (kind : PageKind) (ddr : Bool) : Nat :=
  if ddr then ctrlSock (16 + s.channelOf va)
  else if kind = .strict then 8 + s.stackOf ctx va else s.stackOf ctx va / 2

/-! ## The instruction cache: Table 7.1, R39 and R461 -/

/-- A line of code enters the instruction cache of 1024 lines; the one used longest ago makes room. DESIGN CHOICE, log 39. -/
def Core.keepCode (c : Core) (ctx : B6) (line : Nat) (bs : List Byte) : Core :=
  let rest := c.icache.filter fun l => !(l.ctx == ctx && l.line == line)
  { c with icache := (if rest.length < 1024 then rest else rest.drop 1) ++ [{ ctx := ctx, line := line, bytes := bs }] }

def Core.codeLine (c : Core) (ctx : B6) (line : Nat) : Option ILine := c.icache.find? fun l => l.ctx == ctx && l.line == line

/-- Asks a line of code of another package, unless the core has asked already. -/
def State.askCode (s : State) (d c : Nat) (ctx : B6) (va : Nat) : State :=
  let cx := effCtx ctx va
  if (s.dieOf d).tags.any fun u => match u.2 with | .fetch k x l => k == c && x == cx && l == va / 64 | _ => false then s
  else
    let a := match palFind (s.coreOf d c).pal ctx va s.timeCount with | some x => x.attr | none => 0
    let n := s.newTag d (.fetch c cx (va / 64))
    let h := n.2.hdr cx n.1 d (s.homeSock ctx va (attrKind a) (attrDdr a))
    n.2.send { h with dstPkg := BitVec.ofNat 8 (s.pkgOf va) } (.read { va := BitVec.ofNat 56 (va / 64 * 64), cntM1 := 63, acq := false })

/-! ## Homes: R201 and R202 -/

/-- The status with which the home answers, and the keys of the bytes, R39 and R100. -/
def State.homeServe (s : State) (ctx : B6) (va len sock : Nat) : Nat × List Nat :=
  let cx := effCtx ctx va
  if len = 0 ∨ 64 < va % 64 + len then (3, [])
  else if (s.ctxOf cx.toNat).st = .free ∨ (inWindow va ∧ windowPkg va ≠ s.pkg) then (2, [])
  else
    let ddr := 24 ≤ sock
    let ks := (List.range len).map fun i =>
      if sock < 8 then s.globKeyCached ctx (va + i) ddr else s.globKey ctx (va + i) ddr
    if ks.all Option.isSome then (0, ks.filterMap id) else (1, [])

/-- Lines of an L2 slice: 1.5 MiB, R201. -/
def l2SliceLines : Nat := 24576

/-- Enters a line in its slice, R201: 64 slices by the line's number. A full slice loses one of its lines, by the free choices
from a number on. DESIGN CHOICE, log 11. -/
def l2Enter (l2 : List L2Tag) (free : Nat) (e : L2Tag) : List L2Tag :=
  let slice := l2.filter fun t => t.line % 64 == e.line % 64
  if slice.length < l2SliceLines then l2 ++ [e]
  else
    let victim := ((List.range slice.length).find? fun i => Config.freeBit (free + i)).getD 0
    (match slice[victim]? with | some v => l2.erase v | none => l2) ++ [e]

/-- A line served by a home L2 is held there until it is replaced, R201. DESIGN CHOICE, log 11. -/
def State.l2Touch (s : State) (ctx : B6) (va sock : Nat) : State :=
  let cx := effCtx ctx va
  if 8 ≤ sock ∨ ((s.dieOf sock).l2.any fun t => t.ctx == cx && t.line == va / 64) then s
  else s.updDie sock fun d => { d with l2 := l2Enter d.l2 s.free { ctx := cx, line := va / 64 } }

def State.homeRead (s : State) (ctx : B6) (va len sock : Nat) : Nat × List Byte × State :=
  match s.homeServe ctx va len sock with
  | (0, ks) => (0, ks.map (Memory.read s.mem), s.l2Touch ctx va sock)
  | (st, _) => (st, [], s)

def State.homeWrite (s : State) (ctx : B6) (va sock : Nat) (bs : List Byte) : Nat × State :=
  match s.homeServe ctx va bs.length sock with
  | (0, ks) => (0, (s.setMem ((ks.zip bs).foldl (fun m x => Memory.write m x.1 x.2) s.mem)).l2Touch ctx va sock)
  | (st, _) => (st, s)

/-! ## Atomic operations: Table 15.6, R388 to R390 -/

/-- The new value of a location and the status bits, by the operation codes of R39. -/
def atomResult (op width : Nat) (signed : Bool) (old operand expected : Nat) : Nat × BitVec 6 :=
  let t : ITy := { bits := 8 * width, signed := signed }
  let a := t.read old
  let b := t.read operand
  match op with
  | 0 => (t.bitsOf (a + b), 0)
  | 1 => (t.bitsOf (if a ≤ b then a else b), 0)
  | 2 => (t.bitsOf (if a ≤ b then b else a), 0)
  | 3 => (old &&& operand, 0)
  | 4 => (old ||| operand, 0)
  | 5 => (old ^^^ operand, 0)
  | 6 => (operand, 0)
  | 7 => (if old = expected then operand else old, 0)
  | 8 =>
    let f := if width = 4 then f16 else if width = 8 then f32 else f64
    let x := f.readPair old
    let y := f.readPair operand
    let r := f.image [x.1, y.1] ⟨ivAdd x.1 y.1, false⟩
    (r.bits, r.st ||| stIf (x.2 || y.2) stIll)
  | 9 => (amaxUpdate old operand, 0)
  | _ => (operand, 0)

/-- The bytes of a location after an atomic. -/
def atomBytes (width v : Nat) : List Byte := leBytes width (v % 2 ^ (8 * width))

def State.homeAtomic (s : State) (ctx : B6) (va sock op width : Nat) (signed : Bool) (operand expected : Nat) :
    Nat × Nat × State :=
  if 11 ≤ op ∨ va % width ≠ 0 then (3, 0, s)
  else match s.homeRead ctx va width sock with
    | (0, bs, s1) =>
      let old := leNat bs
      let r := atomResult op width signed old operand expected
      (0, old, (s1.homeWrite ctx va sock (atomBytes width r.1)).2)
    | (st, _, s1) => (st, 0, s1)

/-! ## Regions: R101 and R102 -/

/-- Every earlier access of the band has been performed: the region is committed, and no `AWAIT` still reads, Table 9.1. What a
release and a fence wait for. -/
def Band.quiet (b : Band) : Bool :=
  b.committed && b.waits.all fun w => match w.kind with | .await _ _ => false | _ => true

/-- The accesses and results of a region under way are discarded, with their flags. -/
def Band.discard (b : Band) : Band :=
  let b1 := b.accs.foldl (fun b a => b.flagDown a.flag) b
  let b2 := b1.pends.foldl (fun b p => b.flagDown p.flag) b1
  let b3 := (b2.waits.filter fun w => w.kind == .drain).foldl (fun b w => b.flagDown w.flag) b2
  { b3 with accs := [], pends := [], clob := [], waits := b3.waits.filter fun w => w.kind != .drain }

/-- The band goes back to its region's restart point, with the registers that stood there; at TRAP privilege it goes back
to its handler's first instruction, as the trap entered it, R102 and R274. DEDUCED, log 42. -/
def Band.restartRegion (b : Band) : Band :=
  let b1 := b.discard.loseLatches
  let at_ := if b.trapPriv then b.handlerAt else b.region.restart
  { b1 with r := if b.trapPriv then b.handlerSnap else b.region.snap, pending := none,
            region := { b.region with stores := 0 }, only := none,
            x := { b1.x with pc := at_, chain := none, phase := .fresh, lastSp := false } }

/-! ## Table 15.4: the tests of an access -/

/-- One lane's access. -/
structure Touch where
  lane : Nat
  addr : Int
  len : Nat
deriving DecidableEq, Repr

/-- What the tests before any access answer. -/
inductive Check where
  | ok
  | trap (code addr : Nat) (lanes : BitVec 64)
  | lookup (asks : List Ask)
deriving DecidableEq, Repr

def touchLanes (ts : List Touch) : BitVec 64 := maskOf 64 fun l => ts.any fun t => t.lane == l

/-- The first touch that a test refuses gives the address; all that it refuses are the faulting lanes. -/
def refuse (ts : List Touch) (code : Nat) (f : Touch → Option Nat) : Option Check :=
  match ts.filter fun t => (f t).isSome with
  | [] => none
  | t :: rest => some (.trap code ((f t).getD 0 % 2 ^ 56) (touchLanes (t :: rest)))

def firstCheck : List (Option Check) → Check
  | [] => .ok
  | some c :: _ => c
  | none :: t => firstCheck t

/-- An address lies in the slice of another package. -/
def State.foreign (s : State) (va : Nat) : Bool := inWindow va && windowPkg va != s.pkg

/-- An address lies in the slice of a package toward which no pod port leads, R82. -/
def State.noRoute (s : State) (va : Nat) : Bool := s.foreign va && (s.podPort (windowPkg va)).isNone

/-- Orders 1 to 8 of Table 15.4: `align` is the alignment an atomic asks. -/
def Env.check (e : Env) (s : State) (cw : Crew) (sp : Space) (align : Nat) (kind : AccKind) (need : W16 → Bool)
    (ts : List Touch) : Check :=
  let write := kind == .store || kind == .atomic
  let me := fun (p : Touch → Bool) (t : Touch) => if p t then some (t.addr % 2 ^ 56).toNat else none
  let size := s.spaceSize e.t.die cw sp
  let misaligned := fun (t : Touch) => decide (t.addr % (min t.len 16 : Nat) ≠ 0)
  let tooWide := fun (t : Touch) => decide ((2 : Int) ^ 56 < t.addr + t.len)
  let ctx := handleCtx cw.cfg.handle
  let pal := (s.coreOf e.t.die e.t.core).pal
  let parts := fun (t : Touch) => splitAt 65536 t.addr.toNat t.len
  let among := fun (p : Nat → Bool) (t : Touch) => ((parts t).find? fun x => p x.1).map fun x => x.1
  let lacks := fun (t : Touch) => (parts t).findSome? fun p =>
    match palFind pal ctx p.1 s.timeCount with
    | some x => if need x.attr then none else some p.1
    | none => none
  match firstCheck [
    if sp = .glob then refuse ts 3 (me tooWide) else none,
    if sp = .glob then none else refuse ts 2 (me fun t => decide (t.addr < 0) || decide ((size : Int) < t.addr + t.len) || misaligned t),
    refuse ts 2 (me fun t => decide (t.addr % (align : Int) ≠ 0)),
    if sp = .lane && write then refuse ts 6 (me fun t =>
      let within := fun (lo hi : Nat) => decide (t.addr < hi) && decide ((lo : Int) < t.addr + t.len)
      (!e.b.trapPriv && within 112 192) || (e.b.tasks.getLsbD t.lane && within 192 256)) else none,
    if sp = .glob && !(s.ctxOf ctx.toNat).gwin then refuse ts 1 (among inWindow) else none,
    if sp = .glob then refuse ts 4 (among s.noRoute) else none,
    if sp = .glob then refuse ts 1 lacks else none] with
  | .ok =>
    if sp = .glob then
      let asks := ts.flatMap fun t => (parts t).filterMap fun p =>
        match palFind pal ctx p.1 s.timeCount with
        | some _ => none
        | none => some ({ va := p.1, lanes := 1#64 <<< t.lane, index := if kind = .store then e.b.region.stores else 0xFFFF,
                          fetch := false } : Ask)
      if asks.isEmpty then .ok else .lookup asks
    else .ok
  | c => c

/-! ## Waiting at issue -/

/-- An earlier acquire or fence holds every memory access of the band at issue, R217 and R391. -/
def Band.memHeld (b : Band) : Bool :=
  (b.accs.any fun a => a.acquire) || b.waits.any fun w => match w.kind with | .fence _ _ => true | _ => false

/-- The state with the lookups of an instruction under way: the band waits at the instruction. -/
def Env.lookup (e : Env) (asks : List Ask) (s : State) : State :=
  let s1 := e.settled s
  let ctx := match s1.crewOf e.t.crew with | some cw => handleCtx cw.cfg.handle | none => 0
  let s2 := asks.foldl (fun s a => s.askPerm e.t.die e.t.core ctx a.va) s1
  s2.updThread e.t fun b => { b with x := { b.x with phase := .lookup asks } }

/-- The band waits at the instruction for an answer of another package about an address of its own access. -/
def Env.waitAway (e : Env) (va : Nat) (s : State) : State :=
  (e.settled s).updThread e.t fun b =>
    { b with x := { b.x with phase := .lookup [{ va := va, lanes := e.lanes, index := 0xFFFF, fetch := false }] } }

/-- Runs the tests of an access, then what performs it. -/
def Env.access (e : Env) (s : State) (cw : Crew) (sp : Space) (align : Nat) (kind : AccKind) (need : W16 → Bool)
    (ts : List Touch) (k : Out) : Out :=
  match e.check s cw sp align kind need ts with
  | .trap code addr lanes => .next (e.raise 7 (BitVec.ofNat 64 (code * 2 ^ 60 + addr)) lanes s)
  | .lookup asks => .next (e.lookup asks s)
  | .ok => k

/-! ## Values of loads -/

/-- Register bits of a lane's loaded bytes, with the status of a compressed form, Table 15.2 and R384. -/
def AccDest.value (d : AccDest) (bs : List Byte) : Res :=
  let v := leNat bs
  if d.compressed ≠ 0 then
    let m := (if d.compressed = 1 then mid32 else mid64).decode v
    let r := (viewFmt d.view).narrow m.1
    ⟨r.bits, r.st ||| stIf m.2 stIll⟩
  else if d.view ≠ 0 then ⟨v, 0⟩
  else
    let t : ITy := { bits := 8 * d.width, signed := d.signed }
    ⟨if d.uniform then t.uni (t.read v) else t.reg (t.read v), 0⟩

/-- Register writes of a lane's value. -/
def AccDest.writes (d : AccDest) (lane v : Nat) : List (Nat × W64) :=
  match d.num with
  | none => []
  | some n =>
    if d.uniform then [(uniKey n, BitVec.ofNat 64 v)]
    else (List.range d.words).map fun i => (slotKey lane (n + i), BitVec.ofNat 64 (v / 2 ^ (32 * i) % 2 ^ 32))

/-! ## Accesses in flight -/

/-- An access of a width at an address is single-copy atomic, R226. -/
def singleCopy (va len : Nat) : Bool := decide (len ≤ 16) && va % max 1 len == 0

/-- One part of an access, with the page kind that its lookaside entry gives. -/
def State.pieceAt (s : State) (d c : Nat) (ctx : B6) (lane va len : Nat) : Piece :=
  let a := match palFind (s.coreOf d c).pal ctx va s.timeCount with | some x => x.attr | none => 0
  { lane := lane, mask := 1#64 <<< lane, va := va, len := len, bytes := [], kind := attrKind a, ddr := attrDdr a, st := .held, install := true }

/-- The pieces of a lane's read or atomic: single bytes where its address is not aligned to its width, R226. -/
def State.pieces (s : State) (d c : Nat) (ctx : B6) (lane va len : Nat) : List Piece :=
  if singleCopy va len then [s.pieceAt d c ctx lane va len]
  else (List.range len).map fun i => s.pieceAt d c ctx lane (va + i) 1

/-- A byte of a store instruction: its value, the lanes that write it, and whether it goes alone, R226. -/
structure StoreByte where
  val : Byte
  lanes : BitVec 64
  alone : Bool
deriving DecidableEq, Repr

/-- The bytes of a store instruction by address; the highest lane's value holds, R214. DEDUCED, log 43. -/
def storeBytes (ws : List (Nat × Nat × List Byte)) : Tbl StoreByte :=
  ws.foldl (fun t w => ((List.range w.2.2.length).zip w.2.2).foldl (fun t x =>
    let a := w.2.1 + x.1
    t.set a { val := x.2, lanes := (1#64 <<< w.1) ||| (match t.find? a with | some o => o.lanes | none => 0),
              alone := !singleCopy w.2.1 w.2.2.length }) t) []

/-- Runs of bytes within a line, with the lanes that write them. DEDUCED, log 43. -/
def storeRuns : List (Nat × StoreByte) → List (Nat × List Byte × BitVec 64)
  | [] => []
  | (a, v) :: t =>
    match storeRuns t with
    | (a', bs, l') :: rest =>
      let next := match t with | (_, w) :: _ => w.alone | [] => false
      if a' = a + 1 ∧ a / 64 = a' / 64 ∧ !v.alone ∧ !next then (a, v.val :: bs, v.lanes ||| l') :: rest else (a, [v.val], v.lanes) :: (a', bs, l') :: rest
    | [] => [(a, [v.val], v.lanes)]

/-- Two accesses touch overlapping bytes. -/
def Piece.overlaps (p q : Piece) : Bool := decide (p.va < q.va + q.len) && decide (q.va < p.va + p.len)

/-- A piece may leave the core: Table 9.1. An earlier access to the same bytes has left before it, an earlier read has
returned; an earlier STRICT access has been performed before a STRICT one. What a home has refused has not been performed. -/
def orderOk (a0 : Acc) (q p : Piece) : Bool :=
  let same := q.overlaps p && q.kind != .free && p.kind != .free
  let strict := q.kind == .strict && p.kind == .strict
  (!same || (if a0.kind == .load then q.st == .done else q.st == .sent || q.st == .done)) && (!strict || q.st == .done)

def earlierOk (accs : List Acc) (id : Nat) (p : Piece) : Bool :=
  match accs with
  | [] => true
  | a :: t => if a.id = id then true else (a.pieces.all fun q => orderOk a q p) && earlierOk t id p

def Band.canSend (b : Band) (a : Acc) (i : Nat) : Bool :=
  match a.pieces.toArray[i]? with
  | none => false
  | some p =>
    p.st == .held && earlierOk b.accs a.id p &&
      (a.kind != .atomic || (a.pieces.take i).all fun q => !q.overlaps p || q.st != .held)

def Acc.setPiece (a : Acc) (i : Nat) (f : Piece → Piece) : Acc := { a with pieces := a.pieces.modify i f }
def Band.updAcc (b : Band) (id : Nat) (f : Acc → Acc) : Band :=
  { b with accs := b.accs.map fun a => if a.id = id then f a else a }
def Band.findAcc (b : Band) (id : Nat) : Option Acc := b.accs.find? fun a => a.id == id

/-- The bytes of a lane from the pieces of an access, in order of address. -/
def Acc.laneBytes (a : Acc) (lane : Nat) : List Byte := (a.pieces.filter fun p => p.lane == lane).flatMap fun p => p.bytes

/-- The earlier loads and atomics that a `FENCE.ACQ` waits for are performed, Table 15.7, and the reads of `AWAIT` with them. The
other kinds have waited at issue until every earlier access is performed. -/
def fenceDone (b : Band) (upto : Nat) : Bool :=
  ((b.accs.filter fun a => a.id < upto).all fun a => a.kind == .store || a.pieces.all fun p => p.kind == .free) &&
    b.waits.all fun w => match w.kind with | .await _ _ => decide (upto ≤ w.id) | _ => true

/-- A thread's `AWAIT` as a reader, R204. -/
def ThreadRef.awaiter (t : ThreadRef) : Nat × Nat × Nat := (t.core, t.slot, 200 + match t.band with | some b => b + 1 | none => 0)

/-- The counters whose condition does not hold yet, and the state after the read: in the cluster's space it may join a multicast
window, and then it reads when that has closed, R204 and R401. -/
def State.awaitRead (s : State) (t : ThreadRef) (cw : Crew) (clus : Bool) (offs : List (Nat × Nat)) : List (Nat × Nat) × State :=
  let left := fun (read : Nat → List Byte) => offs.filter fun o =>
    let v := leNat (read o.2)
    decide (2 ^ 31 ≤ (v % 2 ^ 32 + 2 ^ 32 - v / 2 ^ 32) % 2 ^ 32)
  if clus then
    let ps := offs.map fun o => o.2
    match s.mcHeld t.crew cw (ThreadRef.awaiter t) ps with
    | some s1 => (offs, s1)
    | none => (left fun o => s.mcRead t.crew cw (ThreadRef.awaiter t) o 8, s.mcLeaves t.crew cw (ThreadRef.awaiter t) ps)
  else (left fun o => s.getScr t.crew cw .core 0 o 8, s)

/-- Ends the waits of a thread that have come to their end: fences, and `AWAIT` whose condition holds in every lane,
R401. -/
def State.poll (s : State) (t : ThreadRef) : State :=
  match s.crewOf t.crew, s.thread t with
  | some cw, some b =>
    b.waits.foldl (fun s w =>
      match s.thread t with
      | none => s
      | some b =>
        let drop := fun (s : State) => s.setThread t
          ({ b with waits := b.waits.filter fun x => x.id != w.id }.flagDown w.flag)
        match w.kind with
        | .fence scope upto =>
          if fenceDone b upto then (if 3 ≤ scope then (drop s).l1Acquire t.die t.core else drop s) else s
        | .await clus offs =>
          let r := s.awaitRead t cw clus offs
          if r.1.isEmpty then drop r.2
          else r.2.setThread t { b with waits := b.waits.map fun x => if x.id = w.id then { w with kind := .await clus r.1 } else x }
        | _ => s) s
  | _, _ => s

/-- An access of a thread has been performed in full: its values are on their way to the registers, and its flag clears with them;
the region of a committing instruction opens, R101, R163, R382 and R387. -/
def State.accDone (s : State) (t : ThreadRef) (a : Acc) : State :=
  match s.thread t with
  | none => s
  | some b0 =>
    let rest := b0.accs.filter fun x => x.id != a.id
    if !b0.running then (s.setThread t { b0 with accs := rest }).settleEnd t
    else
      let vals := if a.kind == .load || a.kind == .atomic then
          (lanesOf a.lanes).map fun l => (l, a.dest.value (a.laneBytes l)) else []
      let st := vals.foldl (fun st v => st ||| v.2.st) a.status
      let p : Pend := { id := a.id, ready := none, flag := a.flag, latch := none, status := st,
                        writes := vals.flatMap fun v => a.dest.writes v.1 v.2.bits }
      let b1 := { b0 with accs := rest }
      let b2 := if t.band.isNone || p.writes.isEmpty then b1.land (s.cyc t.die) s.free p else { b1 with pends := b1.pends ++ [p] }
      let s1 := { s with free := s.free + 130 }.setThread t (b2.acked (s.free + 65) a.id)
      ((if a.acquire && a.atHome then s1.l1Acquire t.die t.core else s1).poll t).settleEnd t

/-- A piece has been performed. -/
def State.pieceDone (s : State) (t : ThreadRef) (id i : Nat) (bs : List Byte) (st : BitVec 6) : State :=
  match s.thread t with
  | none => s
  | some b =>
    let b1 := b.updAcc id fun a => { a.setPiece i fun p => { p with st := .done, bytes := bs } with status := a.status ||| st }
    let s1 := s.setThread t b1
    match b1.findAcc id with
    | some a => if a.pieces.all fun p => p.st == .done then s1.accDone t a else s1
    | none => s1

/-- DEDUCED, log 37. -/
def State.pieceRefused (s : State) (t : ThreadRef) (id i : Nat) : State :=
  s.updThread t fun b => b.updAcc id fun a => a.setPiece i fun p => { p with st := .refused }

/-- The operation of a lane's ATOMIC packet: an amax update of an Empty interval leaves the word unchanged, R375, as an OR
with zero does. -/
def Acc.opFor (a : Acc) (lane : Nat) : Nat := if a.op = 9 ∧ (a.operands.find? lane).isNone then 4 else a.op

/-- A load of the piece may be served by the L1 and fill it, R199. -/
def Acc.cacheable (a : Acc) (p : Piece) : Bool := a.kind == .load && !a.atHome && p.kind != .strict && !p.ddr

/-- A piece leaves the core: an L1 hit performs it; otherwise its request goes to the home. -/
def State.sendPiece (s : State) (t : ThreadRef) (id i : Nat) : State :=
  match s.crewOf t.crew, s.thread t with
  | some cw, some b =>
    match b.findAcc id with
    | none => s
    | some a =>
      match a.pieces.toArray[i]? with
      | none => s
      | some p =>
        if !b.canSend a i then s
        else
          let ctx := handleCtx cw.cfg.handle
          let cx := effCtx ctx p.va
          let core := s.coreOf t.die t.core
          let hit := if a.cacheable p then core.l1Find cx p.va else none
          match hit with
          | some l => (s.updCore t.die t.core fun c => c.l1Use l s.timeCount).pieceDone t id i ((l.bytes.drop (p.va % 64)).take p.len) 0
          | none =>
            let s1 := s.setThread t (b.updAcc id fun a => a.setPiece i fun p => { p with st := .sent })
            let n := s1.newTag t.die (.piece t id i)
            let h := n.2.hdr cx n.1 t.die (s.homeSock ctx p.va p.kind p.ddr)
            let h := { h with dstPkg := BitVec.ofNat 8 (s.pkgOf p.va) }
            match a.kind with
            | .store =>
              (n.2.updCore t.die t.core fun c => c.l1Store cx p.va p.bytes).send h (.write
                { va := BitVec.ofNat 56 p.va, cntM1 := BitVec.ofNat 7 (p.len - 1), rel := a.release, bytes := p.bytes })
            | .atomic =>
              (n.2.l1Drop t.die t.core fun x l _ => x == cx && l == p.va / 64).send h (.atomic
                { va := BitVec.ofNat 56 p.va, op := BitVec.ofNat 4 (a.opFor p.lane), width := BitVec.ofNat 2 (a.width / 8),
                  signed := a.signed, operand := a.operands.get 0 p.lane, expected := a.expects.get 0 p.lane })
            | _ =>
              if a.cacheable p then
                n.2.send h (.read { va := BitVec.ofNat 56 (p.va / 64 * 64), cntM1 := 63, acq := a.acquire })
              else n.2.send h (.read { va := BitVec.ofNat 56 p.va, cntM1 := BitVec.ofNat 7 (p.len - 1), acq := a.acquire })
  | _, _ => s

/-- Entries that the stores of a core hold in its late-fault store buffer, one a line, R99. -/
def bandLines (b : Band) : Nat :=
  (b.accs.filter fun a => a.kind == .store).foldl (fun n a =>
    n + (((a.pieces.filter fun p => p.st != .done).map fun p => p.va / 64).eraseDups).length) 0
/-- DEDUCED, log 43. -/
def Core.lfsb (c : Core) : Nat :=
  c.crews.foldl (fun n w => n + w.2.bands.foldl (fun n b => n + bandLines b.2) 0
    + (match w.2.front with | some f => bandLines f.th | none => 0)) 0

/-- Puts an access in flight. A committing instruction then waits for its acknowledgement before the band goes on. -/
def Env.launchAcc (e : Env) (a : Acc) (committing : Bool) (s : State) : State :=
  let b0 := (e.advance e.next e.b).noteClob e.id a.keys
  let b1 := b0.flagUp e.flag
  let b2 := { b1 with accs := b1.accs ++ [a] }
  e.commit (if committing then { b2 with x := { b2.x with phase := .performed e.id } } else b2) s

/-- Writes the thread back as `commit` does, and a new region opens where the thread then stands. -/
def Env.commitNew (e : Env) (free : Nat) (b : Band) (s : State) : State :=
  { (e.commit b s).updThread e.t fun b => b.openRegion free b.x.pc with free := free + 65 }

/-- A committing instruction that needs no acknowledgement ends: a new region opens at the next instruction, R101. DEDUCED, log 35. -/
def Env.committedEnd (e : Env) (b : Band) (s : State) : Out :=
  let b1 := e.advance e.next b
  let b2 := match e.flag with | some _ => b1.pend (e.fixed 1 [] none 0) | none => b1
  .next (e.commitNew (e.free + e.used) b2 s)

end Sys2Proof.Machine
end

