-- ==== Sys2Proof/Machine/Pool.lean ====
section
/-!
DEFINITION. The Hatbox window, spill rings, requeues, and what a page fault or a deferred fault does to a thread: R102,
R131 to R140, R153, R276, R460 and R461.
-/
namespace Sys2Proof.Machine

/-! ## Records: R131 -/

def recEpc (r : List Byte) : Nat := leNat (r.take 6)
def recTflg (r : List Byte) : Nat := leNat ((r.drop 6).take 2)
def recValid (r : List Byte) : Bool := recEpc r != 0 && recEpc r % 8 == 0 && recTflg r / 2 == 0
def recNoSteal (r : List Byte) : Bool := recTflg r % 2 == 1

/-! ## Spill pages: R139 and R460 -/

/-- The first page of a region, counted from an address, that is not in use. -/
def firstFree (used : List Nat) : Nat → Nat → Option Nat
  | _, 0 => none
  | va, n + 1 => if used.contains va then firstFree used (va + 4096) n else some va

/-- Pages of a grid's spill region on a die that are free. -/
def State.freePages (s : State) (d : Nat) (h : Handle) : Nat :=
  let g := s.gridDie d h
  g.spillPages - ((s.ctxDie d (handleCtx h).toNat).spillUsed.filter fun p =>
    g.spillBase ≤ p && p < g.spillBase + 4096 * g.spillPages).length

/-- What waits for a page of a context, in order. -/
def State.waiters (s : State) (d : Nat) (h : Handle) : List (Handle × PageWait) :=
  (s.dieOf d).disp.pageWait.filter fun w => handleCtx w.1 == handleCtx h

/-- A movement may take a page: one is free beside those reserved for grants, and nothing has waited longer. -/
def State.pageFor (s : State) (d : Nat) (h : Handle) (me : Option PageWait) : Option Nat :=
  let c := s.ctxDie d (handleCtx h).toNat
  let first := match s.waiters d h with
    | [] => true
    | w :: _ => some w.2 == me && w.1 == h
  let g := s.gridDie d h
  if first && decide (c.spillReserved < s.freePages d h) then firstFree c.spillUsed g.spillBase g.spillPages else none

/-- DEDUCED, log 34. -/
def State.takePage (s : State) (d : Nat) (h : Handle) (va : Nat) : State :=
  s.updCtxDie d (handleCtx h).toNat fun c => { c with spillUsed := c.spillUsed ++ [va] }

/-- The first wait of a grid on a die posts an event; what waits joins the line. DEDUCED, log 61. -/
def State.pageWait (s : State) (d : Nat) (h : Handle) (w : PageWait) : State :=
  let g := s.gridDie d h
  let s1 := if g.pageEventPosted then s
    else (s.report d false (some (handleCtx h)) 0x0110 h (openDetail 0x0110 [])).updGridDie d h fun g => { g with pageEventPosted := true }
  if (s1.dieOf d).disp.pageWait.contains (h, w) then s1
  else s1.updDisp d fun x => { x with pageWait := x.pageWait ++ [(h, w)] }

/-- A record that has returned to its sender waits, beside any other that is the same, R460. -/
def State.returnWait (s : State) (d : Nat) (h : Handle) (r : List Byte) : State :=
  let line := (s.dieOf d).disp.pageWait
  ((s.updDisp d fun x => { x with pageWait := [] }).pageWait d h (.returned r)).updDisp d fun x => { x with pageWait := line ++ x.pageWait }

def State.pageGot (s : State) (d : Nat) (h : Handle) (w : PageWait) : State :=
  s.updDisp d fun x => { x with pageWait := x.pageWait.erase (h, w) }

/-- Records lost to a fault of a spill or a take: they leave the counter, and the grid completes FAILED. -/
def State.recordsLost (s : State) (d : Nat) (h : Handle) (n : Nat) : State :=
  let s1 := (s.report d false (some (handleCtx h)) 0x0111 h (openDetail 0x0111 [])).updGridDie d h fun g =>
    { g with live := g.live - n, change := true }
  s1.updOwner h fun o => { o with failed := true }

/-! ## The spill ring: R139 -/

/-- Writes a record at a ring place, in a page of the ring or in a new one, which the ring then takes; or loses it to a fault. -/
def State.ringPut (s : State) (d : Nat) (h : Handle) (page slot : Nat) (new : Bool) (r : List Byte) : State :=
  match s.devWrite (handleCtx h) (page + 64 * slot) r with
  | .ok s1 => (if new then s1.takePage d h page else s1).updGridDie d h fun g =>
      { g with ring := g.ring ++ [{ page := page, slot := slot }] }
  | .error _ => s.recordsLost d h 1

/-- Appends a record to the ring of a grid on a die, if it needs no page or may take one. -/
def State.ringAppend (s : State) (d : Nat) (h : Handle) (me : Option PageWait) (r : List Byte) : Option State :=
  let ring := (s.gridDie d h).ring
  let last := match ring.getLast? with
    | some x =>
      let used := (ring.filter fun (y : RingRec) => y.page == x.page).map fun (y : RingRec) => y.slot
      ((List.range 64).find? fun i => !used.contains i).map fun i => (x.page, i)
    | none => none
  match last with
  | some p => some (s.ringPut d h p.1 p.2 false r)
  | none => (s.pageFor d h me).map fun va => s.ringPut d h va 0 true r

def State.ringAppends (s : State) (d : Nat) (h : Handle) (me : Option PageWait) : List (List Byte) → Option State
  | [] => some s
  | r :: rs => match s.ringAppend d h me r with
    | some s1 => s1.ringAppends d h me rs
    | none => none

/-- Takes a record out of the ring; the page whose last record leaves returns to the region. -/
def State.ringRemove (s : State) (d : Nat) (h : Handle) (x : RingRec) : State :=
  let s1 := s.updGridDie d h fun g => { g with ring := g.ring.filter fun y => y != x }
  if (s1.gridDie d h).ring.any fun y => y.page == x.page then s1
  else s1.updCtxDie d (handleCtx h).toNat fun c => { c with spillUsed := c.spillUsed.filter fun p => p != x.page }

/-! ## The window: R133 to R136 -/

def Crew.bins (cw : Crew) : List Nat := (cw.window.map fun w => recEpc w.record).eraseDups

/-- A record has a bin, or may open one, R134. -/
def Crew.hasBin (cw : Crew) (r : List Byte) : Bool := cw.bins.contains (recEpc r) || decide (cw.bins.length < 16)

def Crew.push (cw : Crew) (now : Nat) (r : List Byte) : Crew :=
  { cw with window := cw.window ++ [{ record := r, order := cw.winNext, at_ := now }], winNext := cw.winNext + 1 }

/-- A record enters a crew's window, or the spill ring, R134 and R136; none where it lacks a page. -/
def State.enterWindow (s : State) (c : CrewRef) (me : Option PageWait) (r : List Byte) : Option State :=
  match s.crewOf c with
  | none => some s
  | some cw =>
    let h := cw.cfg.handle
    let now := s.cyc c.die
    if !cw.hasBin r then s.ringAppend c.die h me r
    else if cw.window.length < cw.cfg.poolN then some (s.setCrew c (cw.push now r))
    else
      let n := cw.cfg.poolN / 2
      ((s.setCrew c { cw with window := cw.window.drop n }).ringAppends c.die h me
        ((cw.window.take n).map fun w => w.record)).map fun s1 => s1.updCrew c fun cw => cw.push now r

def State.enterWindows (s : State) (c : CrewRef) (me : Option PageWait) : List (List Byte) → Option State
  | [] => some s
  | r :: rs => match s.enterWindow c me r with
    | some s1 => s1.enterWindows c me rs
    | none => none

/-! ## The end of lanes and of tasks: R138, R153 and R331 -/

/-- The record of the task that a lane runs. -/
def State.taskRecord (s : State) (cw : Crew) (t : ThreadRef) (lane : Nat) : List Byte :=
  s.readKey (cw.sliceKey t lane 192) 64

/-- A waiting or new requeue of a lane's record, R153 and R460; a cancelled grid keeps no record, R152. -/
def State.requeueLane (s : State) (t : ThreadRef) (lane : Nat) : State :=
  match s.crewOf t.crew, s.thread t with
  | some cw, some _ =>
    let h := cw.cfg.handle
    let w := PageWait.requeue t.core t.slot (t.band.getD 0) lane
    let over_ := fun (s : State) => ((s.pageGot t.die h w).updThread t fun b =>
        { b with requeue := b.requeue &&& ~~~(1#64 <<< lane), tasks := b.tasks &&& ~~~(1#64 <<< lane) }).endIfEmpty t
    if (s.gridDie t.die h).cancelled then over_ s
    else match s.enterWindow t.crew (some w) (s.taskRecord cw t lane) with
    | some s1 => over_ s1
    | none => s.pageWait t.die h w
  | _, _ => s

/-- What is left of a part of an access when lanes are aborted: their own parts are over, and a part of a store that has not
left the core is made again without their bytes, R102. -/
def Acc.pieceWithout (a : Acc) (m : BitVec 64) (p : Piece) : List Piece :=
  if p.mask &&& m = 0 then [p]
  else if a.kind = .store && p.st == .held then
    let mine := (storeBytes (a.stores.filter fun w => !m.getLsbD w.1)).filter fun x => p.va ≤ x.1 && x.1 < p.va + p.len
    (storeRuns mine).map fun r => { p with lane := lowestLane r.2.2, mask := r.2.2, va := r.1, len := r.2.1.length, bytes := r.2.1 }
  else if p.mask &&& ~~~m = 0 then [] else [p]

/-- An access without the parts of aborted lanes. The parts keep their places, by which replies name them. -/
def Acc.without (a : Acc) (m : BitVec 64) : Acc :=
  let parts := a.pieces.map fun p => (p, a.pieceWithout m p)
  { a with lanes := a.lanes &&& ~~~m, stores := a.stores.filter fun w => !m.getLsbD w.1,
           pieces := (parts.map fun x => match x.2 with | [] => { x.1 with mask := 0, st := .done } | q :: _ => q) ++
             parts.flatMap fun x => x.2.drop 1 }

/-- A task's lane is aborted and its record requeued: the lane's unacknowledged stores are discarded, and it exits. DEDUCED, log 42. -/
def State.abortLanes (s : State) (t : ThreadRef) (m : BitVec 64) : State :=
  match s.thread t with
  | none => s
  | some b =>
    let b1 := { b with accs := b.accs.map fun (a : Acc) => a.without m, requeue := b.requeue ||| m }
    let left := b1.accs.filter fun (a : Acc) => a.pieces.all fun (p : Piece) => p.st == .done
    let s1 := s.setThread t (b1.exitForGood m)
    let s2 := left.foldl (fun (s : State) (a : Acc) => s.accDone t a) s1
    ((lanesOf m).foldl (fun (s : State) l => s.requeueLane t l) s2).endIfEmpty t

/-! ## Page faults and deferred faults: R102, R276 and R461 -/

/-- A fault as the core learns of it. -/
structure MemFault where
  va : Nat
  pc : PCW
  lanes : BitVec 64
  index : Nat
  cause : Nat
  fetch : Bool
deriving DecidableEq, Repr

/-- `DETAIL` of Table 4.10. -/
def MemFault.detail (f : MemFault) (restart tag core band : Nat) (requeued : Bool) : List Byte :=
  leBytes 8 f.va ++ leBytes 8 f.pc.toNat ++ leBytes 8 restart ++ leBytes 2 core ++ leBytes 2 band
    ++ [BitVec.ofNat 8 (lowestLane f.lanes), BitVec.ofNat 8 tag] ++ leBytes 2 f.index ++ [if requeued then 1 else 0]

/-- The event of a fault, with the PC at which the thread goes on, or the restart point of its region; a deferred store fault
counts in the grid's counts, R266 and R275. DESIGN CHOICE, log 85. -/
def State.faultEvent (s : State) (t : ThreadRef) (h : Handle) (b : Band) (f : MemFault) (restart : PCW) (requeued : Bool) : State :=
  let s1 := s.report t.die false (some (handleCtx h)) f.cause h
    (f.detail restart.toNat b.region.tag.toNat t.core (t.band.getD 0 % lateBand) requeued)
  if f.cause = 9 then s1.countCause t.die h 9 else s1

/-- The base of the page that holds an address, as a page-ready signal names it. -/
def ParkInfo.of (ctx : B6) (va : Nat) : ParkInfo := { ctx := effCtx ctx va, page := va / 65536 * 65536, va := va }

/-- The thread parks as `b1`, and the fault is reported. -/
def State.parkFault (s : State) (t : ThreadRef) (cw : Crew) (b1 : Band) (f : MemFault) : State :=
  (s.setThread t { b1 with parked := some (ParkInfo.of (handleCtx cw.cfg.handle) f.va) }).faultEvent t cw.cfg.handle b1 f b1.x.pc false

/-- What a fault does to its thread: the lanes that run tasks are aborted and requeued; any other lane takes the band back to
its region's restart point. DEDUCED, log 42. -/
def State.memFault (s : State) (t : ThreadRef) (f : MemFault) : State :=
  match s.crewOf t.crew, s.thread t with
  | some cw, some b =>
    let h := cw.cfg.handle
    if b.leaves then s.faultEvent t h b f b.region.restart false
    else if t.band.isNone then
      s.parkFault t cw (if b.accs.isEmpty then { b with x := { b.x with phase := .fresh } } else b.restartRegion) f
    else
      let lanes := if f.fetch then maskOf 64 (fun l => b.alive.contains l) else f.lanes
      let mine := lanes &&& b.tasks
      let others := lanes &&& ~~~b.tasks
      let b0 := { b with x := { b.x with phase := if b.x.phase == .ending then .ending else .fresh } }
      let s1 := if mine = 0 then s
        else ((s.setThread t b0).faultEvent t h b { f with lanes := mine } b.region.restart true).abortLanes t mine
      if mine != 0 && others == 0 then s1
      else match s1.thread t with
        | some b1 => s1.parkFault t cw b1.restartRegion { f with lanes := if mine = 0 then lanes else others }
        | none => s1
  | _, _ => s

end Sys2Proof.Machine
end

