-- ==== Sys2Proof/Machine/Issue.lean ====
section
/-!
DEFINITION. Fetching, and what a thread may do next: R158, R161, R165 to R168, R277, R286, R352 and R461.
-/
namespace Sys2Proof.Machine

/-! ## Fetching: R89, R286 and R461 -/

/-- What the fetch at a PC answers. -/
inductive Fetched where
  | bytes (bs : List Byte)
  /-- The page grants no `X`. -/
  | refused
  /-- The lookaside holds no entry. -/
  | miss (a : Ask)
  /-- The home refuses the line. -/
  | fault
  /-- The line must come from another package. -/
  | away (va : Nat)
deriving DecidableEq, Repr

/-- Reads bytes of code within a line, if the lookaside permits the fetch: from the instruction cache where it holds the line,
or at their home. DESIGN CHOICE, log 39. -/
def State.fetchBytes (s : State) (d c : Nat) (ctx : B6) (va n : Nat) : Fetched :=
  match palFind (s.coreOf d c).pal ctx va s.timeCount with
  | none => .miss { va := va, lanes := 0, index := 0xFFFF, fetch := true }
  | some e =>
    if !attrX e.attr then .refused
    else
      let home := if s.foreign va then .away va else
        match s.homeServe ctx va n (s.homeSock ctx va (attrKind e.attr) (attrDdr e.attr)) with
        | (0, ks) => .bytes (ks.map (Memory.read s.mem))
        | _ => .fault
      match (s.coreOf d c).codeLine (effCtx ctx va) (va / 64) with
      | none => home
      | some l =>
        if s.foreign va || Config.codeHeld (s.cyc d) (256 * d + c) va then .bytes ((l.bytes.drop (va % 64)).take n) else home

/-- The line of a thread's instruction is in its core's instruction cache from its issue on. DESIGN CHOICE, log 39. -/
def State.keepFetched (s : State) (t : ThreadRef) : State :=
  match s.crewOf t.crew, s.thread t with
  | some cw, some b =>
    let va := b.x.pc.toNat
    let ctx := handleCtx cw.cfg.handle
    if ((s.coreOf t.die t.core).codeLine (effCtx ctx va) (va / 64)).isSome then s
    else match s.fetchBytes t.die t.core ctx (va / 64 * 64) 64 with
    | .bytes bs => s.updCore t.die t.core fun k => k.keepCode (effCtx ctx va) (va / 64) bs
    | _ => s
  | _, _ => s

/-- The rest of the fetch block from a PC on. -/
def State.fetch (s : State) (d c : Nat) (ctx : B6) (pc : PCW) : Fetched :=
  s.fetchBytes d c ctx pc.toNat (32 - pc.toNat % 32)

/-- The rest of the fetch block, and the bytes at a PC as a trap there records them: of an instruction that reaches past the block, those
of the next too, zero where they cannot be fetched, R270. -/
def State.codeAt (s : State) (d c : Nat) (ctx : B6) (pc : PCW) : Fetched × List Byte :=
  match s.fetch d c ctx pc with
  | .bytes bs =>
    if reachesPast bs then
      match s.fetchBytes d c ctx (pc.toNat / 32 * 32 + 32) 32 with
      | .miss a => (.miss a, [])
      | .away va => (.away va, [])
      | .bytes more => (.bytes bs, bs ++ more)
      | _ => (.bytes bs, bs ++ List.replicate 32 0)
    else (.bytes bs, bs)
  | f => (f, [])

/-! ## What a thread may do next -/

/-- What a thread does when it is picked. -/
inductive Next where
  /-- It waits. -/
  | no
  | run (d : Decoded)
  /-- Its current instruction, or the state in which it stands, traps. -/
  | trap (p : PendTrap) (bp : Bool)
  | miss (a : Ask)
  /-- Its line of code must come from another package. -/
  | away (va : Nat)
  | fault (f : MemFault)
  /-- It stops for pre-emption, R277. -/
  | stop
  /-- A front context of a cancelled crew ends. -/
  | cancelFront
deriving DecidableEq, Repr

/-- A pipe of the half is still occupied by an earlier instruction, R162, R360 and R361. -/
def pipeBusy (sel : Sel) (opc half now : Nat) : Bool :=
  let at_ := fun (x y : Nat) => (half != 1 && decide (now < x)) || (half != 0 && decide (now < y))
  match pipeOf opc with
  | some .float => at_ sel.busy0 sel.busy1
  | some .trans => at_ sel.trans0 sel.trans1
  | _ => false

/-- Another band has used memory, an engine or the decision queue in this cycle, R167. -/
def portTaken (sel : Sel) (opc now : Nat) : Bool := usesPort opc && sel.portAt == some now

/-- `DIST` and `WAIT` of an instruction, and the counter of its `SETF`, R161. -/
def Band.mayIssue (b : Band) (c : Code) (now : Nat) : Bool :=
  (match b.x.lastIssue with | some l => decide (l + max 1 c.dist.toNat ≤ now) | none => true) && decide (b.x.notBefore ≤ now) &&
    (List.range 12).all (fun f => !c.wait.getLsbD f || b.flags.get 0 f == 0) &&
    (!decide (c.setf.toNat < 12) || b.flags.get 0 c.setf.toNat != 63)

/-- The fields of the encoding that bytes begin. -/
def Raw.ofBytes (bs : List Byte) : Raw :=
  let first := leNat (bs.take 8)
  let n := secondBytes (BitVec.ofNat 2 first)
  Raw.ofWords first (leNat ((bs.drop 8).take n))
    (if hasAnnex first then some (BitVec.ofNat 64 (leNat ((bs.drop (8 + n)).take 8))) else none)

/-- The trap of a PC whose decode fails, that matches a breakpoint, at whose barrier the band waits, or where a cancel meets it. Its lanes
are those in which the instruction would act under `EXEC` and its guard. DEDUCED, log 46. -/
def State.fetchTrap (s : State) (t : ThreadRef) (cw : Crew) (b : Band) (d : DecTrap) (bs : List Byte) : PendTrap :=
  let r := Raw.ofBytes bs
  let free := s.free + 65 * (match s.thread t with | some b0 => b0.pends.length | none => 0)
  let lanes := if t.band.isNone then 1 else b.exec &&& b.guard free (Code.ofRaw r (Raw.form r))
  rawTrap t.band.isNone b cw.cfg.regs (s.cyc t.die) free 0 t r d lanes

/-- The trap of a PC whose instruction cannot be fetched: no operand, no instruction words. DEDUCED, log 46. -/
def bareTrap (b : Band) (cause : Nat) (info : W64) (lanes : BitVec 64) : PendTrap :=
  { cause := cause, info := info, lanes := lanes, fpc := b.x.pc,
    restart := match b.x.chain with | some (p, _) => p | none => b.x.pc,
    srcs := [], insn0 := 0, insn1 := 0, annex := 0, decode := 0xF000F000F000F000#64 }

/-- The trap that meets a band at a PC through no doing of the instruction there, whose words it records; none at first where the page or the
line must be asked for. A parked band does not wait for them. DEDUCED, log 46. -/
def State.meetTrap (s : State) (t : ThreadRef) (cw : Crew) (b : Band) (pc : PCW) (cause : Nat) (info : W64) : Next :=
  let b1 := { b with x := { b.x with pc := pc } }
  let at_ := fun (p : PendTrap) => Next.trap { p with restart := (bareTrap b cause info 0).restart } false
  match s.codeAt t.die t.core (handleCtx cw.cfg.handle) pc with
  | (.bytes _, bs) => at_ (s.fetchTrap t cw b1 ⟨cause, info⟩ bs)
  | (.miss a, _) => if b.parked.isSome then at_ (bareTrap b1 cause info b.exec) else .miss a
  | (.away va, _) => if b.parked.isSome then at_ (bareTrap b1 cause info b.exec) else .away va
  | _ => at_ (bareTrap b1 cause info b.exec)

/-- An enabled breakpoint register names the PC, R352; it is ignored at TRAP privilege, R274, and in a front context. -/
def Band.bpHit (b : Band) : Bool :=
  !b.trapPriv && b.bpSkip != some b.x.pc && ((List.range 2).any fun k => b.trap.bpEn.getD k false && b.trap.bpPc.getD k 0 == b.x.pc)

/-- The band stands at a safe point: after an instruction with `SP` = 1, or parked, at USER privilege, R277 and R279. -/
def Band.atSafePoint (b : Band) : Bool := !b.trapPriv && b.x.chain.isNone && (b.x.lastSp || b.parked.isSome)

/-- The instruction waits in the middle: nothing is fetched. -/
def Phase.isOpen : Phase → Bool
  | .fresh => true
  | .lookup _ => true
  | .sending _ _ => true
  | _ => false

def Phase.atBarrier : Phase → Bool
  | .barrier _ => true
  | _ => false

/-- An access that a front context has issued holds its next instruction, R276. -/
def Band.frontHeld (b : Band) : Bool := !b.accs.isEmpty || b.waits.any fun w => w.kind == .enq

/-- A lookup under way still has no answer. -/
def Band.asking (s : State) (t : ThreadRef) (ctx : B6) (b : Band) : Bool :=
  match b.x.phase with
  | .lookup asks => asks.any fun a =>
      (palFind (s.coreOf t.die t.core).pal ctx a.va s.timeCount).isNone &&
        s.permAsked t.die t.core (effCtx ctx a.va) a.va
  | _ => false

/-! ## Waiting at a barrier: R394 to R397 -/

/-- By what a barrier is known within its grid: the crew, the cluster, the roster. -/
def barId (cfg : CrewCfg) (kind roster : Nat) : Nat :=
  if kind = 0 then cfg.lin else if kind = 1 then clusterOf cfg else if kind = 2 then roster else 0

/-- The generation at which the band waits has completed, as far as its die knows. -/
def State.barDoneFor (s : State) (t : ThreadRef) (cw : Crew) (w : BarWait) : Bool :=
  let h := cw.cfg.handle
  match w.kind with
  | 0 => cw.arrivedAt 0 0 w.gen
  | 1 => (s.gridCrews t.die h).all fun x => clusterOf x.cfg != clusterOf cw.cfg || x.arrivedAt 1 0 w.gen
  | k => s.barReached h (k + 16 * (t.die + 1)) (barId cw.cfg k w.roster) w.gen

/-- A band whose generation has completed goes on, in a region that opens at the next instruction, R395. -/
def State.barPoll (s : State) (t : ThreadRef) : State :=
  match s.crewOf t.crew, s.thread t with
  | some cw, some b =>
    match b.x.phase with
    | .barrier w =>
      if s.barDoneFor t cw w && !s.barBroken cw.cfg.handle w.kind (barId cw.cfg w.kind w.roster) w.gen then
        let b1 := b.openRegion s.free b.x.pc
        { s.setThread t { b1 with x := { b1.x with phase := .fresh } } with free := s.free + 65 }
      else s
    | _ => s
  | _, _ => s

/-- A roster collective of the thread whose generation is broken. DEDUCED, log 49. -/
def State.brokenColl (s : State) (t : ThreadRef) (b : Band) : Option (Waiter × CollIssue) :=
  (b.waits.filterMap fun w => if w.kind == .coll then
      (s.colls.find? fun c => c.thread == t && c.waitId == w.id &&
        s.barBroken c.handle (if c.rred then 5 else 4) c.roster c.gen).map fun c => (w, c)
    else none).head?

/-- The scope at which a barrier's kind orders, Table 15.8, as a code of Table 9.2. -/
def barScope (kind : Nat) : Nat := if kind = 0 then 2 else if kind = 1 then 4 else if kind = 2 then 7 else 6

/-- The barrier-broken trap that a band must take, R396 and R397. DEDUCED, log 49. -/
def State.barTrap (s : State) (t : ThreadRef) (cw : Crew) (b : Band) : Option Next :=
  let h := cw.cfg.handle
  let info := fun (kind roster : Nat) => BitVec.ofNat 64 (barScope kind + (if kind = 2 then 256 * roster else 0))
  match b.x.phase with
  | .barrier w =>
    if s.barBroken h w.kind (barId cw.cfg w.kind w.roster) w.gen then
      some (s.meetTrap t cw { b with x := { b.x with pc := w.pc } } w.pc 11 (info w.kind w.roster))
    else none
  | _ =>
    if b.x.phase.isOpen && b.x.chain.isNone then
      (s.brokenColl t b).map fun x => s.meetTrap t cw b x.1.pc 11 (info 2 x.2.roster)
    else none

/-- What taking the barrier-broken trap also does: the grid will complete FAILED, of which an owner in another package is told, and a
broken collective waits no more. DEDUCED, log 49. -/
def State.barFailed (s : State) (t : ThreadRef) : State :=
  match s.crewOf t.crew, s.thread t with
  | some cw, some b =>
    let h := cw.cfg.handle
    let tell := fun (kind roster gen : Nat) (s : State) =>
      if (s.ownerAt h).1 = s.pkg then s.updOwner h fun o => { o with failed := true }
      else s.barSend t.die h (s.ownerAt h) kind roster gen true true
    let s1 := match b.x.phase, s.brokenColl t b with
      | .barrier w, _ => tell w.kind w.roster w.gen s
      | _, some x => tell (if x.2.rred then 5 else 4) x.2.roster x.2.gen s
      | _, none => s
    match b.x.phase, s.brokenColl t b with
    | .barrier _, _ => s1
    | _, some x => { s1.waitDone t x.1.id with colls := s1.colls.filter fun c => c != x.2 }
    | _, none => s1
  | _, _ => s

/-- The band's own place in the active set, or room for it. -/
def Core.inSet (c : Core) (t : ThreadRef) : Bool :=
  match t.band with
  | none => true
  | some b => c.sel.active.contains (t.slot, b)

/-- The band's current instruction is at a boundary: it has not begun, or it waits at a barrier or for a partner. -/
def Phase.atBoundary : Phase → Bool
  | .fresh => true
  | .lookup _ => true
  | .barrier _ => true
  | .merging _ => true
  | _ => false

/-- Where an overrun stops a band: at a boundary, or while a `LAUNCH` waits for its handle, R410. -/
def Phase.mayOverrun : Phase → Bool
  | .launching _ => true
  | p => p.atBoundary

/-- The bound of a crew's overrun in cycles. -/
def State.spmaxOf (s : State) (cw : Crew) : Nat :=
  let limit := (s.ctxOf (handleCtx cw.cfg.handle).toNat).preLimit.toNat
  if cw.cfg.spmax = 0 ∨ limit < cw.cfg.spmax then limit else cw.cfg.spmax

/-- A band has not stopped in time: it issues nothing more, outside a chain. -/
def State.overdue (s : State) (t : ThreadRef) (cw : Crew) (b : Band) : Bool :=
  match b.stopReq with
  | some since => t.band.isSome && b.x.chain.isNone && b.x.phase.mayOverrun && decide (since + s.spmaxOf cw ≤ s.cyc t.die)
  | none => false

/-- What a thread does next, its place in the active set and a free half judged or not: decoded from the bytes at its PC. -/
def State.nextIf (s : State) (t : ThreadRef) (set : Bool) : Next :=
  match s.crewOf t.crew, s.thread t with
  | some cw, some b0 =>
    let now := s.cyc t.die
    let front := t.band.isNone
    let b := b0.settle now s.free
    let ctx := handleCtx cw.cfg.handle
    if !b.running || b.stopped || b.pending.isSome then .no
    else if front && cw.ctl.cancelled && !b.frontHeld then .cancelFront
    else match (if front then none else s.barTrap t cw b) with
    | some n => n
    | none =>
    if !front && cw.ctl.cancelled && !b.cancelTrap && b.atSafePoint &&
        (b.parked.isSome || b.x.phase.isOpen || b.x.phase.atBarrier) then
      s.meetTrap t cw b b.x.pc 12 0
    else if b.stopReq.isSome && (front || b.atSafePoint) && b.x.phase.atBoundary then (if b.writersOut || !b.committed then .no else .stop)
    else if s.overdue t cw b then .no
    else if b.parked.isSome || !b.x.phase.isOpen || b.asking s t ctx || (front && b.frontHeld) then .no
    else match s.codeAt t.die t.core ctx b.x.pc with
      | (.miss a, _) => .miss a
      | (.away va, _) => .away va
      | (.refused, _) => .trap (bareTrap b 7 (BitVec.ofNat 64 (2 ^ 60 + b.x.pc.toNat)) (if front then 1 else b.exec)) false
      | (.fault, _) => .fault { va := b.x.pc.toNat, pc := b.x.pc, lanes := 0, index := 0xFFFF, cause := 0x0101, fetch := true }
      | (.bytes bs, more) =>
        if !front && b.bpHit then .trap (s.fetchTrap t cw b ⟨13, 0⟩ more) true
        else match decode front bs with
          | .error d =>
            let d1 := if !front && !b.trapPriv && reservedTret bs then ⟨7, BitVec.ofNat 64 (5 * 2 ^ 60)⟩ else d
            .trap (s.fetchTrap t cw b d1 more) false
          | .ok d =>
            match d.instr.code with
            | none => .no
            | some (opc, c) =>
              let k := s.coreOf t.die t.core
              if !b.mayIssue c now then .no
              else if front then (if k.sel.frontAt = some now then .no else .run d)
              else if !set then (if pipeBusy k.sel opc b.x.half now then .no else .run d)
              else if !k.inSet t then .no
              else match s.halfFor t b now with
                | none => .no
                | some h => if pipeBusy k.sel opc h now || portTaken k.sel opc now then .no else .run d
  | _, _ => .no

/-- What a thread does next. DESIGN CHOICE, log 54. DEDUCED, log 73. -/
def State.next (s : State) (t : ThreadRef) : Next := s.nextIf t true

/-! ## The active scheduling set: R165 and R166 -/

/-- A band leaves the set: its latches and its near buffer are lost. -/
def State.leaveSet (s : State) (t : ThreadRef) : State :=
  let s1 := s.updCore t.die t.core fun c =>
    { c with sel := { c.sel with active := c.sel.active.filter fun p => !(p.1 == t.slot && some p.2 == t.band) } }
  s1.updThread t fun b => { b.loseLatches with x := { b.loseLatches.x with near := [] } }

/-- The slots that a near buffer takes from a list: 8 in each of six banks, in order, R175. -/
def nearFill (slots : List Nat) : List Nat :=
  slots.foldl (fun near n =>
    if near.contains n ∨ 8 ≤ (near.filter fun m => m % 6 == n % 6).length then near else near ++ [n]) []

/-- A band enters the set: its near buffer is filled with its region's working set. -/
def State.enterSet (s : State) (t : ThreadRef) : State :=
  match t.band with
  | none => s
  | some k =>
    let now := s.cyc t.die
    let s1 := s.updCore t.die t.core fun c =>
      { c with sel := { c.sel with active := c.sel.active ++ [(t.slot, k)], lastSetChange := some now } }
    s1.updThread t fun b =>
      let near := nearFill b.x.workSet
      { b with x := { b.x with near := near, notBefore := now + 1 + (near.length + 5) / 6 } }

/-- A member of the set still runs. -/
def Core.stillRuns (c : Core) (p : Nat × Nat) : Bool :=
  match c.crews.find? p.1 with
  | some cw => match cw.bands.find? p.2 with
    | some b => b.running
    | none => false
  | none => false

/-- Members of the set whose bands run no more make room. -/
def State.trimSet (s : State) (d c : Nat) : State :=
  s.updCore d c fun x => { x with sel := { x.sel with active := x.sel.active.filter x.stillRuns } }

/-! ## Picking a thread: R158, R161, R167 -/

/-- Ends a front context that a cancel reaches, R276. -/
def State.cancelFront (s : State) (t : ThreadRef) : State := s.endFront t.crew

/-- Makes a thread the one whose instruction runs. -/
def State.withCur (s : State) (t : ThreadRef) : State := { s with cur := t }

/-- What picking a thread does, but for the meaning of the instruction that it may run. DESIGN CHOICE, log 54. -/
def State.pick (s0 : State) (t : ThreadRef) : State × Option Instr :=
  let s := (s0.poll t).barPoll t
  match s.next t with
  | .no => (s, none)
  | .run d => ((s.keepFetched t).withCur t, some d.instr)
  | .trap p bp =>
    let s0 := s.settle t
    let s1 := { s0 with free := s0.free + 5 * (match s0.thread t with | some b => b.choices | none => 0) }
    let s2 := if bp then s1.updThread t fun b => { b with bpSkip := some p.fpc } else s1
    let s3 := (if p.cause = 11 then s2.barFailed t else s2).updThread t fun b => { b with parked := none }
    (s3.takeTrap t p, none)
  | .miss a =>
    match s.crewOf t.crew with
    | some cw => ((s.askPerm t.die t.core (handleCtx cw.cfg.handle) a.va).updThread t fun b =>
        if b.x.phase == .fresh || (match b.x.phase with | .lookup _ => true | _ => false) then
          { b with x := { b.x with phase := .lookup [a] } } else b, none)
    | none => (s, none)
  | .away va =>
    match s.crewOf t.crew with
    | some cw => (s.askCode t.die t.core (handleCtx cw.cfg.handle) va, none)
    | none => (s, none)
  | .fault f => ((s.settle t).memFault t f, none)
  | .stop => (s.updThread t fun b => { b with stopped := true, full := b.parked.isSome }, none)
  | .cancelFront => (s.cancelFront t, none)

end Sys2Proof.Machine
end

