-- ==== Sys2Proof/Machine/Regs.lean ====
section
/-!
DEFINITION. The control registers: their windows, R55 and Table 3.10, their values, and the fields that are reserved, R11.
-/
namespace Sys2Proof.Machine

/-- A control register word, by the passenger, context, queue or crew that it belongs to. -/
inductive Reg where
  | bootPresent | bootHealthy | bootStatus | bootCtl | bootNonce (w : Nat) | bootHostmem | bootPodcfg
  | bootAttnonce (c w : Nat) | bootAttreq | bootAttst (k : Nat) | bootIdkey (w : Nat) | attBuf (k w : Nat)
  | ownStatus | ownSubmit | mailbox (c w : Nat)
  | evqBase | evqTail | evqHead | evqStatus | evqLost (k : Nat) | evqLogdrop (k : Nat) | evqLogack (k : Nat)
  | dispApbase | dispLeader | dispCancel (c : Nat) | dispQstat (c q : Nat)
  | ctxCfg (c : Nat) | ctxLeaseMax (c : Nat) | ctxUnpark (c : Nat) | ctxPreempt (c : Nat) | ctxResume (c : Nat)
  | ctxPreemptLimit (c : Nat) | numNbv (c : Nat) | poolFlush (c : Nat) | poolEnqres (c : Nat)
  | pwrPkgcap | pwrStatus (d : Nat) | pwrCtl (d : Nat)
  | linkStatus (lk : LinkId) | linkSeq (lk : LinkId) | linkErrthr (lk : LinkId) | linkErrcnt (lk : LinkId)
  | linkLanemap (lk : LinkId) | linkCtl (lk : LinkId)
  | linkPodid (sock : Nat) | linkPoddrop (sock : Nat) | linkPodrt (sock n : Nat)
  | timeCount (sock : Nat) | timeOffset (sock : Nat) | timeRate (sock : Nat) | timeCtl (sock : Nat) | timeRef (sock : Nat)
  | ctxTrbase (n : Nat) | ctxTrsize (n : Nat) | ctxTrcmd (n i : Nat) | ctxTrstat (n : Nat)
  | ctxDiescr (d c : Nat) | ctxSave (d c : Nat) | poolSpill (d c : Nat) | poolEnqbase (d c : Nat)
  | poolStat (d : Nat) | poolLivesel (d : Nat) | poolLive (d : Nat)
  | crewWho (r : CrewRef) | crewLin (r : CrewRef) | crewMerge (r : CrewRef) | crewScrchk (r : CrewRef)
  | crewWlogcnt (r : CrewRef) | cpyWptr (r : CrewRef) (ch : Nat) | cpyStat (r : CrewRef) (ch : Nat)
  | crewWlog (r : CrewRef) (j : Nat)
deriving DecidableEq, Repr

/-! ## Sockets and windows -/

def isCompute (sock : Nat) : Bool := decide (sock < 8)
def isMemory (sock : Nat) : Bool := decide (8 ≤ sock) && decide (sock < 24)
def isIo (sock : Nat) : Bool := sock == 24 || sock == 25

/-- Modules of a passenger, Table 1.3. -/
def moduleCount (sock : Nat) : Nat := if isCompute sock then 24 else if isMemory sock then 10 else 12

/-- Offset `off` is base + step × i + sub with i below n: i and sub. -/
def arr (off base step n : Nat) : Option (Nat × Nat) :=
  if base ≤ off ∧ off < base + step * n then some ((off - base) / step, (off - base) % step) else none

/-- The six registers of a module or port at an offset within its 0x40 bytes. -/
def linkRegAt (lk : LinkId) (sub : Nat) : Option Reg :=
  match sub / 8 with
  | 0 => some (.linkStatus lk) | 1 => some (.linkSeq lk) | 2 => some (.linkErrthr lk) | 3 => some (.linkErrcnt lk)
  | 4 => some (.linkLanemap lk) | 5 => some (.linkCtl lk) | _ => none

/-- The seven registers of a memory controller. -/
def ctrlRegAt (n sub : Nat) : Option Reg :=
  match sub / 8 with
  | 0 => some (.ctxTrbase n) | 1 => some (.ctxTrsize n) | 2 => some (.ctxTrcmd n 0) | 3 => some (.ctxTrcmd n 1)
  | 4 => some (.ctxTrcmd n 2) | 5 => some (.ctxTrcmd n 3) | 6 => some (.ctxTrstat n) | _ => none

/-- The registers of a residency slot. -/
def crewRegAt (r : CrewRef) (sub : Nat) : Option Reg :=
  let w := sub / 8
  if w = 0 then some (.crewWho r) else if w = 1 then some (.crewLin r) else if w = 2 then some (.crewMerge r)
  else if w = 3 then some (.crewScrchk r) else if w = 4 then some (.crewWlogcnt r)
  else if w < 9 then some (.cpyWptr r (w - 5)) else if w < 13 then some (.cpyStat r (w - 9))
  else if 16 ≤ w ∧ w < 32 then some (.crewWlog r (w - 16)) else none

/-- The package registers, rows marked I/O die 0 of Table 3.10. -/
def packageRegAt (off : Nat) : Option Reg :=
  let w := off / 8
  if off = 0 then some .bootPresent else if off = 8 then some .bootHealthy else if off = 0x10 then some .bootStatus
  else if off = 0x18 then some .bootCtl
  else if off < 0x40 then some (.bootNonce (w - 4))
  else if off = 0x40 then some .bootHostmem else if off = 0x48 then some .bootPodcfg
  else if 0x80 ≤ off ∧ off < 0xE0 then some (.bootAttnonce ((off - 0x80) / 0x20) ((off - 0x80) % 0x20 / 8))
  else if off = 0xE0 then some .bootAttreq
  else if 0x100 ≤ off ∧ off < 0x120 then some (.bootAttst (w - 0x20))
  else if 0x1000 ≤ off ∧ off < 0x17C0 then some (.bootIdkey (w - 0x200))
  else if 0x4000 ≤ off ∧ off < 0x8000 then
    (if off % 0x1000 < 3760 then some (.attBuf ((off - 0x4000) / 0x1000) (off % 0x1000 / 8)) else none)
  else if off = 0x10000 then some .ownStatus else if off = 0x10008 then some .ownSubmit
  else if 0x12000 ≤ off ∧ off < 0x18000 then some (.mailbox ((off - 0x12000) / 0x2000) ((off - 0x12000) % 0x2000 / 8))
  else if off = 0x20000 then some .evqBase else if off = 0x20008 then some .evqTail
  else if off = 0x20010 then some .evqHead else if off = 0x20018 then some .evqStatus
  else if 0x20100 ≤ off ∧ off < 0x20100 + 8 * 26 then some (.evqLost ((off - 0x20100) / 8))
  else if 0x20200 ≤ off ∧ off < 0x20200 + 8 * 26 then some (.evqLogdrop ((off - 0x20200) / 8))
  else if 0x20300 ≤ off ∧ off < 0x20300 + 8 * 26 then some (.evqLogack ((off - 0x20300) / 8))
  else if off = 0x30000 then some .dispApbase else if off = 0x30008 then some .dispLeader
  else if 0x30200 ≤ off ∧ off < 0x30400 then some (.dispCancel ((off - 0x30200) / 8))
  else if 0x31000 ≤ off ∧ off < 0x31000 + 8 * 4096 then some (.dispQstat ((off - 0x31000) / 512) ((off - 0x31000) / 8 % 64))
  else if 0x40000 ≤ off ∧ off < 0x44000 then
    let c := (off - 0x40000) / 0x100
    match off % 0x100 / 8 with
    | 0 => some (.ctxCfg c) | 1 => some (.ctxLeaseMax c) | 2 => some (.ctxUnpark c) | 3 => some (.ctxPreempt c)
    | 4 => some (.ctxResume c) | 5 => some (.ctxPreemptLimit c) | 6 => some (.numNbv c) | 7 => some (.poolFlush c)
    | 8 => some (.poolEnqres c) | _ => none
  else if off = 0x50000 then some .pwrPkgcap
  else none

/-- The rows of Table 3.10 that more than one window has. -/
def commonRegAt (sock off : Nat) : Option Reg :=
  if 0x60000 ≤ off ∧ off < 0x60000 + 0x40 * moduleCount sock then
    linkRegAt ⟨sock, false, (off - 0x60000) / 0x40⟩ (off % 0x40)
  else if isIo sock && decide (0x61000 ≤ off) && decide (off < 0x61000 + 0x40 * 9) then
    linkRegAt ⟨sock, true, (off - 0x61000) / 0x40⟩ (off % 0x40)
  else if isIo sock && off == 0x62000 then some (.linkPodid sock)
  else if isIo sock && off == 0x62008 then some (.linkPoddrop sock)
  else if isIo sock && decide (0x63000 ≤ off) && decide (off < 0x63800) then some (.linkPodrt sock ((off - 0x63000) / 8))
  else if off = 0x70000 then some (.timeCount sock)
  else if isMemory sock then
    (if 0x80000 ≤ off ∧ off < 0x80038 then ctrlRegAt (sock - 8) (off - 0x80000) else none)
  else if off = 0x70008 then some (.timeOffset sock) else if off = 0x70010 then some (.timeRate sock)
  else if off = 0x70018 then some (.timeCtl sock) else if off = 0x70020 then some (.timeRef sock)
  else if isIo sock then
    (if 0x80000 ≤ off ∧ off < 0x80800 then ctrlRegAt (16 + 8 * (sock - 24) + (off - 0x80000) / 0x100) (off % 0x100) else none)
  else if off = 0 then some (.pwrStatus sock) else if off = 8 then some (.pwrCtl sock)
  else if 0x90000 ≤ off ∧ off < 0x91000 then
    let c := (off - 0x90000) / 0x40
    match off % 0x40 / 8 with
    | 0 => some (.ctxDiescr sock c) | 1 => some (.ctxSave sock c) | 2 => some (.poolSpill sock c)
    | 3 => some (.poolEnqbase sock c) | _ => none
  else if off = 0xA0000 then some (.poolStat sock) else if off = 0xA0008 then some (.poolLivesel sock)
  else if off = 0xA0010 then some (.poolLive sock)
  else if 0x100000 ≤ off ∧ off < 0x100000 + 0x100 * 2048 then
    let k := (off - 0x100000) / 0x100
    crewRegAt ⟨sock, k / 8, k % 8⟩ (off % 0x100)
  else none

/-- The register at an offset of a window; none where the table assigns none, R55. -/
def decodeReg (sock off : Nat) : Option Reg :=
  if 26 ≤ sock ∨ off % 8 ≠ 0 ∨ 2 ^ 24 ≤ off then none
  else match (if sock = 24 then packageRegAt off else none) with
    | some r => some r
    | none => commonRegAt sock off

/-! ## Values -/

def linkKey (lk : LinkId) : Nat := 64 * lk.sock + (if lk.port then 32 else 0) + lk.idx
def State.linkOf (s : State) (lk : LinkId) : Link := s.links.get Link.reset (linkKey lk)
def State.updLink (s : State) (lk : LinkId) (f : Link → Link) : State :=
  { s with links := s.links.set (linkKey lk) (f (s.linkOf lk)) }
def State.podOf (s : State) (sock : Nat) : PodRt := s.podrt.get PodRt.reset sock
def State.convOf (s : State) (sock : Nat) : TimeConv := s.timeConv.get TimeConv.reset sock
def State.queueOf (s : State) (c q : Nat) : LaunchQ := s.disp.queues.get LaunchQ.reset (64 * c + q)


def txCode : TxSt → Nat
  | .send => 0 | .replay => 1 | .hold => 2 | .down => 3
def rxCode : RxSt → Nat
  | .accept => 0 | .discard => 1 | .hold => 2 | .down => 3
def startKindCode : StartKind → Nat
  | .cold => 0 | .warm => 1 | .safe => 2
def startStCode : StartSt → Nat
  | .running => 0 | .done => 1 | .failed => 2
def ctxStCode : CtxSt → Nat
  | .free => 0 | .active => 1 | .destroying => 2

/-- `BOOT_STATUS`, Table 3.6. -/
def Start.reg (st : Start) : Nat :=
  st.step.toNat * 2 ^ 20 + startKindCode st.kind * 2 ^ 18 + startStCode st.st * 2 ^ 16 + st.wfail.toNat * 4 + st.cfail.toNat

/-- `OWN_STATUS`, Table 3.3. -/
def Own.reg (o : Own) : Nat :=
  o.denied.toNat * 2 ^ 16 + o.rsvdw.toNat * 2 ^ 8 + bit o.hopend 7 + o.hoto.toNat * 2 ^ 5 + bit o.owned 2 + o.owner.toNat

/-- `PWR_STATUS`, Table 1.5. -/
def Pwr.reg (p : Pwr) : Nat :=
  p.temp.toNat * 2 ^ 24 + bit p.trans 19 + p.target.toNat * 2 ^ 16 + p.ceilPkg.toNat * 2 ^ 12 + p.ceilTherm.toNat * 2 ^ 8
    + p.hint.toNat * 2 ^ 4 + p.cur.toNat

/-- `TIME_REF`, R29: one sample of the counter through the in-force pair. -/
def TimeConv.ref (c : TimeConv) (count : Nat) : W64 :=
  c.offsetNow + BitVec.ofNat 64 (c.rateNow.toNat * (count % 2 ^ 64) / 2 ^ 30)

def Link.statusReg (l : Link) : Nat :=
  l.tx.buf.length * 2 ^ 24 + bit l.regs.half 18 + l.regs.width.toNat * 2 ^ 16 + txCode l.tx.st * 8 + rxCode l.rx.st

/-- `LINK_SEQ`; with nothing buffered, `OLDEST` is the next number. DEDUCED, log 70. -/
def Link.seqReg (l : Link) : Nat :=
  (match l.tx.buf with | f :: _ => f.seq | [] => l.tx.next).toNat * 2 ^ 32 + l.rx.exp.toNat * 2 ^ 16 + l.tx.next.toNat

def CtxDie.word (base : BitVec 40) (low : Nat) : Nat := base.toNat * 2 ^ 16 + low

/-- `DISP_LEADER`, Table 5.11. -/
def Disp.leaderReg (x : Disp) : Nat :=
  x.podldr.toNat * 2 ^ 24 + bit x.depv 11 + x.deputy.toNat * 2 ^ 8 + x.leader.toNat

/-- `CTX_CFG`, Table 4.2. -/
def Ctx.cfgReg (c : Ctx) : Nat :=
  ctxStCode c.st * 2 ^ 30 + c.mode.toNat * 2 ^ 26 + c.place.toNat * 2 ^ 23 + bit c.gwin 22

/-- `CTX_TRSTAT`, Table 4.7. -/
def Ctrl.statReg (c : Ctrl) : Nat := bit c.busy 31 + bit c.lost 30 + c.result.toNat

/-- `BOOT_ATTST`k, Table 3.11. -/
def AttBuf.reg (a : AttBuf) : Nat := a.serial.toNat * 2 ^ 32 + a.cand.toNat * 2 ^ 3 + bit a.run 2 + bit a.done 1

/-- `POOL_STAT`, Table 6.3. -/
def State.poolStatReg (s : State) (d : Nat) : Nat :=
  let x := s.dieOf d
  (x.ctxs.foldl (fun n c => n + c.2.spillUsed.length) 0) % 2 ^ 16 * 2 ^ 48 + x.disp.stealIn.toNat * 2 ^ 32
    + x.disp.stealOut.toNat * 2 ^ 16 + x.disp.bounce.toNat

/-- `CPY_STAT`n as a crew sees it, Table 8.4. -/
def State.cpyStatReg (s : State) (r : CrewRef) (cw : Crew) (ch : Nat) : Nat :=
  let c := s.coreOf r.die r.core
  let mine := c.copyOf r.slot ch
  let st := if mine.isEmpty then 0 else match (c.copy.getD ch []).head? with
    | some x => (match x.st with | .parked _ => 2 | _ => 1)
    | none => 0
  ((cw.ctl.cpy.getD ch ⟨0, 0⟩).err).toNat * 2 ^ 24 + st * 2 ^ 10 + mine.length * 2 ^ 5

/-- A crew register, zero where no crew occupies the slot. -/
def State.crewReg (s : State) (r : CrewRef) (f : Crew → Nat) : Nat :=
  match s.crewOf r with | some cw => f cw | none => 0

/-- Word k of a number of several words. -/
def wordOf (n k : Nat) : Nat := field n (64 * k) 64
/-- Word k of a block of bytes. -/
def wordAt (bs : List Byte) (k : Nat) : Nat := leNat ((bs.drop (8 * k)).take 8)

/-- The value of a control register as a master or a band reads it: write-only fields read as zero. -/
def State.regNat (s : State) (r : Reg) : Nat :=
  let b := s.host.boot
  match r with
  | .bootPresent => b.present.toNat
  | .bootHealthy => b.healthy.toNat
  | .bootStatus => s.host.start.reg
  | .bootCtl => 0
  | .bootNonce w => wordOf b.nonce.toNat w
  | .bootHostmem => b.hostMem.toNat
  | .bootPodcfg => b.podPkg.toNat * 2 ^ 8 + bit b.podEn 0
  | .bootAttnonce c w => wordOf (b.attNonce.getD c 0).toNat w
  | .bootAttreq => bit b.attBusy 1
  | .bootAttst k => (b.att.getD k AttBuf.reset).reg
  | .bootIdkey w => wordAt (s.host.fuses.idEdPub ++ s.host.fuses.idMlPub) w
  | .attBuf k w => wordAt (b.att.getD k AttBuf.reset).bytes w
  | .ownStatus => s.host.own.reg
  | .ownSubmit => 0
  | .mailbox c w => (s.host.mailbox.get 0 (1024 * c + w)).toNat
  | .evqBase => s.host.evq.base.toNat
  | .evqTail => s.host.evq.tail.toNat
  | .evqHead => s.host.evq.head.toNat
  | .evqStatus => bit s.host.evq.overflow 0
  | .evqLost k => (s.sockEv k).lost.toNat
  | .evqLogdrop k => (s.sockEv k).logDrop.toNat
  | .evqLogack k => (s.sockEv k).logAck.toNat
  | .dispApbase => s.disp.apBase.toNat
  | .dispLeader => s.disp.leaderReg
  | .dispCancel _ => 0
  | .dispQstat c q => (s.queueOf c q).drops.toNat * 2 ^ 16 + (s.queueOf c q).toks.length
  | .ctxCfg c => (s.ctxOf c).cfgReg
  | .ctxLeaseMax c => (s.ctxOf c).lease.toNat
  | .ctxUnpark _ => 0
  | .ctxPreempt c => bit (s.ctxOf c).preNospace 57 + bit (s.ctxOf c).preBusy 56
  | .ctxResume _ => 0
  | .ctxPreemptLimit c => (s.ctxOf c).preLimit.toNat
  | .numNbv c => (s.ctxOf c).nbv.toNat
  | .poolFlush c => (s.ctxOf c).flush.toNat
  | .poolEnqres c => (s.ctxOf c).enqres.toNat
  | .pwrPkgcap => s.host.pwr.capW.toNat
  | .pwrStatus d => (s.dieOf d).pwr.reg
  | .pwrCtl d => (s.dieOf d).pwr.opcap.toNat
  | .linkStatus lk => (s.linkOf lk).statusReg
  | .linkSeq lk => (s.linkOf lk).seqReg
  | .linkErrthr lk => (s.linkOf lk).regs.errThr.toNat
  | .linkErrcnt lk => (s.linkOf lk).regs.retrains.toNat * 2 ^ 48 + (s.linkOf lk).regs.protErr.toNat * 2 ^ 32
      + (s.linkOf lk).regs.crcErr.toNat
  | .linkLanemap lk => (s.linkOf lk).regs.laneMap.toNat
  | .linkCtl _ => 0
  | .linkPodid sock => (s.podOf sock).pkg.toNat
  | .linkPoddrop sock => (s.podOf sock).drop.toNat
  | .linkPodrt sock n => ((s.podOf sock).masks.get 0 n).toNat
  | .timeCount _ => s.timeCount % 2 ^ 64
  | .timeOffset sock => (s.convOf sock).offset.toNat
  | .timeRate sock => (s.convOf sock).rate.toNat
  | .timeCtl _ => 0
  | .timeRef sock => ((s.convOf sock).ref s.timeCount).toNat
  | .ctxTrbase n => (s.ctrlOf n).trBase.toNat
  | .ctxTrsize n => (s.ctrlOf n).trSize.toNat
  | .ctxTrcmd n i => ((s.ctrlOf n).cmd.getD i 0).toNat
  | .ctxTrstat n => (s.ctrlOf n).statReg
  | .ctxDiescr d c => (s.ctxDie d c).scrBase.toNat * 2 ^ 16 + (s.ctxDie d c).scrSize.toNat
  | .ctxSave d c => CtxDie.word (s.ctxDie d c).saveBase (s.ctxDie d c).savePages.toNat
  | .poolSpill d c => CtxDie.word (s.ctxDie d c).spillBase (s.ctxDie d c).spillPages.toNat
  | .poolEnqbase d c => CtxDie.word (s.ctxDie d c).enqBase 0
  | .poolStat d => s.poolStatReg d
  | .poolLivesel d => (s.dieOf d).disp.liveSel.toNat
  | .poolLive d => (s.gridDie d (s.dieOf d).disp.liveSel).live % 2 ^ 32
  | .crewWho r => s.crewReg r fun cw => 2 ^ 63 + cw.cfg.handle.toNat
  | .crewLin r => s.crewReg r fun cw => cw.cfg.lin % 2 ^ 56
  | .crewMerge r => s.crewReg r fun cw => cw.ctl.mergePct % 2 ^ 7
  | .crewScrchk r => s.crewReg r fun cw => bit cw.ctl.scrchkLog 0
  | .crewWlogcnt r => s.crewReg r fun cw => cw.ctl.wlogCnt % 2 ^ 32
  | .cpyWptr r ch => s.crewReg r fun cw => ((cw.ctl.cpy.getD ch ⟨0, 0⟩).bytes).toNat
  | .cpyStat r ch => s.crewReg r fun cw => s.cpyStatReg r cw ch
  | .crewWlog r j => s.crewReg r fun cw => (cw.ctl.wlog.getD j 0).toNat

def State.regValue (s : State) (r : Reg) : W64 := BitVec.ofNat 64 (s.regNat r)

/-! ## Reserved fields -/

/-- Bits [hi:lo] as a mask. -/
def bits (hi lo : Nat) : Nat := 2 ^ (hi + 1) - 2 ^ lo

/-- The bits of fields named `RSVD`, register by register. -/
def Reg.rsvd : Reg → Nat
  | .bootPresent => bits 31 26 | .bootHealthy => bits 31 26
  | .bootStatus => bits 31 23 + bits 15 4 | .bootCtl => bits 31 2
  | .bootHostmem => bits 63 16 | .bootPodcfg => bits 63 16 + bits 7 1
  | .bootAttreq => bits 63 2 | .bootAttst _ => bits 31 5 + bits 0 0
  | .ownStatus => bits 4 3 | .ownSubmit => bits 63 1
  | .evqBase => bits 14 0 | .evqStatus => bits 31 1
  | .dispApbase => bits 23 0 | .dispLeader => bits 23 12 + bits 7 3
  | .dispCancel _ => bits 63 48 | .dispQstat _ _ => bits 15 7
  | .ctxCfg _ => bits 29 28 + bits 21 2 | .ctxLeaseMax _ => bits 31 8 | .ctxUnpark _ => bits 63 1
  | .ctxPreempt _ => bits 63 58 | .ctxResume _ => bits 63 48
  | .numNbv _ => bits 31 2 | .poolFlush _ => bits 31 16 | .poolEnqres _ => bits 31 4
  | .pwrStatus _ => bits 23 20 + bits 15 15 + bits 11 11 + bits 7 7 + bits 3 3 | .pwrCtl _ => bits 31 3
  | .linkStatus _ => bits 23 19 + bits 15 6 | .linkSeq _ => bits 63 48 | .linkErrthr _ => bits 31 8
  | .linkCtl _ => bits 31 2
  | .timeCtl _ => bits 31 1
  | .ctxTrstat _ => bits 29 8
  | .ctxDiescr _ _ => bits 31 25 + bits 15 10 | .ctxSave _ _ => bits 63 56
  | .poolSpill _ _ => bits 63 56 | .poolEnqbase _ _ => bits 63 56 + bits 15 0
  | .poolLivesel _ => bits 63 48
  | .crewWho _ => bits 62 48 | .crewLin _ => bits 63 56 | .crewMerge _ => bits 31 7 | .crewScrchk _ => bits 31 2
  | .cpyStat _ _ => bits 23 12 + bits 4 0
  | _ => 0

/-- A write sets a bit of a reserved field. -/
def Reg.rsvdHit (r : Reg) (v : W64) : Bool := v.toNat &&& r.rsvd != 0

/-! ## The registers that a band names by number: Table 13.7 -/

/-- The register of a number, for a crew's own instance. -/
def csrReg (r : CrewRef) (ctx n : Nat) : Option Reg :=
  if n = 0x041 then some (.numNbv ctx)
  else if n = 0x050 then some (.timeCount r.die) else if n = 0x051 then some (.timeRef r.die)
  else if n = 0x052 then some (.timeOffset r.die) else if n = 0x053 then some (.timeRate r.die)
  else if n = 0x054 then some (.timeCtl r.die)
  else if n = 0x060 then some (.crewMerge r) else if n = 0x061 then some (.crewScrchk r)
  else if n = 0x062 then some (.crewWlogcnt r)
  else if 0x070 ≤ n ∧ n < 0x080 then some (.crewWlog r (n - 0x070))
  else if 0x080 ≤ n ∧ n < 0x084 then some (.cpyWptr r (n - 0x080))
  else if 0x084 ≤ n ∧ n < 0x088 then some (.cpyStat r (n - 0x084))
  else if n = 0x090 then some (.poolFlush ctx) else if n = 0x091 then some (.poolEnqres ctx)
  else if n = 0x092 then some (.poolStat r.die)
  else if n = 0x094 then some (.poolSpill r.die ctx) else if n = 0x095 then some (.poolEnqbase r.die ctx)
  else if n = 0x0A0 then some (.pwrStatus r.die) else if n = 0x0A1 then some (.pwrCtl r.die)
  else if n = 0x0A2 then some .pwrPkgcap
  else if n = 0x0B0 then some (.ctxCfg ctx) else if n = 0x0B1 then some (.ctxLeaseMax ctx)
  else if n = 0x0B2 then some (.ctxDiescr r.die ctx) else if n = 0x0B3 then some (.ctxPreemptLimit ctx)
  else if n = 0x0B4 then some (.ctxSave r.die ctx)
  else if n = 0x0C0 then some .dispLeader
  else if n = 0x0D0 then some .bootPresent else if n = 0x0D1 then some .bootHealthy
  else if 0x200 ≤ n ∧ n < 0x2C0 then linkRegAt ⟨r.die, false, (n - 0x200) / 8⟩ ((n - 0x200) % 8 * 8)
  else if 0x2C0 ≤ n ∧ n < 0x300 then some (.dispQstat ctx (n - 0x2C0))
  else none

/-- `JE_QSTAT`, Table 16.11. -/
def State.jeQstat (s : State) (r : CrewRef) : W64 :=
  let c := s.coreOf r.die r.core
  let mine := c.jq.filter fun o => o.slot == r.slot
  BitVec.ofNat 64 (bit c.jqParked.isSome 31 + bit (mine.any fun o => o.stopped) 30 + mine.length)

/-- `JE_PEND`. -/
def Band.jePend (b : Band) : W64 := BitVec.ofNat 64 (maskNat 16 fun k => b.batchPend.get false k)

end Sys2Proof.Machine
end

