-- ==== Sys2Proof/Machine/Xlate.lean ====
section
/-!
DEFINITION. Translation: commands, leases, permission requests and replies, page-ready signals, homes and their replies,
deferred faults: R39, R80, R90 to R103, R199, R461.
-/
namespace Sys2Proof.Machine

/-! ## Threads -/

/-- The threads of a crew: its front context, then its bands. -/
def Crew.threads (cw : Crew) (r : CrewRef) : List ThreadRef :=
  (if cw.front.isSome then [r.front] else []) ++ cw.bands.map fun b => r.band b.1

def State.threadsAt (s : State) (d c : Nat) : List ThreadRef :=
  (s.coreOf d c).crews.flatMap fun w => w.2.threads { die := d, core := c, slot := w.1 }

def State.threadsOn (s : State) (d : Nat) : List ThreadRef := (s.dieOf d).cores.flatMap fun c => s.threadsAt d c.1

/-! ## Commands: R90 to R93 and R97 -/

/-- A translation command, Table 4.6, as the four words of its registers give it. -/
structure TrCmd where
  op : Nat
  ctx : Nat
  attr : W16
  p : Bool
  signal : Bool
  rsvd : Bool
  va : Nat
  frame : Nat
deriving DecidableEq, Repr

def TrCmd.of (ws : List W64) : TrCmd :=
  let w0 := (ws.getD 0 0).toNat
  { op := field w0 0 8, ctx := field w0 8 8, attr := BitVec.ofNat 16 (field w0 16 16), p := (ws.getD 0 0).getLsbD 32,
    signal := (ws.getD 0 0).getLsbD 33,
    rsvd := field w0 34 6 != 0 || field w0 40 24 != 0 || (ws.getD 1 0).toNat / 2 ^ 56 != 0 || (ws.getD 3 0) != 0 ||
      field w0 28 4 != 0 || field w0 20 3 != 0,
    va := (ws.getD 1 0).toNat, frame := (ws.getD 2 0).toNat }

/-- Bytes of a controller's memory. -/
def State.ctrlBytes (s : State) (n : Nat) : Nat := if n < 16 then 2 ^ 36 else s.host.fuses.ddrGiB.getD (n - 16) 0 * 2 ^ 30

/-- The stacks or channels of a page. -/
def State.pieceBytes (s : State) (n ctx va : Nat) (attr : W16) : Nat :=
  pageSize (attrSz attr) / 2 ^ s.pieceShift (BitVec.ofNat 6 ctx) va (decide (16 ≤ n))

/-- Two runs of bytes overlap. -/
def runsMeet (a n b m : Nat) : Bool := decide (a < b + m) && decide (b < a + n)

/-- The translation region of a controller. -/
def Ctrl.region (c : Ctrl) : Nat × Nat := (c.trBase.toNat * 2 ^ 30, c.trSize.toNat * 2 ^ 30)

/-- Code 1 of Table 4.8. -/
def State.badArg (s : State) (n : Nat) (c : TrCmd) : Bool :=
  let size := pageSize (attrSz c.attr)
  let piece := s.pieceBytes n c.ctx c.va c.attr
  let ddr := decide (16 ≤ n)
  let x := (s.ctrlOf n).region
  let share := if ddr && (s.tierChannels.contains (n - 16)) then s.hostShare else if ddr then s.ctrlBytes n else 0
  c.op == 0 || decide (3 < c.op) || c.rsvd || decide (63 < c.ctx) || attrOrd c.attr == 3 || c.va % size != 0 ||
    decide (c.va < 65536) || (inWindow c.va != (c.ctx == 0)) ||
    (if c.op = 1 then
      if !ddr && attrDdr c.attr then c.frame != 0
      else (ddr && !attrDdr c.attr) || c.frame % piece != 0 || decide (s.ctrlBytes n < c.frame + piece) ||
        (x.2 != 0 && runsMeet c.frame piece x.1 x.2) || decide (c.frame < share)
    else c.frame != 0)

/-- Whether a mapping holds frames at its own controller. -/
def Mapping.hasFrames (n : Nat) (m : Mapping) : Bool := decide (16 ≤ n) || !attrDdr m.attr

/-- Codes 2 to 6 of Table 4.8, in order. -/
def State.trResult (s : State) (n : Nat) (c : TrCmd) : Nat :=
  let k := s.ctrlOf n
  let cx := BitVec.ofNat 6 c.ctx
  let size := pageSize (attrSz c.attr)
  let piece := s.pieceBytes n c.ctx c.va c.attr
  let own := (decide (16 ≤ n)) || !attrDdr c.attr
  let st := (s.ctxOf c.ctx).st
  if s.badArg n c then 1
  else if c.op = 1 then
    if own && (k.maps.any fun m => m.hasFrames n &&
        runsMeet c.frame piece m.frame (s.pieceBytes n m.ctx.toNat m.va m.attr)) then 2
    else if k.maps.any fun m => m.ctx == cx && runsMeet c.va size m.va (pageSize (attrSz m.attr)) then 3
    else if Config.nodeCapacity k.trSize.toNat ≤ k.maps.length then 5
    else if st ≠ .active then 6 else 0
  else if !(k.maps.any fun m => m.ctx == cx && m.va == c.va && attrSz m.attr == attrSz c.attr) then 4
  else if st = .free then 6 else 0

/-- Ends the running command with a result. -/
def State.trDone (s : State) (n result : Nat) : State :=
  s.updCtrl n fun k => { k with busy := false, result := BitVec.ofNat 8 result, unmap := none }

/-- Drops the home lines of a page from the L2 slice of a stack's die; a channel's controller keeps none. -/
def State.l2Drop (s : State) (n : Nat) (ctx : B6) (va size : Nat) : State :=
  if 16 ≤ n then s
  else s.updDie (n / 2) fun d => { d with l2 := d.l2.filter fun t =>
    !(t.ctx == ctx && va ≤ 64 * t.line && 64 * t.line < va + size && s.stackOf ctx (64 * t.line) == n) }

/-- Compute dies on which the crews of a context may run, Table 4.1. -/
def Ctx.placement (c : Ctx) : List Nat :=
  if c.mode = 0 then List.range 8
  else if c.mode = 1 then (List.range 4).map fun i => 4 * (c.place.toNat % 2) + i else [c.place.toNat]

/-- Broadcasts a page-ready signal, R93. -/
def State.signalReady (s : State) (n : Nat) (c : TrCmd) : State :=
  let dies := if c.ctx = 0 then List.range 8 else (s.ctxOf c.ctx).placement
  dies.foldl (fun (s : State) d => s.send (s.hdr (BitVec.ofNat 6 c.ctx) 0 (ctrlSock n) d)
    (.ready (BitVec.ofNat 56 c.va) (BitVec.ofNat 2 (attrSz c.attr)))) s

/-- The 32 bytes of a command, as a synonym event carries them, R275. -/
def trCmdBytes (ws : List W64) : List Byte := (List.range 4).flatMap fun i => leBytes 8 (ws.getD i 0).toNat

/-- A command that runs at a controller and has this operation. -/
def State.runningCmd (s : State) (n op : Nat) : Option TrCmd :=
  let k := s.ctrlOf n
  let c := TrCmd.of k.run
  if k.busy && k.unmap.isNone && c.op == op then some c else none

/-- `MAP` completes, R91 and R92. -/
def execMap (s : State) : Out :=
  let n := s.unit
  match s.runningCmd n 1 with
  | none => .next s
  | some c =>
    let r := s.trResult n c
    let s1 := s.trDone n r
    if r = 0 then
      let s2 := s1.updCtrl n fun k => { k with maps := k.maps ++ [{ ctx := BitVec.ofNat 6 c.ctx, va := c.va, attr := c.attr, frame := c.frame,
                                                                     p := c.p, horizon := 0, unmapping := false }] }
      .next (if c.signal && c.p then s2.signalReady n c else s2)
    else if r = 2 then
      .next (s1.report (ctrlSock n) false (some (BitVec.ofNat 6 c.ctx)) 8 0 (trCmdBytes (s.ctrlOf n).run))
    else .next s1

/-- `SETP`, R93. -/
def execSetp (s : State) : Out :=
  let n := s.unit
  match s.runningCmd n 3 with
  | none => .next s
  | some c =>
    let r := s.trResult n c
    let s1 := s.trDone n r
    if r ≠ 0 then .next s1
    else
      let cx := BitVec.ofNat 6 c.ctx
      let set_ := fun (m : Mapping) => if m.ctx == cx && m.va == c.va then { m with p := c.p } else m
      let s2 := s1.updCtrl n fun k => { k with maps := k.maps.map set_ }
      let s3 := if c.p then s2 else s2.l2Drop n cx c.va (pageSize (attrSz c.attr))
      .next (if c.signal && c.p then s3.signalReady n c else s3)

/-- The unmap of a mapping begins: it grants and serves nothing more, and waits for its leases, R97. -/
def Mapping.startUnmap (m : Mapping) (now : Nat) : Mapping :=
  if m.unmapping then m else { m with unmapping := true, horizon := max m.horizon now + 1000 }

/-- `UNMAP` begins; it completes at the expiry of its wait. -/
def execUnmap (s : State) : Out :=
  let n := s.unit
  match s.runningCmd n 2 with
  | none => .next s
  | some c =>
    let r := s.trResult n c
    if r ≠ 0 then .next (s.trDone n r)
    else
      let cx := BitVec.ofNat 6 c.ctx
      .next (s.updCtrl n fun k => { k with
        unmap := some { ctx := cx, va := c.va },
        maps := k.maps.map fun (m : Mapping) => if m.ctx == cx && m.va == c.va then m.startUnmap s.timeCount else m })

/-! ## `DESTROY`, R80 -/

/-- A launch of the context waits or has not completed, or a cluster of it is saved. -/
def State.ctxBusy (s : State) (c : Nat) : Bool :=
  (s.disp.queues.any fun q => q.1 / 64 == c && !q.2.toks.isEmpty) || (s.disp.forwarded.any fun f => f.ctx.toNat == c) ||
  (s.disp.grids.any fun g => (handleCtx g.2.handle).toNat == c && (match g.2.own.st with | .ended _ => false | _ => true)) ||
    s.dies.any fun d => d.2.disp.grids.any fun g => g.1 % 64 == c && !g.2.saved.isEmpty

def State.ctxMapped (s : State) (c : Nat) : Bool := s.ctrls.any fun k => k.2.maps.any fun m => m.ctx.toNat == c

/-- Ends a destroy whose pages are all unmapped. -/
def State.destroyEnd (s : State) (c : Nat) : State :=
  if (s.ctxOf c).destroy = .unmapping ∧ !s.ctxMapped c then
    s.updCtx c fun x => { x with st := .free, destroy := .none }
  else s

/-- The next stage of a destroy, once the one before has completed. -/
def State.destroyStep (s : State) (c : Nat) : State :=
  if (s.ctxOf c).destroy = .cancelling ∧ !s.ctxBusy c then
    let s1 := s.updCtx c fun x => { x with destroy := .unmapping }
    let start := fun (m : Mapping) => if m.ctx.toNat == c then m.startUnmap s.timeCount else m
    ({ s1 with ctrls := s1.ctrls.map fun (k : Nat × Ctrl) => (k.1, { k.2 with maps := k.2.maps.map start }) }).destroyEnd c
  else s.destroyEnd c

/-- The wait of an unmap ends: lines leave the home L2, frames are freed, the command completes, R97. -/
def execUnmapWaitExpiry (s : State) : Out :=
  let n := s.unit
  let k := s.ctrlOf n
  let due := k.maps.filter fun m => m.unmapping && decide (m.horizon ≤ s.timeCount)
  let s1 := due.foldl (fun (s : State) m => s.l2Drop n m.ctx m.va (pageSize (attrSz m.attr))) s
  let s2 := s1.updCtrl n fun k => { k with maps := k.maps.filter fun m => !(m.unmapping && decide (m.horizon ≤ s.timeCount)) }
  let s3 := match k.unmap with
    | some u => if (s2.ctrlOf n).maps.any fun m => m.ctx == u.ctx && m.va == u.va then s2 else s2.trDone n 0
    | none => s2
  .next (due.foldl (fun (s : State) m => s.destroyStep m.ctx.toNat) s3)

/-! ## Permissions and leases: R94 and R95 -/

/-- `PERMREQ` at a controller. -/
def execPermreq (h : PktHdr) (va : VAddr) (_ts : W64) (s : State) : Out :=
  let n := h.dstSock.toNat - 8
  let cx := effCtx h.ctx va.toNat
  let lost := PermReplyB.mk (BitVec.ofNat 56 (va.toNat / 65536 * 65536)) 0 0 true
  let m := if inWindow va.toNat && windowPkg va.toNat != s.pkg || (s.ctxOf cx.toNat).st == .free then none
    else (s.ctrlOf n).find cx va.toNat
  match m with
  | none => .next (s.send (PktHdr.reply h) (.permreply lost))
  | some m =>
    if m.unmapping then .next (s.send (PktHdr.reply h) (.permreply lost))
    else
      let l := (s.ctxOf cx.toNat).lease
      let raise_ := fun (x : Mapping) =>
        if x.ctx == m.ctx && x.va == m.va then { x with horizon := max x.horizon (s.timeCount + 1000 * l.toNat) } else x
      let s1 := s.updCtrl n fun k => { k with maps := k.maps.map raise_ }
      .next (s1.send (PktHdr.reply h) (.permreply { page := BitVec.ofNat 56 m.va, attrs := m.attr, grant := l, notMapped := false }))

/-- Lines of a page leave the L1 with the entry, R95 and R199. -/
def State.palDrop (s : State) (d c : Nat) (e : PalE) : State :=
  let page := fun (ctx : B6) (l : Nat) => ctx == e.ctx && decide (e.page ≤ 64 * l) && decide (64 * l < e.page + pageSize (attrSz e.attr))
  (s.updCore d c fun x => { x with pal := x.pal.filter (fun y => y != e),
                                   icache := x.icache.filter fun l => !page l.ctx l.line }).l1Drop d c fun x l _ => page x l

/-- Entries whose leases have ended are dropped. -/
def State.palExpire (s : State) (d c : Nat) : State :=
  let k := s.coreOf d c
  let s1 := (k.pal.filter fun e => e.expiry ≤ s.timeCount).foldl (fun (s : State) e => s.palDrop d c e) s
  if k.wpal.any fun e => e.expiry ≤ s.timeCount then
    s1.updCore d c fun x => { x with wpal := x.wpal.filter fun e => s.timeCount < e.expiry }
  else s1

def execPalLeaseExpiry (s : State) : Out := .next (s.palExpire s.cur.die s.cur.core)

/-- Enters a granted permission, replacing the oldest of 512 entries, log 12. -/
def State.palEnter (s : State) (d c : Nat) (e : PalE) : State :=
  let k := s.coreOf d c
  if e.expiry ≤ s.timeCount ∨ (k.pal.any fun x => x.ctx == e.ctx && x.page == e.page && x.expiry > s.timeCount) then s
  else
    let s1 := if k.pal.length < 512 then s else match k.pal with
      | o :: _ => s.palDrop d c o
      | [] => s
    s1.updCore d c fun x => { x with pal := x.pal ++ [e] }

/-- The fault of a thread that waits for a page which is not mapped. -/
def State.pageFault (s : State) (t : ThreadRef) (ctx : B6) (page : Nat) : State :=
  match s.thread t with
  | some b =>
    match b.x.phase with
    | .lookup asks =>
      let mine := asks.filter fun a => effCtx ctx a.va == effCtx ctx page && s.samePage (effCtx ctx page) page a.va
      match mine with
      | [] => s
      | a :: _ => s.memFault t { va := a.va, pc := b.x.pc, lanes := mine.foldl (fun m x => m ||| x.lanes) 0,
                                 index := a.index, cause := 0x0100, fetch := a.fetch }
    | _ => s
  | none => s

/-- `PERMREPLY` at the die that asked. -/
def execPermreply (h : PktHdr) (b : PermReplyB) (s : State) : Out :=
  let d := h.dstSock.toNat
  match (s.dieOf d).tags.find? h.tag.toNat with
  | some (.perm c ctx va ts) =>
    let s1 := s.updDie d fun x => { x with tags := x.tags.erase h.tag.toNat }
    if b.notMapped then
      .next ((s1.threadsAt d c).foldl (fun (s : State) t =>
        match s.crewOf t.crew with
        | some cw => if effCtx (handleCtx cw.cfg.handle) va == ctx then s.pageFault t (handleCtx cw.cfg.handle) va else s
        | none => s) s1)
    else .next (s1.palEnter d c { ctx := ctx, page := b.page.toNat, attr := b.attrs, expiry := ts + 1000 * b.grant.toNat,
                                  used := s.timeCount })
  | some (.wperm c ctx ts) =>
    let s1 := s.updDie d fun x => { x with tags := x.tags.erase h.tag.toNat }
    if b.notMapped then .next (s1.answerRemote d c h.tag.toNat (1, []))
    else
      let s2 := s1.updCore d c fun k => { k with remote := k.remote.filter fun x => x.tag != h.tag.toNat }
      .next (s2.wpalEnter d c { ctx := ctx, page := b.page.toNat, attr := b.attrs, expiry := ts + 1000 * b.grant.toNat,
                                used := s.timeCount })
  | _ => .next s

/-! ## Resuming what is parked: R93, R103, R209 and R450 -/

/-- The parked bands and front contexts of a die that a signal resumes. -/
def State.unparkThreads (s : State) (d : Nat) (f : ParkInfo → B6 → Bool) : State :=
  (s.threadsOn d).foldl (fun (s : State) t =>
    match s.crewOf t.crew, s.thread t with
    | some cw, some b =>
      match b.parked with
      | some p => if f p (handleCtx cw.cfg.handle) then
          s.setThread t { b with parked := none, x := { b.x with phase := .fresh } } else s
      | none => s
    | _, _ => s) s

def EngSt.unpark (f : Nat → Bool) : EngSt → EngSt
  | .parked va => if f va then .running else .parked va
  | e => e

/-- The parked copy channels and Infuser queues of a die that a signal resumes. -/
def State.unparkEngines (s : State) (d : Nat) (f : B6 → Nat → Bool) : State :=
  s.updDie d fun x => { x with cores := x.cores.map fun c =>
    let ctxOf := fun (slot : Nat) => match c.2.crews.find? slot with | some w => handleCtx w.cfg.handle | none => 0
    let jq := c.2.jq.map fun (o : JOp) => { o with st := o.st.unpark (f (ctxOf o.slot)) }
    let copy := c.2.copy.map fun q => q.map fun (k : CopyCmd) => { k with st := k.st.unpark (f (ctxOf k.slot)) }
    (c.1, { c.2 with copy := copy, jq := jq }.parkedOnly) }

/-- A saved thread is woken. -/
def Band.wake (b : Band) (f : Nat → Bool) : Band :=
  match b.parked with
  | some p => if f p.va then { b with parked := none } else b
  | none => b

def SavedCrew.wake (sv : SavedCrew) (f : Nat → Bool) : SavedCrew :=
  { sv with
    crew := { sv.crew with
      bands := sv.crew.bands.map fun (b : Nat × Band) => (b.1, b.2.wake f),
      front := sv.crew.front.map fun fr => { fr with th := fr.th.wake f } },
    copy := sv.copy.map fun q => q.map fun (k : CopyCmd) => { k with st := k.st.unpark f },
    jq := sv.jq.map fun (o : JOp) => { o with st := o.st.unpark f } }

/-- Records a signal in the save blocks of a die: the parked threads of saved crews will resume as if woken, R283. -/
def State.wakeSaved (s : State) (d : Nat) (f : B6 → Nat → Bool) : State :=
  let one := fun (sv : SavedCrew) => sv.wake (f (handleCtx sv.handle))
  s.updSaved d one

/-- `READY` at a die. -/
def execReady (h : PktHdr) (page : VAddr) (sz : BitVec 2) (s : State) : Out :=
  let d := h.dstSock.toNat
  let hit := fun (ctx : B6) (va : Nat) => effCtx ctx va == h.ctx && decide (page.toNat ≤ va) &&
    decide (va < page.toNat + pageSize sz.toNat)
  .next (((s.unparkThreads d fun p ctx => hit ctx p.va).unparkEngines d hit).wakeSaved d hit)

/-- `UNPARK` at a die: everything parked of the context. -/
def execUnpark (h : PktHdr) (s : State) : Out :=
  let d := h.dstSock.toNat
  let hit := fun (ctx : B6) (_ : Nat) => ctx == h.ctx
  .next (((s.unparkThreads d fun p ctx => hit ctx p.va).unparkEngines d hit).wakeSaved d hit)

/-! ## Homes: R39, R100, R201 and R202 -/

/-- `READ` at a home. -/
def execRead (h : PktHdr) (b : ReadB) (s : State) : Out :=
  let r := s.homeRead h.ctx b.va.toNat (b.cntM1.toNat + 1) h.dstSock.toNat
  .next (r.2.2.send (PktHdr.reply h) (.data (BitVec.ofNat 8 r.1) r.2.1))

/-- `WRITE` at a home. -/
def execWrite (h : PktHdr) (b : WriteB) (s : State) : Out :=
  let r := if b.bytes.length ≠ b.cntM1.toNat + 1 then (3, s) else s.homeWrite h.ctx b.va.toNat h.dstSock.toNat b.bytes
  .next (r.2.send (PktHdr.reply h) (.ack (BitVec.ofNat 8 r.1)))

/-- `ATOMIC` at a home. -/
def execAtomic (h : PktHdr) (b : AtomicB) (s : State) : Out :=
  if b.width = 3 then .next (s.send (PktHdr.reply h) (.old 3 0))
  else
    let r := s.homeAtomic h.ctx b.va.toNat h.dstSock.toNat b.op.toNat (4 * 2 ^ b.width.toNat) b.signed b.operand.toNat
      b.expected.toNat
    .next (r.2.2.send (PktHdr.reply h) (.old (BitVec.ofNat 8 r.1) (BitVec.ofNat 128 r.2.1)))

/-- The home of a line of code refuses it: the threads that are to fetch there fault, R461. -/
def State.fetchRefused (s : State) (d c : Nat) (ctx : B6) (line : Nat) : State :=
  (s.threadsAt d c).foldl (fun (s : State) t =>
    match s.crewOf t.crew, s.thread t with
    | some cw, some b =>
      if b.running && b.parked.isNone && b.x.phase == .fresh && effCtx (handleCtx cw.cfg.handle) b.x.pc.toNat == ctx &&
          b.x.pc.toNat / 64 == line then
        s.memFault t { va := b.x.pc.toNat, pc := b.x.pc, lanes := 0, index := 0xFFFF, cause := 0x0101, fetch := true }
      else s
    | _, _ => s) s

/-- A reply to a request of an engine, or to the fetch of a line of code, is kept where it is awaited. -/
def State.engineAnswer (s : State) (h : PktHdr) (status : Byte) (bytes : List Byte) : Option State :=
  let d := h.dstSock.toNat
  let s1 := s.updDie d fun x => { x with tags := x.tags.erase h.tag.toNat }
  match (s.dieOf d).tags.find? h.tag.toNat with
  | some (.engine c) => some (s1.answerRemote d c h.tag.toNat (status, bytes))
  | some (.fetch c ctx line) => some (if status = 0 then s1.updCore d c fun k => k.keepCode ctx line bytes else s1.fetchRefused d c ctx line)
  | _ => none

/-- The piece that a reply belongs to, its tag freed. -/
def State.replyPiece (s : State) (h : PktHdr) : Option (ThreadRef × Nat × Nat × State) :=
  let d := h.dstSock.toNat
  match (s.dieOf d).tags.find? h.tag.toNat with
  | some (.piece t a i) => some (t, a, i, s.updDie d fun x => { x with tags := x.tags.erase h.tag.toNat })
  | _ => none

/-- What the reply answers to, if the access still stands. -/
def State.pieceOf (s : State) (t : ThreadRef) (id i : Nat) : Option (Acc × Piece) :=
  match s.thread t with
  | some b => match b.findAcc id with
    | some a => a.pieces[i]?.map fun p => (a, p)
    | none => none
  | none => none

/-- A reply to a part of an access: performed with bytes and status bits, or refused. -/
def State.answer (s : State) (h : PktHdr) (status : Byte) (f : Acc → Piece → List Byte × BitVec 6)
    (g : ThreadRef → Acc → Piece → State → State) : Out :=
  match s.replyPiece h with
  | none => .next s
  | some (t, id, i, s1) =>
    match s1.pieceOf t id i with
    | none => .next s1
    | some (a, p) =>
      if status ≠ 0 then .next (s1.pieceRefused t id i)
      else .next ((g t a p s1).pieceDone t id i (f a p).1 (f a p).2)

/-- `DATA`: a line fills the L1 where the load may, R199 and R200; a fill that an invalidation bars drops the line, so that no
later load finds there what is older than the fill, R227. DEDUCED, log 71. -/
def execData (h : PktHdr) (status : Byte) (bytes : List Byte) (s : State) : Out :=
  match s.engineAnswer h status bytes with
  | some s1 => .next s1
  | none =>
  s.answer h status (fun a p => ((if a.cacheable p then bytes.drop (p.va % 64) else bytes).take p.len, 0)) fun t a p s =>
    if !a.cacheable p then s
    else if p.install then s.updCore t.die t.core fun k => k.l1Install h.ctx p.va s.timeCount (p.kind == .free) bytes
    else s.l1Drop t.die t.core fun x l _ => x == h.ctx && l == p.va / 64

/-- `ACK`. -/
def execAck (h : PktHdr) (status : Byte) (s : State) : Out :=
  match s.engineAnswer h status [] with
  | some s1 => .next s1
  | none => s.answer h status (fun _ _ => ([], 0)) fun _ _ _ s => s

/-- `OLD`: the old value; an outward add reports the status bits of its sum. -/
def execOld (h : PktHdr) (status : Byte) (val : W128) (s : State) : Out :=
  match s.engineAnswer h status (leBytes 16 val.toNat) with
  | some s1 => .next s1
  | none =>
  s.answer h status (fun a p =>
    (leBytes a.width val.toNat,
     (atomResult (a.opFor p.lane) a.width a.signed val.toNat (a.operands.get 0 p.lane).toNat
       (a.expects.get 0 p.lane).toNat).2)) fun _ _ _ s => s

/-! ## Deferred faults: R100 to R102 and R123 -/

/-- The first refused part of an access. -/
def Acc.refusedPiece (a : Acc) : Option Piece := a.pieces.find? fun p => p.st == .refused

/-- `DEFERRED_FAULT`: the core learns that a home refused a part of the access. DEDUCED, log 37. -/
def execDeferredFault (acc : Nat) (s : State) : Out :=
  let t := s.cur
  match s.thread t with
  | none => .next s
  | some b =>
    match b.findAcc acc with
    | none => .next s
    | some a =>
      match a.refusedPiece with
      | none => .next s
      | some p =>
        let f : MemFault := { va := p.va, pc := a.pc, lanes := p.mask, index := a.index,
                              cause := if a.kind = .store then 9 else 0x0101, fetch := a.kind == .fetch }
        if !b.leaves then .next (s.memFault t f)
        else
          let over_ := fun (q : Piece) => if q = p then { q with mask := 0, st := .done } else q
          let b1 := b.updAcc acc fun (x : Acc) => { x with pieces := x.pieces.map over_ }
          let b2 := { b1 with accs := b1.accs.filter fun (x : Acc) => x.pieces.any fun q => q.st != .done }
          .next (((s.memFault t f).setThread t b2).settleEnd t)

end Sys2Proof.Machine
end

