-- ==== Sys2Proof/Machine/Launch.lean ====
section
/-!
DEFINITION. Launch tokens, the launch record, the kernel header, rosters, and the checks of the package leader: R104 to R112.
-/
namespace Sys2Proof.Machine

/-! ## Places, R16, R48, R113 and R116 -/

/-- The packages of a launch. -/
def LaunchRec.pkgs (l : LaunchRec) (src : Nat) : List Nat :=
  if l.podsc then (List.range 256).filter fun n => l.pkgMask.testBit n else [src]

/-- The dies of a grid's placement in a package: those that Table 4.1 allows, and only the healthy ones, R116. -/
def State.placementIn (s : State) (c : Nat) (pkg : Nat) : List Nat :=
  (s.healthyDies pkg).filter fun d => pkg != s.pkg || (s.ctxOf c).placement.contains d

/-- Every package and die of a grid's placement. -/
def State.gridPlaces (s : State) (g : Grid) : List (Nat × Nat) :=
  (g.launch.pkgs g.srcPkg).flatMap fun p => (s.placementIn (handleCtx g.handle).toNat p).map fun d => (p, d)

/-! ## Tokens: R104 -/

def tokRec (b : List Byte) : Nat := leNat (b.take 8)
def tokUtag (b : List Byte) : W64 := BitVec.ofNat 64 (leNat ((b.drop 8).take 8))
def tokDone (b : List Byte) : Nat := leNat ((b.drop 16).take 8)
def tokHostRec (b : List Byte) : Bool := (b.getD 24 0).getLsbD 0

/-- Launch queues of a mode, Table 4.1. -/
def modeQueues (mode : Nat) : Nat := if mode = 0 then 64 else if mode = 1 then 32 else 8

/-- Changes a launch queue. -/
def State.updQueue (s : State) (c q : Nat) (f : LaunchQ → LaunchQ) : State :=
  { s with disp := { s.disp with queues := s.disp.queues.set (64 * c + q) (f (s.queueOf c q)) } }

/-- A drop, or a failed completion write, is counted. -/
def State.countDrop (s : State) (c q : Nat) : State := s.updQueue c q fun x => { x with drops := satInc x.drops }

/-- The token breaks one of the rules of R104 on its content. -/
def tokMalformed (b : List Byte) (byBand : Bool) : Bool :=
  (byBand && tokHostRec b) || (b.drop 25).any (fun x => x != 0) || (b.getD 24 0).toNat / 2 != 0 || tokRec b % 256 != 0 ||
    tokDone b % 8 != 0

/-- A token arrives at a queue: it is dropped, or waits to be taken. -/
def State.tokenArrive (s : State) (c q : Nat) (b : List Byte) (submitter : Option (ThreadRef × Nat)) : State × Bool :=
  let x := s.ctxOf c
  let k := s.queueOf c q
  if x.st = .free ∨ c = 0 ∨ modeQueues x.mode.toNat ≤ q ∨ 64 ≤ k.toks.length ∨ tokMalformed b submitter.isSome then
    (s.countDrop c q, false)
  else
    let t : Token := { bytes := b, pos := k.nextPos, submitter := submitter }
    (s.updQueue c q fun y => { y with toks := y.toks ++ [t], nextPos := y.nextPos + 1 }, true)

/-- `LAUNCH_TOKEN_WRITE`: a host's or a peripheral's write to the aperture block of R104. -/
def execLaunchTokenWrite (addr : W64) (bytes : List Byte) (s : State) : Out :=
  let base := s.disp.apBase.toNat
  let a := addr.toNat
  if a < base ∨ base + 4096 * 4096 ≤ a then .next s
  else
    let n := (a - base) / 4096
    if a % 4096 ≠ 0 ∨ bytes.length ≠ 64 then .next (s.countDrop (n / 64) (n % 64))
    else .next (s.tokenArrive (n / 64) (n % 64) bytes none).1

/-! ## Records and headers: R107 to R110 -/

/-- The launch record of Table 5.2. -/
def LaunchRec.parse (b : List Byte) : LaunchRec :=
  { hdr := fld b 0 8, gx := fld b 8 4, gy := fld b 12 2, gz := fld b 14 2, deal := if fld b 16 2 = 0 then 64 else fld b 16 2,
    bands := fld b 18 1, bandw := fld b 19 1, regs := fld b 20 2, scrKB := fld b 22 2, clusKB := fld b 24 2,
    poolN := fld b 26 2, caddy := fld b 28 2, clw := fld b 30 1, clh := fld b 31 1, rost := fld b 32 8, nrost := fld b 40 2,
    preload := fld b 42 2, spmax := fld b 44 4, prio := fld b 48 1, ophint := fld b 49 1, podsc := fld b 50 1 == 1,
    replayLost := (fld b 51 1).testBit 0, depStrict := (fld b 51 1).testBit 1,
    mergePct := if fld b 52 4 % 128 = 0 then 25 else fld b 52 4 % 128, scrchkLog := (fld b 52 4).testBit 7,
    after := fld b 56 8, pkgMask := fld b 64 32, fsum := fld b 96 8 }

def LaunchRec.crews (l : LaunchRec) : Nat := l.gx * l.gy * l.gz
def LaunchRec.csize (l : LaunchRec) : Nat := l.clw * l.clh
def LaunchRec.width (l : LaunchRec) : Nat := if l.bandw = 0 then 32 else 64
/-- KiB of core scratchpad that a crew takes in all, rounded up, R127. -/
def LaunchRec.kib (l : LaunchRec) : Nat := l.scrKB + l.clusKB + (l.poolN * 64 + 1023) / 1024

/-- Check 1 of Table 5.3. -/
def recordBad (b : List Byte) : Bool :=
  let l := LaunchRec.parse b
  let dim := fun n => n == 1 || n == 2 || n == 4
  l.hdr % 64 != 0 || l.gx == 0 || decide (2 ^ 24 ≤ l.gx) || l.gy == 0 || l.gz == 0 ||
    l.bands == 0 || decide (16 < l.bands) || decide (1 < l.bandw) || decide (l.regs < 8) || decide (256 < l.regs) ||
    l.regs % 8 != 0 || decide (512 < l.scrKB) || decide (256 < l.clusKB) || !dim l.clw || !dim l.clh ||
    (l.csize == 1 && l.clusKB != 0) || (l.csize == 8 && l.clw == 1) ||
    (l.poolN != 0 && (decide (l.poolN < 8) || decide (4096 < l.poolN) || 2 ^ Nat.log2 l.poolN != l.poolN)) ||
    decide (8192 < l.caddy) || l.caddy % 128 != 0 || l.rost % 8 != 0 || (l.nrost == 0 && l.rost != 0) ||
    decide (256 < l.nrost) || decide (2 ^ 13 ≤ l.preload) || decide (3 < l.prio) || decide (7 < l.ophint) ||
    decide (1 < fld b 50 1) || decide (3 < fld b 51 1) || decide (256 ≤ fld b 52 4) || decide (100 < l.mergePct) ||
    l.fsum % 64 != 0 || ((b.drop 104).any fun x => x != 0) ||
    l.deal % max 1 l.csize != 0 || l.crews % max 1 l.csize != 0

/-- The kernel header of Table 5.4. -/
def KHdr.parse (b : List Byte) : KHdr :=
  { frontPc := fld b 0 8, bandPc := fld b 8 8, trapVec := fld b 16 8, pren := fld b 24 4, taskBase := fld b 28 1,
    dest := (List.range 13).map fun k => fld b (32 + k) 1 }

/-- The preload identifiers that are enabled, each with its destination, R110. -/
def preloads (l : LaunchRec) (k : KHdr) : List (Nat × Nat) :=
  ((List.range 13).filter fun i => k.pren.testBit i && l.preload.testBit i).map fun i => (i, k.dest.getD i 0)

/-- Check 3 of Table 5.3. -/
def headerBad (l : LaunchRec) (b : List Byte) : Bool :=
  let k := KHdr.parse b
  let ds := preloads l k
  let unis := (ds.filter fun d => d.1 != 0).map fun d => d.2
  k.bandPc == 0 || k.bandPc % 8 != 0 || k.trapVec % 64 != 0 || decide (2 ^ 56 ≤ k.trapVec) || decide (2 ^ 13 ≤ k.pren) ||
    ((b.drop 29).take 3).any (fun x => x != 0) || ((b.drop 45).take 19).any (fun x => x != 0) ||
    (l.poolN != 0 && decide (l.regs < k.taskBase + 14)) ||
    (ds.any fun d => if d.1 = 0 then decide (l.regs ≤ d.2) else decide (32 ≤ d.2)) || unis.eraseDups.length != unis.length

/-! ## Rosters: R112 -/

/-- An 8-byte list of a length at an address. -/
def State.memberList (s : State) (ctx : B6) (va n : Nat) : Except DevFault (List Nat) :=
  match s.devRead ctx attrR va (8 * n) with
  | .ok bs => .ok ((List.range n).map fun i => fld bs (8 * i) 8)
  | .error e => .error e

/-- The lists of a roster table; none in place of a list that is longer than the crew count. -/
def State.rosterLists (s : State) (ctx : B6) (l : LaunchRec) (tbl : List Byte) : List Nat →
    Except DevFault (List (Option (List Nat)))
  | [] => .ok []
  | n :: ns =>
    let count := fld tbl (16 * n + 8) 4
    let this : Except DevFault (Option (List Nat)) := if l.crews < count then .ok none else
      match s.memberList ctx (fld tbl (16 * n) 8) count with
      | .ok xs => .ok (some xs)
      | .error e => .error e
    match this with
    | .error e => .error e
    | .ok x => match s.rosterLists ctx l tbl ns with
      | .ok xs => .ok (x :: xs)
      | .error e => .error e

/-- DEDUCED, log 40. -/
def State.readRosters (s : State) (ctx : B6) (l : LaunchRec) : Except DevFault (List (Option (List Nat))) :=
  if l.nrost = 0 then .ok []
  else match s.devRead ctx attrR l.rost (16 * l.nrost) with
    | .ok tbl => s.rosterLists ctx l tbl (List.range l.nrost)
    | .error e => .error e

/-- Strictly ascending. -/
def ascending : List Nat → Bool
  | a :: b :: t => decide (a < b) && ascending (b :: t)
  | _ => true

/-- Check 4 of Table 5.3. -/
def rostersBad (l : LaunchRec) (rs : List (Option (List Nat))) : Bool :=
  let members := rs.filterMap id
  rs.any (fun r => r.isNone) || members.any (fun r => !ascending r || r.any fun x => decide (l.crews ≤ x)) ||
    members.flatten.any fun x => decide (4 < (members.filter fun r => r.contains x).length)

/-! ## The package leader's checks: R108 -/

/-- Check 5: the crew can fit no core. -/
def noFit (l : LaunchRec) : Bool :=
  decide (1024 < l.bands * l.width) || decide (65536 < l.bands * l.width * l.regs) ||
    decide (512 * 1024 < (l.scrKB + l.clusKB) * 1024 + l.poolN * 64)

/-- Check 6. Whether another package has the context active in mode 1 only that package knows. DESIGN CHOICE, log 88. -/
def State.badScope (s : State) (c : Nat) (l : LaunchRec) : Bool :=
  l.podsc && ((s.ctxOf c).mode != 0 || !l.pkgMask.testBit s.pkg ||
    (l.pkgs s.pkg).any fun n => n != s.pkg && ((s.podPort n).isNone || !Config.farActive s.time n c))

/-- Check 7: `AFTER` is not a handle that has been assigned in this context. DEDUCED, log 31. -/
def State.badDep (s : State) (c : Nat) (l : LaunchRec) : Bool :=
  l.after != 0 && !(l.after % 256 == c && s.disp.assigned.any fun a => a.ctx.toNat == c && a.seq == l.after / 256)

/-- What the leader finds. -/
structure Verdict where
  reason : Nat
  faultVa : Nat
  record : List Byte
  launch : LaunchRec
  khdr : KHdr
  rosters : List (List Nat)
deriving DecidableEq, Repr

/-- Reads and checks a launch in the order of Table 5.3. -/
def State.checkLaunch (s : State) (c : Nat) (tok : List Byte) : Verdict :=
  let ctx := BitVec.ofNat 6 c
  let none_ : Verdict := { reason := 2, faultVa := 0, record := List.replicate 256 0, launch := LaunchRec.parse [],
                           khdr := KHdr.parse [], rosters := [] }
  match (if tokHostRec tok then .ok (s.hostRead (tokRec tok) 256) else s.devRead ctx attrR (tokRec tok) 256) with
  | .error e => { none_ with faultVa := e.va }
  | .ok b =>
    let l := LaunchRec.parse b
    let v := { none_ with record := b, launch := l }
    if recordBad b then { v with reason := 1 }
    else match s.devRead ctx attrR l.hdr 64, s.readRosters ctx l with
      | .error e, _ => { v with faultVa := e.va }
      | _, .error e => { v with faultVa := e.va }
      | .ok hb, .ok rs =>
        let w := { v with khdr := KHdr.parse hb, rosters := rs.map fun (r : Option (List Nat)) => r.getD [] }
        let reason := if headerBad l hb then 3 else if rostersBad l rs then 4 else if noFit l then 5
          else if s.badScope c l then 6 else if s.badDep c l then 7 else 0
        { w with reason := reason }

/-- `TOKEN_TAKE`: the leader takes the next token of the queue that `unit` names, checks it and forwards it, R105, R113. -/
def execTokenTake (s : State) : Out :=
  let c := s.unit / 64
  let q := s.unit % 64
  match (s.queueOf c q).toks with
  | [] => .next s
  | t :: rest =>
    if (s.healthyDies s.pkg).isEmpty then .next s
    else
      let v := s.checkLaunch c t.bytes
      let f : Forwarded := { ctx := BitVec.ofNat 6 c, queue := q, pos := t.pos, bytes := t.bytes, reason := v.reason,
                             faultVa := v.faultVa, record := v.record, launch := v.launch, khdr := v.khdr,
                             rosters := v.rosters, sentAt := s.timeCount, submitter := t.submitter }
      let s1 := s.updQueue c q fun x => { x with toks := rest }
      let s2 := { s1 with disp := { s1.disp with forwarded := s1.disp.forwarded ++ [f] } }
      let ldr := s.disp.podldr.toNat
      .next (s2.sendTo f.ctx 0 s.disp.leader.toNat (ldr, s.leaderOf ldr)
        (.token { ctx := f.ctx, queue := BitVec.ofNat 6 q, pos := BitVec.ofNat 36 t.pos } t.bytes))

end Sys2Proof.Machine
end

