-- ==== Sys2Proof/Machine/Power.lean ====
section
/-!
DEFINITION. Operating points and the package power ceiling: R19 to R22.
-/
namespace Sys2Proof.Machine

/-- The highest hint among the launches with crews placed or waiting for placement on a die, R20. -/
def State.hintOf (s : State) (d : Nat) : Nat :=
  let x := s.dieOf d
  let here := fun (h : Handle) => (x.disp.queues.any fun q => q.any fun c => c.handle == h) ||
    x.cores.any fun c => c.2.crews.any fun w => w.2.cfg.handle == h
  s.disp.grids.foldl (fun m g => if here g.2.handle then max m g.2.launch.ophint else m) 0

/-- A change of point begins: the clock switches at its start when the point falls, R21. -/
def Pwr.begin_ (p : Pwr) : Pwr :=
  if p.trans ∨ p.cur = p.target then p
  else { p with trans := true, going := p.target, cur := if p.target.toNat < p.cur.toNat then p.target else p.cur }

/-- The target point is the least of the four values of R20. -/
def Pwr.retarget (p : Pwr) (hint : Nat) : Pwr :=
  let t := min (min hint p.opcap.toNat) (min p.ceilTherm.toNat p.ceilPkg.toNat)
  Pwr.begin_ { p with hint := BitVec.ofNat 3 hint, target := BitVec.ofNat 3 t }

/-- The target of a die is recomputed. -/
def State.retarget (s : State) (d : Nat) : State :=
  let h := s.hintOf d
  s.updDie d fun x => { x with pwr := x.pwr.retarget h }

/-- The change in progress ends: the clock has its new frequency; a new change toward the latest target begins at once. DESIGN CHOICE, log 22. -/
def Pwr.changeDone (p : Pwr) : Pwr := if p.trans then Pwr.begin_ { p with cur := p.going, trans := false } else p

/-- `OP_POINT_CHANGE_DONE` at a die. DESIGN CHOICE, log 22. -/
def execOpPointChangeDone (s : State) : Out := .next (s.updDie s.cur.die fun x => { x with pwr := x.pwr.changeDone })

/-- `CEIL_PKG` moves by one index on every compute die. -/
def State.stepCeil (s : State) (up : Bool) : State :=
  let move := fun (p : Pwr) =>
    { p with ceilPkg := if up then (if p.ceilPkg = 7 then 7 else p.ceilPkg + 1)
                        else (if p.ceilPkg = 0 then 0 else p.ceilPkg - 1) }
  (List.range 8).foldl (fun (s : State) d => (s.updDie d fun x => { x with pwr := move x.pwr }).retarget d) s

/-- `POWER_WINDOW`: the average of a 1 ms window, in watts, R22. DESIGN CHOICE, log 75. -/
def execPowerWindow (avgW : Nat) (s : State) : Out :=
  let p := s.host.pwr
  let cap := p.capW.toNat
  let set := fun (n : Nat) => { s with host := { s.host with pwr := { p with lowWindows := n } } }
  if cap < avgW then .next ((set 0).stepCeil false)
  else if avgW * 100 < cap * 95 then
    (if p.lowWindows = 7 then .next ((set 0).stepCeil true) else .next (set (p.lowWindows + 1)))
  else .next (set 0)

end Sys2Proof.Machine
end

