-- ==== Sys2Proof/Machine/Grid.lean ====
section
/-!
DEFINITION. Grids: sequencing and notices, ranges and their mirror, sweeps, completion, cancel, elections and failures:
R106, R113 to R124, R151 and R152.
-/
namespace Sys2Proof.Machine

/-! ## The words of a grid -/

def mkHandle (seq c : Nat) : Handle := BitVec.ofNat 48 (256 * seq + c)

/-- The completion word of R120. -/
def completionWord (status reason : Nat) (h : Handle) : W64 := BitVec.ofNat 64 (2 ^ 56 * status + 2 ^ 48 * reason + h.toNat)

def OwnerSt.reset : OwnerSt :=
  { st := .waiting, next := 0, ranges := [], replay := [], pendMirror := [], asked := [], sweepNo := 0, clean := 0,
    sweepDirty := false, sweepWait := [], cancelAt := 0, cancelSweep := 0, counts := [], details := [], never := 0, intr := 0,
    lostRanges := [], counterLost := false, failed := false, stopDeal := false, dieFail := [], pkgFail := [] }

def OwnerSt.isEnded (o : OwnerSt) : Bool := match o.st with | .ended _ => true | _ => false

/-- The bytes of the fault summary, Table 5.8. -/
def Grid.summary (g : Grid) (status : Nat) : List Byte :=
  let o := g.own
  let sat := fun (n : Nat) => min n (2 ^ 32 - 1)
  let lost := o.lostRanges.take 32
  leBytes 8 g.handle.toNat ++ leBytes 8 g.utag.toNat ++ leBytes 1 status ++ leBytes 1 o.details.length ++ leBytes 2 lost.length
    ++ leBytes 4 (sat o.never) ++ leBytes 4 (sat o.intr) ++ leBytes 4 0
    ++ (List.range 32).flatMap (fun c => leBytes 4 (sat (o.counts.get 0 c)))
    ++ leBytes 32 (maskNat 256 fun n => o.pkgFail.contains n)
    ++ (List.range 256).map (fun n => o.dieFail.get 0 n)
    ++ pad 1024 (o.details.take 16).flatten
    ++ pad 512 (lost.flatMap fun r => leBytes 8 r.first ++ leBytes 4 r.count ++ leBytes 1 r.pkg ++ leBytes 1 r.die
        ++ [if r.replayed then 1 else 0, 0])
    ++ List.replicate 64 0

/-- The summary of a grid whose counter another package holds: what only its owner has counted is free. DESIGN CHOICE, log 88. -/
def Grid.farSummary (g : Grid) (status free : Nat) : List Byte :=
  let open_ := fun (i n : Nat) => (List.range n).map fun j => Config.freeByte (free + i + j)
  let below := fun (i n : Nat) => BitVec.ofNat 8 ((Config.freeByte (free + i)).toNat % n)
  leBytes 8 g.handle.toNat ++ leBytes 8 g.utag.toNat ++ leBytes 1 status ++ [below 17 17, below 18 33, 0] ++ open_ 20 8
    ++ leBytes 4 0 ++ open_ 32 1952 ++ List.replicate 64 0

/-! ## What a `LAUNCH` waits for: R410 -/

/-- The outcome of a `LAUNCH`: d receives the handle, or 0 when the token is dropped, which also clears the flag. -/
def State.launchOutcome (s : State) (sub : Option (ThreadRef × Nat)) (h : Handle) : State :=
  match sub with
  | none => s
  | some (t, w) =>
    let s1 := s.updWaiting t w fun b =>
      match b.x.phase with
      | .launching i =>
        if i ≠ w then b
        else
          let d := match b.waits.find? fun x => x.id == w with
            | some x => (match x.kind with | .launch d => d | _ => 64)
            | none => 64
          let b1 := { b with r := if d < 64 then b.r.putKey (uniKey d) (BitVec.ofNat 64 h.toNat) else b.r,
                             x := { b.x with phase := .fresh } }
          b1.openRegion s.free b1.x.pc
      | _ => b
    let s2 := { s1 with free := s1.free + 65 }
    if h = 0 then s2.waitDone t w else s2

/-! ## Completion: R120 -/

/-- Writes to the context; a write that faults is counted at the submitting queue and is not retried. -/
def State.complWrite (s : State) (g : Grid) (va : Nat) (bs : List Byte) : State :=
  if va = 0 then s
  else match s.devWrite (handleCtx g.handle) va bs with
    | .ok s1 => s1
    | .error _ => s.countDrop (handleCtx g.handle).toNat g.queue

/-- The grid has ended: the summary and the word are written in the submitting package, and the `LAUNCH` completes. -/
def State.writeCompletion (s : State) (g : Grid) (status : Nat) : State :=
  let word := completionWord status g.reason g.handle
  if g.srcPkg = s.pkg then
    let far := g.launch.podsc && s.disp.podldr.toNat != s.pkg
    let s0 := if far then { s with free := s.free + 2048 } else s
    let s1 := if g.launch.fsum = 0 then s0
      else s0.complWrite g g.launch.fsum (if far then g.farSummary status s.free else g.summary status)
    let s2 := s1.complWrite g g.doneVA (leBytes 8 word.toNat)
    match g.submitter with
    | some (t, w) => s2.waitDone t w
    | none => s2
  else
    s.sendTo (handleCtx g.handle) g.srcPkg (s.leaderOf s.pkg) (g.srcPkg, s.leaderOf g.srcPkg)
      (.notice g.handle ⟨handleCtx g.handle, BitVec.ofNat 6 g.queue, BitVec.ofNat 36 g.pos⟩ word (List.replicate 128 0))

/-- The end of a grid becomes known here with the end of its record: this package submitted it or holds its counter. -/
def State.knows (s : State) (g : Grid) : Bool := g.srcPkg == s.pkg || s.disp.podldr.toNat == s.pkg || g.own.isEnded

/-- The grid that a launch follows has completed, and whether it did so DONE, R115; the end of a grid that only other packages
hold becomes known at some time. DESIGN CHOICE, log 88. -/
def State.afterEnd (s : State) (l : LaunchRec) : Option Bool :=
  let far := if Config.farEnd l.after ≤ s.time then some (Config.farDone l.after) else none
  match s.disp.grids.find? l.after with
  | some g => if s.knows g then (match g.own.st with | .ended k => some (k == 1) | _ => none) else far
  | none => if s.disp.assigned.any fun a => a.seq == l.after / 256 && a.cw != 0 then some false else far

/-- The grid that a launch follows has completed. -/
def State.depReady (s : State) (l : LaunchRec) : Bool := l.after == 0 || (s.afterEnd l).isSome

/-- The launch is not to run: the grid it follows strictly did not complete DONE. -/
def State.depFailed (s : State) (l : LaunchRec) : Bool := l.after != 0 && l.depStrict && s.afterEnd l == some false

/-- Ends a grid with a status, and then those that follow it strictly; each grid ends at most once. -/
def State.endGridN : Nat → State → Handle → Nat → State
  | 0, s, _, _ => s
  | n + 1, s, h, status =>
    match s.gridOf h with
    | none => s
    | some g =>
      if g.own.isEnded then s
      else
        let s1 := s.updOwner h fun o => { o with st := .ended status, asked := [], sweepWait := [] }
        let s2 := s1.writeCompletion g status
        let after := s2.disp.grids.filter fun x => x.2.launch.after == h.toNat && !x.2.own.isEnded && s2.depFailed x.2.launch
        (after.foldl (fun (s : State) x =>
          State.endGridN n (s.updOwner x.2.handle fun o => { o with never := o.never + x.2.launch.crews }) x.2.handle 5) s2).destroyStep
          (handleCtx h).toNat

def State.endGrid (s : State) (h : Handle) (status : Nat) : State := State.endGridN (s.disp.grids.length + 1) s h status

/-! ## Sweeps: R119 -/

/-- The counter has nothing left to deal, and no grant is still on its way to the deputy. -/
def Grid.sweepable (g : Grid) : Bool :=
  let o := g.own
  (match o.st with
    | .running => o.stopDeal || (o.next == g.launch.crews && o.replay.isEmpty)
    | .cancelling => true
    | _ => false) && !(o.pendMirror.any fun p => !p.retirement)

/-- Status of a grid whose second clean sweep has ended. A cancel that came during that sweep in the same cycle
of the owner gives way, Table 5.9. -/
def State.finalStatus (s : State) (g : Grid) : Nat :=
  let o := g.own
  if o.st == .cancelling && !(o.cancelAt == s.cyc (s.leaderOf s.pkg) && o.cancelSweep == o.sweepNo) then 3
  else if o.failed || o.counterLost || (o.lostRanges.any fun r => !r.replayed) then 2 else 1

/-- Begins a sweep, if the last has ended; with no die left to ask, the grid ends. DEDUCED, log 32. -/
def State.sweepStart (s : State) (h : Handle) : State :=
  match s.gridOf h with
  | none => s
  | some g =>
    if !g.sweepable || !g.own.sweepWait.isEmpty then s
    else
      let ds := s.gridPlaces g
      let n := g.own.sweepNo + 1
      if ds.isEmpty then s.endGrid h (s.finalStatus g) else
      let s1 := s.updOwner h fun o => { o with sweepNo := n, sweepDirty := false, sweepWait := ds }
      ds.foldl (fun (s : State) d => s.sendTo (handleCtx h) 0 (s.leaderOf s.pkg) d (.sweep h (BitVec.ofNat 64 n))) s1

/-- `SWEEP` at a die: it answers, and clears its change bit and its counts. DESIGN CHOICE, log 29. -/
def execSweep (h : PktHdr) (g : Handle) (n : W64) (s : State) : Out :=
  let d := h.dstSock.toNat
  let x := s.gridDie d g
  let b : SweepReplyB := { handle := g, sweep := n, unretired := BitVec.ofNat 32 x.unretired, live := BitVec.ofNat 32 x.live,
                           change := x.change, faults := (List.range 32).map fun c => BitVec.ofNat 32 (x.counts.get 0 c) }
  .next ((s.updGridDie d g fun y => { y with change := false, counts := [] }).send (PktHdr.reply h) (.sweepreply b))

/-! ## Grants and their mirror: R116 to R118 -/

/-- The tag of a RANGE or RETIRE that goes to the deputy, with the die that it concerns. -/
def mirrorTag (pkg die : Nat) : Nat := 2 ^ 19 + 8 * pkg + die

def State.reply0 (s : State) (h : Handle) (tgt : Nat × Nat) : State :=
  s.sendTo (handleCtx h) 0 (s.leaderOf s.pkg) tgt (.range { handle := h, first := 0, count := 0, exhausted := true })

/-- Sends a range or a retirement to the deputy, or acts at once where there is none. -/
def State.mirror (s : State) (h : Handle) (p : PendMirror) (pkg die : Nat) : State :=
  if s.disp.depv then
    (s.updOwner h fun o => { o with pendMirror := o.pendMirror ++ [p] }).sendTo (handleCtx h) (mirrorTag pkg die)
      (s.leaderOf s.pkg) (s.pkg, s.disp.deputy.toNat) (if p.retirement then .retire p.body else .range p.body)
  else match p.dest with
    | some tgt => s.sendTo (handleCtx h) 0 (s.leaderOf s.pkg) tgt (.range p.body)
    | none => s

/-- Grants indices to a die, R116: the grant is recorded at the deputy before it is sent. -/
def State.grantRange (s : State) (h : Handle) (tgt : Nat × Nat) (first count : Nat) (replayed : Bool) : State :=
  let rec_ : RangeRec := { first := first, count := count, pkg := tgt.1, die := tgt.2, retired := false, lost := false,
                           replayed := replayed }
  let s1 := s.updOwner h fun o =>
    { o with st := .running, next := if replayed then o.next else first + count,
             ranges := (o.ranges.filter fun r => r.first != first) ++ [rec_] }
  let done := match s1.gridOf h with
    | some g => g.own.next == g.launch.crews && g.own.replay.isEmpty
    | none => true
  s1.mirror h { body := { handle := h, first := BitVec.ofNat 64 first, count := BitVec.ofNat 32 count, exhausted := done },
                dest := some tgt, retirement := false, copy := false } tgt.1 tgt.2

/-- Answers one request at the owner: later, with nothing, with a lost range, or with the next indices. -/
def State.grantTo (s : State) (h : Handle) (tgt : Nat × Nat) : State :=
  match s.gridOf h with
  | none => s.reply0 h tgt
  | some g =>
    let o := g.own
    let dealing := match o.st with | .waiting => true | .running => !o.stopDeal | _ => false
    if !dealing then s.reply0 h tgt
    else if !s.depReady g.launch || (o.pendMirror.any fun p => p.copy) then
      s.updOwner h fun o => { o with asked := o.asked ++ [tgt] }
    else match o.replay with
      | r :: rest => (s.updOwner h fun o => { o with replay := rest }).grantRange h tgt r.first r.count true
      | [] =>
        if o.next < g.launch.crews then s.grantRange h tgt o.next (min g.launch.deal (g.launch.crews - o.next)) false
        else s.reply0 h tgt

/-- Answers the requests that have been waiting. -/
def State.serveAsked (s : State) (h : Handle) : State :=
  match s.gridOf h with
  | none => s
  | some g =>
    let s1 := s.updOwner h fun o => { o with asked := [] }
    (g.own.asked.foldl (fun (s : State) tgt => s.grantTo h tgt) s1).sweepStart h

/-- Launches that wait on a grid which has completed may be dealt, R115. -/
def State.serveAfter (s : State) : State :=
  (s.disp.grids.filter fun g => !g.2.own.asked.isEmpty && s.depReady g.2.launch).foldl
    (fun (s : State) g => s.serveAsked g.2.handle) s

/-- A grid ends, and those that follow it go on. -/
def State.finishGrid (s : State) (h : Handle) (status : Nat) : State := (s.endGrid h status).serveAfter

/-- The replies to a sweep are complete. -/
def State.sweepEnd (s : State) (h : Handle) : State :=
  match s.gridOf h with
  | none => s
  | some g =>
    let n := if g.own.sweepDirty then 0 else g.own.clean + 1
    let s1 := s.updOwner h fun o => { o with clean := n }
    if 2 ≤ n then s1.finishGrid h (s.finalStatus g) else s1.sweepStart h

/-- `SWEEPREPLY` at the owner. -/
def execSweepreply (h : PktHdr) (b : SweepReplyB) (s : State) : Out :=
  match s.gridOf b.handle with
  | none => .next s
  | some g =>
    let who := (h.srcPkg.toNat, h.srcSock.toNat)
    if b.sweep.toNat ≠ g.own.sweepNo ∨ !g.own.sweepWait.contains who then .next s
    else
      let add := fun (t : Tbl Nat) => (List.range 32).foldl (fun (t : Tbl Nat) c =>
        if b.faults.getD c 0 = 0 then t else t.upd 0 c (· + (b.faults.getD c 0).toNat)) t
      let dirty := b.unretired != 0 || b.live != 0 || b.change
      let left := g.own.sweepWait.filter fun x => x != who
      let s1 := s.updOwner b.handle fun o =>
        { o with counts := add o.counts, sweepDirty := o.sweepDirty || dirty, sweepWait := left }
      .next (if left.isEmpty then s1.sweepEnd b.handle else s1)

/-- `RANGEREQ` at the owner. -/
def execRangereq (h : PktHdr) (g : Handle) (s : State) : Out :=
  .next ((s.grantTo g (h.srcPkg.toNat, h.srcSock.toNat)).sweepStart g)

/-- `MIRRORACK` at the owner: the grant goes to its die. -/
def execMirrorack (_h : PktHdr) (g : Handle) (first : W64) (s : State) : Out :=
  match s.gridOf g with
  | none => .next s
  | some x =>
    match x.own.pendMirror.find? fun p => p.body.first == first with
    | none => .next s
    | some p =>
      let s1 := s.updOwner g fun o => { o with pendMirror := o.pendMirror.erase p }
      let s2 := match p.dest with
        | some tgt => s1.sendTo (handleCtx g) 0 (s1.leaderOf s1.pkg) tgt (.range p.body)
        | none => s1
      .next (s2.serveAsked g)

/-- The deputy's record of a grant or a retirement. -/
def mirrorRange (rs : List RangeRec) (b : RangeB) (tag : Nat) (retire : Bool) : List RangeRec :=
  let f := b.first.toNat
  if retire then rs.map fun r => if r.first = f then { r with retired := true } else r
  else
    let again := rs.any fun r => r.first == f
    (rs.filter fun r => r.first != f) ++ [{ first := f, count := b.count.toNat, pkg := tag / 8 % 256, die := tag % 8,
                                            retired := false, lost := false, replayed := again }]

def State.mirrorAt (s : State) (h : PktHdr) (b : RangeB) (retire : Bool) : State :=
  let d := h.dstSock.toNat
  (s.updDisp d fun x => { x with mirror := x.mirror.upd [] b.handle.toNat fun rs => mirrorRange rs b h.tag.toNat retire }).send
    (PktHdr.reply h) (.mirrorack b.handle b.first)

/-- `RETIRE`: at the deputy, a record of the mirror; at the owner, a die's report of a range. -/
def execRetire (h : PktHdr) (b : RangeB) (s : State) : Out :=
  if 2 ^ 19 ≤ h.tag.toNat then .next (s.mirrorAt h b true)
  else
    let who := (h.srcPkg.toNat, h.srcSock.toNat)
    let mark := fun (r : RangeRec) => if r.first = b.first.toNat ∧ (r.pkg, r.die) = who then { r with retired := true } else r
    .next ((s.updOwner b.handle fun o => { o with ranges := o.ranges.map mark }).mirror b.handle
      { body := b, dest := none, retirement := true, copy := false } who.1 who.2)

/-! ## A die asks for ranges: R116 -/

/-- Crews of a grid that wait in a die's placement queues. -/
def State.waitingCrews (s : State) (d : Nat) (h : Handle) (csize : Nat) : Nat :=
  csize * ((s.dieOf d).disp.queues.map fun q => (q.filter fun c => c.handle == h).length).sum

/-- Asks for a range when the grid wants crews and the counter has not been reported exhausted. -/
def State.wantRange (s : State) (d : Nat) (h : Handle) : State :=
  match s.gridOf h with
  | none => s
  | some g =>
    let x := s.gridDie d h
    if !x.involved || x.exhausted || x.asking || x.cancelled || x.halted || g.own.isEnded ||
        decide (g.launch.deal ≤ s.waitingCrews d h g.launch.csize) then s
    else (s.updGridDie d h fun y => { y with asking := true }).sendTo (handleCtx h) 0 d (s.ownerAt h) (.rangereq h)

/-- Puts a cluster into a die's placement queue: clusters of one priority in sequence order, R114, those resumed from a save
before all others, R282. -/
def queueCluster (q : List QCluster) (c : QCluster) : List QCluster :=
  if c.saved.isSome then
    (q.takeWhile fun x => x.saved.isSome) ++ [c] ++ q.dropWhile fun x => x.saved.isSome
  else
    let before := fun (x : QCluster) => x.saved.isSome || decide (x.handle.toNat / 256 ≤ c.handle.toNat / 256)
    q.takeWhile before ++ [c] ++ q.dropWhile before

/-- The rounds of R128 begin again with a die that had nothing to place. -/
def State.enqueueCluster (s : State) (d prio : Nat) (c : QCluster) : State :=
  let now := s.cyc d / 128
  s.updDisp d fun x => { x with lastRound := if x.queues.all List.isEmpty then now else x.lastRound,
                                queues := x.queues.modify prio fun q => queueCluster q c }

/-- A granted range reaches its die: its clusters wait for placement; under a cancel they never start. -/
def State.takeRange (s : State) (d : Nat) (b : RangeB) : State :=
  let h := b.handle
  match s.gridOf h with
  | none => s
  | some g =>
    let n := b.count.toNat
    let first := b.first.toNat
    let s1 := s.updGridDie d h fun y => { y with asking := false, exhausted := b.exhausted }
    if n = 0 ∨ (s1.gridDie d h).ranges.any (fun r => r.1 == first) then s1
    else if (s1.gridDie d h).cancelled then s1.updOwner h fun o => { o with never := o.never + n }
    else
      let size := max 1 g.launch.csize
      let s2 := s1.updGridDie d h fun y => { y with unretired := y.unretired + n, ranges := y.ranges ++ [(first, n, 0)] }
      let s3 := (List.range (n / size)).foldl (fun (s : State) i =>
        s.enqueueCluster d g.launch.prio { handle := h, cluster := first / size + i, age := 0, drain := none, saved := none }) s2
      (s3.retarget d).wantRange d h

/-- `RANGE`: at the deputy, a record of the mirror; at a die, the reply to its request. -/
def execRange (h : PktHdr) (b : RangeB) (s : State) : Out :=
  if 2 ^ 19 ≤ h.tag.toNat then .next (s.mirrorAt h b false) else .next (s.takeRange h.dstSock.toNat b)

/-! ## Sequencing and notices: R106, R114 -/

/-- What a grid sequenced now keeps of its context's registers until it completes: R154, R193 and R260. DEDUCED, log 34. -/
def State.snapGrid (s : State) (h : Handle) : State :=
  let c := (handleCtx h).toNat
  (List.range 8).foldl (fun (s : State) d =>
    let x := s.ctxDie d c
    s.updGridDie d h fun y => { y with
      scrBase := x.scrBase.toNat, scrSize := x.scrSize.toNat, spillBase := x.spillBase.toNat * 65536,
      spillPages := x.spillPages.toNat, enqBase := x.enqBase.toNat * 65536, enqRes := (s.ctxOf c).enqres.toNat,
      nbv := (s.ctxOf c).nbv }) s

def State.addGrid (s : State) (g : Grid) : State :=
  ({ s with disp := { s.disp with grids := s.disp.grids.set g.handle.toNat g } }).snapGrid g.handle

/-- A launch of this package is sequenced: its grid exists from here on; a refused one completes at once. DEDUCED, log 33. -/
def State.acceptOwn (s : State) (h : Handle) (f : Forwarded) (cw : W64) : State :=
  let reason := if f.reason ≠ 0 then f.reason else field cw.toNat 48 8
  let g : Grid := { handle := h, seq := h.toNat / 256, srcPkg := s.pkg, queue := f.queue, pos := f.pos, utag := tokUtag f.bytes,
                    doneVA := tokDone f.bytes, launch := f.launch, khdr := f.khdr, rosters := f.rosters,
                    own := OwnerSt.reset, reason := reason, submitter := f.submitter }
  let s1 := ({ s with disp := { s.disp with forwarded := s.disp.forwarded.erase f } }).addGrid g
  let s2 := if reason = 2 then s1.report (s1.leaderOf s1.pkg) false (some f.ctx) 0x0100 h (openDetail 0x0100 (leBytes 8 f.faultVa)) else s1
  let s3 := s2.launchOutcome f.submitter h
  if reason ≠ 0 then (s3.updOwner h fun o => { o with never := f.launch.crews }).finishGrid h 4
  else if (s3.ctxOf f.ctx.toNat).st ≠ .active then
    (s3.updOwner h fun o => { o with never := f.launch.crews }).finishGrid h 3
  else if s3.depFailed f.launch && (!f.launch.podsc || s3.disp.podldr.toNat == s3.pkg) then
    (s3.updOwner h fun o => { o with never := f.launch.crews }).finishGrid h 5
  else s3

/-- A pod launch of another package is sequenced: a package of the launch reads the header and the rosters in its own copy of
the context, R109; the pod leader keeps the counter in any case, R113. -/
def State.acceptOther (s : State) (h : Handle) (a : Assigned) : State :=
  let l := LaunchRec.parse a.record
  let here := l.pkgMask.testBit s.pkg
  if !l.podsc || a.cw != 0 || !(here || s.disp.podldr.toNat == s.pkg) then s
  else
    let ctx := handleCtx h
    let kh := match (if here then s.devRead ctx attrR l.hdr 64 else .ok []) with | .ok bs => KHdr.parse bs | .error _ => KHdr.parse []
    let rs := match (if here then s.readRosters ctx l else .ok []) with
      | .ok xs => xs.map fun (r : Option (List Nat)) => r.getD [] | .error _ => []
    s.addGrid { handle := h, seq := a.seq, srcPkg := a.srcPkg, queue := a.queue, pos := a.pos, utag := 0, doneVA := 0,
                launch := l, khdr := kh, rosters := rs, own := OwnerSt.reset, reason := 0, submitter := none }

/-- The package leader learns of a sequenced launch. -/
def State.accept (s : State) (a : Assigned) : State :=
  let h := mkHandle a.seq a.ctx.toNat
  if s.disp.assigned.any fun x => x.seq == a.seq then s
  else
    let s1 := { s with disp := { s.disp with assigned := s.disp.assigned ++ [a] } }
    if a.srcPkg = s.pkg then
      match s1.disp.forwarded.find? fun f => f.ctx == a.ctx && f.queue == a.queue && f.pos == a.pos with
      | some f => s1.acceptOwn h f a.cw
      | none => s1
    else s1.acceptOther h a

/-- Sends the notice of a launch and its second part. -/
def State.sendNotice (s : State) (a : Assigned) (tgt : Nat × Nat) : State :=
  let h := mkHandle a.seq a.ctx.toNat
  let q : QueueWord := ⟨a.ctx, BitVec.ofNat 6 a.queue, BitVec.ofNat 36 a.pos⟩
  (s.sendTo a.ctx a.srcPkg (s.leaderOf s.pkg) tgt (.notice h q a.cw (pad 128 a.record))).sendTo a.ctx a.srcPkg
    (s.leaderOf s.pkg) tgt (.recpart h (pad 128 (a.record.drop 128)))

/-- Passes a notice to every die of the package. -/
def State.noticeDies (s : State) (a : Assigned) : State :=
  (s.healthyDies s.pkg).foldl (fun (s : State) d => s.sendNotice a (s.pkg, d)) s

/-- What the pod leader learns of a launch of another package, whose own leader has read and checked it: the reason of its refusal,
or none, and its record, within the limits of Table 5.2. The packet holds neither. DESIGN CHOICE, log 88. -/
def State.farLaunch (s : State) : Nat × List Byte :=
  let record := (List.range 256).map fun i => Config.freeByte (s.free + 1 + i)
  let reason := (Config.freeByte s.free).toNat % 8
  (if reason = 0 ∧ recordBad record then 1 else reason, record)

/-- `TOKEN` at the pod leader: a launch gets its sequence number, and every package its notice. DEDUCED, log 30. -/
def execToken (h : PktHdr) (q : QueueWord) (tok : List Byte) (s : State) : Out :=
  let src := h.srcPkg.toNat
  let isIt := fun (a : Assigned) => a.srcPkg == src && a.ctx == q.ctx && a.queue == q.queue.toNat && a.pos == q.pos.toNat
  if s.disp.podldr.toNat ≠ s.pkg ∨ h.dstSock.toNat ≠ s.leaderOf s.pkg ∨ !s.disp.collect.isEmpty then .next s
  else match s.disp.assigned.find? isIt with
    | some a => .next (if src = s.pkg then s else s.sendNotice a (src, s.leaderOf src))
    | none =>
      let seq := s.disp.nextSeq
      let hd := mkHandle seq q.ctx.toNat
      let mine := if src = s.pkg then s.disp.forwarded.find? fun f =>
          f.ctx == q.ctx && f.queue == q.queue.toNat && f.pos == q.pos.toNat else none
      let v := match mine with
        | some f => (f.reason, f.record)
        | none => if src = s.pkg then let v := s.checkLaunch q.ctx.toNat tok; (v.reason, v.record) else s.farLaunch
      let a : Assigned := { srcPkg := src, ctx := q.ctx, queue := q.queue.toNat, pos := q.pos.toNat, seq := seq,
                            cw := if v.1 = 0 then 0 else completionWord 4 v.1 hd, record := v.2 }
      let s1 := ({ s with disp := { s.disp with nextSeq := seq + 1 }, free := if src = s.pkg then s.free else s.free + 257 }).accept a
      let s2 := s1.noticeDies a
      .next ((s.podMembers.filter fun p => p != s.pkg).foldl
        (fun (s : State) p => s.sendNotice a (p, s.leaderOf p)) s2)

/-- `TOKEN_FORWARD_TIMEOUT`: after 10 µs without a sequence number, a token is forwarded again, R114. -/
def execTokenForwardTimeout (q : QueueWord) (s : State) : Out :=
  match s.disp.forwarded.find? fun f => f.ctx == q.ctx && f.queue == q.queue.toNat && f.pos == q.pos.toNat with
  | none => .next s
  | some f =>
    if s.timeCount < f.sentAt + 10000 then .next s
    else
      let again := fun (x : Forwarded) => if x == f then { x with sentAt := s.timeCount } else x
      let ldr := s.disp.podldr.toNat
      .next (({ s with disp := { s.disp with forwarded := s.disp.forwarded.map again } }).sendTo f.ctx 0 s.disp.leader.toNat
        (ldr, s.leaderOf ldr) (.token q f.bytes))

/-- A die acts on a complete notice: a grid that places crews on it begins to ask for ranges. -/
def State.actNotice (s : State) (d : Nat) (n : Notice) : State :=
  let s1 := s.updDisp d fun x => { x with nextSeq := n.handle.toNat / 256 + 1,
                                          notices := x.notices.filter fun m => m != n }
  match s1.gridOf n.handle with
  | none => s1
  | some g =>
    if n.cw = 0 ∧ !g.own.isEnded ∧ (g.launch.pkgs g.srcPkg).contains s1.pkg ∧ (s1.placementIn (handleCtx n.handle).toNat s1.pkg).contains d then
      ((s1.updGridDie d n.handle fun y => { y with involved := true }).retarget d).wantRange d n.handle
    else s1

/-- A die acts on its notices in ascending order of sequence; one whose turn has passed is dropped. -/
def State.actNotices (s : State) (d : Nat) : State :=
  (s.dieOf d).disp.notices.foldl (fun (s : State) n =>
    if n.hi.isNone then s
    else if n.handle.toNat / 256 < (s.dieOf d).disp.nextSeq then
      s.updDisp d fun x => { x with notices := x.notices.filter fun m => m != n }
    else s.actNotice d n) s

/-- The owner in another package reports that a grid of this package has ended. -/
def State.ownerSays (s : State) (h : Handle) (cw : W64) : Option State :=
  match s.gridOf h with
  | some g => if cw ≠ 0 ∧ !g.own.isEnded then some (s.finishGrid h (cw.toNat / 2 ^ 56)) else none
  | none => none

/-- `NOTICE`: from another package's pod leader it goes to every die; from the own leader a die keeps it for its turn. DEDUCED, log 30. -/
def execNotice (h : PktHdr) (g : Handle) (q : QueueWord) (cw : W64) (lo : List Byte) (s : State) : Out :=
  let n : Notice := { handle := g, srcPkg := h.tag.toNat % 256, queue := q, cw := cw, lo := lo, hi := none }
  if h.srcPkg.toNat ≠ s.pkg then
    match s.ownerSays g cw with
    | some s1 => .next s1
    | none => .next { s with disp := { s.disp with inbox := s.disp.inbox ++ [n] } }
  else .next (s.updDisp h.dstSock.toNat fun x => { x with notices := x.notices ++ [n] })

/-- `RECPART`: the second part of a notice. DEDUCED, log 30. -/
def execRecpart (h : PktHdr) (g : Handle) (hi : List Byte) (s : State) : Out :=
  if h.srcPkg.toNat ≠ s.pkg then
    match s.disp.inbox.find? fun n => n.handle == g with
    | none => .next s
    | some n =>
      let a : Assigned := { srcPkg := n.srcPkg, ctx := n.queue.ctx, queue := n.queue.queue.toNat, pos := n.queue.pos.toNat,
                            seq := g.toNat / 256, cw := n.cw, record := n.lo ++ hi }
      .next ((({ s with disp := { s.disp with inbox := s.disp.inbox.erase n } }).accept a).noticeDies a)
  else
    let fill := fun (n : Notice) => if n.handle = g then { n with hi := some hi } else n
    .next ((s.updDisp h.dstSock.toNat fun x => { x with notices := x.notices.map fill }).actNotices h.dstSock.toNat)

/-! ## Cancel: Table 5.9, R122, R123, R152, R282 and R431 -/

/-- A credit for a landing slot goes back to its sender, R146. -/
def State.sendCredit (s : State) (d q : Nat) (h : Handle) (l : Landed) : State :=
  s.sendTo (handleCtx h) 0 d (l.pkg, l.die) (.credit { queue := BitVec.ofNat 2 q, die := BitVec.ofNat 3 d, ackReq := false } h)

/-- The grid's records on a die are discarded: their pages and credits return, its counter is zeroed. DEDUCED, log 33. -/
def State.discardPool (s : State) (d : Nat) (h : Handle) : State :=
  let g := s.gridDie d h
  let pages := g.ring.map fun (r : RingRec) => r.page
  let s1 := (List.range 4).foldl (fun (s : State) q =>
    (g.landing.getD q []).foldl (fun (s : State) l => s.sendCredit d q h l) s) s
  let reserved := match g.steal with | .asking _ _ => 1 | .receiving _ _ _ => 1 | _ => 0
  let s2 := s1.updCtxDie d (handleCtx h).toNat fun c =>
    { c with spillUsed := c.spillUsed.filter (fun p => !pages.contains p), spillReserved := c.spillReserved - reserved }
  let s3 := s2.updGridDie d h fun y => { y with ring := [], landing := [[], [], [], []], live := 0, steal := .idle }
  let s4 := s3.updDisp d fun x => { x with pageWait := x.pageWait.filter fun w => w.1 != h }
  let drop := fun (b : Band) => { b with requeue := 0, tasks := b.tasks &&& ~~~b.requeue }
  let empty := fun (w : Crew) =>
    if w.cfg.handle == h then { w with window := [], bands := w.bands.map fun b => (b.1, drop b.2) } else w
  s4.updDie d fun x => { x with
    cores := x.cores.map fun c => (c.1, { c.2 with crews := c.2.crews.map fun w => (w.1, empty w.2) }) }

/-- A copy command leaves its channel, with the status bits that it gives its band: its flag clears, and the region of a
`CPY.ADD` opens at the next instruction, R205, R209 and R211. -/
def State.copyEnd (s : State) (r : CrewRef) (ch : Nat) (k : CopyCmd) (st : BitVec 6) : State :=
  let s1 := s.updCore r.die r.core fun c => { c with copy := c.copy.modify ch fun q => q.filter fun x => x.seq != k.seq }
  let s2 := s1.updWaiting k.thread k.waitId fun b =>
    ((b.addStatus (s.cyc k.thread.die) st).dropWait k.waitId).acked s.free k.waitId
  { s2 with free := s2.free + 65 }.settleEnd k.thread

/-- The commands of a crew leave the copy channels. -/
def State.discardCopies (s : State) (r : CrewRef) : State :=
  (List.range 4).foldl (fun (s : State) ch =>
    (((s.coreOf r.die r.core).copy.getD ch []).filter fun k => k.slot == r.slot).foldl
      (fun (s : State) k => s.copyEnd r ch k 0) s) s

/-- The queued operations of a crew leave the Infuser queue; what waits for them waits no more. -/
def State.discardOps (s : State) (r : CrewRef) : State :=
  let ops := (s.coreOf r.die r.core).jq.filter fun (o : JOp) => o.slot == r.slot
  let s1 := ops.foldl (fun (s : State) o => s.waitDone o.thread o.waitId) s
  (s1.updCore r.die r.core fun c => { c with jq := c.jq.filter fun (o : JOp) => o.slot != r.slot }.parkedOnly).updCrew r
    fun w => { w with planned := w.tables }

/-- Every crew of a grid that a die holds. -/
def State.crewsOf (s : State) (d : Nat) (h : Handle) : List CrewRef :=
  (s.dieOf d).cores.flatMap fun c => (c.2.crews.filter fun w => w.2.cfg.handle == h).map fun w => ⟨d, c.1, w.1⟩

/-- Crews that leave a die without running on: they retire from their ranges. -/
def State.retireCrews (s : State) (d : Nat) (h : Handle) (n : Nat) : State :=
  s.updGridDie d h fun y => { y with unretired := y.unretired - n }

/-- Frees the pages of saved clusters of a grid on a die, and forgets their crews. -/
def State.dropSaved (s : State) (d : Nat) (h : Handle) (f : Nat → Bool) : State :=
  let gone := (s.gridDie d h).saved.filter fun c => f c.cluster
  let pages := gone.flatMap fun c => c.blocks.flatMap fun b => (List.range b.2).map fun i => b.1 + 65536 * i
  let s1 := s.updCtxDie d (handleCtx h).toNat fun c => { c with saveUsed := c.saveUsed.filter fun p => !pages.contains p }
  let s2 := s1.updGridDie d h fun y => { y with saved := y.saved.filter fun c => !f c.cluster }
  s2.updDie d fun x => { x with savedCrews := x.savedCrews.filter fun c => !(c.handle == h && f c.cluster) }

/-- A crew is no longer to stop for a save: its bands go on from where they stopped. -/
def Crew.release (w : Crew) : Crew :=
  let free := fun (b : Band) => { b with stopReq := none, stopped := false, full := false }
  { w with ctl := { w.ctl with stopping := false }, bands := w.bands.map (fun (b : Nat × Band) => (b.1, free b.2)),
           front := w.front.map fun f => { f with th := free f.th } }

/-- Crews of a context that are to stop for a save, on any die. -/
def Die.stoppingIn (d : Nat × Die) (c : Nat) : Bool :=
  d.2.cores.any fun k => k.2.crews.any fun w => w.2.ctl.stopping && (handleCtx w.2.cfg.handle).toNat == c

/-- A pre-emption has ended once none of its crews is still to be saved. -/
def State.preSettle (s : State) (c : Nat) : State :=
  if s.dies.any fun d => Die.stoppingIn d c then s else s.updCtx c fun x => { x with preBusy := false }

/-- The cancel of a grid reaches a die. DESIGN CHOICE, log 29. DEDUCED, log 33. -/
def State.cancelDie (s : State) (d : Nat) (h : Handle) : State :=
  match s.gridOf h with
  | none => s
  | some g =>
    let size := g.launch.csize
    let queued := (s.dieOf d).disp.queues.flatMap fun q => q.filter fun c => c.handle == h && c.saved.isNone
    let saved := (s.dieOf d).savedCrews.filter fun (c : SavedCrew) => c.handle == h
    let drop := fun (q : List QCluster) => q.filter fun c => c.handle != h
    let s1 := s.updDisp d fun x => { x with queues := x.queues.map drop }
    let s2 := s1.updOwner h fun o => { o with never := o.never + size * queued.length, intr := o.intr + saved.length }
    let s3 := (s2.dropSaved d h fun _ => true).retireCrews d h (size * queued.length + saved.length)
    let s4 := (s3.updGridDie d h fun y => { y with cancelled := true }).discardPool d h
    let s5 := (s4.crewsOf d h).foldl (fun (s : State) r =>
      (s.updCrew r fun w => { w.release with ctl := { w.release.ctl with cancelled := true } }).discardOps r |>.discardCopies r) s4
    ((s5.crewsOf d h).foldl (fun (s : State) r =>
      (match s.crewOf r with | some w => w.bands.map (fun (b : Nat × Band) => r.band b.1) | none => []).foldl
        (fun (s : State) t => s.endIfEmpty t) s) s5).retarget d |>.preSettle (handleCtx h).toNat


/-- Dealing stops: what is left undealt never starts, R121. -/
def OwnerSt.stop (o : OwnerSt) (crews : Nat) : OwnerSt :=
  if o.stopDeal then o else { o with stopDeal := true, never := o.never + (crews - o.next) }

/-- The owner takes a cancel. -/
def State.cancelGrid (s : State) (h : Handle) : State :=
  match s.gridOf h with
  | none => s
  | some g =>
    match g.own.st with
    | .waiting => (s.updOwner h fun o => { o with never := o.never + g.launch.crews }).finishGrid h 3
    | .running =>
      let s1 := s.updOwner h fun o =>
        { o.stop g.launch.crews with
          st := .cancelling, asked := [], cancelAt := s.cyc (s.leaderOf s.pkg), cancelSweep := if o.sweepWait.isEmpty then 0 else o.sweepNo }
      let s2 := g.own.asked.foldl (fun (s : State) tgt => s.reply0 h tgt) s1
      ((s2.gridPlaces g).foldl (fun (s : State) d =>
        s.sendTo (handleCtx h) 0 (s.leaderOf s.pkg) d (.cancel h)) s2).sweepStart h
    | _ => s

/-- A cancel asked for on a die of this package reaches the owner, R122: here, or by a packet whose tag is 1. -/
def State.cancelAt (s : State) (d : Nat) (h : Handle) : State :=
  match s.gridOf h with
  | none => s
  | some g =>
    if g.own.isEnded then s
    else if g.launch.podsc && s.disp.podldr.toNat != s.pkg then s.sendTo (handleCtx h) 1 d (s.ownerAt h) (.cancel h)
    else s.cancelGrid h

/-- `CANCEL`: at the owner, a request of another package; at a die, the owner's notice. -/
def execCancel (h : PktHdr) (g : Handle) (s : State) : Out :=
  .next (if h.tag = 1 then s.cancelGrid g else s.cancelDie h.dstSock.toNat g)

/-! ## Elections: R113, R114 and R117 -/

/-- The packages of the pod that still have a healthy compute die. -/
def State.livePackages (s : State) : List Nat :=
  ((s.pkg :: s.podMembers).eraseDups.filter fun p => !(s.healthyDies p).isEmpty)

/-- The package leader, its deputy and the pod leader, by R113. -/
def State.elect (s : State) : State :=
  let ds := s.healthyDies s.pkg
  let pl := (s.livePackages.min?).getD s.pkg
  { s with disp := { s.disp with
      leader := match ds with | d :: _ => BitVec.ofNat 3 d | [] => s.disp.leader,
      depv := decide (2 ≤ ds.length),
      deputy := match ds with | _ :: d :: _ => BitVec.ofNat 3 d | _ => 0,
      podldr := BitVec.ofNat 8 pl } }

/-- A grid of which this package holds the counter. -/
def State.ownsHere (s : State) (g : Grid) : Bool := !g.own.isEnded && (!g.launch.podsc || s.disp.podldr.toNat == s.pkg)

/-- Launches go on that follow a grid whose end has become known. -/
def State.serveFar (s : State) : State :=
  let due := s.disp.grids.filter fun g => g.2.launch.after != 0 && s.ownsHere g.2 && g.2.own.st == .waiting && s.depReady g.2.launch
  (due.foldl (fun (s : State) g =>
    if s.depFailed g.2.launch then
      (s.updOwner g.2.handle fun o => { o with never := o.never + g.2.launch.crews }).endGrid g.2.handle 5
    else s) s).serveAfter

def rangeBody (h : Handle) (first count : Nat) : RangeB :=
  { handle := h, first := BitVec.ofNat 64 first, count := BitVec.ofNat 32 count, exhausted := false }

/-- What the owner holds goes to a new deputy, before any further grant, R117. -/
def State.copyMirror (s : State) (h : Handle) : State :=
  match s.gridOf h with
  | none => s
  | some g =>
    let open_ := g.own.pendMirror.filter fun p => !p.copy && !p.retirement
    let s1 := s.updOwner h fun o => { o with pendMirror := [] }
    if s.disp.depv then
      let waits_ := fun (r : RangeRec) => open_.find? fun p => p.body.first.toNat == r.first
      g.own.ranges.foldl (fun (s : State) r =>
        let p := match waits_ r with
          | some p => p
          | none => { body := rangeBody h r.first r.count, dest := none, retirement := false, copy := true }
        let s' := s.mirror h p r.pkg r.die
        if r.retired then s'.mirror h { body := rangeBody h r.first r.count, dest := none, retirement := true, copy := true } r.pkg r.die else s') s1
    else open_.foldl (fun (s : State) p => s.mirror h p 0 0) s1

/-- The deputy becomes the owner: it goes on with the counter, the grants and the retirements that it holds. A grant that
it holds may not have been sent, so it sends each again; the dies answer for the ranges that they have. DEDUCED, log 32. -/
def State.adoptMirror (s : State) (h : Handle) (d failing : Nat) : State :=
  match s.gridOf h with
  | none => s
  | some g =>
    let rs := (s.dieOf d).disp.mirror.get [] h.toNat
    let next := rs.foldl (fun m (r : RangeRec) => max m (r.first + r.count)) 0
    let dead := fun (r : RangeRec) => !r.retired && r.pkg == s.pkg && r.die != failing && !s.healthy r.die
    let known := fun (r : RangeRec) => g.own.replay.any fun x => x.first == r.first
    let s1 := s.updOwner h fun o =>
      { o with ranges := rs.map (fun r => if dead r then { r with lost := true } else r), next := max next (if o.stopDeal then o.next else 0),
               pendMirror := [], sweepWait := [],
               replay := if g.launch.replayLost then
                   o.replay.filter (fun x => rs.any fun r => r.first == x.first && dead r) ++ rs.filter (fun r => dead r && !known r)
                 else [] }
    (rs.filter fun r => !r.retired && s.healthy r.die).foldl (fun (s : State) r =>
      s.sendTo (handleCtx h) 0 (s.leaderOf s.pkg) (r.pkg, r.die) (.range (rangeBody h r.first r.count))) s1

/-- A new owner hears again from every die of the package: reports of ranges that have retired, and requests. DEDUCED, log 32. -/
def State.tellOwner (s : State) (h : Handle) : State :=
  (s.healthyDies s.pkg).foldl (fun (s : State) d =>
    let full := (s.gridDie d h).ranges.filter fun r => r.2.1 == r.2.2
    let s1 := full.foldl (fun (s : State) r => s.sendTo (handleCtx h) 0 d (s.ownerAt h)
      (.retire (rangeBody h r.1 r.2.1))) s
    (s1.updGridDie d h fun y => { y with asking := false }).wantRange d h) s

/-- A grid whose counter is lost completes FAILED with its undealt indices lost. -/
def State.counterGone (s : State) (h : Handle) (pkg die : Nat) : State :=
  match s.gridOf h with
  | none => s
  | some g =>
    let left : RangeRec := { first := g.own.next, count := g.launch.crews - g.own.next, pkg := pkg, die := die, retired := false,
                             lost := true, replayed := false }
    (s.updOwner h fun o => { o.stop g.launch.crews with
      counterLost := true, failed := true, pendMirror := [], sweepWait := [], clean := 0,
      next := g.launch.crews, st := match o.st with | .waiting => .running | x => x,
      lostRanges := if left.count = 0 then o.lostRanges else o.lostRanges ++ [left] })

/-- Ranges of a die that failed: granted again, or lost for good, R118. -/
def OwnerSt.loseDie (o : OwnerSt) (pkg die crews : Nat) (replay : Bool) : OwnerSt :=
  let hit := fun (r : RangeRec) => !r.retired && !r.lost && r.pkg == pkg && r.die == die
  let lost := (o.ranges.filter hit).map fun r => { r with lost := true, replayed := replay }
  { (if !replay && !lost.isEmpty then o.stop crews else o) with
           ranges := o.ranges.map (fun r => if hit r then { r with lost := true } else r),
           replay := if replay then o.replay ++ lost else o.replay,
           lostRanges := o.lostRanges ++ lost,
           clean := 0,
           sweepWait := o.sweepWait.filter (fun x => x != (pkg, die)), asked := o.asked.filter fun x => x != (pkg, die),
           pendMirror := o.pendMirror.filter (fun p => p.dest != some (pkg, die)),
           dieFail := o.dieFail.upd 0 pkg fun m => m ||| (1#8 <<< die) }

/-- The other dies of a grid ask again when lost ranges are to be run again. -/
def State.askAgain (s : State) (h : Handle) : State :=
  (s.placementIn (handleCtx h).toNat s.pkg).foldl (fun (s : State) d =>
    (s.updGridDie d h fun y => { y with exhausted := false }).wantRange d h) s

/-- A die that fails held records or tasks of a grid, as far as this package knows: of a die of another package it knows only
the ranges. DESIGN CHOICE, log 88. -/
def State.heldWork (s : State) (g : Grid) (pkg die : Nat) : Bool :=
  (g.own.ranges.any fun r => r.pkg == pkg && r.die == die && !r.retired) ||
    if pkg = s.pkg then (s.gridDie die g.handle).live != 0 else Config.freeBit s.free

/-- What a die's failure does to a grid of which this package holds the counter; with no die left that could run its crews, the
grid ends FAILED. DEDUCED, log 32. -/
def State.gridLosesDie (s : State) (h : Handle) (pkg die : Nat) : State :=
  match s.gridOf h with
  | none => s
  | some g =>
    let cancelling := g.own.st == .cancelling
    let nowhere := (s.gridPlaces g).isEmpty && g.own.st == .running
    let replay := g.launch.replayLost && !cancelling && !nowhere
    let pool := g.launch.poolN != 0 && s.heldWork g pkg die
    let lose := fun (o : OwnerSt) =>
      let o1 := { o.loseDie pkg die g.launch.crews replay with failed := o.failed || pool }
      if nowhere then { o1.stop g.launch.crews with failed := o1.failed || o.next != g.launch.crews || !o.replay.isEmpty } else o1
    let s1 := { s.updOwner h lose with free := s.free + 1 }
    let s2 := if replay then s1.askAgain h else s1
    s2.sweepStart h

/-- A cluster that has not started has arrived at no barrier. -/
def State.breakQueued (s : State) (d : Nat) (c : QCluster) : State :=
  match s.gridOf c.handle with
  | none => s
  | some g =>
    let size := max 1 g.launch.csize
    let mine := (List.range g.rosters.length).filter fun r => (List.range size).any fun i =>
      (g.rosters.getD r []).contains (size * c.cluster + i)
    s.breakTold d c.handle ((3, 0, 0) :: mine.flatMap fun r => [(2, r, 0), (4, r, 0), (5, r, 0)])

/-- The first generation of a roster's barrier, or of its collectives, that has not completed, as the owner of the grid knows. -/
def State.openGen (s : State) (h : Handle) (kind r : Nat) : Nat :=
  if kind = 2 then (s.barDone.filter fun e => e.1 == h && e.2.1 == 2 && e.2.2.1 == r).foldl (fun n e => max n (e.2.2.2 + 1)) 0
  else
    let waiting := (s.colls.filter fun c => c.handle == h && c.rred == (kind == 5) && c.roster == r).map fun c => c.gen
    let begun := (List.range 8).flatMap fun d => (s.gridCrews d h).map fun w => w.ctl.collGens.get 0 (2 * r + (kind - 4))
    (waiting.min?).getD (begun.foldl max 0)

/-- Barriers of a pod grid that wait on crews of a die of another package which has failed: the owner breaks them and tells every
die of the grid, R124. DEDUCED, log 56. -/
def State.breakFar (s : State) (h : Handle) (pkg die : Nat) : State :=
  match s.gridOf h with
  | none => s
  | some g =>
    let held := g.own.ranges.filter fun r => r.pkg == pkg && r.die == die && !r.retired && !r.lost
    let hit := (List.range g.rosters.length).filter fun r => (g.rosters.getD r []).any fun lin =>
      held.any fun x => decide (x.first ≤ lin) && decide (lin < x.first + x.count)
    s.breakTold (s.leaderOf s.pkg) h (hit.flatMap fun r => [2, 4, 5].map fun k => (k, r, s.openGen h k r))

/-- Every barrier that waits on a crew of a die is broken, R124: of crews that run there, are saved there, or wait there. -/
def State.breakDie (s : State) (d : Nat) : State :=
  let x := s.dieOf d
  let s1 := x.cores.foldl (fun (s : State) c => c.2.crews.foldl (fun (s : State) w => s.breakBarriers d w.2) s) s
  let s2 := x.savedCrews.foldl (fun (s : State) w => s.breakBarriers d w.crew) s1
  (x.disp.queues.flatten.filter fun c => c.saved.isNone).foldl (fun (s : State) c => s.breakQueued d c) s2

/-- The other healthy dies in ring order: by distance, the successor before the predecessor, R48. -/
def State.ringOrder (s : State) (d : Nat) : List Nat :=
  let ring := [0, 1, 2, 3, 7, 6, 5, 4].filter fun e => e == d || s.healthy e
  let n := ring.length
  let at_ := (ring.takeWhile fun e => e != d).length
  (((List.range n).flatMap fun k => [ring.getD ((at_ + k) % n) 8, ring.getD ((at_ + n - k % n) % n) 8]).eraseDups).filter
    fun e => e != d && decide (e < 8)

/-- A die asks the next die for records, if it can reserve a page for the grant; a round that every die has refused ends,
R141, R150 and R460. -/
def State.stealNext (s : State) (d : Nat) (h : Handle) (rest : List Nat) : State :=
  match rest.filter s.healthy with
  | [] => s.updGridDie d h fun y => { y with steal := .resting (s.cyc d), allRefused := y.live == 0 }
  | v :: vs =>
    if (s.pageFor d h (some .steal)).isSome then
      let s1 := (s.pageGot d h .steal).updCtxDie d (handleCtx h).toNat fun c => { c with spillReserved := c.spillReserved + 1 }
      (s1.updGridDie d h fun y => { y with steal := .asking vs v }).sendTo (handleCtx h) 0 d (s1.pkg, v) (.stealreq h)
    else (s.updGridDie d h fun y => { y with steal := .pending rest }).pageWait d h .steal

/-- A request that will not be granted gives its page back; the round goes on. -/
def State.stealRefused (s : State) (d : Nat) (h : Handle) : State :=
  match (s.gridDie d h).steal with
  | .asking rest _ =>
    (s.updCtxDie d (handleCtx h).toNat fun c => { c with spillReserved := c.spillReserved - 1 }).stealNext d h rest
  | _ => s

/-- Counters that a die held for transfers to or from a die that has failed are cleared, and what was on its way is lost, R151. -/
def State.clearTransfers (s : State) (e pkg d : Nat) : State :=
  let lose := fun (s : State) (h : Handle) (n : Nat) =>
    if n = 0 then s else (s.liveSub e h n).updOwner h fun o => { o with failed := true }
  let s1 := s.updDisp e fun x => { x with enqUse := x.enqUse.filter fun u => !(u.2.1 == pkg && u.2.2.1 == d) }
  let enqs := (s1.dieOf e).tags.filterMap fun u => match u.2 with
    | .enq t w h p f => if p = pkg ∧ f = d then some (u.1, t, w, h) else none
    | _ => none
  let s2 := enqs.foldl (fun (s : State) u =>
    lose ((s.updDie e fun x => { x with tags := x.tags.erase u.1 }).waitDone u.2.1 u.2.2.1) u.2.2.2 1) s1
  if pkg ≠ s.pkg then s2
  else (s2.dieOf e).disp.grids.foldl (fun (s : State) g =>
    let h : Handle := BitVec.ofNat 48 g.1
    let k := ((g.2.granted.filter fun x => x.1 == d).map fun x => x.2).sum
    let s' := lose (s.updGridDie e h fun y => { y with granted := y.granted.filter fun x => x.1 != d }) h k
    match g.2.steal with
    | .asking _ v => if v = d then s'.stealRefused e h else s'
    | .receiving v _ _ => if v = d then
        (s'.updGridDie e h fun y => { y with steal := .idle }).updCtxDie e (handleCtx h).toNat
          fun c => { c with spillReserved := c.spillReserved - 1 } else s'
    | _ => s') s2

/-- Elections, and what they change for the grids of this package, after the health of its dies has changed. `failed` names
a compute die that has just failed. DEDUCED, log 32. -/
def State.reelect (s : State) (failed : Option Nat) : State :=
  let old := s.disp
  let s1 := s.elect
  let mine := (s1.disp.grids.filter fun g => s1.ownsHere g.2).map fun g => g.2.handle
  let leaderGone := failed == some old.leader.toNat
  let s2 := if leaderGone then
      mine.foldl (fun (s : State) h =>
        let copied := match s.gridOf h with | some g => !(g.own.pendMirror.any fun p => p.copy) | none => true
        (if old.depv && copied then s.adoptMirror h old.deputy.toNat old.leader.toNat
         else s.counterGone h s.pkg old.leader.toNat).tellOwner h) s1
    else s1
  let s3 := match failed with
    | some d => mine.foldl (fun (s : State) h => s.gridLosesDie h s.pkg d) s2
    | none => s2
  if s3.disp.depv != old.depv || s3.disp.deputy != old.deputy || leaderGone then
    mine.foldl (fun (s : State) h => (s.copyMirror h).serveAsked h) s3
  else s3

/-- A compute die fails: nothing runs on it any more, and R113, R117, R118, R124 and R151 follow. -/
def State.dieFailed (s : State) (d : Nat) : State :=
  let s1 := (s.healthyDies s.pkg).foldl (fun (s : State) e => s.clearTransfers e s.pkg d) (s.breakDie d)
  (s1.updDie d fun x => { x with stopped := true }).reelect (some d)

/-- `BOOT_HEALTHY` has changed: I/O die 0 tells every package of the pod. -/
def State.tellHealth (s : State) : State :=
  (s.podMembers.filter fun p => p != s.pkg).foldl (fun (s : State) p =>
    s.sendTo 0 0 24 (p, 24) (.health (BitVec.ofNat 32 s.host.boot.healthy.toNat))) s

/-- The counter of a pod grid is lost with the package that held it, R117: what it had dealt beyond the ranges of this package is
not known here. DESIGN CHOICE, log 88. -/
def State.podCounterGone (s : State) (g : Grid) (pkg : Nat) : State :=
  let h := g.handle
  let dealt := (List.range 8).foldl (fun m d => (s.gridDie d h).ranges.foldl (fun m r => max m (r.1 + r.2.1)) m) g.own.next
  let s1 := (s.updOwner h fun o => { o with next := max dealt (min g.launch.crews (Config.farNext h.toNat)) }).counterGone h pkg 0
  if g.srcPkg = s.pkg then s1.finishGrid h 2 else s1.updOwner h fun o => { o with st := .ended 2 }

/-- `HEALTH`: the health of another package; its failed dies and its loss are felt here. -/
def execHealth (h : PktHdr) (mask : W32) (s : State) : Out :=
  let p := h.srcPkg.toNat
  let was := s.healthyDies p
  let podldr := s.disp.podldr.toNat
  let s1 := { s with host := { s.host with peerHealth := s.host.peerHealth.set p mask } }
  let gone := was.filter fun d => !mask.getLsbD d
  let lost := !was.isEmpty && (s1.healthyDies p).isEmpty
  let s2 := s1.reelect none
  let mine := (s2.disp.grids.filter fun g => s2.ownsHere g.2 && g.2.launch.podsc && g.2.launch.pkgMask.testBit p).map
    fun g => g.2.handle
  let s3 := if lost && p == podldr then
      (s2.disp.grids.filter fun g => g.2.launch.podsc && !g.2.own.isEnded).foldl
        (fun (s : State) g => s.podCounterGone g.2 p) s2
    else s2
  let s4 := gone.foldl (fun (s : State) d =>
    let s' := (s.healthyDies s.pkg).foldl (fun (s : State) e => s.clearTransfers e p d) s
    mine.foldl (fun (s : State) h => (s.breakFar h p d).gridLosesDie h p d) s') s3
  let s5 := if lost then mine.foldl (fun (s : State) h => s.updOwner h fun o => { o with pkgFail := o.pkgFail ++ [p] }) s4 else s4
  let s6 := if lost && p == podldr then
      (if s5.disp.podldr.toNat = s5.pkg then
        { s5 with disp := { s5.disp with
          nextSeq := max s5.disp.nextSeq (s5.dieOf s5.disp.leader.toNat).disp.nextSeq,
          collect := s5.livePackages.filter fun q => q != s5.pkg && (s5.disp.podSeq.find? q).isNone } }
       else s5.sendTo 0 0 s5.disp.leader.toNat (s5.disp.podldr.toNat, s5.leaderOf s5.disp.podldr.toNat)
         (.podseq (BitVec.ofNat 64 ((s5.dieOf s5.disp.leader.toNat).disp.nextSeq - 1))))
    else s5
  .next { s6 with disp := { s6.disp with collect := s6.disp.collect.filter fun q => s6.livePackages.contains q } }

/-- `PODSEQ` at the pod leader: numbering goes on above the largest number that any package has processed. -/
def execPodseq (h : PktHdr) (n : W64) (s : State) : Out :=
  .next { s with disp := { s.disp with podSeq := s.disp.podSeq.set h.srcPkg.toNat n.toNat,
                                       collect := s.disp.collect.filter (fun p => p != h.srcPkg.toNat),
                                       nextSeq := max s.disp.nextSeq (n.toNat + 1) } }

end Sys2Proof.Machine
end

