-- ==== Sys2Proof/Machine/Interval.lean ====
section
/-!
DEFINITION. Instructions on intervals: R355 to R374, opcodes 0x80 to 0xAD, and `MOV`, which copies intervals too.
-/
namespace Sys2Proof.Machine

/-! ## Reading and writing intervals -/

/-- The format of the bounds that `TYPE` names. -/
def Env.fmt (e : Env) : Fmt := viewFmt e.c.type.toNat

/-- The bits of source A, B or C. -/
def Env.src (e : Env) (pos lane bits : Nat) : Nat :=
  if pos = 1 then e.srcA lane bits else if pos = 2 then e.srcB lane bits else e.srcC lane bits

/-- An interval source, and whether its pair is ill-formed, R356. -/
def Env.iv (e : Env) (pos lane : Nat) : Ivl × Bool := e.fmt.readPair (e.src pos lane (2 * e.fmt.width))

/-- The first n sources of an instruction, and whether any of them is ill-formed. -/
def Env.ivs (e : Env) (n lane : Nat) : List Ivl × Bool :=
  let l := (List.range n).map fun i => e.iv (i + 1) lane
  (l.map (·.1), l.any (·.2))

/-- The status of a result: that of every acting lane. -/
def statusOf (rs : List (Nat × Res)) : BitVec 6 := rs.foldl (fun st r => st ||| r.2.st) 0

/-- Words of a view. -/
def Env.words (e : Env) : Nat := viewWords e.c.type

/-- The pipe of the band's half, or of both halves, is occupied for n cycles from this issue. -/
def Env.occupy (e : Env) (trans : Bool) (n : Nat) (s : State) : State :=
  let both := e.width == 64
  let upto := e.now + n
  s.updCore e.t.die e.t.core fun c =>
    let k := c.sel
    let h0 := both || e.b.x.half == 0
    let h1 := both || e.b.x.half == 1
    { c with sel := if trans then { k with trans0 := if h0 then upto else k.trans0, trans1 := if h1 then upto else k.trans1 }
                    else { k with busy0 := if h0 then upto else k.busy0, busy1 := if h1 then upto else k.busy1 } }

/-- Degenerate or sign-known, R162. -/
def signKnown (v : Ivl) : Bool :=
  match v with
  | .empty => true
  | .mk a b => !a.isNeg || !b.isPos || a.eq b

/-- An interval instruction of fixed latency over its first n sources, of which the first m are multiplicands: R357 to
R360. -/
def ivFixed (opc n m : Nat) (c : Code) (s : State) (f : Fmt → List Ivl → Res) : Out :=
  runInstr opc c s fun e =>
    let rs := e.ls.map fun l =>
      let v := e.ivs n l
      let r := f e.fmt v.1
      (l, ({ r with st := r.st ||| stIf v.2 stIll } : Res))
    let general := 0 < m && e.ls.any fun l => !((e.ivs n l).1.take m).all signKnown
    let lat := (if general then 6 else 4) + e.modCycles
    let raw := rs.map fun r => (r.1, r.2.bits)
    let p := e.fixed lat (e.laneWrites e.words raw) (e.latchW e.words raw) (statusOf rs)
    let wide := c.type = 0xE
    e.result p (e.occupy false ((if wide then 4 else 1) * (if general then 2 else 1)) s)

/-- A result of the transcendental/convert pipe, of variable latency, R361. -/
def Env.transOut (e : Env) (dstWords : Nat) (rs : List (Nat × Res)) (more : List (Nat × W64)) (s : State) : Out :=
  let raw := rs.map fun r => (r.1, r.2.bits)
  let p := e.varied (e.laneWrites dstWords raw ++ (if e.c.nw then [] else more)) (e.latchW dstWords raw) (statusOf rs)
  e.result p (e.occupy true (if e.c.type = 0xE then 4 else 1) s)

/-- An interval instruction of the transcendental/convert pipe over its first n sources. -/
def ivVaried (opc n : Nat) (c : Code) (s : State) (f : Fmt → List Ivl → Res) : Out :=
  runInstr opc c s fun e =>
    e.transOut e.words (e.ls.map fun l =>
      let v := e.ivs n l
      let r := f e.fmt v.1
      (l, ({ r with st := r.st ||| stIf v.2 stIll } : Res))) [] s

/-! ## Arithmetic: R362 and R363 -/

def arg (l : List Ivl) (i : Nat) : Ivl := l.getD i .empty

def execFadd (c : Code) (s : State) : Out :=
  ivFixed 0x80 2 0 c s fun f v => f.image v ⟨ivAdd (arg v 0) (arg v 1), false⟩
def execFsub (c : Code) (s : State) : Out :=
  ivFixed 0x81 2 0 c s fun f v => f.image v ⟨ivAdd (arg v 0) (ivNeg (arg v 1)), false⟩
def execFmul (c : Code) (s : State) : Out :=
  ivFixed 0x82 2 2 c s fun f v => f.image v ⟨ivMul (arg v 0) (arg v 1), false⟩
def execFfma (c : Code) (s : State) : Out :=
  ivFixed 0x83 3 2 c s fun f v => f.image v ⟨ivAdd (ivMul (arg v 0) (arg v 1)) (arg v 2), false⟩
def execFsqr (c : Code) (s : State) : Out :=
  ivFixed 0x84 1 1 c s fun f v => f.image v ⟨ivSqr (arg v 0), false⟩

/-! ## Set operations and bounds: R368 and R369 -/

def execFhull (c : Code) (s : State) : Out :=
  ivFixed 0x85 2 0 c s fun f v => ⟨f.pair ((arg v 0).hull (arg v 1)), 0⟩
def execFisect (c : Code) (s : State) : Out :=
  ivFixed 0x86 2 0 c s fun f v =>
    let r := ivIsect (arg v 0) (arg v 1)
    ⟨f.pair r, stIf (!(v.any Ivl.isEmpty) && r.isEmpty) stEmpty⟩
def lowerOf : Ivl → Option Bnd
  | .empty => none
  | .mk lo _ => some lo
def upperOf : Ivl → Option Bnd
  | .empty => none
  | .mk _ hi => some hi
def execFlb (c : Code) (s : State) : Out := ivFixed 0x87 1 0 c s fun f v => f.pt (lowerOf (arg v 0))
def execFub (c : Code) (s : State) : Out := ivFixed 0x88 1 0 c s fun f v => f.pt (upperOf (arg v 0))
def execFmid (c : Code) (s : State) : Out := ivFixed 0x89 1 0 c s fun f v => f.pt ((f.mid (arg v 0)).map .fin)
def execFrad (c : Code) (s : State) : Out := ivFixed 0x8A 1 0 c s fun f v => f.rad (arg v 0)
def execFwid (c : Code) (s : State) : Out := ivFixed 0x8B 1 0 c s fun f v => f.wid (arg v 0)
def execFmag (c : Code) (s : State) : Out := ivFixed 0x8C 1 0 c s fun f v => f.pt (ivMag (arg v 0))
def execFmig (c : Code) (s : State) : Out := ivFixed 0x8D 1 0 c s fun f v => f.pt (ivMig (arg v 0))
def execFmk (c : Code) (s : State) : Out := ivFixed 0x8E 2 0 c s fun f v => f.mkPair (arg v 0) (arg v 1)
def execFneg (c : Code) (s : State) : Out := ivFixed 0x91 1 0 c s fun f v => ⟨f.pair (ivNeg (arg v 0)), 0⟩
def execFabs (c : Code) (s : State) : Out := ivFixed 0x92 1 0 c s fun f v => ⟨f.pair (ivAbs (arg v 0)), 0⟩
def execFmin (c : Code) (s : State) : Out := ivFixed 0x93 2 0 c s fun f v => ⟨f.pair (ivMin (arg v 0) (arg v 1)), 0⟩
def execFmax (c : Code) (s : State) : Out := ivFixed 0x94 2 0 c s fun f v => ⟨f.pair (ivMax (arg v 0) (arg v 1)), 0⟩

/-- `FBIS`, R370: a half of a splittable interval, or the interval; the test to the predicate that `SRCC` names. -/
def execFbis (c : Code) (s : State) : Out :=
  runInstr 0x8F c s fun e =>
    let rs := e.ls.map fun l =>
      let v := e.iv 1 l
      let st := stIf v.2 stIll
      match e.fmt.halves v.1 with
      | some h => (l, (⟨e.fmt.pair (if c.mods.toNat % 2 = 0 then h.1 else h.2), st⟩ : Res), Tri.t)
      | none => (l, (⟨e.fmt.pair v.1, st⟩ : Res), Tri.f)
    let raw := rs.map fun r => (r.1, r.2.1.bits)
    let preds := if c.mods.toNat / 2 % 2 = 1 && !c.nw then Env.predWrites c.srcc (rs.map fun r => (r.1, r.2.2)) else []
    let p := e.fixed (4 + e.modCycles) (e.laneWrites e.words raw ++ preds) (e.latchW e.words raw) (statusOf (rs.map fun r => (r.1, r.2.1)))
    e.result p (e.occupy false (if c.type = 0xE then 4 else 1) s)

/-- `FCMP`, R371: a relation of Table 10.7 into a predicate. -/
def execFcmp (c : Code) (s : State) : Out :=
  runInstr 0x90 c s fun e =>
    let rel := c.mods.toNat % 8
    let rs := e.ls.map fun l =>
      let v := e.ivs (if rel = 7 then 1 else 2) l
      (l, ivCmp rel (arg v.1 0) (arg v.1 1), stIf v.2 stIll)
    let lat := 4 + e.modCycles
    let p := e.fixed lat (Env.predWrites c.dst (rs.map fun r => (r.1, r.2.1))) none
      (rs.foldl (fun st r => st ||| r.2.2) 0)
    e.result p (e.occupy false (if c.type = 0xE then 4 else 1) s)

/-! ## Division, roots and transcendentals: R364 to R367 -/

def execFdiv (c : Code) (s : State) : Out := ivVaried 0xA0 2 c s fun f v => f.image v (ivDiv (arg v 0) (arg v 1))

/-- The second register of `FDIVP`: it follows d in its view. -/
def Env.dst2 (e : Env) : Option Nat := (e.b.eslot e.c.dst).map fun n => n + e.words

def execFdivp (c : Code) (s : State) : Out :=
  runInstr 0xA1 c s fun e =>
    let rs := e.ls.map fun l =>
      let v := e.ivs 2 l
      let r := e.fmt.divp (arg v.1 0) (arg v.1 1)
      (l, ({ r.1 with st := r.1.st ||| stIf v.2 stIll } : Res), r.2)
    let second := match e.dst2 with
      | some n => rs.flatMap fun r => (List.range e.words).map fun i =>
          (slotKey r.1 (n + i), BitVec.ofNat 64 (r.2.2 / 2 ^ (32 * i) % 2 ^ 32))
      | none => []
    e.transOut e.words (rs.map fun r => (r.1, r.2.1)) second s

def execFsqrt (c : Code) (s : State) : Out := ivVaried 0xA2 1 c s fun f v => f.image v (ivSqrt (arg v 0))
def execFrcp (c : Code) (s : State) : Out :=
  ivVaried 0xA3 1 c s fun f v => f.image v (ivDiv (Ivl.point Q.one) (arg v 0))
def execFrsqrt (c : Code) (s : State) : Out := ivVaried 0xA4 1 c s fun f v => f.image v (ivRsqrt (arg v 0))
def execFexp2 (c : Code) (s : State) : Out := ivVaried 0xA5 1 c s fun f v => f.image v (ivExp2 (arg v 0))
def execFlog2 (c : Code) (s : State) : Out := ivVaried 0xA6 1 c s fun f v => f.image v (ivLog2 (arg v 0))
def execFsinpi (c : Code) (s : State) : Out := ivVaried 0xA7 1 c s fun f v => f.image v (ivSinpi (arg v 0))
def execFcospi (c : Code) (s : State) : Out := ivVaried 0xA8 1 c s fun f v => f.image v (ivCospi (arg v 0))
def execFtanh (c : Code) (s : State) : Out := ivVaried 0xA9 1 c s fun f v => f.image v (ivTanh (arg v 0))

/-- `FPOWN`, R363: the power is source B read as `i32`. -/
def execFpown (c : Code) (s : State) : Out :=
  runInstr 0xAA c s fun e =>
    e.transOut e.words (e.ls.map fun l =>
      let v := e.iv 1 l
      let n := (ITy.of 2).read (e.srcB l 32)
      let r := e.fmt.image [v.1] (ivPown v.1 n)
      (l, ({ r with st := r.st ||| stIf v.2 stIll } : Res))) [] s

/-! ## Conversions: R372 to R374 -/

/-- Bits that a source of a type code takes in a register. -/
def codeBits (code : Nat) : Nat := if code = 0x0C then 32 else 32 * codeWords code

def execFcvt (c : Code) (s : State) : Out :=
  runInstr 0xAB c s fun e =>
    let m := c.mods.toNat
    e.transOut e.words (e.ls.map fun l =>
      let scale := if m / 64 % 2 = 1 then some (e.srcB l 8) else none
      (l, e.fmt.convert (m % 32) (m / 32 % 2 == 1) scale (e.srcA l (codeBits (m % 32))))) [] s

def execFcoll (c : Code) (s : State) : Out :=
  runInstr 0xAC c s fun e =>
    let code := c.mods.toNat % 32
    e.transOut (codeWords code) (e.ls.map fun l =>
      let v := e.iv 1 l
      let r := e.fmt.collapse code v.1
      (l, ({ r with st := r.st ||| stIf v.2 stIll } : Res))) [] s

/-- The largest magnitude of some collapsed points. -/
def amaxOf (f : Fmt) (vs : List Ivl) : Q :=
  vs.foldl (fun a v => match f.midQ v with | some q => if a.lt q.abs then q.abs else a | none => a) Q.zero

/-- `FQ8`, R374: with `.AUTO`, the scale of the acting lanes of a block of 32. -/
def execFq8 (c : Code) (s : State) : Out :=
  runInstr 0xAD c s fun e =>
    let m := c.mods.toNat
    let code := m % 32
    let inf := m / 32 % 2 == 1
    let auto := fun blk => scaleCode (amaxOf e.fmt ((e.ls.filter fun l => l / 32 == blk).map fun l => (e.iv 1 l).1))
      (largestOf code inf)
    let autos := if m / 64 % 2 = 1 then [auto 0, auto 1] else []
    e.transOut 1 (e.ls.map fun l =>
      let v := e.iv 1 l
      let sc := if m / 64 % 2 = 1 then autos.getD (l / 32) 127 else e.srcB l 8
      let r := e.fmt.quant code inf sc v.1
      (l, ({ r with st := r.st ||| stIf v.2 stIll } : Res))) [] s

/-! ## Moves -/

/-- `MOV`, R323: the bits of A; an interval unchanged, ill-formed or not. -/
def execMov (c : Code) (s : State) : Out :=
  runInstr 0x1D c s fun e =>
    let lat := 2 + e.modCycles
    if 0xC ≤ c.type.toNat then
      let raw := e.ls.map fun l => (l, e.srcA l (2 * e.fmt.width))
      e.result (e.fixed lat (e.laneWrites e.words raw) (e.latchW e.words raw) 0) s
    else
      let t := ITy.of c.type.toNat
      let raw := e.ls.map fun l => (l, t.reg (t.read (e.srcA l t.bits)))
      let words := if t.bits = 64 then 2 else 1
      e.result (e.fixed lat (e.laneWrites words raw) (e.latchW words raw) 0) s

end Sys2Proof.Machine
end

