-- ==== Sys2Proof/Machine/Mem.lean ====
section
/-!
DEFINITION. Loads, stores, atomics and fences: R377 to R391, opcodes 0xB0 to 0xB7.
-/
namespace Sys2Proof.Machine


/-! ## Fields of a memory instruction -/

def Code.space (c : Code) : Space := Space.ofCode (c.mods.toNat % 8)
def Code.scope (c : Code) : Nat := c.mods.toNat / 8 % 8
def Code.ord (c : Code) : Nat := c.mods.toNat / 64

/-- The effective address of a lane, R378. -/
def Env.addr (e : Env) (lane : Nat) : Int :=
  let off : Int := (BitVec.ofNat 32 (e.srcB lane 32)).toInt
  if Code.space e.c = .glob then (e.srcA lane 64 + off) % 2 ^ 64 else e.srcA lane 32 + off

/-- What an access does besides naming bytes. -/
structure MemOp where
  kind : AccKind
  len : Nat
  align : Nat
  acquire : Bool
  release : Bool
  dest : AccDest
  /-- Operation of R39. -/
  op : Nat
  signed : Bool
  /-- A store's bytes by lane. -/
  data : Tbl (List Byte)
  operands : Tbl W128
  expects : Tbl W128
  status : BitVec 6
deriving DecidableEq, Repr

def AccDest.discard : AccDest :=
  { num := none, uniform := false, words := 1, width := 4, signed := false, compressed := 0, view := 0 }

def MemOp.need (m : MemOp) (a : W16) : Bool :=
  match m.kind with
  | .load => attrR a
  | .store => attrW a
  | .atomic => attrR a && attrW a && attrA a
  | .fetch => attrX a

/-- The register that a load or atomic writes. -/
def Env.destOf (e : Env) (words width : Nat) (signed : Bool) (compressed view : Nat) : AccDest :=
  match uniOf e.front e.c.dst, e.b.eslot e.c.dst with
  | some n, _ => { num := some n, uniform := true, words := words, width := width, signed := signed,
                   compressed := compressed, view := view }
  | none, some n => { num := some n, uniform := false, words := words, width := width, signed := signed,
                      compressed := compressed, view := view }
  | none, none => { AccDest.discard with words := words, width := width, compressed := compressed, view := view }

def Env.touches (e : Env) (len : Nat) : List Touch := e.ls.map fun l => ⟨l, e.addr l, len⟩

/-- Every byte lies on a FREE page, as far as the lookaside tells: such an access orders nothing, R217. -/
def Env.allFree (e : Env) (s : State) (cw : Crew) (ts : List Touch) : Bool :=
  ts.all fun t => (splitAt 65536 t.addr.toNat t.len).all fun p =>
    match palFind (s.coreOf e.t.die e.t.core).pal (handleCtx cw.cfg.handle) p.1 s.timeCount with
    | some x => attrKind x.attr == .free
    | none => false

/-! ## Scratch accesses -/

/-- A lane's place in `lane` space. -/
def Env.laneCtx (e : Env) (cw : Crew) (lane : Nat) : Nat := cw.laneCtx (e.t.band.getD 0) lane

/-- The lanes whose reads meet an uninitialised word, each with its first, R195. -/
def Env.uninits (e : Env) (s : State) (cw : Crew) (sp : Space) (ts : List Touch) : List (Nat × Nat) :=
  if sp = .core ∨ sp = .clus then
    ts.filterMap fun t => (s.uninit e.t.crew cw sp t.addr.toNat t.len).map fun a => (t.lane, a)
  else []

/-- Order 9 of Table 15.4: a trap, or an entry in the warning log and then the access. -/
def Env.initCheck (e : Env) (s : State) (cw : Crew) (sp : Space) (ts : List Touch) (k : State → Out) : Out :=
  match e.uninits s cw sp ts with
  | [] => k s
  | (l, a) :: rest =>
    let clus := sp == .clus
    if cw.ctl.scrchkLog then k (s.logUninit e.t.crew false clus l a e.b.x.pc.toNat)
    else
      let lanes := maskOf 64 fun i => ((l, a) :: rest).any fun x => x.1 == i
      .next (e.raise 6 (BitVec.ofNat 64 (a + if clus then 2 ^ 62 else 0)) lanes s)

/-- One lane's atomic on scratch bytes: its old bytes, the status bits, and the state after. DEDUCED, log 36. -/
def Env.scratchAtomic (e : Env) (cw : Crew) (sp : Space) (m : MemOp) (t : Touch) (s : State) :
    List Byte × BitVec 6 × State :=
  let off := t.addr.toNat
  let lc := e.laneCtx cw t.lane
  let old := s.getScr e.t.crew cw sp lc off m.len
  if m.op = 9 ∧ (m.operands.find? t.lane).isNone then (old, 0, s.putScr e.t.crew cw sp lc off old)
  else
    let r := atomResult m.op m.len m.signed (leNat old) (m.operands.get 0 t.lane).toNat (m.expects.get 0 t.lane).toNat
    (old, r.2, s.putScr e.t.crew cw sp lc off (atomBytes m.len r.1))

/-- Performs a scratch access: the values read by lane, the status bits, and the state after. -/
def Env.scratch (e : Env) (cw : Crew) (sp : Space) (m : MemOp) : List Touch → State →
    List (Nat × List Byte) × BitVec 6 × State
  | [], s => ([], 0, s)
  | t :: ts, s =>
    match m.kind with
    | .atomic =>
      let a := e.scratchAtomic cw sp m t s
      let rest := e.scratch cw sp m ts a.2.2
      ((t.lane, a.1) :: rest.1, a.2.1 ||| rest.2.1, rest.2.2)
    | .store =>
      e.scratch cw sp m ts (s.putScr e.t.crew cw sp (e.laneCtx cw t.lane) t.addr.toNat (m.data.get [] t.lane))
    | _ =>
      let rest := e.scratch cw sp m ts s
      let bs := if sp = .clus then s.mcRead e.t.crew cw (ThreadRef.reader e.t) t.addr.toNat m.len
                else s.getScr e.t.crew cw sp (e.laneCtx cw t.lane) t.addr.toNat m.len
      ((t.lane, bs) :: rest.1, rest.2.1, rest.2.2)

/-- A scratch access performed at issue: its values reach registers with variable latency; a committing instruction opens
the next region. DEDUCED, log 36. -/
def Env.scratchNow (e : Env) (cw : Crew) (sp : Space) (m : MemOp) (committing : Bool) (ts : List Touch) (s : State) : Out :=
  e.initCheck s cw sp (if m.kind = .store then [] else ts) fun s =>
    let r := e.scratch cw sp m ts s
    let vals := r.1.map fun x => (x.1, m.dest.value x.2)
    let st := vals.foldl (fun st v => st ||| v.2.st) (m.status ||| r.2.1)
    let writes := vals.flatMap fun v => m.dest.writes v.1 v.2.bits
    let p := if m.kind = .store then e.fixed 1 [] none st else e.varied writes none st
    let b1 := (e.advance e.next e.b).pend p
    let s1 := if committing then e.commitNew (e.free + e.used) b1 r.2.2 else e.commit b1 r.2.2
    .next (if m.acquire && decide (3 ≤ Code.scope e.c) then s1.l1Acquire e.t.die e.t.core else s1)

/-- A scratch access; a load of the cluster's space that joins a multicast window waits for its close, R204. DEDUCED, log 36. DEDUCED, log 38. -/
def Env.scratchAccess (e : Env) (cw : Crew) (sp : Space) (m : MemOp) (committing : Bool) (ts : List Touch) (s : State) : Out :=
  if sp = .clus ∧ m.kind = .load then
    let offs := ts.map fun t => t.addr.toNat
    match s.mcHeld e.t.crew cw (ThreadRef.reader e.t) offs with
    | some s1 => .next s1
    | none =>
      match e.scratchNow cw sp m committing ts s with
      | .next s1 => .next (s1.mcLeaves e.t.crew cw (ThreadRef.reader e.t) offs)
      | o => o
  else e.scratchNow cw sp m committing ts s

/-! ## Accesses of `glob` bytes -/

/-- What each lane of a store writes: lane, address, bytes. -/
def MemOp.stores (m : MemOp) (ts : List Touch) : List (Nat × Nat × List Byte) :=
  ts.map fun t => (t.lane, t.addr.toNat, m.data.get [] t.lane)

/-- The pieces of a store by line, R99, with the page kind of each. -/
def Env.storePieces (e : Env) (s : State) (cw : Crew) (m : MemOp) (ts : List Touch) : List Piece :=
  (storeRuns (storeBytes (m.stores ts))).map fun r =>
    { s.pieceAt e.t.die e.t.core (handleCtx cw.cfg.handle) (lowestLane r.2.2) r.1 r.2.1.length with
      bytes := r.2.1, mask := r.2.2 }

/-- The access of an instruction on `glob` bytes, with `m.acquire` and `m.release` already settled. -/
def Env.accOf (e : Env) (s : State) (cw : Crew) (m : MemOp) (committing : Bool) (ts : List Touch) : Acc :=
  let ctx := handleCtx cw.cfg.handle
  { id := e.id, kind := m.kind, pc := e.b.x.pc, flag := e.flag, lanes := e.lanes, dest := m.dest,
    pieces := if m.kind = .store then e.storePieces s cw m ts
              else ts.flatMap fun t => s.pieces e.t.die e.t.core ctx t.lane t.addr.toNat t.len,
    acquire := m.acquire, atHome := m.acquire && decide (3 ≤ Code.scope e.c), release := m.release,
    committing := committing, op := m.op, width := m.len, signed := m.signed, operands := m.operands, expects := m.expects,
    status := m.status, index := if m.kind = .store then e.b.region.stores else 0xFFFF,
    stores := if m.kind = .store then m.stores ts else [] }

/-- An atomic drops the L1 line it names when it issues, R199. -/
def Env.atomDrops (e : Env) (cw : Crew) (ts : List Touch) (s : State) : State :=
  let ctx := handleCtx cw.cfg.handle
  s.l1Drop e.t.die e.t.core fun x l _ => ts.any fun t =>
    effCtx ctx t.addr.toNat == x && decide (t.addr.toNat / 64 ≤ l) && decide (l ≤ (t.addr.toNat + t.len - 1) / 64)

/-- DESIGN CHOICE, log 82. -/
def Env.globAccess (e : Env) (cw : Crew) (m : MemOp) (committing : Bool) (ts : List Touch) (s : State) : Out :=
  let a := e.accOf s cw m committing ts
  if m.kind = .store ∧ 1024 < (s.coreOf e.t.die e.t.core).lfsb + ((a.pieces.map fun p => p.va / 64).eraseDups).length then
    waits s
  else
    let b := if m.kind = .store then { e.b with region := { e.b.region with stores := e.b.region.stores + 1 } } else e.b
    let s1 := if m.kind = .atomic then e.atomDrops cw ts s else s
    .next ({ e with b := b }.launchAcc a committing s1)

/-! ## The course of an access -/

/-- The instruction has looked up its pages before, so that what it does only once is done. -/
def Band.lookedUp (b : Band) : Bool :=
  match b.x.phase with
  | .lookup asks => asks.any fun a => !a.fetch
  | _ => false

/-- A release, and every access of a front context, stands in a region whose restart point is itself, R217 and R276. DEDUCED, log 35. -/
def Env.ownRegion (e : Env) (own : Bool) : Env :=
  if own && !e.b.lookedUp then
    { e with b := e.b.openRegion (e.free + e.used) e.b.x.pc, free := e.free + 65 }
  else e

/-- Runs an access: waits at issue, the tests of Table 15.4, then the access itself. -/
def Env.mem (e0 : Env) (m0 : MemOp) (s : State) : Out :=
  match s.crewOf e0.t.crew with
  | none => .fault .noThread
  | some cw =>
    let sp := Code.space e0.c
    let ts := e0.touches m0.len
    let plain := decide (sp = .glob) && !ts.isEmpty && e0.allFree s cw ts
    let m := { m0 with acquire := m0.acquire && !plain, release := m0.release && !plain }
    let committing := m.kind == .atomic || m.release
    if e0.b.memHeld then waits s
    else if committing && !(if m.release then e0.b.quiet else e0.b.committed) then waits s
    else
      let e := e0.ownRegion (m.release || e0.front)
      if ts.isEmpty then (if committing then e.committedEnd e.b s else e.finish e.next e.b s)
      else e.access s cw sp m.align m.kind m.need ts
        (if sp = .glob then e.globAccess cw m committing ts s else e.scratchAccess cw sp m committing ts s)

/-! ## Meanings -/

/-- Bytes in memory of a load or store, R379 and R384. -/
def Code.memLen (c : Code) : Nat := if c.rmode = 1 then 4 else if c.rmode = 2 then 8 else memBytes c.type

def MemOp.base (kind : AccKind) (len : Nat) (c : Code) : MemOp :=
  { kind := kind, len := len, align := 1, acquire := Code.ord c % 2 == 1, release := decide (2 ≤ Code.ord c),
    dest := AccDest.discard, op := 0, signed := false, data := [], operands := [], expects := [], status := 0 }

/-- `LD`, R382 and R384. -/
def execLd (c : Code) (s : State) : Out :=
  runInstr 0xB0 c s fun e =>
    let view := if 0xC ≤ c.type.toNat then c.type.toNat else 0
    e.mem { MemOp.base .load (Code.memLen c) c with
      dest := e.destOf (typeWords c.type) (memBytes c.type) (intSigned c.type.toNat) c.rmode.toNat view } s

/-- A store's bytes in a lane, and the status of a compressed form. -/
def Env.storeData (e : Env) (lane : Nat) : List Byte × BitVec 6 :=
  let n := Code.memLen e.c
  if e.c.rmode = 0 then (leBytes n (e.srcC lane (8 * n)), 0)
  else
    let f := viewFmt e.c.type.toNat
    let v := f.readPair (e.srcC lane (2 * f.width))
    let r := (if e.c.rmode = 1 then mid32 else mid64).encode v.1
    (leBytes n r.bits, r.st ||| stIf v.2 stIll)

/-- `ST`, R383 and R384. -/
def execSt (c : Code) (s : State) : Out :=
  runInstr 0xB1 c s fun e =>
    let d := e.ls.map fun l => (l, e.storeData l)
    e.mem { MemOp.base .store (Code.memLen c) c with
      data := d.map (fun x => (x.1, x.2.1)), status := d.foldl (fun st x => st ||| x.2.2) 0 } s

/-- The operands by lane of an atomic of a width in bytes. -/
def Env.operandsC (e : Env) (len : Nat) : Tbl W128 := e.ls.map fun l => (l, BitVec.ofNat 128 (e.srcC l (8 * len)))

/-- An integer atomic, R387. -/
def Env.atomic (e : Env) (op : Nat) (expects : Tbl W128) (s : State) : Out :=
  let len := memBytes e.c.type
  let signed := intSigned e.c.type.toNat
  e.mem { MemOp.base .atomic len e.c with
    align := len, op := op, signed := signed, operands := e.operandsC len, expects := expects,
    dest := e.destOf (typeWords e.c.type) len signed 0 0 } s

/-- `ATOM`, R387. -/
def execAtom (c : Code) (s : State) : Out := runInstr 0xB2 c s fun e => e.atomic c.rmode.toNat [] s

/-- `CAS`, R388: the expected value is the destination register at issue. -/
def execCas (c : Code) (s : State) : Out :=
  runInstr 0xB3 c s fun e =>
    e.atomic 7 (e.ls.map fun l => (l, BitVec.ofNat 128 (e.srcD l (8 * memBytes c.type)))) s

/-- `ATOM.FADD`, R389. -/
def execAtomFadd (c : Code) (s : State) : Out :=
  runInstr 0xB4 c s fun e =>
    let len := memBytes c.type
    e.mem { MemOp.base .atomic len c with
      align := len, op := 8, operands := e.operandsC len, dest := e.destOf (typeWords c.type) len false 0 c.type.toNat } s

/-- `ATOM.FMAXA`, R390 and R375: the operand is the magnitude of source C; none for Empty. -/
def execAtomFmaxa (c : Code) (s : State) : Out :=
  runInstr 0xB5 c s fun e =>
    let f := viewFmt c.type.toNat
    let vs := e.ls.map fun l => (l, f.readPair (e.srcC l (2 * f.width)))
    e.mem { MemOp.base .atomic 4 c with
      align := 4, op := 9, dest := e.destOf 1 4 false 0 0,
      operands := vs.filterMap (fun x => (magWord x.2.1).map fun m => (x.1, BitVec.ofNat 128 m)),
      status := vs.foldl (fun st x => st ||| stIf x.2.2 stIll) 0 } s

/-- `AMAXSWAP`, R390. -/
def execAmaxswap (c : Code) (s : State) : Out :=
  runInstr 0xB6 c s fun e =>
    e.mem { MemOp.base .atomic 4 c with align := 4, op := 10, operands := e.operandsC 4, dest := e.destOf 1 4 false 0 0 } s

/-- A fence: its kind and its scope, R391. A `.ACQ` completes when the loads and atomics before it are performed; the others
wait at issue until every earlier access is performed, and complete then. -/
def Env.fence (e : Env) (kind scope : Nat) (s : State) : Out :=
  if kind = 0 then
    let b := (e.advance e.next e.b).flagUp e.flag
    let w : Waiter := { id := e.id, flag := e.flag, pc := e.b.x.pc, kind := .fence scope e.id }
    .next ((e.commit { b with waits := b.waits ++ [w] } s).poll e.t)
  else if !e.b.quiet then waits s
  else
    let s1 := if kind = 2 ∧ 3 ≤ scope then s.l1Acquire e.t.die e.t.core
              else if kind = 3 then s.l1Drain e.t.die e.t.core else s
    e.committedEnd e.b s1

/-- `FENCE.ACQ`, `.REL` and `.AR`. -/
def execFence (c : Code) (s : State) : Out :=
  runInstr 0xB7 c s fun e => e.fence (c.srca.bits.toNat / 8 % 4) (c.srca.bits.toNat % 8) s

/-- `FENCE.DRAIN`. -/
def execFenceDrain (c : Code) (s : State) : Out := runInstr 0xB7 c s fun e => e.fence 3 0 s

end Sys2Proof.Machine
end

