-- ==== Sys2Proof/Machine/Tasks.lean ====
section
/-!
DEFINITION. Instructions on tasks and grids, R406 to R412, and the movements of records: band formation, takes, steals,
enqueues, R137 to R148 and R460.
-/
namespace Sys2Proof.Machine

/-! ## An order of lanes that no rule fixes, log 3 -/

/-- Puts a lane before, between or after the others. -/
def freeInsert (free x : Nat) : List Nat → List Nat
  | [] => [x]
  | y :: ys => if Config.freeBit free then x :: y :: ys else y :: freeInsert (free + 1) x ys

/-- Some order of the lanes of one instruction. -/
def freeOrder (free : Nat) : List Nat → List Nat
  | [] => []
  | x :: xs => freeInsert free x (freeOrder (free + 64) xs)

/-- Free choices that such an order may use. -/
def orderChoices : Nat := 64 * 64

/-! ## Creating records: R131 to R136, R406 and R407 -/

/-- The record that a lane gives from source A on. -/
def Env.record (e : Env) (lane : Nat) : List Byte :=
  match uniOf e.front e.c.srca, e.b.eslot e.c.srca with
  | some a, _ => (List.range 8).flatMap fun k => leBytes 8 (e.uni 1 lane (a + k))
  | none, some a => leBytes 64 (e.slots 1 lane lane a 16)
  | none, none => List.replicate 64 0

/-- The permission-violation trap of an instruction on tasks: its code. -/
def Env.taskTrap (e : Env) (code : Nat) (lanes : BitVec 64) (s : State) : Out :=
  .next (e.raise 7 (BitVec.ofNat 64 (code * 2 ^ 60)) lanes s)

/-- What a thread that lacks a spill page waits as. DEDUCED, log 61. -/
def Env.pageWaiter (e : Env) : PageWait := .thread e.t.core e.t.slot e.t.band e.b.x.pc

/-- New records are counted, and enter the crew's window; none while they lack a spill page. A cancelled grid keeps no
record, R152. -/
def Env.create (e : Env) (cw : Crew) (rs : List (List Byte)) (s : State) : Option State :=
  let h := cw.cfg.handle
  if (s.gridDie e.t.die h).cancelled then some s
  else ((s.liveAdd e.t.die h rs.length).enterWindows e.t.crew (some e.pageWaiter) rs).map fun s1 =>
    s1.pageGot e.t.die h e.pageWaiter

/-- `EMIT`. DEDUCED, log 60. -/
def execEmit (c : Code) (s : State) : Out :=
  runInstr 0xE0 c s fun e =>
    match s.crewOf e.t.crew with
    | none => .fault .noThread
    | some cw =>
      let bad := maskOf 64 fun l => e.lanes.getLsbD l && !recValid (e.record l)
      if !e.b.committed then waits s
      else if e.lanes = 0 then e.committedEnd e.b s
      else if cw.cfg.poolN = 0 then e.taskTrap 8 e.lanes s
      else if bad ≠ 0 then e.taskTrap 7 bad s
      else
        let order := freeOrder (e.free + e.used) e.ls
        match e.create cw (order.map e.record) s with
        | some s1 => { e with free := e.free + orderChoices }.committedEnd e.b s1
        | none => .next (s.pageWait e.t.die cw.cfg.handle e.pageWaiter)

/-- The child of a lane: the upper half of its interval, and its live words. -/
def Env.child (e : Env) (s : State) (cw : Crew) (lane : Nat) (upper : Ivl) : List Byte :=
  let n := e.c.mods.toNat % 16
  let head := if e.b.tasks.getLsbD lane then (s.taskRecord cw e.t lane).take 8 else leBytes 6 cw.cfg.bandPc ++ [0, 0]
  let live := if n = 0 then [] else leBytes (4 * n) (e.srcB lane (32 * n))
  pad 64 (head ++ leBytes (4 * e.words) (e.fmt.pair upper) ++ live)

/-- `SPLIT`. DEDUCED, log 60. -/
def execSplit (c : Code) (s : State) : Out :=
  runInstr 0xE1 c s fun e =>
    match s.crewOf e.t.crew with
    | none => .fault .noThread
    | some cw =>
      if !e.b.committed then waits s
      else if e.lanes = 0 then e.committedEnd e.b s
      else if cw.cfg.poolN = 0 then e.taskTrap 8 e.lanes s
      else
        let parts := e.ls.map fun l => (l, e.iv 1 l)
        let halves := parts.map fun p => (p.1, e.fmt.halves p.2.1, p.2.1)
        let st := parts.foldl (fun st p => st ||| stIf p.2.2 stIll) 0
        let kids := halves.filterMap fun x => x.2.1.map fun h => (x.1, h.2)
        let order := freeOrder (e.free + e.used) (kids.map fun x => x.1)
        let recs := order.filterMap fun l => (kids.find? fun x => x.1 == l).map fun x => e.child s cw l x.2
        match e.create cw recs s with
        | none => .next (s.pageWait e.t.die cw.cfg.handle e.pageWaiter)
        | some s1 =>
          let m := c.mods.toNat
          let preds := if m / 128 = 1 then
              halves.map fun x => (predKey x.1 (m / 16 % 8), BitVec.ofNat 64 (triNum (if x.2.1.isSome then .t else .f)))
            else []
          let vals := halves.map fun x => (x.1, e.fmt.pair (match x.2.1 with | some h => h.1 | none => x.2.2))
          let writes := (vals.flatMap fun v => e.slotWrites c.dst v.1 e.words v.2) ++ preds
          let free := e.free + e.used + orderChoices
          let b1 := (e.advance e.next e.b).pend (e.varied writes none st)
          .next (e.commitNew free b1 s1)

/-- `TEND`. -/
def execTend (c : Code) (s : State) : Out :=
  runInstr 0xE2 c s fun e =>
    if !e.b.committed then waits s
    else .next ((e.done e.next e.b s).exitLanes e.t e.lanes)

/-! ## Enqueues: R144, R145, R148 and R409 -/

/-- The destination word of Table 15.12. -/
structure EnqDst where
  pkg : Nat
  die : Nat
  queue : Nat
  rsvd : Bool
deriving DecidableEq, Repr

def EnqDst.of (w : Nat) : EnqDst :=
  { pkg := field w 8 8, die := field w 2 3, queue := field w 0 2, rsvd := field w 16 16 != 0 || field w 5 3 != 0 }

/-- Landing slots in use at a destination by this die. -/
def State.enqUsed (s : State) (d c pkg die : Nat) : Nat :=
  match (s.dieOf d).disp.enqUse.find? fun u => u.1 == c && u.2.1 == pkg && u.2.2.1 == die with
  | some u => u.2.2.2
  | none => 0

def State.setEnqUsed (s : State) (d c pkg die n : Nat) : State :=
  s.updDisp d fun x => { x with enqUse :=
    (x.enqUse.filter fun u => !(u.1 == c && u.2.1 == pkg && u.2.2.1 == die)) ++ (if n = 0 then [] else [(c, pkg, die, n)]) }

/-- A destination is refused at its source. -/
def State.enqRefused (s : State) (g : Grid) (k : EnqDst) : Bool :=
  !(g.launch.pkgs g.srcPkg).contains k.pkg || !(s.placementIn (handleCtx g.handle).toNat k.pkg).contains k.die ||
    (k.pkg != s.pkg && (s.podPort k.pkg).isNone)

/-- Sends a lane's record, unless its reservation at the destination is exhausted; the mask of lanes sent grows. -/
def Env.sendRecord (e : Env) (cw : Crew) (ack : Bool) (wait : Nat) (x : State × BitVec 64) (lane : Nat) : State × BitVec 64 :=
  let h := cw.cfg.handle
  let c := (handleCtx h).toNat
  let k := EnqDst.of (e.srcB lane 32)
  let d := e.t.die
  let used := x.1.enqUsed d c k.pkg k.die
  if (x.1.gridDie d h).enqRes ≤ used then x
  else
    let s1 := (x.1.liveAdd d h 1).setEnqUsed d c k.pkg k.die (used + 1)
    let n := s1.newTag d (.enq e.t wait h k.pkg k.die)
    (n.2.sendTo (handleCtx h) n.1 d (k.pkg, k.die) (.enq
      { route := { queue := BitVec.ofNat 2 k.queue, die := BitVec.ofNat 3 k.die, ackReq := ack }, handle := h,
        record := e.record lane }), x.2 ||| (1#64 <<< lane))

/-- An enqueue. The wait of an `ENQ.A`, and of any enqueue of a front context, ends at the last acknowledgement, and the next
region opens then; the flag is held as long only for `ENQ.A`. DEDUCED, log 34. DEDUCED, log 35. -/
def Env.enqueue (e : Env) (ack : Bool) (s : State) : Out :=
  match s.crewOf e.t.crew with
  | none => .fault .noThread
  | some cw =>
    match s.gridOf cw.cfg.handle with
    | none => .fault .noThread
    | some g =>
      let old : Option (BitVec 64 × Nat) := match e.b.x.phase with | .sending m w => some (m, w) | _ => none
      let sent := match old with | some o => o.1 | none => 0
      let wait := match old with | some o => o.2 | none => e.id
      let todo := e.lanes &&& ~~~sent
      let dst := fun l => EnqDst.of (e.srcB l 32)
      let away := fun l => (dst l).pkg != s.pkg || (dst l).die != e.t.die
      let bad := maskOf 64 fun l => todo.getLsbD l && ((dst l).rsvd || !recValid (e.record l) || (recNoSteal (e.record l) && away l))
      let refused := maskOf 64 fun l => todo.getLsbD l && s.enqRefused g (dst l)
      if old.isNone && !e.b.committed then waits s
      else if e.lanes = 0 then e.committedEnd e.b s
      else if bad ≠ 0 then e.taskTrap 7 bad s
      else if refused ≠ 0 then e.taskTrap 4 refused s
      else
        let r := (freeOrder (e.free + e.used) (lanesOf todo)).foldl (e.sendRecord cw ack wait) (s, sent)
        let free := e.free + e.used + orderChoices
        let w : Waiter := { id := wait, flag := if ack then e.flag else none, pc := e.b.x.pc, kind := .enq }
        let held := ack || e.front
        let b0 := if old.isSome || !held then e.b else { e.b with waits := e.b.waits ++ [w] }.flagUp w.flag
        if r.2 = sent then waits s
        else if r.2 ≠ e.lanes then
          let s1 := r.1.setThread e.t { b0 with x := { b0.x with phase := .sending r.2 wait } }
          .next { s1.updCore e.t.die e.t.core fun k => { k with nextId := max k.nextId (wait + 1) } with free := free }
        else
          let b1 := e.advance e.next b0
          let b2 := if ack then b1 else match e.flag with | some _ => b1.pend (e.fixed 1 [] none 0) | none => b1
          if held then .next { e.commit { b2 with x := { b2.x with phase := .performed wait } } r.1 with free := free }
          else .next (e.commitNew free b2 r.1)

/-- DEDUCED, log 60. -/
def execEnq (c : Code) (s : State) : Out := runInstr 0xE3 c s fun e => e.enqueue false s
def execEnqA (c : Code) (s : State) : Out := runInstr 0xE4 c s fun e => e.enqueue true s

/-! ## Grids: R410 to R412 -/

/-- A band command's tests of a `glob` read of its own, and what then goes on; every acting lane faults together. -/
def Env.ownRead (e : Env) (s : State) (cw : Crew) (va : Int) (len align : Nat) (k : List Byte → State → Out) : Out :=
  let ctx := handleCtx cw.cfg.handle
  match e.check s cw .glob align .load attrR [⟨lowestLane e.lanes, va, len⟩] with
  | .trap code addr _ => .next (e.raise 7 (BitVec.ofNat 64 (code * 2 ^ 60 + addr)) e.lanes s)
  | .lookup asks => .next (e.lookup (asks.map fun a => { a with lanes := e.lanes }) s)
  | .ok =>
    let a := match palFind (s.coreOf e.t.die e.t.core).pal ctx va.toNat s.timeCount with | some x => x.attr | none => 0
    let sock := s.homeSock ctx va.toNat (attrKind a) (attrDdr a)
    let fault := fun (s : State) => Host.Outcome.next ((e.settled s).memFault e.t
        { va := va.toNat, pc := e.b.x.pc, lanes := e.lanes, index := 0xFFFF, cause := 0x0101, fetch := false })
    if s.foreign va.toNat then
      let who := ThreadRef.asker e.t
      let body := Body.read { va := BitVec.ofNat 56 va.toNat, cntM1 := BitVec.ofNat 7 (len - 1), acq := false }
      match s.askRemote e.t.die e.t.core who (effCtx ctx va.toNat) va.toNat sock body body (.engine e.t.core) with
      | (none, s1) => .next (e.waitAway va.toNat s1)
      | (some (0, bs), s1) => k bs (s1.forgetRemote e.t.die e.t.core who)
      | (some _, s1) => fault (s1.forgetRemote e.t.die e.t.core who)
    else match s.homeRead ctx va.toNat len sock with
    | (0, bs, s1) => k bs s1
    | _ => fault s

/-- `LAUNCH`: the token is read and written to the queue; the band waits for its handle. -/
def execLaunch (c : Code) (s : State) : Out :=
  runInstr 0xE5 c s fun e0 =>
    match s.crewOf e0.t.crew with
    | none => .fault .noThread
    | some cw =>
      if !e0.b.committed then waits s
      else
        let e := e0.ownRegion true
        e.ownRead s cw (e.srcA 0 64) 64 64 fun tok s1 =>
          let q := e.srcB 0 64
          let ctx := handleCtx cw.cfg.handle
          let d := (uniOf e.front c.dst).getD 64
          let r := if 64 ≤ q then (s1, false) else s1.tokenArrive ctx.toNat q tok (some (e.t, e.id))
          if r.2 then
            let b1 := (e.advance e.next e.b).flagUp e.flag
            let w : Waiter := { id := e.id, flag := e.flag, pc := e.b.x.pc, kind := .launch d }
            .next (e.commit { b1 with waits := b1.waits ++ [w], x := { b1.x with phase := .launching e.id } } r.1)
          else e.committedEnd { e.b with r := if d < 64 then e.b.r.putKey (uniKey d) 0 else e.b.r } r.1

/-- The handle in source A. -/
def Env.handle (e : Env) : Handle := BitVec.ofNat 48 (e.srcA 0 64)

/-- `GCANCEL`. -/
def execGcancel (c : Code) (s : State) : Out :=
  runInstr 0xE6 c s fun e =>
    match s.crewOf e.t.crew with
    | none => .fault .noThread
    | some cw =>
      let s1 := e.done e.next e.b s
      .next (if handleCtx e.handle = handleCtx cw.cfg.handle then s1.cancelAt e.t.die e.handle else s1)

/-- The state of a grid as `GSTATUS` gives it. -/
def State.gridWord (s : State) (h : Handle) : W64 :=
  match s.gridOf h with
  | none => 0
  | some g => match g.own.st with
    | .ended k => completionWord k g.reason h
    | _ => BitVec.ofNat 64 h.toNat

/-- `GSTATUS`. -/
def execGstatus (c : Code) (s : State) : Out :=
  runInstr 0xE7 c s fun e =>
    match s.crewOf e.t.crew with
    | none => .fault .noThread
    | some cw =>
      let v := if handleCtx e.handle = handleCtx cw.cfg.handle then s.gridWord e.handle else 0
      e.result (e.varied (e.uniWrites v.toNat) none 0) s

/-! ## Enqueued records on their way: R145 to R148 -/

/-- A crew of a grid is placed on a die. -/
def State.crewPlaced (s : State) (d : Nat) (h : Handle) : Bool :=
  (s.dieOf d).cores.any fun c => c.2.crews.any fun w => w.2.cfg.handle == h

/-- A cluster of a grid waits for placement on a die. -/
def State.crewQueued (s : State) (d : Nat) (h : Handle) : Bool :=
  (s.dieOf d).disp.queues.any fun q => q.any fun c => c.handle == h

/-- The landing slots that a context's records hold on a die. -/
def State.landedAt (s : State) (d c : Nat) : List Nat :=
  (s.dieOf d).disp.grids.flatMap fun g => if g.1 % 64 = c then g.2.landing.flatten.map fun l => l.va else []

/-- `ENQ_ARRIVAL`. -/
def execEnqArrival (h : PktHdr) (b : EnqB) (s : State) : Out :=
  let d := h.dstSock.toNat
  let g := b.handle
  let x := s.gridDie d g
  let c := (handleCtx g).toNat
  let back := (s.updDisp d fun y => { y with bounce := satInc y.bounce }).send (PktHdr.reply h) (.bounce b)
  let ack := fun (s : State) => s.send (PktHdr.reply h) (.enqack b.route g)
  if x.cancelled then
    .next (ack ((s.updGridDie d g fun y => { y with change := true }).send (PktHdr.reply h) (.credit b.route g)))
  else if x.exhausted && !s.crewPlaced d g && !s.crewQueued d g then .next back
  else
    let base := x.enqBase + (h.srcPkg.toNat * 8 + h.srcSock.toNat) * x.enqRes * 64
    let used := s.landedAt d c
    match (List.range x.enqRes).find? fun j => !used.contains (base + 64 * j) with
    | none => .next back
    | some j =>
      match s.devWrite (handleCtx g) (base + 64 * j) b.record with
      | .error _ => .next (back.report d false (some (handleCtx g)) 0x0112 g (openDetail 0x0112 []))
      | .ok s1 =>
        let l : Landed := { pkg := h.srcPkg.toNat, die := h.srcSock.toNat, slot := j, va := base + 64 * j, order := x.landed }
        let s2 := s1.updGridDie d g fun y => { y with
          landing := y.landing.modify b.route.queue.toNat fun q => q ++ [l], landed := y.landed + 1 }
        .next (ack (s2.liveAdd d g 1))

/-- The tag of an enqueue is freed; the thread waits no more once the last record of the instruction is answered. -/
def State.enqAnswered (s : State) (d tag : Nat) : State :=
  match (s.dieOf d).tags.find? tag with
  | some (.enq t w _ _ _) =>
    let s1 := s.updDie d fun x => { x with tags := x.tags.erase tag }
    let more := (s1.dieOf d).tags.any fun u => match u.2 with | .enq t' w' _ _ _ => t' == t && w' == w | _ => false
    let busy := match s1.thread t with
      | some b => (match b.x.phase with | .sending _ w' => w' == w | _ => false)
      | none => false
    if more || busy then s1 else s1.waitDone t w
  | _ => s

/-- `ENQACK` at the sender. -/
def execEnqack (h : PktHdr) (_r : Route) (g : Handle) (s : State) : Out :=
  let d := h.dstSock.toNat
  .next (((s.liveSub d g 1).updGridDie d g fun y => { y with change := true }).enqAnswered d h.tag.toNat)

/-- A credit of a destination returns. -/
def State.creditBack (s : State) (h : PktHdr) (g : Handle) : State :=
  let d := h.dstSock.toNat
  let c := (handleCtx g).toNat
  let p := h.srcPkg.toNat
  let k := h.srcSock.toNat
  s.setEnqUsed d c p k (s.enqUsed d c p k - 1)

/-- `CREDIT` at the sender. -/
def execCredit (h : PktHdr) (_r : Route) (g : Handle) (s : State) : Out := .next (s.creditBack h g)

/-- `BOUNCE` at the sender: the record joins its own spill ring, or waits for a page. -/
def execBounce (h : PktHdr) (b : EnqB) (s : State) : Out :=
  let d := h.dstSock.toNat
  let s1 := (s.creditBack h b.handle).enqAnswered d h.tag.toNat
  if (s1.gridDie d b.handle).cancelled then .next s1
  else
    let w := PageWait.returned b.record
    match s1.ringAppend d b.handle (some w) b.record with
    | some s2 => .next s2
    | none => .next (s1.returnWait d b.handle b.record)

/-! ## The Blocker: R137 and R138 -/

/-- A band slot in which no band runs, R137. -/
def Crew.freeSlot (cw : Crew) : Option Nat :=
  (List.range cw.cfg.bands).find? fun k => match cw.bands.find? k with | none => true | some b => !b.running

/-- Records of a bin, oldest first. -/
def Crew.bin (cw : Crew) (epc : Nat) : List WinRec := cw.window.filter fun w => recEpc w.record == epc

/-- The records of a bin that a row of Table 6.2 takes, top first; none where the row does not hold. -/
def Crew.rowTakes (cw : Crew) (now flush row : Nat) (bin : List WinRec) : List WinRec :=
  let top := bin.reverse.take cw.cfg.width
  match row with
  | 1 => if cw.cfg.width ≤ bin.length then top else []
  | 2 => (match bin with | o :: _ => if o.at_ + flush ≤ now then top else [] | [] => [])
  | 3 => if 3 * cw.cfg.poolN < 4 * cw.window.length then top else []
  | _ => if cw.bands.any fun b => b.2.running then [] else top

/-- The bin, by its taken records, whose top entered last. -/
def latestTop : List (List WinRec) → List WinRec
  | [] => []
  | t :: ts =>
    match t, latestTop ts with
    | [], best => best
    | t, [] => t
    | a :: as, b :: bs => if b.order < a.order then a :: as else b :: bs

/-- What the Blocker takes next: the first row of Table 6.2 that some bin meets. -/
def Crew.blocked (cw : Crew) (now flush : Nat) : List WinRec :=
  let tries := [1, 2, 3, 4].map fun row => latestTop (cw.bins.map fun p => cw.rowTakes now flush row (cw.bin p))
  (tries.find? fun t => !t.isEmpty).getD []

/-- The band that starts with these records: each lane's payload in its slots, everything else as the slot's last band left
it, R132 and R138. DEDUCED, log 59. -/
def Crew.formed (cw : Crew) (old : Band) (rs : List WinRec) (now : Nat) : Band :=
  let n := rs.length
  let pay := fun (r : BandRegs) (x : Nat × WinRec) =>
    (List.range 14).foldl (fun (r : BandRegs) i =>
      r.putKey (slotKey x.1 (cw.cfg.taskBase + i)) (BitVec.ofNat 64 (leNat ((x.2.record.drop (8 + 4 * i)).take 4)))) r
  let r1 := ((List.range n).zip rs).foldl pay { old.r with nest := [], exited := maskOf 64 (fun l => decide (n ≤ l)), ix0 := 0, ix1 := 0, status := 0 }
  let r2 := cw.cfg.preUni.foldl (fun (r : BandRegs) p => r.putKey (uniKey p.1) p.2) r1
  let pc := BitVec.ofNat 48 (match rs with | w :: _ => recEpc w.record | [] => 0)
  let b : Band := { Band.reset with
    r := r2, x := { Exec.reset with pc := pc, since := now }, width := cw.cfg.width, running := true, trap := old.trap,
    dqPos := cw.dqBase + cw.dq.length, tasks := maskOf 64 fun l => decide (l < n) }
  { b with region := { restart := pc, tag := old.region.tag + 1, snap := r2, stores := 0 } }

/-- The band that ended in a slot makes room for the next. What is still under way of it goes on under a key of its own, to which
replies and commands then lead, and no window that it waited at gives the next band its bytes. DEDUCED, log 59. -/
def State.vacate (s : State) (r : CrewRef) (cw : Crew) (k : Nat) : State :=
  let late := k + lateBand * (1 + (cw.bands.filter fun b => decide (lateBand ≤ b.1)).foldl (fun m b => max m (b.1 / lateBand)) 0)
  let move := fun (t : ThreadRef) => if t = r.band k then r.band late else t
  let tag := fun (u : TagUse) => match u with
    | .piece t a i => .piece (move t) a i
    | .enq t w h p f => .enq (move t) w h p f
    | x => x
  let was := [ThreadRef.reader (r.band k), ThreadRef.awaiter (r.band k)]
  let leave := fun (c : Core) => { c with windows := c.windows.map fun w => { w with joined := w.joined.filter fun j => !was.contains j } }
  let s1 := s.updDie r.die fun d => { d with tags := d.tags.map (fun u => (u.1, tag u.2)), cores := d.cores.map fun c => (c.1, leave c.2) }
  let s2 := s1.updCore r.die r.core fun c => { c with
    jq := c.jq.map (fun (o : JOp) => { o with thread := move o.thread }),
    copy := c.copy.map (fun q => q.map fun (x : CopyCmd) => { x with thread := move x.thread }),
    sel := { c.sel with active := c.sel.active.filter fun p => p != (r.slot, k) } }
  match cw.bands.find? k with
  | some b => if b.accs.isEmpty && b.waits.isEmpty then s2 else s2.setThread (r.band late) b
  | none => s2

/-- Forms one band of a crew, if a row of Table 6.2 holds and a band slot is free. DEDUCED, log 59. -/
def State.formBand (s : State) (r : CrewRef) : State :=
  match s.crewOf r with
  | none => s
  | some cw =>
    let now := s.cyc r.die
    let rs := cw.blocked now (s.ctxOf (handleCtx cw.cfg.handle).toNat).flush.toNat
    match cw.freeSlot with
    | none => s
    | some k =>
      if rs.isEmpty || cw.ctl.cancelled || cw.ctl.stopping then s
      else
        let b := cw.formed ((cw.bands.find? k).getD Band.reset) rs now
        let left := cw.window.filter fun w => !rs.contains w
        let s1 := (s.vacate r cw k).updCrew r fun w => { w with bands := w.bands.set k b, window := left }
        ((List.range rs.length).zip rs).foldl (fun (s : State) x =>
          s.writeKey (cw.sliceKey (r.band k) x.1 192) (pad 64 x.2.record)) s1

/-- `BAND_FORMATION`, and `FLUSH_AGE_EXPIRY`, by which row 2 comes to hold. -/
def execBandFormation (s : State) : Out := .next (s.formBand s.cur.crew)
def execFlushAgeExpiry (s : State) : Out := .next (s.formBand s.cur.crew)

/-! ## Takes: R140, R147 and R460 -/

/-- A crew that may take records. -/
def Crew.idle (cw : Crew) : Bool :=
  cw.cfg.poolN != 0 && cw.freeSlot.isSome && cw.window.isEmpty && !cw.ctl.cancelled && !cw.ctl.stopping

/-- A source of records: a landing slot with its queue, or a place in the ring. -/
inductive Source where
  | land (q : Nat) (l : Landed)
  | ring (x : RingRec)
deriving DecidableEq, Repr

def Source.va : Source → Nat
  | .land _ l => l.va
  | .ring x => x.page + 64 * x.slot

/-- Where a die's records of a grid are taken from, in order: the landing queues, or else the ring, newest first. -/
def State.sources (s : State) (d : Nat) (h : Handle) : List Source :=
  let g := s.gridDie d h
  let land := (List.range 4).flatMap fun q => (g.landing.getD q []).map fun l => Source.land q l
  if land.isEmpty then g.ring.reverse.map .ring else land

/-- A record leaves its place: a landing slot's credit returns to its sender. -/
def State.leaveSource (s : State) (d : Nat) (h : Handle) (x : Source) : State :=
  match x with
  | .ring y => s.ringRemove d h y
  | .land q l => (s.updGridDie d h fun y => { y with landing := y.landing.modify q fun z => z.filter fun m => m != l }).sendCredit d q h l

/-- Takes records one after the other: at most n, none that would open a seventeenth bin, one whose read faults being
lost. -/
def State.takeFrom (s : State) (d : Nat) (h : Handle) : Nat → List Nat → List Source → State × List (Source × List Byte)
  | 0, _, _ => (s, [])
  | _, _, [] => (s, [])
  | n + 1, bins, x :: xs =>
    match s.devRead (handleCtx h) attrR x.va 64 with
    | .error _ => ((s.leaveSource d h x).recordsLost d h 1).takeFrom d h n bins xs
    | .ok r =>
      let p := recEpc r
      if bins.contains p || decide (bins.length < 16) then
        let rest := (s.leaveSource d h x).takeFrom d h n (if bins.contains p then bins else p :: bins) xs
        (rest.1, (x, r) :: rest.2)
      else s.takeFrom d h (n + 1) bins xs

/-- Inserts a landed record by its order of arrival; a ring's records come newest first. -/
def byAge (x : Source × List Byte) : List (Source × List Byte) → List (Source × List Byte)
  | [] => [x]
  | y :: ys =>
    match x.1, y.1 with
    | .land _ a, .land _ b => if a.order ≤ b.order then x :: y :: ys else y :: byAge x ys
    | _, _ => y :: byAge x ys

/-- `TAKE`, by the crew at `cur`. -/
def execTake (s : State) : Out :=
  let r := s.cur.crew
  match s.crewOf r with
  | none => .next s
  | some cw =>
    if !cw.idle then .next s
    else
      let h := cw.cfg.handle
      let t := s.takeFrom r.die h (min (cw.cfg.poolN / 2) 64) [] (s.sources r.die h)
      let rs := t.2.foldr byAge []
      let ring := t.2.any fun x => match x.1 with | .ring _ => true | .land _ _ => false
      let s1 := if ring then t.1.updGridDie r.die h fun y => { y with takenAt := some (s.cyc r.die) } else t.1
      .next (s1.updCrew r fun cw => rs.foldl (fun (cw : Crew) x => cw.push (s.cyc r.die) x.2) cw)

/-! ## Steals: R141 to R143 and R460 -/

/-- A die is idle for a grid. -/
def State.dieIdle (s : State) (d : Nat) (h : Handle) : Bool :=
  let g := s.gridDie d h
  g.ring.isEmpty && g.landing.all List.isEmpty && !g.cancelled &&
    (s.dieOf d).cores.any fun c => c.2.crews.any fun w => w.2.cfg.handle == h && w.2.idle

/-- Begins a round of steal requests. -/
def State.stealBegin (s : State) (d : Nat) (h : Handle) : State :=
  s.stealNext d h ((s.ringOrder d).filter fun e => (s.placementIn (handleCtx h).toNat s.pkg).contains e)

/-- `STEAL_ROUND`. -/
def execStealRound (die : Nat) (g : Handle) (s : State) : Out :=
  if !s.dieIdle die g then .next s
  else match (s.gridDie die g).steal with
    | .idle => .next (s.stealBegin die g)
    | .pending rest => .next (s.stealNext die g rest)
    | _ => .next s

/-- `STEAL_ROUND_WAIT_EXPIRY`: 1024 cycles after a round of refusals. -/
def execStealRoundWaitExpiry (die : Nat) (g : Handle) (s : State) : Out :=
  match (s.gridDie die g).steal with
  | .resting since =>
    if s.cyc die < since + 1024 then .next s
    else if s.dieIdle die g then .next (s.stealBegin die g)
    else .next (s.updGridDie die g fun y => { y with steal := .idle })
  | _ => .next s

/-- The stealable records of a ring, oldest first, with their places; a record whose read faults is lost. -/
def State.stealable (s : State) (d : Nat) (h : Handle) : List RingRec → State × List (RingRec × List Byte)
  | [] => (s, [])
  | x :: xs =>
    match s.devRead (handleCtx h) attrR (x.page + 64 * x.slot) 64 with
    | .error _ => ((s.ringRemove d h x).recordsLost d h 1).stealable d h xs
    | .ok r =>
      let rest := s.stealable d h xs
      (rest.1, if recNoSteal r then rest.2 else (x, r) :: rest.2)

def satAdd16 (a : W16) (n : Nat) : W16 := BitVec.ofNat 16 (min (2 ^ 16 - 1) (a.toNat + n))

/-- `STEALREQ` at the victim. -/
def execStealreq (h : PktHdr) (g : Handle) (s : State) : Out :=
  let d := h.dstSock.toNat
  let x := s.stealable d g (s.gridDie d g).ring
  let k := min 32 ((x.2.length + 1) / 2)
  if k = 0 then .next (x.1.send (PktHdr.reply h) (.refuse g))
  else
    let recs := x.2.take k
    let s1 := recs.foldl (fun (s : State) r => s.ringRemove d g r.1) x.1
    let s2 := (s1.updGridDie d g fun y => { y with granted := y.granted ++ [(h.srcSock.toNat, k)] }).updDisp d fun y =>
      { y with stealOut := satAdd16 y.stealOut k }
    let s3 := s2.send (PktHdr.reply h) (.grant g (BitVec.ofNat 64 k))
    .next (((List.range k).zip recs).foldl (fun (s : State) r =>
      s.send (PktHdr.reply h) (.stealrec g (BitVec.ofNat 64 r.1) r.2.2)) s3)

/-- `GRANT` at the thief. -/
def execGrant (h : PktHdr) (g : Handle) (k : W64) (s : State) : Out :=
  let d := h.dstSock.toNat
  match (s.gridDie d g).steal with
  | .asking _ v =>
    if v = h.srcSock.toNat then .next (s.updGridDie d g fun y => { y with steal := .receiving v k.toNat [] }) else .next s
  | _ => .next s

/-- The whole grant has arrived: it joins the ring in the page reserved for it. -/
def State.grantArrived (s : State) (d : Nat) (h : Handle) (h0 : PktHdr) (recs : List (List Byte)) : State :=
  let k := recs.length
  let line := (s.dieOf d).disp.pageWait
  let s1 := (s.updDisp d fun x => { x with pageWait := [] }).updCtxDie d (handleCtx h).toNat
    fun c => { c with spillReserved := c.spillReserved - 1 }
  let s2 := s1.liveAdd d h k
  let s3 := recs.foldl (fun (s : State) r =>
    match s.ringAppend d h none r with | some x => x | none => s.returnWait d h r) s2
  let s4 := (s3.updDisp d fun x => { x with pageWait := line, stealIn := satAdd16 x.stealIn k }).updGridDie d h
    fun y => { y with steal := .idle }
  s4.send (PktHdr.reply h0) (.stealack h (BitVec.ofNat 64 k))

/-- `STEALREC` at the thief. -/
def execStealrec (h : PktHdr) (g : Handle) (pos : W64) (record : List Byte) (s : State) : Out :=
  let d := h.dstSock.toNat
  match (s.gridDie d g).steal with
  | .receiving v k got =>
    if v ≠ h.srcSock.toNat ∨ k ≤ pos.toNat ∨ (got.any fun x => x.1 == pos.toNat) then .next s
    else
      let all := got ++ [(pos.toNat, record)]
      if all.length < k then .next (s.updGridDie d g fun y => { y with steal := .receiving v k all })
      else .next (s.grantArrived d g h ((List.range k).filterMap fun i => (all.find? fun x => x.1 == i).map fun x => x.2))
  | _ => .next s

/-- `REFUSE` at the thief. -/
def execRefuse (h : PktHdr) (g : Handle) (s : State) : Out :=
  match (s.gridDie h.dstSock.toNat g).steal with
  | .asking _ v => if v = h.srcSock.toNat then .next (s.stealRefused h.dstSock.toNat g) else .next s
  | _ => .next s

/-- `STEALACK` at the victim. -/
def execStealack (h : PktHdr) (g : Handle) (k : W64) (s : State) : Out :=
  let d := h.dstSock.toNat
  let e := (h.srcSock.toNat, k.toNat)
  if !(s.gridDie d g).granted.contains e then .next s
  else .next ((s.liveSub d g k.toNat).updGridDie d g fun y => { y with granted := y.granted.erase e, change := true })

/-! ## Spill pages return: R460 -/

/-- The first that waits for a page of a context has it, if one is free; one that waits no more leaves the line. DEDUCED, log 61. -/
def State.servePage (s : State) (d : Nat) (h : Handle) (w : PageWait) : State :=
  match w with
  | .requeue core slot band lane =>
    let t : ThreadRef := { die := d, core := core, slot := slot, band := some band }
    match s.thread t with
    | some b => if b.requeue.getLsbD lane then s.requeueLane t lane else s.pageGot d h w
    | none => s.pageGot d h w
  | .returned r =>
    match s.ringAppend d h (some w) r with
    | some s1 => s1.pageGot d h w
    | none => s
  | .steal =>
    match (s.gridDie d h).steal with
    | .pending rest => if s.dieIdle d h then s.stealNext d h rest
                       else (s.pageGot d h w).updGridDie d h fun y => { y with steal := .idle }
    | _ => s.pageGot d h w
  | .thread core slot band pc =>
    match s.thread { die := d, core := core, slot := slot, band := band } with
    | some b => if b.running && b.x.pc == pc then s else s.pageGot d h w
    | none => s.pageGot d h w

/-- `SPILL_PAGE_RETURN` at a die, for the context that `unit` names. -/
def execSpillPageReturn (s : State) : Out :=
  let d := s.cur.die
  match s.waiters d (mkHandle 0 s.unit) with
  | [] => .next s
  | w :: _ => .next (s.servePage d w.1 w.2)

end Sys2Proof.Machine
end

