-- ==== Sys2Proof/Machine/Collect.lean ====
section
/-!
DEFINITION. Barriers, roster collectives and arrival counters: R393 to R401 and R212.
-/
namespace Sys2Proof.Machine

/-! ## Barriers: R393 to R396 -/

/-- A roster that does not exist, or that does not list the issuing crew. -/
def Crew.notMember (cw : Crew) (r : Nat) : Bool := !cw.cfg.rosters.contains r

/-- `BAR`: the band arrives at its next generation and waits for it. -/
def execBar (c : Code) (s : State) : Out :=
  runInstr 0xB8 c s fun e =>
    match s.crewOf e.t.crew with
    | none => .fault .noThread
    | some cw =>
      let kind := c.srca.bits.toNat % 4
      let roster := if kind = 2 then e.srcB 0 32 else 0
      if kind = 2 ∧ cw.notMember roster then .next (e.raise 7 (BitVec.ofNat 64 (7 * 2 ^ 60)) e.lanes s)
      else if !e.b.committed then waits s
      else
        let gen := e.b.gen kind roster
        let w : BarWait := { kind := kind, roster := roster, gen := gen, pc := e.b.x.pc, sp := c.annex.isSome }
        let s1 := e.done e.next { e.b with gens := e.b.gens.set (256 * kind + roster) (gen + 1) } s
        let s2 := s1.updThread e.t fun b => { b with x := { b.x with phase := .barrier w } }
        let s3 := if 2 ≤ kind then s2.barArrive e.t.die cw.cfg.handle kind roster gen else s2
        .next (s3.barPoll e.t)

/-- The die and package that run a crew of a grid, where this package knows them. -/
def State.placeOf (s : State) (g : Grid) (lin : Nat) : Option (Nat × Nat) :=
  match g.own.ranges.find? fun r => decide (r.first ≤ lin) && decide (lin < r.first + r.count) with
  | some r => some (r.pkg, r.die)
  | none => ((List.range 8).find? fun d => (s.gridDie d g.handle).ranges.any fun r =>
      decide (r.1 ≤ lin) && decide (lin < r.1 + r.2.1)).map fun d => (s.pkg, d)

/-- A range that holds a crew has reached its die. -/
def State.rangeAt (s : State) (d : Nat) (h : Handle) (lin : Nat) : Bool :=
  (s.gridDie d h).ranges.any fun r => decide (r.1 ≤ lin) && decide (lin < r.1 + r.2.1)

/-- A generation of a roster or package barrier is complete, as its leader sees it. An owner whose package takes no part in the
grid has no roster table to read, R109. DESIGN CHOICE, log 88. -/
def State.barComplete (s : State) (g : Grid) (kind roster gen : Nat) : Bool :=
  let h := g.handle
  if kind = 3 then
    (s.placementIn (handleCtx h).toNat s.pkg).all fun d =>
      (s.gridDie d h).exhausted && s.dieArrived d h 3 0 gen fun _ => true
  else if !(g.launch.pkgs g.srcPkg).contains s.pkg then Config.freeBit s.free
  else
    (g.rosters.getD roster []).all fun lin =>
      match s.placeOf g lin with
      | none => false
      | some (p, d) =>
        if p = s.pkg then s.rangeAt d h lin && s.dieArrived d h kind roster gen fun x => x == lin
        else s.barReached h (kind + 2 ^ 16 + 16 * (8 * p + d)) roster gen

/-- Dies that hear of a barrier's completion. -/
def State.barPlaces (s : State) (g : Grid) (kind : Nat) : List (Nat × Nat) :=
  if kind = 3 then (s.placementIn (handleCtx g.handle).toNat s.pkg).map fun d => (s.pkg, d) else s.gridPlaces g

/-- `BARRIER`: an arrival or a break, where it is counted; a completion or a break, at a die; at the owner, from another package,
that a band has met the break, by which the grid completes FAILED. DEDUCED, log 71. DEDUCED, log 56. -/
def execBarrier (h : PktHdr) (b : BarrierB) (s : State) : Out :=
  let g := b.handle
  let kind := b.kind.toNat
  let roster := b.roster.toNat
  let gen := b.gen.toNat
  let d := h.dstSock.toNat
  if b.completion then
    .next (if b.broken then
        let s1 := s.breakAll g [(kind, roster, gen)]
        if h.srcPkg.toNat ≠ s.pkg ∧ (s.ownerAt g).1 = s.pkg then s1.updOwner g fun o => { o with failed := true } else s1
      else s.setBarDone g (kind + 16 * (d + 1)) roster gen)
  else match s.gridOf g with
    | none => .next s
    | some x =>
      let tell := fun (s : State) (tgt : List (Nat × Nat)) (broken : Bool) => tgt.foldl
        (fun (s : State) p => s.barSend (s.leaderOf s.pkg) g p kind roster gen true broken) s
      if b.broken then
        .next (tell (s.breakAll g [(kind, roster, gen)]) ((s.barPlaces x kind).filter fun p => p.1 != s.pkg) true)
      else
        let s1 := if h.srcPkg.toNat = s.pkg then s
          else s.setBarDone g (kind + 2 ^ 16 + 16 * (8 * h.srcPkg.toNat + h.srcSock.toNat)) roster gen
        if s1.barReached g kind roster gen || !s1.barComplete x kind roster gen then .next s1
        else .next (tell (s1.setBarDone g kind roster gen) (s1.barPlaces x kind) false)

/-! ## Arrival counters: R212, R400 and R401 -/

def Env.ctrSpace (e : Env) : Space := if e.c.mods.getLsbD 0 then .clus else .core

/-- The counters that the acting lanes name. -/
def Env.counters (e : Env) : List Touch := e.ls.map fun l => ⟨l, (e.srcA l 32 : Nat), 8⟩

/-- `ARRIVE`. -/
def execArrive (c : Code) (s : State) : Out :=
  runInstr 0xB9 c s fun e0 =>
    match s.crewOf e0.t.crew with
    | none => .fault .noThread
    | some cw =>
      if e0.b.memHeld || !e0.b.committed then waits s
      else
        let e := e0.ownRegion e0.front
        let ts := e.counters
        let m : MemOp := { MemOp.base .atomic 4 c with acquire := false, release := false, operands := e.ls.map fun l => (l, BitVec.ofNat 128 (e.srcB l 32)) }
        if ts.isEmpty then e.committedEnd e.b s
        else e.access s cw e.ctrSpace 8 .atomic attrR ts
          (e.scratchAccess cw e.ctrSpace m true (ts.map fun t => { t with addr := t.addr + 4, len := 4 }) s)

/-- `AWAIT`. -/
def execAwait (c : Code) (s : State) : Out :=
  runInstr 0xBA c s fun e0 =>
    match s.crewOf e0.t.crew with
    | none => .fault .noThread
    | some cw =>
      if e0.b.memHeld then waits s
      else
        let e := e0.ownRegion e0.front
        let ts := e.counters
        if ts.isEmpty then e.finish e.next e.b s
        else e.access s cw e.ctrSpace 8 .load attrR ts
          (e.initCheck s cw e.ctrSpace ts fun s =>
            let w : Waiter := { id := e.id, flag := e.flag, pc := e.b.x.pc,
                                kind := .await (e.ctrSpace == .clus) (ts.map fun t => (t.lane, t.addr.toNat)) }
            let b1 := (e.advance e.next e.b).flagUp e.flag
            .next ((e.commit { b1 with waits := b1.waits ++ [w] } s).poll e.t))

/-! ## Roster collectives: R397 to R399 -/

/-- What a command word of Table 15.9 says. -/
structure CollCmd where
  roster : Nat
  root : Nat
  len : Nat
  doff : Nat
  rtype : Nat
  op : Nat
deriving DecidableEq, Repr

def CollCmd.of (rred : Bool) (w : Nat) : CollCmd :=
  if rred then
    { roster := field w 56 8, root := 0, len := 16 * field w 44 12, doff := 16 * field w 29 15, rtype := field w 24 5,
      op := field w 21 3 }
  else
    { roster := field w 56 8, root := field w 40 16, len := 16 * field w 28 12, doff := 16 * field w 13 15, rtype := 0, op := 0 }

/-- The parts of a contribution: 208 bytes each, the last of them shorter, so that it tells the end. -/
def collParts : Nat → List Byte → List (List Byte)
  | 0, _ => []
  | n + 1, bs => if bs.length < 208 then [bs] else bs.take 208 :: collParts n (bs.drop 208)

/-- The tag by which a collective's packets name their grid within its context, and the status bits of a result. -/
def collTag (h : Handle) (st : BitVec 6) : Nat := h.toNat / 256 % 2 ^ 14 + 2 ^ 14 * st.toNat

/-- The grid that a collective's packet names. -/
def State.collGrid (s : State) (h : PktHdr) : Option Grid :=
  List.find? (fun (g : Grid) => handleCtx g.handle == h.ctx && g.handle.toNat / 256 % 2 ^ 14 == h.tag.toNat % 2 ^ 14 &&
    !g.own.isEnded) (s.disp.grids.map fun g => g.2)

/-- Sends the parts of a crew's contribution or result. -/
def State.collSend (s : State) (d : Nat) (h : Handle) (tgt : Nat × Nat) (st : BitVec 6) (rred : Bool) (roster gen lin : Nat)
    (result : Bool) (bs : List Byte) : State :=
  let ps := collParts (bs.length / 208 + 1) bs
  ((List.range ps.length).zip ps).foldl (fun (s : State) p =>
    let b : CollB := { roster := BitVec.ofNat 8 roster, gen := BitVec.ofNat 32 gen, rred := rred, part := BitVec.ofNat 15 p.1,
                       lin := BitVec.ofNat 64 lin, bytes := p.2 }
    s.sendTo (handleCtx h) (collTag h st) d tgt (if result then .collres b else .coll b)) s

/-- Where a contribution goes: to the die of the roster's first crew, or to the grid's owner, which sends it on. -/
def State.collHome (s : State) (g : Grid) (roster : Nat) : Nat × Nat :=
  match (g.rosters.getD roster []).head? with
  | some lin => (s.placeOf g lin).getD (s.ownerAt g.handle)
  | none => s.ownerAt g.handle

/-- A roster collective, R397. -/
def collective (opc : Nat) (rred : Bool) (c : Code) (s : State) : Out :=
  runInstr opc c s fun e =>
    match s.crewOf e.t.crew with
    | none => .fault .noThread
    | some cw =>
      match s.gridOf cw.cfg.handle with
      | none => .fault .noThread
      | some g =>
        let k := CollCmd.of rred c.payload.toNat
        let members := g.rosters.getD k.roster []
        let src := e.srcA 0 32
        let size := cw.cfg.scrKB * 1024
        if e.lanes = 0 then e.finish e.next e.b s
        else if e.b.memHeld then waits s
        else if cw.notMember k.roster then .next (e.raise 7 (BitVec.ofNat 64 (7 * 2 ^ 60)) e.lanes s)
        else if members.length ≤ k.root ∨ size < k.doff + k.len then .next (e.raise 2 14 e.lanes s)
        else if size < src + k.len ∨ src % 16 ≠ 0 then .next (e.raise 7 (BitVec.ofNat 64 (2 * 2 ^ 60 + src)) e.lanes s)
        else
          let l := lowestLane e.lanes
          let go := fun (s : State) =>
            let n := 2 * k.roster + if rred then 1 else 0
            let gen := cw.ctl.collGens.get 0 n
            let bytes := s.getScr e.t.crew cw .core 0 src k.len
            let mine : CollIssue := { handle := g.handle, lin := cw.cfg.lin, rred := rred, roster := k.roster, gen := gen,
                                      cmd := c.payload, src := src, bytes := bytes, thread := e.t, waitId := e.id, got := [] }
            let differs := s.colls.any fun x =>
              x.handle == g.handle && x.rred == rred && x.roster == k.roster && x.gen == gen && x.cmd != c.payload
            let b1 := (e.advance e.next e.b).flagUp e.flag
            let w : Waiter := { id := e.id, flag := e.flag, pc := e.b.x.pc, kind := .coll }
            let s1 := e.commit { b1 with waits := b1.waits ++ [w] } s
            let s2 := s1.updCrew e.t.crew fun x => { x with ctl := { x.ctl with collGens := x.ctl.collGens.set n (gen + 1) } }
            let s3 := { s2 with colls := s2.colls ++ [mine] }
            let s4 := if differs then s3.breakAll g.handle [(if rred then 5 else 4, k.roster, gen)] else s3
            let give := if rred || members.getD k.root 0 == cw.cfg.lin then bytes else []
            .next (s4.collSend e.t.die g.handle (s4.collHome g k.roster) 0 rred k.roster gen cw.cfg.lin false give)
          if rred || members.getD k.root 0 == cw.cfg.lin then
            e.initCheck s cw .core [⟨l, (src : Nat), k.len⟩] go
          else go s

def execRmcast (c : Code) (s : State) : Out := collective 0xBB false c s
def execRred (c : Code) (s : State) : Out := collective 0xBC true c s

/-- A part belongs to one generation of a collective. -/
def CollPart.of (p : CollPart) (h : Handle) (rred : Bool) (roster gen : Nat) : Bool :=
  p.handle == h && p.rred == rred && p.roster == roster && p.gen == gen

/-- The bytes of a crew's contribution, once its last part is there. -/
def collBytes (ps : List CollPart) (lin : Nat) : Option (List Byte) :=
  let mine := ps.filter fun p => p.lin == lin && decide (p.part < 2 ^ 15)
  match mine.find? fun p => decide (p.bytes.length < 208) with
  | none => none
  | some last =>
    let all := (List.range (last.part + 1)).map fun i => mine.find? fun p => p.part == i
    if all.all Option.isSome then some (all.filterMap id |>.flatMap fun p => p.bytes) else none

/-- One element of a reduction, R399: bits and status. -/
def redElem (op rtype : Nat) (a b : Nat) : Nat × BitVec 6 :=
  if 0xC ≤ rtype then
    let w := if rtype = 0xC then 4 else if rtype = 0xD then 8 else 16
    atomResult 8 w false a b 0
  else atomResult op (intBits rtype / 8) (intSigned rtype) a b 0

def redSize (rtype : Nat) : Nat := if rtype = 0xC then 4 else if rtype = 0xD then 8 else if rtype = 0xE then 16 else intBits rtype / 8

/-- The first contribution: an ill-formed interval is read as Empty. -/
def redFirst (k : CollCmd) (bs : List Byte) : List Byte × BitVec 6 :=
  if 0xC ≤ k.rtype then
    let n := redSize k.rtype
    let f := viewFmt k.rtype
    let es := (List.range (k.len / n)).map fun i => f.readPair (leNat ((bs.drop (n * i)).take n))
    (es.flatMap fun e => leBytes n (f.pair e.1), es.foldl (fun st e => st ||| stIf e.2 stIll) 0)
  else (bs, 0)

/-- Combines a further contribution into the result so far. -/
def redStep (k : CollCmd) (x : List Byte × BitVec 6) (bs : List Byte) : List Byte × BitVec 6 :=
  let n := redSize k.rtype
  let es := (List.range (k.len / n)).map fun i =>
    redElem k.op k.rtype (leNat ((x.1.drop (n * i)).take n)) (leNat ((bs.drop (n * i)).take n))
  (es.flatMap fun e => leBytes n (e.1 % 2 ^ (8 * n)), es.foldl (fun st e => st ||| e.2) x.2)

/-- Sends a result to one member. -/
def State.collAnswer (s : State) (d : Nat) (g : Grid) (st : BitVec 6) (rred : Bool) (roster gen lin : Nat) (bs : List Byte) : State :=
  match s.placeOf g lin with
  | some tgt => s.collSend d g.handle tgt st rred roster gen lin true bs
  | none => s.collSend d g.handle (s.ownerAt g.handle) st rred roster gen lin true bs

/-- Answers what can be answered of a generation at the collecting die. -/
def State.collCheck (s : State) (d : Nat) (g : Grid) (rred : Bool) (roster gen : Nat) : State :=
  let members := g.rosters.getD roster []
  let ps := (s.dieOf d).colls.filter fun p => p.of g.handle rred roster gen
  let forget := fun (s : State) => s.updDie d fun x => { x with colls := x.colls.filter fun p => !p.of g.handle rred roster gen }
  let given := members.map fun m => (m, collBytes ps m)
  if s.barBroken g.handle (if rred then 5 else 4) roster gen then forget s
  else if rred then
    match s.colls.find? fun c => c.handle == g.handle && c.rred && c.roster == roster && c.gen == gen with
    | none => s
    | some i =>
      if !given.all fun x => x.2.isSome then s
      else
        let k := CollCmd.of true i.cmd.toNat
        match given.filterMap fun x => x.2 with
        | [] => s
        | b :: bs =>
          let r := bs.foldl (redStep k) (redFirst k b)
          members.foldl (fun (s : State) m => s.collAnswer d g r.2 true roster gen m r.1) (forget s)
  else
    match given.find? fun x => match x.2 with | some (_ :: _) => true | _ => false with
    | none => s
    | some root =>
      let told := fun (m : Nat) => ps.any fun p => p.lin == m && p.part == 2 ^ 15
      let due := (given.filter fun x => x.2.isSome && !told x.1).map fun x => x.1
      let s1 := due.foldl (fun (s : State) m =>
        (s.collAnswer d g 0 false roster gen m (root.2.getD [])).updDie d fun x => { x with colls := x.colls ++
          [{ handle := g.handle, rred := false, roster := roster, gen := gen, lin := m, part := 2 ^ 15, bytes := [] }] }) s
      if members.all fun m => told m || due.contains m then forget s1 else s1

/-- `COLL`: at the collecting die a part is kept; elsewhere it is sent on. DEDUCED, log 71. -/
def execColl (h : PktHdr) (b : CollB) (s : State) : Out :=
  match s.collGrid h with
  | none => .next s
  | some g =>
    let d := h.dstSock.toNat
    let tgt := s.collHome g b.roster.toNat
    if tgt ≠ (s.pkg, d) ∨ ((g.rosters.getD b.roster.toNat []).head?.map fun lin => (s.placeOf g lin).isNone) = some true then
      .next (s.send { h with dstPkg := BitVec.ofNat 8 tgt.1, dstSock := BitVec.ofNat 5 tgt.2 } (.coll b))
    else
      let p : CollPart := { handle := g.handle, rred := b.rred, roster := b.roster.toNat, gen := b.gen.toNat, lin := b.lin.toNat,
                            part := b.part.toNat, bytes := b.bytes }
      if (s.dieOf d).colls.contains p then .next s
      else .next ((s.updDie d fun x => { x with colls := x.colls ++ [p] }).collCheck d g b.rred b.roster.toNat b.gen.toNat)

/-- Bytes of a saved crew's `core` space, and the bytes of its valid bits, as its block holds them. -/
def SavedCrew.scratchFields (x : SavedCrew) (off n : Nat) : Fields :=
  let at_ := x.crew.cfg.sectionAt 6
  let valid := fun (i : Nat) => BitVec.ofNat 8 (maskNat 8 fun j => x.valid.get false (8 * i + j))
  (at_ + off, (List.range n).map fun i => x.scr.get 0 (off + i)) ::
    (List.range ((off + n + 31) / 32 - off / 32)).map fun i => (at_ + x.crew.cfg.scrKB * 1024 + off / 32 + i, [valid (off / 32 + i)])

/-- Bytes of a crew's own `core` space are written, be the crew resident or saved. -/
def State.putOwn (s : State) (d : Nat) (h : Handle) (lin off : Nat) (bs : List Byte) : State :=
  let here := (s.dieOf d).cores.flatMap fun c => (c.2.crews.filter fun w => w.2.cfg.handle == h && w.2.cfg.lin == lin).map
    fun w => ((⟨d, c.1, w.1⟩ : CrewRef), w.2)
  match here with
  | (r, cw) :: _ => s.putScr r cw .core 0 off bs
  | [] =>
    let isIt := fun (x : SavedCrew) => x.handle == h && x.crew.cfg.lin == lin
    let put := fun (x : SavedCrew) =>
      if isIt x then
        { x with scr := ((List.range bs.length).zip bs).foldl (fun (t : Tbl Byte) y => t.set (off + y.1) y.2) x.scr,
                 valid := (List.range ((bs.length + 3) / 4)).foldl (fun (t : Tbl Bool) i => t.set (off / 4 + i) true) x.valid }
      else x
    ((s.dieOf d).savedCrews.filter isIt).foldl (fun (s : State) x => s.putFields x ((put x).scratchFields off bs.length))
      (s.updDie d fun x => { x with savedCrews := x.savedCrews.map put })

/-- `COLLRES` at a member's die: once every part is there, the result is written and the flag clears. -/
def execCollres (h : PktHdr) (b : CollB) (s : State) : Out :=
  match s.collGrid h with
  | none => .next s
  | some g =>
    let isIt := fun (c : CollIssue) => c.handle == g.handle && c.rred == b.rred && c.roster == b.roster.toNat &&
      c.gen == b.gen.toNat && c.lin == b.lin.toNat
    match s.colls.find? isIt with
    | none => .next s
    | some i =>
      let k := CollCmd.of b.rred i.cmd.toNat
      let got := i.got.set b.part.toNat b.bytes
      let all := (got.map fun x => x.2).flatten
      if all.length < k.len then
        .next { s with colls := s.colls.map fun c => if isIt c then { c with got := got } else c }
      else
        let st : BitVec 6 := BitVec.ofNat 6 (h.tag.toNat / 2 ^ 14)
        let s1 := s.putOwn h.dstSock.toNat g.handle i.lin k.doff (all.take k.len)
        let s2 := { s1 with colls := s1.colls.filter fun c => !isIt c }
        .next (s2.updWaiting i.thread i.waitId fun b =>
          (b.addStatus (s.cyc i.thread.die) st).dropWait i.waitId)

end Sys2Proof.Machine
end

