-- ==== Sys2Proof/Machine/Integer.lean ====
section
/-!
DEFINITION. Integer arithmetic, logic, bits, compares and moves: R311 to R326, opcodes 0x00 to 0x22.
-/
namespace Sys2Proof.Machine

/-! ## The operations on values -/

/-- x / 2^sh to an integer, ties to even or toward zero, R316. -/
def roundShift (x : Int) (sh : Nat) (rne : Bool) : Int :=
  let d : Int := 2 ^ sh
  let q := x / d
  let r := x % d
  if rne then (if d < 2 * r ∨ (2 * r = d ∧ q % 2 = 1) then q + 1 else q)
  else if x < 0 ∧ r ≠ 0 then q + 1 else q

def iabsOp (t : ITy) (a : Int) : Int := t.wrap (if a < 0 then -a else a)

/-- The shift amount: the low 7 bits of source B, R317. -/
def shiftAmt (t : ITy) (b : Int) : Nat := t.bitsOf b % 128
def ishlOp (t : ITy) (a b : Int) : Int := if t.bits ≤ shiftAmt t b then 0 else t.wrap (a * 2 ^ shiftAmt t b)
def ishrOp (t : ITy) (a b : Int) : Int :=
  if t.bits ≤ shiftAmt t b then 0 else t.wrap (t.bitsOf a / 2 ^ shiftAmt t b : Nat)
def ishraOp (t : ITy) (a b : Int) : Int :=
  let x := ({ t with signed := true } : ITy).read (t.bitsOf a)
  t.wrap (if t.bits ≤ shiftAmt t b then (if x < 0 then -1 else 0) else x / 2 ^ shiftAmt t b)

def bitsAnd (t : ITy) (a b : Int) : Int := t.wrap (t.bitsOf a &&& t.bitsOf b : Nat)
def bitsOr (t : ITy) (a b : Int) : Int := t.wrap (t.bitsOf a ||| t.bitsOf b : Nat)
def bitsXor (t : ITy) (a b : Int) : Int := t.wrap (t.bitsOf a ^^^ t.bitsOf b : Nat)
def bitsNot (t : ITy) (a : Int) : Int := t.wrap (2 ^ t.bits - 1 - t.bitsOf a)
def bitsAndn (t : ITy) (a b : Int) : Int := bitsAnd t a (bitsNot t b)
def bselOp (t : ITy) (a b c : Int) : Int := bitsOr t (bitsAnd t a c) (bitsAndn t b c)

def popcNat : Nat → Nat → Nat
  | 0, _ => 0
  | n + 1, x => x % 2 + popcNat n (x / 2)
def clzNat (w x : Nat) : Nat := if x = 0 then w else w - 1 - Nat.log2 x
def ctzNat : Nat → Nat → Nat
  | 0, _ => 0
  | n + 1, x => if x % 2 = 1 then 0 else 1 + ctzNat n (x / 2)
def brevNat : Nat → Nat → Nat
  | 0, _ => 0
  | n + 1, x => x % 2 * 2 ^ n + brevNat n (x / 2)

def bfxOp (t : ITy) (a b : Int) : Int :=
  let pos := t.bitsOf b % 256
  let len := t.bitsOf b / 256 % 256
  if len = 0 ∨ t.bits ≤ pos then 0
  else
    let n := min len (t.bits - pos)
    let f := t.bitsOf a / 2 ^ pos % 2 ^ n
    t.wrap (if t.signed ∧ 2 ^ (n - 1) ≤ f then (f : Int) - 2 ^ n else f)

def bfiOp (t : ITy) (a b c : Int) : Int :=
  let pos := t.bitsOf b % 256
  let len := t.bitsOf b / 256 % 256
  let n := if t.bits ≤ pos then 0 else min len (t.bits - pos)
  let m := (2 ^ n - 1) * 2 ^ pos
  let c' := t.bitsOf c
  t.wrap (c' - (c' &&& m) + (t.bitsOf a * 2 ^ pos &&& m) : Nat)

/-! ## Running them -/

/-- Fixed latency of an integer instruction, with the cycles of modifiers, Table 7.2 and R299. -/
def Env.intLat (e : Env) : Nat := 2 + e.modCycles

/-- Per-lane integer values as a result in a type. -/
def Env.intPend (e : Env) (t : ITy) (vals : List (Nat × Int)) : Pend :=
  let words := if t.bits = 64 then 2 else 1
  let raw := vals.map fun x => (x.1, t.reg x.2)
  e.fixed e.intLat (e.laneWrites words raw) (e.latchW words raw) 0

/-- An integer instruction: sources A, B and C read in the type of `TYPE`, the result written in the same type. -/
def aluInstr (opc : Nat) (c : Code) (s : State) (f : ITy → Int → Int → Int → Int) : Out :=
  runInstr opc c s fun e =>
    let t := ITy.of c.type.toNat
    e.result (e.intPend t (e.ls.map fun l =>
      (l, f t (t.read (e.srcA l t.bits)) (t.read (e.srcB l t.bits)) (t.read (e.srcC l t.bits))))) s

/-- `NOP`, R305: it acts in no lane; a flag that it sets clears one cycle after issue. -/
def execNop (c : Code) (s : State) : Out := runInstr 0x00 c s fun e => e.finish e.next e.b s
def execIadd (c : Code) (s : State) : Out := aluInstr 0x01 c s fun t a b _ => t.wrap (a + b)
def execIsub (c : Code) (s : State) : Out := aluInstr 0x02 c s fun t a b _ => t.wrap (a - b)
def execIadds (c : Code) (s : State) : Out := aluInstr 0x03 c s fun t a b _ => t.sat (a + b)
def execIsubs (c : Code) (s : State) : Out := aluInstr 0x04 c s fun t a b _ => t.sat (a - b)
def execImul (c : Code) (s : State) : Out := aluInstr 0x05 c s fun t a b _ => t.wrap (a * b)
def execImulh (c : Code) (s : State) : Out := aluInstr 0x06 c s fun t a b _ => t.wrap (a * b / 2 ^ t.bits)
def execImad (c : Code) (s : State) : Out := aluInstr 0x07 c s fun t a b d => t.wrap (a * b + d)
def execImulq (c : Code) (s : State) : Out :=
  aluInstr 0x08 c s fun t a b _ => t.sat (roundShift (a * b) (c.mods.toNat % 64) (c.rmode == 1))
def execIabs (c : Code) (s : State) : Out := aluInstr 0x09 c s fun t a _ _ => iabsOp t a
def execImin (c : Code) (s : State) : Out := aluInstr 0x0A c s fun _ a b _ => if a ≤ b then a else b
def execImax (c : Code) (s : State) : Out := aluInstr 0x0B c s fun _ a b _ => if a ≤ b then b else a
def execIneg (c : Code) (s : State) : Out := aluInstr 0x0C c s fun t a _ _ => t.wrap (-a)
def execIshl (c : Code) (s : State) : Out := aluInstr 0x0D c s fun t a b _ => ishlOp t a b
def execIshr (c : Code) (s : State) : Out := aluInstr 0x0E c s fun t a b _ => ishrOp t a b
def execIshra (c : Code) (s : State) : Out := aluInstr 0x0F c s fun t a b _ => ishraOp t a b
def execAndb (c : Code) (s : State) : Out := aluInstr 0x10 c s fun t a b _ => bitsAnd t a b
def execOrb (c : Code) (s : State) : Out := aluInstr 0x11 c s fun t a b _ => bitsOr t a b
def execXorb (c : Code) (s : State) : Out := aluInstr 0x12 c s fun t a b _ => bitsXor t a b
def execNotb (c : Code) (s : State) : Out := aluInstr 0x13 c s fun t a _ _ => bitsNot t a
def execAndn (c : Code) (s : State) : Out := aluInstr 0x14 c s fun t a b _ => bitsAndn t a b
def execBsel (c : Code) (s : State) : Out := aluInstr 0x15 c s fun t a b d => bselOp t a b d
def execPopc (c : Code) (s : State) : Out := aluInstr 0x16 c s fun t a _ _ => t.wrap (popcNat t.bits (t.bitsOf a))
def execClz (c : Code) (s : State) : Out := aluInstr 0x17 c s fun t a _ _ => t.wrap (clzNat t.bits (t.bitsOf a))
def execCtz (c : Code) (s : State) : Out := aluInstr 0x18 c s fun t a _ _ => t.wrap (ctzNat t.bits (t.bitsOf a))
def execBrev (c : Code) (s : State) : Out := aluInstr 0x19 c s fun t a _ _ => t.wrap (brevNat t.bits (t.bitsOf a))
def execBfx (c : Code) (s : State) : Out := aluInstr 0x1A c s fun t a b _ => bfxOp t a b
def execBfi (c : Code) (s : State) : Out := aluInstr 0x1B c s fun t a b d => bfiOp t a b d

/-- `ISETP`, R321: T or F into the predicate in each acting lane. -/
def execIsetp (c : Code) (s : State) : Out :=
  runInstr 0x1C c s fun e =>
    let t := ITy.of c.type.toNat
    e.result (e.fixed e.intLat (Env.predWrites c.dst (e.ls.map fun l =>
      (l, triOfBool (intRel c.mods.toNat (t.read (e.srcA l t.bits)) (t.read (e.srcB l t.bits)))))) none 0) s

/-- `MOVI`, R323: bits [31:0] of `IMM64`. -/
def execMovi (c : Code) (s : State) : Out :=
  runInstr 0x1E c s fun e =>
    e.result (e.intPend { bits := 32, signed := false } (e.ls.map fun l => (l, ((c.payload.toNat % 2 ^ 32 : Nat) : Int)))) s

/-- `SEL`, R322. -/
def execSel (c : Code) (s : State) : Out :=
  runInstr 0x1F c s fun e =>
    let t := ITy.of c.type.toNat
    e.result (e.intPend t (e.ls.map fun l =>
      let takeA := match e.pred 3 c.srcc l with | .t => true | .f => false | .u => c.mods.toNat % 2 == 1
      (l, if takeA then t.read (e.srcA l t.bits) else t.read (e.srcB l t.bits)))) s

/-- `CVTI`, R324. -/
def execCvti (c : Code) (s : State) : Out :=
  runInstr 0x20 c s fun e =>
    let t := ITy.of c.type.toNat
    let d := ITy.of (c.mods.toNat % 8)
    e.result (e.intPend d (e.ls.map fun l =>
      let a := t.read (e.srcA l t.bits)
      (l, if c.mods.toNat / 8 % 2 = 1 then d.sat a else d.wrap a))) s

/-- `LEA`, R325. -/
def execLea (c : Code) (s : State) : Out := aluInstr 0x21 c s fun t a b _ => t.wrap (a + b * 2 ^ (c.mods.toNat % 8))

/-- `SETIX`, R326: decoding sees the new index from the second cycle on. -/
def execSetix (c : Code) (s : State) : Out :=
  runInstr 0x22 c s fun e =>
    let v := (e.srcA 0 8 + e.srcB 0 8) % 256
    let k := match c.dst with | .slot n => n.toNat % 2 | _ => 0
    e.result (e.fixed 2 [(ixKey k, BitVec.ofNat 64 v)] none 0) s

end Sys2Proof.Machine
end

