-- ==== Sys2Proof/Machine/Control.lean ====
section
/-!
DEFINITION. Branches, structured divergence, regions, merging, predicates, cross-lane and uniform instructions, the
decision queue: R327 to R348, opcodes 0x40 to 0x75.
-/
namespace Sys2Proof.Machine

/-! ## Branches and calls: R329 and R330 -/

/-- The `OFF32` target. -/
def Env.target (e : Env) : PCW := e.b.x.pc + BitVec.ofInt 48 (4 * (BitVec.ofNat 32 e.c.payload.toNat).toInt)

/-- A band's branch is taken when its guard holds in every active lane; a front context's always. -/
def Env.taken (e : Env) : Bool := e.front || e.lanes == e.b.exec

/-- The address in source A of an indirect branch. -/
def Env.indirect (e : Env) : PCW := BitVec.ofNat 48 (e.srcA 0 64 &&& 0x0000FFFFFFFFFFFC)

def execBra (c : Code) (s : State) : Out :=
  runInstr 0x40 c s fun e => e.finish (if e.taken then e.target else e.next) e.b s
def execBrx (c : Code) (s : State) : Out :=
  runInstr 0x41 c s fun e => e.finish (if e.taken then e.indirect else e.next) e.b s

/-- `CALL` writes the next address with variable latency, since Table 7.2 does not list it. -/
def execCall (c : Code) (s : State) : Out :=
  runInstr 0x42 c s fun e =>
    if e.taken then
      .next (e.commit ((e.advance e.target e.b).pend (e.varied (e.uniWrites e.next.toNat) none 0)) s)
    else e.finish e.next e.b s

def execRet (c : Code) (s : State) : Out := runInstr 0x43 c s fun e => e.finish e.indirect e.b s

/-- `EXIT`, R331: the end of a task or of the band waits for the commit. -/
def execExit (c : Code) (s : State) : Out :=
  runInstr 0x44 c s fun e =>
    let ends := (e.b.exitLanes e.lanes).alive.isEmpty || (e.b.tasks &&& e.lanes) != 0
    if ends && !e.b.committed then .next s
    else .next ((e.done e.next e.b s).exitLanes e.t e.lanes)

/-! ## Structured divergence: Table 7.3, R179, R181, R332 to R334 -/

/-- The counters after a change, with the lanes whose counter would pass 255, which keep theirs, R181. -/
def Env.recount (e : Env) (f : Nat → Nat → Nat) : Band × BitVec 64 :=
  let may := fun l => (e.b.only.getD (BitVec.allOnes 64)).getLsbD l
  let new := fun l => if may l then f l (e.b.count l) else e.b.count l
  (e.b.setCounts fun l => if 255 < new l then e.b.count l else new l,
   maskOf 64 fun l => e.b.alive.contains l && decide (255 < new l))

/-- Some lane that has not exited has a counter from 0 to d. -/
def Band.anyUpTo (b : Band) (d : Nat) : Bool := b.alive.any fun l => decide (b.count l ≤ d)

/-- A divergence instruction: the counter of each lane after it, and where it branches when no lane is then at 0. -/
def diverge (opc : Nat) (c : Code) (s : State) (branch : Bool) (f : Env → Nat → Nat → Nat) : Out :=
  runInstr opc c s fun e =>
    let r := e.recount (f e)
    if r.2 ≠ 0 then .next ({ e with b := r.1 }.raise 5 0 r.2 s)
    else e.finish (if branch && !r.1.anyUpTo 0 then e.target else e.next) r.1 s

def execIfb (c : Code) (s : State) : Out :=
  diverge 0x45 c s true fun e l n => if 0 < n then n + 1 else if e.lanes.getLsbD l then 0 else 1
def execElseb (c : Code) (s : State) : Out :=
  diverge 0x46 c s true fun _ _ n => if n = 0 then 1 else if n = 1 then 0 else n
def execEndif (c : Code) (s : State) : Out := diverge 0x47 c s false fun _ _ n => n - 1
def execIf3 (c : Code) (s : State) : Out :=
  diverge 0x48 c s true fun e l n =>
    if 0 < n then n + 3 else match e.pred 1 c.srca l with | .t => 0 | .f => 1 | .u => 2
def execElsef (c : Code) (s : State) : Out :=
  diverge 0x49 c s true fun _ _ n => if n = 0 then 3 else if n = 1 then 0 else if n = 2 then 1 else n
def execElseu (c : Code) (s : State) : Out :=
  diverge 0x4A c s true fun _ _ n => if n = 0 then 3 else if n = 1 then 0 else n
def execEndif3 (c : Code) (s : State) : Out := diverge 0x4B c s false fun _ _ n => n - 3
def execLoopb (c : Code) (s : State) : Out := diverge 0x4C c s true fun _ _ n => if 0 < n then n + 2 else 0

/-- `BRK` and `CONT`, R333: the branch is taken when no lane is left at a counter from 0 to d, and lowers those above by d. -/
def leaveLoop (opc step : Nat) (c : Code) (s : State) : Out :=
  runInstr opc c s fun e =>
    let d := c.srca.bits.toNat % 256
    let r := e.recount fun l n => if e.lanes.getLsbD l then step + d else n
    if r.2 ≠ 0 then .next ({ e with b := r.1 }.raise 5 0 r.2 s)
    else if r.1.anyUpTo d then e.finish e.next r.1 s
    else e.finish e.target (r.1.setCounts fun l => r.1.count l - d) s

def execBrk (c : Code) (s : State) : Out := leaveLoop 0x4D 2 c s
def execCont (c : Code) (s : State) : Out := leaveLoop 0x4E 1 c s

/-- `ENDLOOP`, R334: it decides after its change. -/
def execEndloop (c : Code) (s : State) : Out :=
  runInstr 0x4F c s fun e =>
    let b := e.b.setCounts fun l => if e.b.count l = 1 then 0 else e.b.count l
    if b.anyUpTo 0 then e.finish e.target b s
    else e.finish e.next (b.setCounts fun l => b.count l - 2) s

/-! ## Merging and regions: R184, R185, R335 and R336 -/

/-- Slots that an annex lists, Table 12.7. -/
def annexSlots (a : W64) (regs : Nat) : List Nat :=
  ((List.range 4).flatMap fun k =>
    let r := field a.toNat (10 + 13 * k) 13
    (List.range (r % 32)).map fun i => r / 32 + i).filter fun n => decide (n < regs)

/-- A band may merge: R184. -/
def Crew.candidate (cw : Crew) (b : Band) : Bool :=
  let n := popCount b.exec
  decide (0 < n) && decide (n * 100 ≤ cw.ctl.mergePct * b.width) && b.alive.all fun l => b.count l == 0

/-- Of two candidates the first survives: it has more active lanes, or the lower number. -/
def survives (a : Nat) (x : Band) (b : Nat) (y : Band) : Bool :=
  decide (popCount y.exec < popCount x.exec) || (popCount y.exec == popCount x.exec && decide (a < b))

/-- Lane slots that moved lanes may take: exited, and no record there waits to be requeued, R460. -/
def Band.freeLanes (b : Band) : List Nat := (List.range b.width).filter fun l => b.gone l && !b.requeue.getLsbD l

/-- The active lanes of two bands fit the one that survives. -/
def mergeFits (a : Nat) (x : Band) (b : Nat) (y : Band) : Bool :=
  if survives a x b y then decide (popCount y.exec ≤ x.freeLanes.length) else decide (popCount x.exec ≤ y.freeLanes.length)

/-- The band that an arriving candidate joins: of those waiting at the PC that it fits, the one that has waited longest. DEDUCED, log 57. -/
def Crew.mergePartner (cw : Crew) (me : Nat) (b : Band) : Option Nat :=
  let fit := cw.bands.filterMap fun x =>
    match x.2.x.phase with
    | .merging since =>
      if x.1 ≠ me ∧ x.2.running ∧ x.2.x.pc = b.x.pc ∧ mergeFits me b x.1 x.2 then some (since, x.1)
      else none
    | _ => none
  (fit.foldl (fun (best : Option (Nat × Nat)) x =>
    match best with | some y => if x.1 < y.1 then some x else some y | none => some x) none).map fun x => x.2

/-- A lane moves from one band of a crew to another: the live slots, the predicates, and its task. -/
def moveLane (slots : List Nat) (free : Nat) (src dst : Band) (l k : Nat) : Band :=
  let r1 := slots.foldl (fun (r : BandRegs) n => r.putKey (slotKey k n) (src.look free l (slotKey l n))) dst.r
  let r2 := (List.range 8).foldl (fun (r : BandRegs) p => r.putKey (predKey k p) (src.look free l (predKey l p))) r1
  { dst with r := { r2 with exited := r2.exited &&& ~~~(1#64 <<< k), nest := r2.nest.set k 0 },
             tasks := if src.tasks.getLsbD l then dst.tasks ||| (1#64 <<< k) else dst.tasks }

/-- Continues a band after its `MRG`: a new region opens there. -/
def Band.pastMrg (b : Band) (free : Nat) (pc : PCW) : Band :=
  let b1 := { b with x := { b.x with pc := pc, phase := .fresh } }
  b1.openRegion free pc

/-- Merges two bands of a crew, `a` the arriving one, both at the same `MRG`: R185. DEDUCED, log 57. -/
def State.merge (s : State) (c : CrewRef) (a b : Nat) (annex : W64) (next : PCW) : State :=
  match s.crewOf c with
  | none => s
  | some cw =>
    match cw.bands.find? a, cw.bands.find? b with
    | some x, some y0 =>
      let y := y0.settle (s.cyc c.die) s.free
      let free := s.free + 65 * y0.pends.length
      let aWins := survives a x b y
      let w := if aWins then (a, x) else (b, y)
      let o := if aWins then (b, y) else (a, x)
      let slots := annexSlots annex cw.cfg.regs
      let moves := (lanesOf o.2.exec).zip w.2.freeLanes
      let w1 := moves.foldl (fun (d : Band) m => moveLane slots free o.2 d m.1 m.2) w.2
      let w2 := w1.loseLatches.addStatus (s.cyc c.die) o.2.r.status
      let cycles := (slots.length * moves.length + 63) / 64
      let w3 := w2.pastMrg (free + o.2.choices) next
      let w4 := { w3 with x := { w3.x with notBefore := s.cyc c.die + cycles } }
      let s1 := moves.foldl (fun (s : State) m =>
        s.writeKey (cw.sliceKey (c.band w.1) m.2 0) (s.readKey (cw.sliceKey (c.band o.1) m.1 0) 256)) s
      let s2 := { s1.setThread (c.band w.1) w4 with free := free + o.2.choices + 65 }
      (s2.setThread (c.band o.1) { o.2.loseLatches with tasks := o.2.tasks &&& o.2.requeue, r := { o.2.r with exited := BitVec.allOnes 64 } }).endBand
        (c.band o.1)
    | _, _ => s

/-- `MRG`: it waits for the commit, for every flag and for every operation of the Infuser, R431; a candidate joins a partner or waits for one. DEDUCED, log 57. -/
def execMrg (c : Code) (s : State) : Out :=
  runInstr 0x50 c s fun e =>
    let saved := match s.crewOf e.t.crew with | some w => w.ctl.jsaved | none => []
    if !e.b.committed || (e.b.flags.any fun f => f.2 != 0) || ((s.coreOf e.t.die e.t.core).jq ++ saved).any fun o => o.thread == e.t then
      .next s
    else match s.crewOf e.t.crew with
      | none => .fault .noThread
      | some cw =>
        if !cw.candidate e.b then e.committedEnd e.b s
        else match cw.mergePartner (e.t.band.getD 0) e.b with
          | some p => .next ((e.done e.b.x.pc e.b s).merge e.t.crew (e.t.band.getD 0) p (c.annex.getD 0) e.next)
          | none =>
            let s1 := e.done e.b.x.pc e.b s
            .next (s1.updThread e.t fun b => { b with x := { b.x with phase := .merging e.now } })

/-- The slots that the command word of `RGN` lists, Table 13.4. -/
def rgnSlots (cmd : W64) (regs : Nat) : List Nat :=
  ((List.range 4).flatMap fun k =>
    let r := field cmd.toNat (14 * k) 14
    (List.range (r % 64)).map fun i => r / 64 + i).filter fun n => decide (n < regs)

/-- `RGN`, R175 and R335. -/
def execRgn (c : Code) (s : State) : Out :=
  runInstr 0x51 c s fun e =>
    if !e.b.committed then .next s
    else
      let slots := rgnSlots c.payload e.regs
      let b := e.b.openRegion (e.free + e.used) e.b.x.pc
      let b1 := { b with x := { b.x with workSet := slots, near := nearFill slots } }
      { e with free := e.free + 65 }.finish e.next b1 s

/-! ## Predicates: R327 and R328 -/

/-- A predicate instruction: its value in each acting lane. -/
def predInstr (opc : Nat) (c : Code) (s : State) (f : Tri → Tri → Tri) : Out :=
  runInstr opc c s fun e =>
    e.result (e.fixed 2 (Env.predWrites c.dst (e.ls.map fun l => (l, f (e.pred 1 c.srca l) (e.pred 2 c.srcb l)))) none 0) s

def execPand (c : Code) (s : State) : Out := predInstr 0x52 c s triAnd
def execPor (c : Code) (s : State) : Out := predInstr 0x53 c s triOr
def execPxor (c : Code) (s : State) : Out := predInstr 0x54 c s triXor
def execPnot (c : Code) (s : State) : Out := predInstr 0x55 c s fun a _ => triNot a
def execPdec (c : Code) (s : State) : Out :=
  predInstr 0x56 c s fun a _ => match a with | .u => if c.mods.toNat % 2 = 1 then .t else .f | x => x

def execPmov (c : Code) (s : State) : Out :=
  runInstr 0x57 c s fun e =>
    match c.mods.toNat % 4 with
    | 1 =>
      let raw := e.ls.map fun l => (l, triNum (e.pred 1 c.srca l))
      e.result (e.fixed 2 (e.laneWrites 1 raw) (e.latchW 1 raw) 0) s
    | 2 => e.result (e.fixed 2 (Env.predWrites c.dst (e.ls.map fun l => (l, triOf (e.srcA l 32)))) none 0) s
    | _ => e.result (e.fixed 2 (Env.predWrites c.dst (e.ls.map fun l => (l, e.pred 1 c.srca l))) none 0) s

/-! ## The decision queue: R159 and R346 to R348 -/

/-- Entries that every running band has popped are freed. -/
def Crew.dqFree (cw : Crew) : Crew :=
  let tail := cw.dqBase + cw.dq.length
  let least := cw.bands.foldl (fun m b => if b.2.running then min m b.2.dqPos else m) tail
  { cw with dq := cw.dq.drop (least - cw.dqBase), dqBase := max cw.dqBase least }

/-- A pop: waits, traps, or goes on with the entry. -/
def Env.pop (e : Env) (s : State) (k : W64 → Env → Out) : Out :=
  match s.crewOf e.t.crew with
  | none => .fault .noThread
  | some cw =>
    match cw.dqFree.dq.toArray[e.b.dqPos - cw.dqFree.dqBase]? with
    | some v => k v { e with b := { e.b with dqPos := e.b.dqPos + 1 } }
    | none =>
      if (match cw.front with | some f => f.ended | none => true) then .next (e.raise 7 (BitVec.ofNat 64 (9 * 2 ^ 60)) e.lanes s)
      else .next s

def execDqpop (c : Code) (s : State) : Out :=
  runInstr 0x58 c s fun e0 => e0.pop s fun v e => e.result (e.varied (e.uniWrites v.toNat) none 0) s

def execDqbr (c : Code) (s : State) : Out :=
  runInstr 0x59 c s fun e0 => e0.pop s fun v e =>
    let pc := if v.getLsbD 0 then e.target else e.next
    .next (e.commit ((e.advance pc e.b).pend (e.varied (e.uniWrites v.toNat) none 0)) s)

/-- `DQPUSH`: 64 entries not yet freed stall the front context. -/
def execDqpush (c : Code) (s : State) : Out :=
  runInstr 0x74 c s fun e =>
    match s.crewOf e.t.crew with
    | none => .fault .noThread
    | some cw =>
      let q := cw.dqFree
      if 64 ≤ q.dq.length then .next s
      else e.finish e.next e.b (s.setCrew e.t.crew { q with dq := q.dq ++ [BitVec.ofNat 64 (e.srcA 0 64)] })

/-! ## Cross-lane: R337 to R341 -/

/-- Latency of a cross-lane instruction. -/
def Env.xLat (e : Env) : Nat := 3 + e.modCycles

/-- A per-lane cross-lane result. -/
def Env.crossLanes (e : Env) (words : Nat) (raw : List (Nat × Nat)) (s : State) : Out :=
  e.result (e.fixed e.xLat (e.laneWrites words raw) (e.latchW words raw) 0) s

/-- A uniform cross-lane result, in the latch of every lane. -/
def Env.crossUni (e : Env) (v : Nat) (s : State) : Out :=
  e.result (e.fixed e.xLat (e.uniWrites v) (e.latchW 2 ((List.range e.width).map fun l => (l, v))) 0) s

/-- The register bits of a value read at `TYPE`. -/
def Env.typed (e : Env) (v : Nat) : Nat :=
  if 0xC ≤ e.c.type.toNat then v else (ITy.of e.c.type.toNat).reg ((ITy.of e.c.type.toNat).read v)
def Env.typeBits (e : Env) : Nat := if 0xC ≤ e.c.type.toNat then 32 * typeWords e.c.type else intBits e.c.type.toNat

def execShfl (c : Code) (s : State) : Out :=
  runInstr 0x60 c s fun e =>
    let bits := e.typeBits
    e.crossLanes (typeWords c.type) (e.ls.map fun l =>
      let own := c.mods.toNat % 2 == 1 && (match e.xsrc l with | some k => !e.b.active k | none => false)
      (l, e.typed (if own then e.srcA l bits else e.srcB l bits))) s

/-- Whether `VOTE` counts a predicate value. -/
def voteCounts (set : Nat) (p : Tri) : Bool :=
  match set, p with
  | 0, .t => true | 1, .f => true | 2, .u => true | 3, .t => true | 3, .u => true
  | _, _ => false

def execVote (c : Code) (s : State) : Out :=
  runInstr 0x61 c s fun e =>
    let set := c.mods.toNat / 4 % 4
    let mask := (maskOf 64 fun l => e.lanes.getLsbD l && voteCounts set (e.pred 1 c.srca l)).toNat
    let v := match c.mods.toNat % 4 with
      | 0 => if mask = 0 then 0 else 1
      | 1 => if mask = e.lanes.toNat then 1 else 0
      | _ => mask
    match uniOf e.front c.dst with
    | some _ => e.crossUni v s
    | none => e.crossLanes 1 (e.ls.map fun l => (l, v % 2 ^ 32)) s

/-- The operations of Table 13.5 with their identities. -/
def redOp (op : Nat) (t : ITy) (a b : Int) : Int :=
  match op with
  | 0 => t.wrap (a + b)
  | 1 => if a ≤ b then a else b
  | 2 => if a ≤ b then b else a
  | 3 => bitsAnd t a b
  | 4 => bitsOr t a b
  | _ => bitsXor t a b
def redId (op : Nat) (t : ITy) : Int :=
  match op with
  | 1 => t.max
  | 2 => t.min
  | 3 => t.wrap (2 ^ t.bits - 1)
  | _ => 0

def execRedi (c : Code) (s : State) : Out :=
  runInstr 0x62 c s fun e =>
    let t := ITy.of c.type.toNat
    let op := c.mods.toNat % 8
    let v := e.ls.foldl (fun a l => redOp op t a (t.read (e.srcA l t.bits))) (redId op t)
    match uniOf e.front c.dst with
    | some _ => e.crossUni (t.uni v) s
    | none => e.crossLanes (intWords c.type.toNat) (e.ls.map fun l => (l, t.reg v)) s

def execScani (c : Code) (s : State) : Out :=
  runInstr 0x63 c s fun e =>
    let t := ITy.of c.type.toNat
    let op := c.mods.toNat % 8
    let ex := c.mods.toNat / 8 % 2 == 1
    let upto := fun l => (e.ls.filter fun k => if ex then decide (k < l) else decide (k ≤ l)).foldl
      (fun a k => redOp op t a (t.read (e.srcA k t.bits))) (redId op t)
    e.crossLanes (intWords c.type.toNat) (e.ls.map fun l => (l, t.reg (upto l))) s

def execRdlane (c : Code) (s : State) : Out :=
  runInstr 0x64 c s fun e =>
    let t := ITy.of c.type.toNat
    let l := e.srcB 0 32 % e.width
    e.crossUni (t.uni (t.read (e.srcA l t.bits))) s

/-- `WRLANE` writes its lane whatever the lane's counter, unless the lane has exited. -/
def execWrlane (c : Code) (s : State) : Out :=
  runInstr 0x65 c s fun e =>
    let t := ITy.of c.type.toNat
    let l := e.srcB 0 32 % e.width
    e.crossLanes (intWords c.type.toNat) (if e.b.gone l then [] else [(l, t.reg (t.read (e.srcA 0 t.bits)))]) s

/-! ## Uniform operations: R342 to R345 and R348 -/

/-- The operations of Table 13.6. -/
def sopVal (op : Nat) (t : ITy) (a b : Int) : Int :=
  match op with
  | 0 => t.wrap (a + b) | 1 => t.wrap (a - b) | 2 => t.wrap (a * b) | 3 => t.wrap (a * b / 2 ^ t.bits)
  | 4 => bitsAnd t a b | 5 => bitsOr t a b | 6 => bitsXor t a b | 7 => bitsAndn t a b
  | 8 => ishlOp t a b | 9 => ishrOp t a b | 10 => ishraOp t a b
  | 11 => if a ≤ b then a else b | 12 => if a ≤ b then b else a
  | 13 => if a < b then 1 else 0 | 14 => if a ≤ b then 1 else 0
  | 15 => if a = b then 1 else 0 | 16 => if a ≠ b then 1 else 0
  | _ => a

def execSop (c : Code) (s : State) : Out :=
  runInstr 0x70 c s fun e =>
    let t := ITy.of c.type.toNat
    let v := sopVal (c.mods.toNat % 32) t (t.read (e.srcA 0 t.bits)) (t.read (e.srcB 0 t.bits))
    e.result (e.fixed 2 (e.uniWrites (t.uni v)) none 0) s

def execSmovi (c : Code) (s : State) : Out :=
  runInstr 0x71 c s fun e => e.result (e.fixed 2 (e.uniWrites c.payload.toNat) none 0) s

def execSbr (c : Code) (s : State) : Out :=
  runInstr 0x72 c s fun e => e.finish (if e.srcA 0 64 ≠ 0 then e.target else e.next) e.b s

/-- The length of the instruction at an address, read for a loop that is skipped. -/
def Env.lengthAt (e : Env) (s : State) (pc : PCW) (k : Nat → Out) : Out :=
  match s.crewOf e.t.crew with
  | none => .fault .noThread
  | some cw =>
    match s.fetchBytes e.t.die e.t.core (handleCtx cw.cfg.handle) pc.toNat 1 with
    | .bytes bs => k (8 + secondBytes (BitVec.ofNat 2 (leNat bs)))
    | .refused => .next (e.raise 7 (BitVec.ofNat 64 (2 ^ 60 + pc.toNat)) e.lanes s)
    | .miss a => .next (e.lookup [a] s)
    | .away va => .next (s.askCode e.t.die e.t.core (handleCtx cw.cfg.handle) va)
    | .fault => .next ((e.settled s).memFault e.t
        { va := pc.toNat, pc := pc, lanes := 0, index := 0xFFFF, cause := 0x0101, fetch := true })

/-- `FLOOP`, R345: it opens a loop inside those that are open; a third open loop is a nesting overflow. -/
def execFloop (c : Code) (s : State) : Out :=
  runInstr 0x73 c s fun e =>
    let n := e.srcA 0 32
    if n = 0 then e.lengthAt s e.target fun len => e.finish (e.target + BitVec.ofNat 48 len) e.b s
    else match s.crewOf e.t.crew with
      | some cw =>
        match cw.front with
        | some f =>
          let l : HwLoop := { left := n, count := n, first := e.next, last := e.target, again := false }
          if (openLoop l f.loops).isNone then .next (e.raise 5 0 e.lanes s)
          else
            let s1 := e.done e.next e.b s
            .next (s1.updCrew e.t.crew fun cw => { cw with front := cw.front.map fun f =>
              { f with loops := (openLoop l f.loops).getD f.loops } })
        | none => .fault .noThread
      | none => .fault .noThread

/-- `FEND`: once the register writers before it have completed. -/
def execFend (c : Code) (s : State) : Out :=
  runInstr 0x75 c s fun e => if e.b.writersOut then .next s else .next ((e.done e.next e.b s).endFront e.t.crew)

end Sys2Proof.Machine
end

