-- ==== Sys2Proof/Machine/Csr.lean ====
section
/-!
DEFINITION. Control registers as instructions read and write them, breakpoints, software traps and the return from a
trap: R180, R183, R197, R206, R264, R270, R272, R273, R349 to R354.
-/
namespace Sys2Proof.Machine

/-! ## `CSRR` -/

/-- The value of a register that is not per lane, R350. -/
def Env.csrValue (e : Env) (s : State) (cw : Crew) (n : Nat) : W64 :=
  let r := e.t.crew
  if n = 0 then e.b.exec
  else if n = 3 then BitVec.ofNat 64 (e.t.band.getD 0)
  else if n = 0x040 then BitVec.ofNat 64 e.b.r.status.toNat
  else if n ≤ 0x020 then e.b.trap.read n
  else if n = 0x093 then BitVec.ofNat 64 ((s.gridDie r.die cw.cfg.handle).live % 2 ^ 32)
  else if n = 0x100 then s.jeQstat r
  else if n = 0x101 then e.b.jePend
  else match csrReg r (handleCtx cw.cfg.handle).toNat n with
    | some g => s.regValue g
    | none => 0

/-- The permission-violation trap for privilege, code 5. -/
def Env.noPriv (e : Env) (s : State) : State := e.raise 7 (BitVec.ofNat 64 (5 * 2 ^ 60)) e.lanes s

/-- `NEST` of a lane, Table 7.5. -/
def Band.nestWord (b : Band) (l : Nat) : Nat := b.count l + if b.gone l then 256 else 0

/-- `CSRR`, R350: `NEST` in every lane that has not exited, `LANEID` in the acting lanes, any other in a uniform register. -/
def execCsrr (c : Code) (s : State) : Out :=
  runInstr 0xF8 c s fun e =>
    match s.crewOf e.t.crew with
    | none => .fault .noThread
    | some cw =>
      let n := Code.csr c
      if n = 1 then
        if !e.b.trapPriv then .next (e.noPriv s)
        else e.result (e.varied (e.laneWrites 1 (e.b.alive.map fun l => (l, e.b.nestWord l))) none 0) s
      else if n = 2 then e.result (e.varied (e.laneWrites 1 (e.ls.map fun l => (l, l))) none 0) s
      else e.result (e.varied (e.uniWrites (e.csrValue s cw n).toNat) none 0) s

/-! ## `CSRW` -/

/-- A band's write that holds a bit of a reserved field, R11. -/
def Band.rsvdWrite (b : Band) (hit : Bool) : Band := if hit then { b with trap := { b.trap with rsvdw := true } } else b

/-- A write of `EXEC`, R180: lanes whose counter is 0 or 1 take it. -/
def Band.writeExec (b : Band) (v : W64) : Band :=
  b.setCounts fun l => if b.count l ≤ 1 then (if v.getLsbD l then 0 else 1) else b.count l

/-- `CSRW` of `EXEC`. -/
def execExecWrite (c : Code) (s : State) : Out :=
  runInstr 0xF9 c s fun e => e.finish e.next (e.b.writeExec (BitVec.ofNat 64 (e.srcA 0 64))) s

/-- `CSRW` of `NEST`, R183: every lane that has not exited. -/
def execNestWrite (c : Code) (s : State) : Out :=
  runInstr 0xF9 c s fun e =>
    if !e.b.trapPriv then .next (e.noPriv s)
    else
      let b := e.b.setCounts fun l => e.srcA l 32 % 256
      e.finish e.next (b.rsvdWrite (e.b.alive.any fun l => e.srcA l 32 / 2 ^ 9 != 0)) s

/-- A write that takes effect when it reaches its register, and whose flag clears then, R351. -/
def Env.reached (e : Env) (b : Band) (v : W64) (s : State) : Out :=
  .next (e.commit ((e.advance e.next b).pend { e.varied [] none 0 with csr := some (Code.csr e.c, v) }) s)

/-- `CSRW` of `CREW_MERGE`. -/
def execCrewMergeWrite (c : Code) (s : State) : Out :=
  runInstr 0xF9 c s fun e =>
    let v := BitVec.ofNat 64 (e.srcA 0 64)
    e.reached (e.b.rsvdWrite ((Reg.crewMerge e.t.crew).rsvdHit v)) v s

/-- `NUM_STATUS` with the bits of a mask cleared; one that this very cycle has set stays, R265. -/
def Band.clearStatus (b : Band) (now : Nat) (m : BitVec 6) : Band :=
  let keep := if b.x.statusAt = now then b.r.status &&& b.x.statusNew else 0
  { b with r := { b.r with status := (b.r.status &&& ~~~m) ||| keep } }

/-- What a write does to the band's own registers, numbers 0x019 to 0x040; none for a register that it does not change. -/
def Band.writeCsr (b : Band) (now n : Nat) (v : W64) : Option Band :=
  let t := b.trap
  if n = 0x019 then
    some (Band.rsvdWrite { b with trap := { t with wstat := v.extractLsb' 0 6 } } (v.toNat / 2 ^ 6 != 0))
  else if 0x01A ≤ n ∧ n ≤ 0x01D then some { b with trap := { t with scr := t.scr.set (n - 0x01A) v } }
  else if n = 0x01E ∨ n = 0x01F then
    some (Band.rsvdWrite { b with trap := { t with bpEn := t.bpEn.set (n - 0x01E) (v.getLsbD 48),
                                                   bpPc := t.bpPc.set (n - 0x01E) (v.extractLsb' 0 48) } }
      (v.toNat / 2 ^ 49 != 0))
  else if n = 0x020 then
    some (Band.rsvdWrite { b with trap := { t with rsvdw := t.rsvdw && !v.getLsbD 0 } } (v.toNat % 2 ^ 32 / 2 != 0))
  else if n = 0x040 then
    some (Band.rsvdWrite (b.clearStatus now (v.extractLsb' 0 6))
      (v.toNat % 2 ^ 32 / 2 ^ 6 != 0))
  else none

/-- Registers whose write by a band changes nothing, marked "none" in Table 13.7. -/
def csrNone (n : Nat) : Bool :=
  (2 ≤ n && n ≤ 0x018) || (0x062 ≤ n && n ≤ 0x087) || n == 0x100 || n == 0x101

/-- The reserved bits of those registers: Tables 7.5, 8.4, 11.3 and 16.11. -/
def csrNoneRsvd (r : CrewRef) (n : Nat) : Nat :=
  if n = 2 then bits 31 6 else if n = 3 then bits 31 4 else if n = 4 then bits 31 8
  else if n = 0x010 ∨ n = 0x011 then bits 63 48
  else if n = 0x100 then bits 29 6 else if n = 0x101 then bits 31 16
  else if n < 0x062 then 0
  else match csrReg r 0 n with | some g => g.rsvd | none => 0

/-- `CSRW` of every other register, R351: a write of a register marked "none" can still be reported under R11. DEDUCED, log 50. -/
def execCsrw (c : Code) (s : State) : Out :=
  runInstr 0xF9 c s fun e =>
    let n := Code.csr c
    let v := BitVec.ofNat 64 (e.srcA 0 64)
    if csrNone n then e.finish e.next (e.b.rsvdWrite (v.toNat &&& csrNoneRsvd e.t.crew n != 0)) s
    else if 0x019 ≤ n ∧ n ≤ 0x01F ∧ !e.b.trapPriv then .next (e.noPriv s)
    else match e.b.writeCsr e.now n v with
      | some b => e.finish e.next b s
      | none =>
        if n = 0x061 then e.reached (e.b.rsvdWrite ((Reg.crewScrchk e.t.crew).rsvdHit v)) v s
        else if n = 0x088 then e.reached (e.b.rsvdWrite (v.toNat % 2 ^ 32 / 2 ^ 8 != 0)) v s
        else .next (e.noPriv s)

/-! ## `BKPT` and `STRAP` -/

/-- The band's breakpoints have a handler. DEDUCED, log 48. -/
def Env.bpHandled (e : Env) (s : State) : Bool :=
  match s.crewOf e.t.crew with
  | some cw => s.vector (handleCtx cw.cfg.handle) cw.cfg.trapVec 13 != .none
  | none => false

/-- `BKPT`, R352: ignored in a front context, at TRAP privilege and without a handler. DEDUCED, log 48. -/
def execBkpt (c : Code) (s : State) : Out :=
  runInstr 0xFA c s fun e =>
    if e.front || e.b.trapPriv || e.lanes == 0 || !e.bpHandled s then e.finish e.next e.b s
    else .next ({ e with b := { e.b with bpSkip := none } }.raise 13 0 e.lanes s)

/-- `STRAP`, R353. -/
def execStrap (c : Code) (s : State) : Out :=
  runInstr 0xFB c s fun e =>
    if e.lanes = 0 then e.finish e.next e.b s
    else .next (e.raise 14 (BitVec.ofNat 64 (c.srca.bits.toNat % 256)) e.lanes s)

/-! ## `TRET` -/

/-- Bytes of the destination that a trapping instruction would have written. -/
def TrapRegs.destBytes (t : TrapRegs) : Nat :=
  let raw := Raw.ofWords t.insn0.toNat t.insn1.toNat none
  let opc := raw.opc.toNat
  let c := Code.ofRaw raw (Raw.form raw)
  let words := if (formsOf opc).isSome then (needs opc c).dst.words else typeWords c.type
  4 * min 4 (max 1 words)

/-- The address after the instruction at `TRAP_FPC` and its annex. -/
def TrapRegs.after (t : TrapRegs) : PCW :=
  t.fpc + BitVec.ofNat 48 (8 + secondBytes (t.insn0.extractLsb' 0 2) + if t.insn0.getLsbD 2 then 8 else 0)

/-- Lanes that overflowed keep their counters under SKIP and WRITE_SKIP, R182. -/
def Band.keepOverflow (b : Band) : Band :=
  if b.trap.cause = 5 then
    (b.alive.filter fun l => b.trap.lanes.getLsbD l).foldl (fun (b : Band) l => b.setCount l (b.entryNest.get 0 l).toNat) b
  else b

/-- Leaves the handler with an action: the ONE return from a trap. DEDUCED, log 47. DEDUCED, log 72. -/
def State.returnTrap (s : State) (t : ThreadRef) (cw : Crew) (b0 : Band) (act : Nat) : State :=
  let h := cw.cfg.handle
  let t0 := b0.trap
  let report := fun (s : State) kind => s.trapEvent t h t0.cause.toNat t0.fpc.toNat t0.info.toNat t0.lanes.toNat kind
  if act = 5 then (report s 2).killBand t
  else if b0.cancelTrap then (report s 3).killBand t
  else
    let b := { s.restoreLanes cw t b0 with trapPriv := false }
    let at_ := fun (b : Band) (pc : PCW) => { b with x := { b.x with pc := pc } }
    if act = 1 then s.setThread t (at_ b.keepOverflow t0.after) |>.endIfEmpty t
    else if act = 2 then
      let b1 := b.keepOverflow
      let b2 := s.writeSkip cw t b1 t0.destBytes
      s.setThread t (at_ (b2.addStatus (s.cyc t.die) t0.wstat) t0.after) |>.endIfEmpty t
    else if act = 3 then
      s.setThread t (at_ { b with r := { b.r with nest := b.region.snap.nest, exited := b.region.snap.exited },
                                  region := { b.region with stores := 0 } } b.region.restart)
    else
      let b1 := at_ { b with only := if t0.cause = 5 then some t0.lanes else none, bpSkip := if t0.cause = 13 then some t0.fpc else b.bpSkip } t0.pc
      if act = 4 then ((report s 1).setThread t b1).exitLanes t t0.lanes
      else s.setThread t b1 |>.endIfEmpty t

/-- `TRET`, R354: it waits for every flag. DEDUCED, log 72. -/
def tret (act : Nat) (c : Code) (s : State) : Out :=
  runInstr 0xFC c s fun e =>
    if !e.b.trapPriv then .next (e.noPriv s)
    else if e.b.flags.any fun f => f.2 != 0 then waits s
    else
      let s1 := e.done e.next e.b s
      match s1.crewOf e.t.crew, s1.thread e.t with
      | some cw, some b => .next (s1.returnTrap e.t cw b act)
      | _, _ => .fault .noThread

/-- DEDUCED, log 48. -/
def execTretResume (c : Code) (s : State) : Out := tret 0 c s
def execTretSkip (c : Code) (s : State) : Out := tret 1 c s
def execTretWriteSkip (c : Code) (s : State) : Out := tret 2 c s
def execTretRetryRegion (c : Code) (s : State) : Out := tret 3 c s
def execTretKillLanes (c : Code) (s : State) : Out := tret 4 c s
def execTretKillBand (c : Code) (s : State) : Out := tret 5 c s

end Sys2Proof.Machine
end

