-- ==== Sys2Proof/Machine/Engine.lean ====
section
/-!
DEFINITION. The accesses of the engines of a core, the copy channels and the Infuser: R94, R194 to R196, R204, R208 and R228.
-/
namespace Sys2Proof.Machine

/-- Why an access of an engine fails: a violation, or a page that is not mapped or not present. -/
inductive EngFault where
  | violation
  | page (va : Nat)
  /-- An answer of another package is still to come. -/
  | wait
deriving DecidableEq, Repr

/-- An engine that acts for a crew: 0 to 3 a copy channel, 4 the Infuser, 5 the front context and 6 + b band b where a thread
acts for itself; the PC of the instruction that issued its command, and the command's number. -/
structure Eng where
  r : CrewRef
  num : Nat
  pc : PCW
  seq : Nat
deriving DecidableEq, Repr

/-- The engine as a reader of a multicast window. -/
def Eng.reader (g : Eng) : Nat × Nat × Nat := (g.r.core, g.r.slot, if g.num = 4 then 100 else 101 + g.num)

/-- The engine as an asker of another package. -/
def Eng.asker (g : Eng) : Nat × Nat × Nat := (g.r.slot, g.num, g.seq)

/-- A step of the engine has come to its end: the answers that it asked for are used. -/
def State.engDone (s : State) (g : Eng) : State := s.forgetRemote g.r.die g.r.core g.asker

/-- The same, unless an answer is still to come: the step then goes on where it stands. -/
def State.engRest (s : State) (g : Eng) : State :=
  if (s.coreOf g.r.die g.r.core).remote.any fun x => x.asker == g.asker && x.ans.isNone then s else s.engDone g

/-- The attributes that the engine's lookaside holds for a page, asked of the page's controller when it holds none; the lease
raises the page's horizon, R94 to R96. A controller of another package is asked by a packet. DESIGN CHOICE, log 41. -/
def State.engAttr (s : State) (g : Eng) (ctx : B6) (va : Nat) : Except EngFault W16 × State :=
  let d := g.r.die
  let c := g.r.core
  match palFind (s.coreOf d c).wpal ctx va s.timeCount with
  | some e => (.ok e.attr, s)
  | none =>
    let cx := effCtx ctx va
    let n := s.stackOf ctx va
    if s.foreign va then
      let page := BitVec.ofNat 56 (va / 65536 * 65536)
      match s.askRemote d c g.asker cx va (8 + n) (.permreq page 0) (.permreq (BitVec.ofNat 56 va) (BitVec.ofNat 64 s.timeCount))
          (.wperm c cx s.timeCount) with
      | (none, s1) => (.error .wait, s1)
      | (some _, s1) => (.error (.page va), s1)
    else match (s.ctrlOf n).find cx va with
    | none => (.error (.page va), s)
    | some m =>
      if m.unmapping then (.error (.page va), s)
      else
        let upto := s.timeCount + 1000 * (s.ctxOf cx.toNat).lease.toNat
        let raise_ := fun (x : Mapping) => if x.ctx == m.ctx && x.va == m.va then { x with horizon := max x.horizon upto } else x
        let s1 := s.updCtrl n fun k => { k with maps := k.maps.map raise_ }
        (.ok m.attr, s1.wpalEnter d c { ctx := cx, page := m.va, attr := m.attr, expiry := upto, used := s.timeCount })

/-- The lookaside, or the page's controller, knows no mapping of a page. -/
def State.engUnmapped (s : State) (g : Eng) (ctx : B6) (va : Nat) : Bool :=
  match (s.engAttr g ctx va).1 with | .error (.page _) => true | _ => false

/-- One part of a `glob` access, within a line: its home's socket, once its page permits it, and, within the package, its home
can serve it. DESIGN CHOICE, log 41. DESIGN CHOICE, log 84. -/
def State.engPart (s : State) (g : Eng) (ctx : B6) (need : W16 → Bool) (va n : Nat) : Except EngFault Nat × State :=
  if 2 ^ 56 < va + n ∨ (inWindow va ∧ !(s.ctxOf ctx.toNat).gwin) ∨ s.noRoute va then (.error .violation, s)
  else
    match s.engAttr g ctx va with
    | (.error e, s1) => (.error e, s1)
    | (.ok x, s1) =>
      if !need x then (.error .violation, s1)
      else
        let sock := s1.homeSock ctx va (attrKind x) (attrDdr x)
        if s.foreign va then (.ok sock, s1)
        else match s1.homeServe ctx va n sock with
        | (0, _) => (.ok sock, s1)
        | (1, _) => (.error (.page va), s1)
        | _ => (.error .violation, s1)

/-- A part of a `glob` access: address, bytes, and its home's socket. -/
structure EngPart where
  va : Nat
  len : Nat
  sock : Nat
deriving DecidableEq, Repr

/-- The parts of a `glob` access, if all of them are permitted. -/
def State.engParts (s : State) (g : Eng) (ctx : B6) (need : W16 → Bool) :
    List (Nat × Nat) → Except EngFault (List EngPart) × State
  | [] => (.ok [], s)
  | (va, n) :: ps =>
    match s.engPart g ctx need va n with
    | (.error e, s1) => (.error e, s1)
    | (.ok k, s1) =>
      match s1.engParts g ctx need ps with
      | (.error e, s2) => (.error e, s2)
      | (.ok ks, s2) => (.ok ({ va := va, len := n, sock := k } :: ks), s2)

/-- What an engine asks of the home of a part in another package: its bytes. -/
def State.engAsk (s : State) (g : Eng) (ctx : B6) (p : EngPart) (body : Body) : Except EngFault (List Byte) × State :=
  match s.askRemote g.r.die g.r.core g.asker (effCtx ctx p.va) p.va p.sock body body (.engine g.r.core) with
  | (none, s1) => (.error .wait, s1)
  | (some (0, bs), s1) => (.ok bs, s1)
  | (some (1, _), s1) => (.error (.page p.va), s1)
  | (some _, s1) => (.error .violation, s1)

/-- The bytes of parts, in order. -/
def State.engFetch (s : State) (g : Eng) (ctx : B6) : List EngPart → Except EngFault (List Byte) × State
  | [] => (.ok [], s)
  | p :: ps =>
    let r := if s.foreign p.va then
        s.engAsk g ctx p (.read { va := BitVec.ofNat 56 p.va, cntM1 := BitVec.ofNat 7 (p.len - 1), acq := false })
      else let x := s.homeRead ctx p.va p.len p.sock; (.ok x.2.1, x.2.2)
    match r with
    | (.error e, s1) => (.error e, s1)
    | (.ok bs, s1) =>
      match s1.engFetch g ctx ps with
      | (.error e, s2) => (.error e, s2)
      | (.ok rest, s2) => (.ok (bs ++ rest), s2)

/-- A line that an engine has written leaves its core's L1, so that the loads that follow see the write, R199 and R228. -/
def State.engDrop (s : State) (g : Eng) (ctx : B6) (va : Nat) : State :=
  s.l1Drop g.r.die g.r.core fun x l _ => x == effCtx ctx va && l == va / 64

/-- Writes of parts, each with its bytes. -/
def State.engStore (s : State) (g : Eng) (ctx : B6) : List (EngPart × List Byte) → Except EngFault Unit × State
  | [] => (.ok (), s)
  | (p, bs) :: ps =>
    let r := if s.foreign p.va then
        s.engAsk g ctx p (.write { va := BitVec.ofNat 56 p.va, cntM1 := BitVec.ofNat 7 (p.len - 1), rel := false, bytes := bs })
      else (.ok [], (s.homeWrite ctx p.va p.sock bs).2)
    match r with
    | (.error e, s1) => (.error e, s1)
    | (.ok _, s1) => (s1.engDrop g ctx p.va).engStore g ctx ps

/-- A scratch access of an engine lies in its space, and is aligned, R194. -/
def State.engScratch (s : State) (r : CrewRef) (cw : Crew) (sp : Space) (off n : Nat) : Bool :=
  decide (off + n ≤ s.spaceSize r.die cw sp) && off % (max 1 (min n 16)) == 0

/-- What a read of an engine gives: its bytes, and the first uninitialised word that it met. -/
structure EngRead where
  bytes : List Byte
  uninit : Option Nat
deriving DecidableEq, Repr

/-- Reads bytes of a crew's space. `n` is the width in which alignment is asked of scratch. -/
def State.engRead (s : State) (g : Eng) (cw : Crew) (sp : Space) (need : W16 → Bool) (va n : Nat) :
    Except EngFault EngRead × State :=
  let ctx := handleCtx cw.cfg.handle
  match sp with
  | .glob =>
    match s.engParts g ctx need (splitAt 64 va n) with
    | (.error e, s1) => (.error e, s1)
    | (.ok ps, s1) =>
      match s1.engFetch g ctx ps with
      | (.error e, s2) => (.error e, s2)
      | (.ok bs, s2) => (.ok ⟨bs, none⟩, s2)
  | sp =>
    if !s.engScratch g.r cw sp va n then (.error .violation, s)
    else
      let bs := if sp = .clus then s.mcRead g.r cw g.reader va n else s.getScr g.r cw sp 0 va n
      (.ok ⟨bs, s.uninit g.r cw sp va n⟩, s)

/-- Writes bytes of a crew's space. -/
def State.engWrite (s : State) (g : Eng) (cw : Crew) (sp : Space) (need : W16 → Bool) (va : Nat) (bs : List Byte) :
    Except EngFault Unit × State :=
  let ctx := handleCtx cw.cfg.handle
  match sp with
  | .glob =>
    match s.engParts g ctx need (splitAt 64 va bs.length) with
    | (.error e, s1) => (.error e, s1)
    | (.ok ps, s1) =>
      let parts := ps.map fun p => (p, (bs.drop (p.va - va)).take p.len)
      s1.engStore g ctx ((parts.filter fun x => s1.foreign x.1.va) ++ parts.filter fun x => !s1.foreign x.1.va)
  | sp =>
    if !s.engScratch g.r cw sp va bs.length then (.error .violation, s)
    else (.ok (), s.putScr g.r cw sp 0 va bs)

/-- What an atomic of an engine gives: the status bits of its sum, and the first uninitialised word that it met. -/
structure EngSum where
  st : BitVec 6
  uninit : Option Nat
deriving DecidableEq, Repr

/-- An atomic of an engine on a location; a line that the core's L1 holds leaves it, R199. -/
def State.engAtomic (s : State) (g : Eng) (cw : Crew) (sp : Space) (need : W16 → Bool) (va op width : Nat) (signed : Bool)
    (operand : Nat) : Except EngFault EngSum × State :=
  let ctx := handleCtx cw.cfg.handle
  let sum := fun (old : Nat) => atomResult op width signed old operand 0
  match sp with
  | .glob =>
    if va % width ≠ 0 then (.error .violation, s)
    else match s.engPart g ctx need va width with
      | (.error e, s1) => (.error e, s1)
      | (.ok k, s1) =>
        let r := if s1.foreign va then
            s1.engAsk g ctx { va := va, len := width, sock := k } (.atomic
              { va := BitVec.ofNat 56 va, op := BitVec.ofNat 4 op, width := BitVec.ofNat 2 (width / 8), signed := signed,
                operand := BitVec.ofNat 128 operand, expected := 0 })
          else let x := s1.homeAtomic ctx va k op width signed operand 0; (.ok (leBytes width x.2.1), x.2.2)
        match r with
        | (.error e, s2) => (.error e, s2)
        | (.ok old, s2) => (.ok ⟨(sum (leNat (old.take width))).2, none⟩,
            s2.engDrop g ctx va)
  | sp =>
    if !s.engScratch g.r cw sp va width then (.error .violation, s)
    else
      let r := sum (leNat (s.getScr g.r cw sp 0 va width))
      (.ok ⟨r.2, s.uninit g.r cw sp va width⟩, s.putScr g.r cw sp 0 va (atomBytes width r.1))

/-- Adds units to the `COUNT` half of an arrival counter, R212. -/
def State.countArrived (s : State) (r : CrewRef) (cw : Crew) (sp : Space) (off units : Nat) : State :=
  let old := leNat (s.getScr r cw sp 0 off 4)
  s.putScr r cw sp 0 off (leBytes 4 ((old + units) % 2 ^ 32))

/-! ## Windows: R204 -/

/-- The cores that hold a crew's cluster. -/
def CrewCfg.clusCores (c : CrewCfg) : List Nat := (List.range (max 1 (c.clw * c.clh))).map fun k => c.rankCore k

/-- Opens a window for a block of the cluster's space, unless it is open already; the opener joins it. -/
def State.mcOpen (s : State) (g : Eng) (cw : Crew) (core block : Nat) : State :=
  s.updCore g.r.die core fun c =>
    if c.windows.any fun w => w.block == block && w.data.isNone then c.mcJoin block g.reader
    else { c with windows := c.windows ++ [{ block := block, openedAt := s.cyc g.r.die, joined := [g.reader], data := none,
                                             others := cw.cfg.clusCores.filter fun k => k != g.r.core }] }

/-- The bytes of a block of a core's scratchpad. -/
def State.blockBytes (s : State) (d core block : Nat) : List Byte :=
  (List.range 256).map fun i =>
    let o := 256 * block + i
    s.getSpot d ⟨coreKey d core o, some (core, o / 4)⟩

/-- `MULTICAST_WINDOW_CLOSE`, at the port of the core at `cur`: each window that is 64 cycles old, or that every other core of
the cluster has joined, closes, and its block is read once. -/
def execMulticastWindowClose (s : State) : Out :=
  let d := s.cur.die
  let k := s.cur.core
  let due := fun (w : McWin) => w.data.isNone && (decide (w.openedAt + 64 ≤ s.cyc d) || w.others.all fun c => w.joined.any fun j => j.1 == c)
  let close := fun (w : McWin) => if due w then { w with data := some (s.blockBytes d k w.block) } else w
  .next (s.updCore d k fun c => { c with windows := c.windows.map close })

end Sys2Proof.Machine
end

