-- ==== Sys2Proof/Machine/Copy.lean ====
section
/-!
DEFINITION. The copy engine: R205 to R213, R229, R392 and R402 to R404.
-/
namespace Sys2Proof.Machine

/-! ## Issue: R392, R402 and R403 -/

def CopyCmd.ch (k : CopyCmd) : Nat := field k.cmd.toNat 62 2
/-- The tensor is written. -/
def CopyCmd.dir (k : CopyCmd) : Bool := k.cmd.getLsbD 61
def CopyCmd.dsp (k : CopyCmd) : Space := Space.ofCode (field k.cmd.toNat 58 3)
def CopyCmd.rsp (k : CopyCmd) : Space := Space.ofCode (field k.cmd.toNat 56 2)
def CopyCmd.acnt (k : CopyCmd) : Bool := k.cmd.getLsbD 55
def CopyCmd.rows (k : CopyCmd) : Bool := k.cmd.getLsbD 54
def CopyCmd.asp (k : CopyCmd) : Space := if k.cmd.getLsbD 53 then .clus else .core
def CopyCmd.acoff (k : CopyCmd) : Nat := 8 * field k.cmd.toNat 24 24
def CopyCmd.isp (k : CopyCmd) : Space := if k.cmd.getLsbD 18 then .clus else .core
def CopyCmd.icnt (k : CopyCmd) : Nat := field k.cmd.toNat 5 13
def CopyCmd.gathers (k : CopyCmd) : Bool := k.op == .cpyg || k.op == .cpys

/-- Puts an entry at the end of a channel, and the band on. -/
def Env.copyQueue (e : Env) (ch : Nat) (op : CopyOp) (s : State) : State :=
  let cmd := e.c.payload.toNat
  let seq := (s.coreOf e.t.die e.t.core).seq
  let o := field cmd 48 5
  let u := fun (n : Nat) => e.uni 3 0 n
  let k : CopyCmd := { op := op, seq := seq, slot := e.t.slot, thread := e.t, waitId := e.id, pc := e.b.x.pc, cmd := e.c.payload,
                       recAddr := BitVec.ofNat 64 (e.srcA 0 64), dense := BitVec.ofNat 64 (e.srcB 0 64),
                       origin := [u o % 2 ^ 32, u o / 2 ^ 32, u (o + 1) % 2 ^ 32, u (o + 1) / 2 ^ 32, u (o + 2) % 2 ^ 32],
                       idxOff := u (field cmd 19 5) % 2 ^ 32, st := .queued, rcd := none, idx := [], pos := 0, buf := [], logged := false,
                       status := 0 }
  let b1 := (e.advance e.next e.b).flagUp e.flag
  let w : Waiter := { id := e.id, flag := e.flag, pc := e.b.x.pc, kind := .copy }
  let b2 := { b1 with waits := b1.waits ++ [w], x := if op = .cpyAdd then { b1.x with phase := .performed e.id } else b1.x }
  (e.commit b2 s).updCore e.t.die e.t.core fun c =>
    { c with copy := c.copy.modify ch (fun q => q ++ [k]), seq := seq + 1 }

/-- A copy command: a full channel of 16 stalls it at issue. -/
def copyInstr (opc : Nat) (op : CopyOp) (c : Code) (s : State) : Out :=
  runInstr opc c s fun e =>
    let ch := field c.payload.toNat 62 2
    if op = .cpyAdd ∧ !e.b.committed then waits s
    else if e.lanes = 0 then (if op = .cpyAdd then e.committedEnd e.b s else e.finish e.next e.b s)
    else if 16 ≤ ((s.coreOf e.t.die e.t.core).copy.getD ch []).length then waits s
    else .next (e.copyQueue ch op s)

def execCpy (c : Code) (s : State) : Out := copyInstr 0xD0 .cpy c s
def execCpyg (c : Code) (s : State) : Out := copyInstr 0xD1 .cpyg c s
def execCpys (c : Code) (s : State) : Out := copyInstr 0xD2 .cpys c s
def execCpyAdd (c : Code) (s : State) : Out := copyInstr 0xD3 .cpyAdd c s

/-- `QFENCE`: an entry in the Infuser queue or in a channel. -/
def execQfence (c : Code) (s : State) : Out :=
  runInstr 0xD4 c s fun e =>
    let x := c.srcb.bits.toNat % 8
    let mask := c.srca.bits.toNat % 32
    let k := s.coreOf e.t.die e.t.core
    if x = 0 then
      if 32 ≤ k.jq.length then waits s else
      let o := JOp.make (.qfence mask) k.seq e.t e.id e.b.x.pc (BitVec.ofNat 64 (c.toRaw 0xD4).base)
      let b1 := (e.advance e.next e.b).flagUp e.flag
      let w : Waiter := { id := e.id, flag := e.flag, pc := e.b.x.pc, kind := .infuser }
      .next ((e.commit { b1 with waits := b1.waits ++ [w] } s).updCore e.t.die e.t.core fun c =>
        { c with jq := c.jq ++ [o], seq := k.seq + 1 })
    else if 16 ≤ (k.copy.getD (x - 1) []).length then waits s
    else .next (e.copyQueue (x - 1) (.qfence mask) s)

/-- Every entry issued before a fence to a queue that it names has been performed, R229. -/
def Core.fencePassed (c : Core) (seq mask : Nat) : Bool :=
  (!mask.testBit 0 || c.jq.all fun o => decide (seq ≤ o.seq)) &&
    (List.range 4).all fun ch => !mask.testBit (ch + 1) || (c.copy.getD ch []).all fun k => decide (seq ≤ k.seq)

/-! ## Tensor records: R207 -/

def TensorRec.parse (b : List Byte) : TensorRec :=
  { base := fld b 0 8, space := fld b 8 1, esz := fld b 9 1 % 8, dt := fld b 9 1 / 8, ndim := fld b 10 1, pad := fld b 11 1,
    padb := b.getD 12 0, size := (List.range 5).map fun d => fld b (16 + 4 * d) 4,
    box := (List.range 5).map fun d => fld b (36 + 2 * d) 2,
    stride := 0 :: (List.range 4).map fun d => fld b (48 + 4 * d) 4 }

def TensorRec.boxOf (t : TensorRec) (d : Nat) : Nat := t.box.getD d 1
def TensorRec.sizeOf (t : TensorRec) (d : Nat) : Nat := t.size.getD d 1
def TensorRec.elems (t : TensorRec) : Nat := t.box.foldl (fun n b => n * b) 1
def TensorRec.bytes (t : TensorRec) : Nat := 2 ^ t.esz
def TensorRec.at_ (t : TensorRec) : Space := Space.ofCode t.space

/-- A field lies outside Table 8.5. -/
def tensorBad (b : List Byte) : Bool :=
  let t := TensorRec.parse b
  decide (3 < t.space) || decide (4 < t.esz) || t.ndim == 0 || decide (5 < t.ndim) || decide (2 < t.pad) ||
    fld b 13 3 != 0 || fld b 46 2 != 0 || t.base % t.bytes != 0 ||
    ((List.range 5).any fun d => if d < t.ndim then t.sizeOf d == 0 || t.boxOf d == 0
      else t.sizeOf d != 1 || t.boxOf d != 1 || t.stride.getD d 0 != 0) || decide (2 ^ 32 < t.elems * t.bytes)

/-- The coordinates of the p-th element of a command's box. -/
def boxCoords (t : TensorRec) (origin : List Nat) (p : Nat) : List Nat :=
  (List.range 5).map fun d =>
    if d < t.ndim then origin.getD d 0 + p / ((t.box.take d).foldl (fun n b => n * b) 1) % t.boxOf d else 0

/-- The coordinates of an element of a row of a gather or scatter. -/
def rowCoords (t : TensorRec) (origin : List Nat) (row i : Nat) : List Nat :=
  (List.range 5).map fun d =>
    if d = 1 then row else if d < t.ndim then origin.getD d 0 + (if d = 0 then i else 0) else 0

def TensorRec.outside (t : TensorRec) (cs : List Nat) : Bool :=
  (List.range 5).any fun d => decide (t.sizeOf d ≤ cs.getD d 0)

def TensorRec.addr (t : TensorRec) (cs : List Nat) : Nat :=
  t.base + cs.getD 0 0 * t.bytes + ((List.range 4).map fun d => cs.getD (d + 1) 0 * t.stride.getD (d + 1) 0).sum

/-- Some element of the command is out of range. -/
def CopyCmd.anyOutside (k : CopyCmd) (t : TensorRec) (idx : List Nat) : Bool :=
  if k.gathers then
    idx.any fun r => t.outside (rowCoords t k.origin r (t.boxOf 0 - 1))
  else t.outside (boxCoords t k.origin (t.elems - 1))

/-- The width of a data type that `CPY.ADD` supports, R211, with whether it is an interval and whether it is signed. -/
def addType (dt : Nat) : Option (Nat × Bool × Bool) :=
  match dt with
  | 0x02 => some (4, false, true) | 0x03 => some (8, false, true) | 0x06 => some (4, false, false) | 0x07 => some (8, false, false)
  | 0x0C => some (4, true, false) | 0x0D => some (8, true, false) | 0x0E => some (16, true, false)
  | _ => none

/-! ## Ends of a command: R209 -/

/-- What keeps a command from going on. -/
inductive CopyStop where
  | error (code : Nat)
  | park (va : Nat)
  | wait
deriving DecidableEq, Repr

def EngFault.stop : EngFault → CopyStop
  | .violation => .error 1
  | .page va => .park va
  | .wait => .wait

/-- Changes the command at the head of a channel. -/
def State.updHead (s : State) (d c ch : Nat) (f : CopyCmd → CopyCmd) : State :=
  s.updCore d c fun k => { k with copy := k.copy.modify ch fun q => match q with | h :: t => f h :: t | [] => [] }

/-- A command ends in error: later commands of its crew in the channel are discarded. DEDUCED, log 64. -/
def State.copyError (s : State) (r : CrewRef) (ch : Nat) (k : CopyCmd) (code : Nat) : State :=
  let ctx := match s.crewOf r with | some w => w.cfg.handle | none => 0
  let s1 := s.updCrew r fun cw =>
    { cw with ctl := { cw.ctl with cpy := cw.ctl.cpy.modify ch fun x => { x with err := BitVec.ofNat 8 code } } }
  let s2 := s1.report r.die false (some (handleCtx ctx)) 0x0103 ctx (openDetail 0x0103 [BitVec.ofNat 8 code])
  let later := ((s2.coreOf r.die r.core).copy.getD ch []).filter fun x => x.slot == r.slot && x.seq != k.seq
  later.foldl (fun (s : State) x => s.copyEnd r ch x 0) (s2.copyEnd r ch k k.status)

def State.copyStop (s : State) (r : CrewRef) (ch : Nat) (k : CopyCmd) (why : CopyStop) : State :=
  match why with
  | .wait => s
  | .error code => s.copyError r ch k code
  | .park va =>
    let h := match s.crewOf r with | some w => w.cfg.handle | none => 0
    (s.updHead r.die r.core ch fun x => { x with st := .parked va }).report r.die false (some (handleCtx h)) 0x0102 h
      (openDetail 0x0102 [])

/-- The first uninitialised word that a command reads makes one entry, R196. -/
def State.copyUninit (s : State) (r : CrewRef) (ch : Nat) (sp : Space) (u : Option Nat) : State :=
  match u, ((s.coreOf r.die r.core).copy.getD ch []).head? with
  | some a, some k =>
    if k.logged then s
    else (s.logUninit r true (sp == .clus) ch a k.pc.toNat).updHead r.die r.core ch fun x => { x with logged := true }
  | _, _ => s

/-! ## Start: R207 and R208 -/

/-- The engine that performs a command. -/
def CopyCmd.eng (k : CopyCmd) (r : CrewRef) (ch : Nat) : Eng := { r := r, num := ch, pc := k.pc, seq := k.seq }

/-- A read of the cluster's space that waits for a multicast window. -/
def State.engHeld (s : State) (g : Eng) (cw : Crew) (sp : Space) (offs : List Nat) : Option State :=
  if sp = .clus then s.mcHeld g.r cw g.reader offs else none

def State.engLeaves (s : State) (g : Eng) (cw : Crew) (sp : Space) (offs : List Nat) : State :=
  if sp = .clus then s.mcLeaves g.r cw g.reader offs else s

/-- Bytes of the dense side. -/
def CopyCmd.denseAt (k : CopyCmd) (t : TensorRec) (p : Nat) : Nat := k.dense.toNat + p * t.bytes

/-- The checks of a command at the head of its channel, and its start. DEDUCED, log 64. -/
def State.copyStart (s : State) (r : CrewRef) (cw : Crew) (ch : Nat) (k : CopyCmd) : State :=
  let g := k.eng r ch
  let ra := k.recAddr.toNat
  let lo := k.idxOff
  let n := k.icnt
  if ra % 64 ≠ 0 then s.copyError r ch k 2
  else match s.engHeld g cw k.rsp [ra] with
  | some s1 => s1
  | none =>
    match s.engRead g cw k.rsp attrR ra 64 with
    | (.error f, s1) => s1.copyStop r ch k f.stop
    | (.ok rd, s0) =>
      let s1 := ((s0.engDone g).engLeaves g cw k.rsp [ra]).copyUninit r ch k.rsp rd.uninit
      let t := TensorRec.parse rd.bytes
      if tensorBad rd.bytes ∨ k.dense.toNat % t.bytes ≠ 0 then s1.copyError r ch k 2
      else if (k.gathers && decide (4096 < n)) || (k.op == .cpyAdd && (match addType t.dt with
          | some x => x.1 != t.bytes | none => true)) then s1.copyError r ch k 4
      else if k.acnt && !s1.engScratch r cw k.asp k.acoff 8 then s1.copyError r ch k 1
      else
        let offs := (List.range n).map fun i => lo + 4 * i
        let list := k.gathers
        match (if list then s1.engHeld g cw k.isp offs else none) with
        | some s2 => s2
        | none =>
          if list && !(offs.all fun o => s1.engScratch r cw k.isp o 4) then s1.copyError r ch k 1
          else
            let bs := if !list then [] else if k.isp = .clus then s1.mcRead r cw g.reader lo (4 * n) else s1.getScr r cw .core 0 lo (4 * n)
            let idx := if list then (List.range n).map fun i => fld bs (4 * i) 4 else []
            let s2 := if list then
                ((s1.engLeaves g cw k.isp offs).copyUninit r ch k.isp (s1.uninit r cw k.isp lo (4 * n))) else s1
            if t.pad = 0 && k.anyOutside t idx then s2.copyError r ch k 3
            else s2.updHead r.die r.core ch fun x => { x with st := .running, rcd := some t, idx := idx }

/-- `COPY_COMMAND_START` at the core of `cur`, for the channel that `unit` names. -/
def execCopyCommandStart (s : State) : Out :=
  let c := s.coreOf s.cur.die s.cur.core
  match (c.copy.getD s.unit []).head? with
  | none => .next s
  | some k =>
    let r : CrewRef := { die := s.cur.die, core := s.cur.core, slot := k.slot }
    match k.op, s.crewOf r with
    | .qfence m, _ => .next (if c.fencePassed k.seq m then s.copyEnd r s.unit k 0 else s)
    | _, none => .next s
    | _, some cw =>
      if k.rcd.isSome || (match k.st with | .parked _ => true | _ => false) then .next s
      else .next (s.copyStart r cw s.unit k)

/-! ## Delivery: R206, R210 and R211 -/

/-- Reads one element of the source side: pad bytes for an element out of range. -/
def State.copyRead (s : State) (g : Eng) (cw : Crew) (k : CopyCmd) (t : TensorRec) (cs : List Nat) (p : Nat) :
    Except EngFault EngRead × State :=
  if k.dir then s.engRead g cw k.dsp attrR (k.denseAt t p) t.bytes
  else if t.outside cs then (.ok ⟨List.replicate t.bytes (if t.pad = 2 then t.padb else 0), none⟩, s)
  else s.engRead g cw t.at_ attrR (t.addr cs) t.bytes

/-- Writes, adds or skips one element of the destination side: status bits, and the first uninitialised word. -/
def State.copyWrite (s : State) (g : Eng) (cw : Crew) (k : CopyCmd) (t : TensorRec) (cs : List Nat) (p : Nat) (bs : List Byte) :
    Except EngFault EngSum × State :=
  let put := fun (sp : Space) (at_ : Nat) => match s.engWrite g cw sp (fun a => attrW a) at_ bs with
    | (.ok _, s1) => ((.ok ⟨0, none⟩, s1) : Except EngFault EngSum × State)
    | (.error e, s1) => (.error e, s1)
  if !k.dir then put k.dsp (k.denseAt t p)
  else if t.outside cs then (.ok ⟨0, none⟩, s)
  else if k.op = .cpyAdd then
    match addType t.dt with
    | some x => s.engAtomic g cw t.at_ (fun a => attrW a && attrA a) (t.addr cs) (if x.2.1 then 8 else 0) x.1 x.2.2 (leNat bs)
    | none => (.error .violation, s)
  else put t.at_ (t.addr cs)

/-- Where an element's source lies in the cluster's space, if it does. -/
def CopyCmd.clusSource (k : CopyCmd) (t : TensorRec) (cs : List Nat) (p : Nat) : List Nat :=
  if k.dir then (if k.dsp = .clus then [k.denseAt t p] else [])
  else if t.at_ = .clus && !t.outside cs then [t.addr cs] else []

/-- Coordinates of the p-th element of a command, in delivery order. -/
def CopyCmd.coords (k : CopyCmd) (t : TensorRec) (p : Nat) : List Nat :=
  if k.gathers then rowCoords t k.origin (k.idx.getD (p / max 1 (t.boxOf 0)) 0) (p % max 1 (t.boxOf 0)) else boxCoords t k.origin p

/-- Elements that are read in full before the first of them is written: a row of a gather or scatter, R210; else one. -/
def CopyCmd.unit (k : CopyCmd) (t : TensorRec) : Nat := if k.gathers then max 1 (t.boxOf 0) else 1

/-- Elements of a command. -/
def CopyCmd.total (k : CopyCmd) (t : TensorRec) : Nat := if k.gathers then k.idx.length * k.unit t else t.elems

/-- Reads elements in order, up to the first that cannot be read: their bytes, the first uninitialised word, and what stops it. -/
def State.copyReads (s : State) (g : Eng) (cw : Crew) (k : CopyCmd) (t : TensorRec) :
    List Nat → List (List Byte) × Option Nat × Option EngFault × State
  | [] => ([], none, none, s)
  | p :: ps =>
    match s.copyRead g cw k t (k.coords t p) p with
    | (.error e, s1) => ([], none, some e, s1)
    | (.ok rd, s1) =>
      let r := s1.copyReads g cw k t ps
      (rd.bytes :: r.1, rd.uninit.or r.2.1, r.2.2.1, r.2.2.2)

/-- Counts what has been delivered: in the crew's count, and in the arrival counter. -/
def State.copyCount (s : State) (r : CrewRef) (cw : Crew) (ch : Nat) (k : CopyCmd) (bytes rows : Nat) : State :=
  let add := fun (x : CpyCrew) => { x with bytes := x.bytes + BitVec.ofNat 64 bytes }
  let s1 := s.updCrew r fun w => { w with ctl := { w.ctl with cpy := w.ctl.cpy.modify ch add } }
  let n := if k.rows then rows else bytes
  if k.acnt && n != 0 then (s1.copyUninit r ch k.asp (s1.uninit r cw k.asp k.acoff 4)).countArrived r cw k.asp k.acoff n else s1

/-- Delivers elements that have been read, in order, and counts each; what stops it. The last of the command ends it. -/
def State.copyDeliver (s : State) (r : CrewRef) (cw : Crew) (ch : Nat) (k : CopyCmd) (t : TensorRec) :
    List (Nat × List Byte) → Option EngFault × State
  | [] => (none, s)
  | (p, bs) :: ps =>
    let g := k.eng r ch
    match s.copyWrite g cw k t (k.coords t p) p bs with
    | (.error e, s1) => (some e, s1)
    | (.ok w, s1) =>
      let s2 := ((s1.engDone g).copyUninit r ch t.at_ w.uninit).copyCount r cw ch k t.bytes
        (if (p + 1) % k.unit t = 0 then 1 else 0)
      (s2.updHead r.die r.core ch fun x => { x with pos := p + 1, buf := x.buf.drop 1, status := x.status ||| w.st }).copyDeliver
        r cw ch k t ps

/-- The command at the head of a channel, as it stands. -/
def State.copyHead (s : State) (r : CrewRef) (ch : Nat) (k : CopyCmd) : CopyCmd :=
  match (s.coreOf r.die r.core).copy.getD ch [] with
  | h :: _ => h
  | [] => k

/-- Goes on with a running command: reads what is still to be read of its next element or row, then delivers it. A page that is
missing parks the channel, a violation ends the command after the elements before it, R209. DEDUCED, log 64. -/
def State.copyStep (s : State) (r : CrewRef) (cw : Crew) (ch : Nat) (k : CopyCmd) (t : TensorRec) : State :=
  let g := k.eng r ch
  let have_ := k.pos + k.buf.length
  let last := min (k.total t) (k.pos / k.unit t * k.unit t + k.unit t)
  let todo := (List.range (last - have_)).map fun i => have_ + i
  let offs := todo.flatMap fun p => k.clusSource t (k.coords t p) p
  if k.total t ≤ k.pos then s.copyEnd r ch k k.status
  else match (if offs.isEmpty then none else s.mcHeld r cw g.reader offs) with
  | some s1 => s1
  | none =>
    let rd := s.copyReads g cw k t todo
    let bufs := k.buf ++ rd.1
    let s1 := ((if offs.isEmpty then rd.2.2.2 else rd.2.2.2.mcLeaves r cw g.reader offs).copyUninit r ch
      (if k.dir then k.dsp else t.at_) rd.2.1).updHead r.die r.core ch fun x => { x with buf := bufs }
    match rd.2.2.1 with
    | some .wait => s1
    | some (.page va) => s1.copyStop r ch (s1.copyHead r ch k) (.park va)
    | e =>
      let w := s1.copyDeliver r cw ch k t ((List.range bufs.length).zip bufs |>.map fun x => (k.pos + x.1, x.2))
      let now := w.2.copyHead r ch k
      match w.1, e with
      | some f, _ => w.2.copyStop r ch now f.stop
      | none, some f => w.2.copyStop r ch now f.stop
      | none, none => if k.total t ≤ now.pos then w.2.copyEnd r ch now now.status else w.2

/-- `COPY_COMMAND_COMPLETE` at the core of `cur`, for the channel that `unit` names: the running command goes on. -/
def execCopyCommandComplete (s : State) : Out :=
  match ((s.coreOf s.cur.die s.cur.core).copy.getD s.unit []).head? with
  | none => .next s
  | some k =>
    let r : CrewRef := { die := s.cur.die, core := s.cur.core, slot := k.slot }
    match s.crewOf r, k.rcd, k.st with
    | some cw, some t, .running => .next (s.copyStep r cw s.unit k t)
    | _, _, _ => .next s

/-! ## `CPY_CTL` and the warning log: R197 and R206 -/

def execCpyCtlReset (s : State) : Out := .next (s.cpyReset s.cur.crew s.unit)
def execCpyCtlClrerr (s : State) : Out := .next (s.cpyClrerr s.cur.crew s.unit)

end Sys2Proof.Machine
end

