-- ==== Sys2Proof/Machine/Caddy.lean ====
section
/-!
DEFINITION. The Caddy: tables, positions, the placing of keys, spill lists, and the ends of Infuser operations: R415 to R422,
R427, R445, R450 and R451.
-/
namespace Sys2Proof.Machine

/-! ## Tables and entries: R415 to R417 -/

def Crew.table (cw : Crew) (t : Nat) : JTable := cw.tables.get JTable.off t
def Crew.plan (cw : Crew) (t : Nat) : JTable := cw.planned.get JTable.off t
def State.table (s : State) (r : CrewRef) (t : Nat) : JTable :=
  match s.crewOf r with
  | some cw => cw.table t
  | none => JTable.off
def State.setTable (s : State) (r : CrewRef) (t : Nat) (x : JTable) : State :=
  s.updCrew r fun cw => { cw with tables := cw.tables.set t x }
def State.updTable (s : State) (r : CrewRef) (t : Nat) (f : JTable → JTable) : State := s.setTable r t (f (s.table r t))

def JTable.fmt (t : JTable) : Fmt := if t.kind = 0 then f32 else f64
def JTable.slots (t : JTable) : Nat := t.size * (t.kind + 1)
/-- The first slot, on its core, of the entry at a position. -/
def JTable.slot (t : JTable) (cw : Crew) (pos : Nat) : Nat := cw.cfg.caddyBase + t.base + pos * (t.kind + 1)

/-- A key: table, row, column, R416. -/
def jkey (t i j : Nat) : Nat := t * 2 ^ 44 + i % 2 ^ 22 * 2 ^ 22 + j % 2 ^ 22
def keyI (key : Nat) : Nat := field key 22 22
def keyJ (key : Nat) : Nat := field key 0 22
/-- A difference of coordinates, modulo 2^22. -/
def coordSub (a b : Nat) : Nat := (a + 2 ^ 22 - b % 2 ^ 22) % 2 ^ 22

/-- The position of a key in a dense-direct table. -/
def JTable.direct (t : JTable) (key : Nat) : Option Nat :=
  let di := coordSub (keyI key) t.i0
  let dj := coordSub (keyJ key) t.j0
  if di < t.size / max 1 t.width ∧ dj < t.width then some (di * t.width + dj) else none

/-- The home position of a key in a hashed table. -/
def JTable.home (t : JTable) (key : Nat) : Nat := foldBits (Nat.log2 t.size) 44 (key % 2 ^ 44)

/-- The positions that placing a key tries, in order, R418. -/
def JTable.probes (t : JTable) (key : Nat) : List Nat :=
  if t.mode = 1 then (t.direct key).toList
  else if t.mode = 2 then (List.range t.plim).map fun n => (t.home key + n) % t.size
  else []

/-- An entry's interval, and whether its bits are ill-formed, as those of a restored entry may be. -/
def JTable.entryIvl (t : JTable) (e : CEntry) : Ivl × Bool := t.fmt.readPair (e.lo.toNat + e.hi.toNat * 2 ^ t.fmt.width)

/-- An entry from the bits of a pair. -/
def JTable.entry (t : JTable) (key bits : Nat) : CEntry :=
  { key := key, lo := BitVec.ofNat 64 (bits % 2 ^ t.fmt.width), hi := BitVec.ofNat 64 (bits / 2 ^ t.fmt.width) }

/-- The entries of a crew's table, by position. -/
def State.entries (s : State) (r : CrewRef) (cw : Crew) (t : JTable) : List (Nat × CEntry) :=
  let lo := t.slot cw 0
  ((s.coreOf r.die r.core).caddy.filter fun e => decide (lo ≤ e.1) && decide (e.1 < lo + t.slots)).map fun e =>
    ((e.1 - lo) / (t.kind + 1), e.2)

/-- Empties every entry of a table. -/
def State.clearEntries (s : State) (r : CrewRef) (t : JTable) : State :=
  match s.crewOf r with
  | none => s
  | some cw =>
    let lo := t.slot cw 0
    s.updCore r.die r.core fun c => { c with caddy := c.caddy.filter fun e => !(decide (lo ≤ e.1) && decide (e.1 < lo + t.slots)) }

/-- A table as `JCLR` leaves its fields, R425. -/
def JTable.cleared (t : JTable) (reset : Bool) : JTable :=
  { t with sphead := 0, sptail := 0, spcount := 0, spills := 0, outwin := 0, chnext := if reset then t.chbase else t.chnext }

def State.clearTable (s : State) (r : CrewRef) (t : Nat) (reset : Bool) : State :=
  let x := s.table r t
  if x.mode = 0 then s else (s.clearEntries r x).setTable r t (x.cleared reset)

/-! ## Sums -/

def ivlOf : Option (Bnd × Bnd) → Ivl
  | none => .empty
  | some (lo, hi) => .mk lo hi
def ivlPair : Ivl → Option (Bnd × Bnd)
  | .empty => none
  | .mk lo hi => some (lo, hi)

/-- An entry or a spilled value with a further sum added, rounded outward once per bound; alone, the sum rounded, R258. -/
def JTable.added (t : JTable) (old : Option (Ivl × Bool)) (v : Ivl) : Res :=
  match old with
  | some e => let r := t.fmt.image [e.1, v] ⟨ivAdd e.1 v, false⟩; ⟨r.bits, r.st ||| stIf e.2 stIll⟩
  | none => t.fmt.image [v] ⟨v, false⟩

/-! ## Ends of a step of an operation -/

/-- What keeps an operation from going on. -/
inductive JStop where
  /-- It needs a chunk and there is none, R422. -/
  | chunk
  | park (va : Nat)
  | error (code : Nat)
  /-- It waits for multicast windows, R204, or for an answer of another package. -/
  | window
deriving DecidableEq, Repr

def EngFault.jstop : EngFault → JStop
  | .violation => .error 5
  | .page va => .park va
  | .wait => .window

/-! ## Chunks and spills: R420 to R422 -/

def JTable.chunk (t : JTable) : Nat := if t.chsz = 0 then 64 else 256
def JTable.tuple (t : JTable) : Nat := if t.kind = 0 then 16 else 32
/-- Tuples of a chunk. -/
def JTable.cap (t : JTable) : Nat := (t.chunk - 16) / t.tuple
def JTable.tupleBytes (t : JTable) (key bits : Nat) : List Byte :=
  if t.kind = 0 then leBytes 8 (key % 2 ^ 48) ++ leBytes 8 bits
  else leBytes 8 (key % 2 ^ 48) ++ leBytes 8 0 ++ leBytes 16 bits
def JTable.hasChunk (t : JTable) : Bool := decide (t.chnext + t.chunk ≤ t.chlimit)

/-- Writes to `glob` space in order, up to the first that fails. -/
def State.globWrites (s : State) (g : Eng) (cw : Crew) : List (Nat × List Byte) → Option EngFault × State
  | [] => (none, s)
  | (va, bs) :: ws =>
    match s.engWrite g cw .glob (fun a => attrW a) va bs with
    | (.error e, s1) => (some e, s1)
    | (.ok _, s1) => s1.globWrites g cw ws

/-- The writes that append a tuple to a list of chunks: tail chunk (0 for none), tuples in it, and the chunk to take if it is
full. -/
def JTable.append (t : JTable) (tail count next : Nat) (tuple : List Byte) : List (Nat × List Byte) :=
  if tail = 0 ∨ t.cap ≤ count then
    (if tail = 0 then [] else [(tail, leBytes 8 next)]) ++
      [(next + 16, tuple), (next, leBytes 8 0 ++ leBytes 4 1 ++ leBytes 4 0)]
  else [(tail + 16 + t.tuple * count, tuple), (tail + 8, leBytes 4 (count + 1))]

/-- Appends a tuple to a table's spill list. DEDUCED, log 67. -/
def State.spillTuple (s : State) (g : Eng) (cw : Crew) (t : Nat) (key bits : Nat) : Option JStop × State :=
  let x := s.table g.r t
  let new := x.sptail == 0 || decide (x.cap ≤ x.spcount)
  if new && !x.hasChunk then (some .chunk, s)
  else match s.globWrites g cw (x.append x.sptail x.spcount x.chnext (x.tupleBytes key bits)) with
    | (some e, s1) => (some e.jstop, s1)
    | (none, s1) =>
      let y := if new then
          { x with sphead := if x.sptail = 0 then x.chnext else x.sphead, sptail := x.chnext, spcount := 1,
                   chnext := x.chnext + x.chunk, spills := x.spills + 1 }
        else { x with spcount := x.spcount + 1, spills := x.spills + 1 }
      (none, (s1.engDone g).setTable g.r t y)

/-- The first of the positions that holds the key or is empty, with its entry. -/
def firstPlace (entry : Nat → Option CEntry) (key : Nat) : List Nat → Option (Nat × Option CEntry)
  | [] => none
  | p :: ps =>
    match entry p with
    | none => some (p, none)
    | some e => if e.key = key then some (p, some e) else firstPlace entry key ps

/-- Places one key, R418: what it stops at, the status bits, and the state after. -/
def State.placeKey (s : State) (g : Eng) (cw : Crew) (t : Nat) (m : JSum) : Option JStop × BitVec 6 × State :=
  let x := s.table g.r t
  let caddy := (s.coreOf g.r.die g.r.core).caddy
  let v := ivlOf m.val
  match firstPlace (fun p => caddy.find? (x.slot cw p)) m.key (x.probes m.key) with
  | some (p, old) =>
    let r := x.added (old.map x.entryIvl) v
    (none, m.st ||| r.st, s.updCore g.r.die g.r.core fun c => { c with caddy := c.caddy.set (x.slot cw p) (x.entry m.key r.bits) })
  | none =>
    let r := x.added none v
    match s.spillTuple g cw t m.key r.bits with
    | (some e, s1) => (some e, 0, s1)
    | (none, s1) => (none, m.st ||| r.st, s1)

/-- Places keys one after another, R419: what is left, what it stops at, the status bits, and the state after. -/
def State.placeKeys (s : State) (g : Eng) (cw : Crew) (t : Nat) : List JSum → List JSum × Option JStop × BitVec 6 × State
  | [] => ([], none, 0, s)
  | m :: ms =>
    match s.placeKey g cw t m with
    | (some e, _, s1) => (m :: ms, some e, 0, s1)
    | (none, st, s1) =>
      let r := s1.placeKeys g cw t ms
      (r.1, r.2.1, st ||| r.2.2.1, r.2.2.2)

/-! ## Operations: R427, R428, R450 and R451 -/

def JOp.crew (o : JOp) (d c : Nat) : CrewRef := { die := d, core := c, slot := o.slot }
/-- The engine that performs an operation. -/
def JOp.eng (o : JOp) (d c : Nat) : Eng := { r := o.crew d c, num := 4, pc := o.pc, seq := o.seq }

def State.updOp (s : State) (d c seq : Nat) (f : JOp → JOp) : State :=
  s.updCore d c fun k => { k with jq := k.jq.map fun o => if o.seq = seq then f o else o }

/-- The flag of an instruction clears once each of its operations has read its operands, or has left the queue. -/
def State.jReads (s : State) (d c : Nat) (o : JOp) : State :=
  if (s.coreOf d c).jq.any fun x => x.thread == o.thread && x.waitId == o.waitId && !x.readDone then s
  else s.waitDone o.thread o.waitId

/-- The operation acts through a batch. -/
def JOpKind.batched : JOpKind → Bool
  | .pass => true | .bit => true | .stream => true | .drain => true
  | _ => false

/-- An operation leaves the queue; its status bits wait for its batch, R265. -/
def State.opDone (s : State) (d c : Nat) (o : JOp) : State :=
  let s1 := s.updCore d c fun k => { k with jq := k.jq.filter fun x => x.seq != o.seq }.parkedOnly
  let s2 := if o.kind.batched then
      s1.updThread o.thread fun b => { b with batchSt := b.batchSt.upd 0 (o.batch.getD 16) (fun st => st ||| o.status) }
    else s1
  s2.jReads d c o

/-- An operation ends in error. -/
def State.opError (s : State) (d c : Nat) (o : JOp) (code : Nat) : State :=
  let r := o.crew d c
  let h := match s.crewOf r with | some w => w.cfg.handle | none => 0
  let s1 := s.updTable r o.tbl fun t => { t with err := code, stopped := if o.stopped then false else t.stopped }
  (s1.report d false (some (handleCtx h)) 0x0105 h (openDetail 0x0105 [BitVec.ofNat 8 code])).opDone d c o

/-- An operation stops in the middle: for want of a chunk, unless its band runs no more; or the queue parks. -/
def State.opStop (s : State) (d c : Nat) (o : JOp) (why : JStop) : State :=
  let r := o.crew d c
  match why with
  | .window => s
  | .error code => s.opError d c o code
  | .chunk =>
    match s.thread o.thread with
    | some b =>
      if b.running then (s.updOp d c o.seq fun x => { x with stopped := true, told := false }).updTable r o.tbl fun t => { t with stopped := true }
      else s.opError d c o 3
    | none => s.opError d c o 3
  | .park va =>
    let h := match s.crewOf r with | some w => w.cfg.handle | none => 0
    ((s.updOp d c o.seq fun x => { x with st := .parked va }).updCore d c fun k => { k with jqParked := some va }).report d false
      (some (handleCtx h)) 0x0104 h (openDetail 0x0104 [])

/-- The first uninitialised word that an operation reads makes one entry, R196: `LANE` 4. -/
def State.opUninit (s : State) (d c : Nat) (o : JOp) (clus : Bool) (u : Option Nat) : State :=
  match u with
  | none => s
  | some a =>
    if (s.coreOf d c).jq.any fun x => x.seq == o.seq && !x.logged then
      (s.logUninit (o.crew d c) true clus 4 a o.pc.toNat).updOp d c o.seq fun x => { x with logged := true }
    else s

/-- The crew's operations are held at their step boundaries by a `JSAVE` whose band is parked, until the band has run it
again, R452. -/
def State.jHeld (s : State) (r : CrewRef) : Bool :=
  match s.crewOf r with
  | some cw => (match cw.ctl.jHold with
    | some k => (match cw.bands.find? k with | some b => b.running && b.x.pc == b.region.restart | none => false)
    | none => false)
  | none => false

/-- A `QFENCE` of the Infuser queue, which other crews' entries behind it wait for too, R229. -/
def JOp.isFence (o : JOp) : Bool := match o.kind with | .qfence _ => true | _ => false

/-- The operation to be performed next: the first that no stopped operation of its crew stands before, R422. Nothing passes a
`QFENCE` that waits, R229. -/
def nextOp (held : Nat → Bool) (passed : JOp → Bool) : List Nat → List JOp → Option JOp
  | _, [] => none
  | blocked, o :: os =>
    if blocked.contains o.slot || held o.slot then
      (if o.isFence && !passed o then none else nextOp held passed blocked os)
    else if o.stopped then nextOp held passed (o.slot :: blocked) os
    else some o

def State.nextOp (s : State) (d c : Nat) : Option JOp :=
  let k := s.coreOf d c
  if k.jqParked.isSome then none
  else Machine.nextOp (fun slot => s.jHeld { die := d, core := c, slot := slot })
    (fun o => match o.kind with | .qfence m => k.fencePassed o.seq (m - m % 2) | _ => true) [] k.jq

/-! ## What `JQRY` reports: Table 16.3 -/

def JOp.opk (o : JOp) : Nat :=
  match o.kind with
  | .pass => 1 | .bit => 2 | .stream => 3 | .drain => 4
  | _ => 0

/-- The progress word of an operation. -/
def JOp.progress (o : JOp) : Nat :=
  if o.opk = 0 then 0
  else o.opk * 2 ^ 60 + (o.batch.getD 0) % 16 * 2 ^ 56 + (o.thread.band.getD 0) % 16 * 2 ^ 52 + o.step % 2 ^ 20 * 2 ^ 32 + o.keyPos % 2 ^ 32

def JOp.halted (o : JOp) : Bool := o.stopped || (match o.st with | .parked _ => true | _ => false)

def State.jQuery (s : State) (r : CrewRef) (cw : Crew) (t w : Nat) : Nat :=
  let x := cw.table t
  if x.mode = 0 then 0
  else match w with
    | 0 => x.spills % 2 ^ 32 * 2 ^ 32 + (s.entries r cw x).length
    | 1 => x.chnext % 2 ^ 56
    | 2 => match (s.coreOf r.die r.core).jq.find? fun o => o.slot == r.slot && o.tbl == t && o.opk != 0 && o.halted with
      | some o => o.progress
      | none => 0
    | _ => x.outwin % 2 ^ 32 * 2 ^ 32 + x.err % 256 * 2 ^ 8 + (if x.stopped then 1 else 0)

end Sys2Proof.Machine
end

