-- ==== Sys2Proof/Machine/Infuser.lean ====
section
/-!
DEFINITION. The Infuser's instructions at issue, and the queue's simple entries: R423 to R441 and R444.
-/
namespace Sys2Proof.Machine

/-! ## The command word and the uniform operands: Tables 16.4 and 16.7 -/

def JOp.afmt (o : JOp) : Nat := field o.cmd.toNat 55 5
def JOp.bfmt (o : JOp) : Nat := field o.cmd.toNat 50 5
def JOp.ainf (o : JOp) : Bool := o.cmd.getLsbD 49
def JOp.binf (o : JOp) : Bool := o.cmd.getLsbD 48
def JOp.asp (o : JOp) : Space := if o.cmd.getLsbD 47 then .clus else .core
def JOp.bsp (o : JOp) : Space := if o.cmd.getLsbD 46 then .clus else .core
def JOp.scaled (o : JOp) : Bool := o.cmd.getLsbD 45
def JOp.masked (o : JOp) : Bool := o.cmd.getLsbD 44
/-- Space codes 00 `glob`, 01 `core`, 10 `clus`. -/
def spaceOf2 (n : Nat) : Space := if n = 0 then .glob else if n = 1 then .core else .clus
def JOp.mrsp (o : JOp) : Space := spaceOf2 (field o.cmd.toNat 37 2)
def JOp.klen (o : JOp) : Nat := 32 * (field o.cmd.toNat 32 5 + 1)
def JOp.u (o : JOp) (k : Nat) : Nat := (o.unis.getD k 0).toNat
def JOp.ulo (o : JOp) (k : Nat) : Nat := o.u k % 2 ^ 32
def JOp.uhi (o : JOp) (k : Nat) : Nat := o.u k / 2 ^ 32
/-- Bytes of an element of A or B. -/
def elemBytes (code : Nat) : Nat := if isB8 code then 1 else if code = 0x0A then 4 else if code = 0x0D then 8 else 2
def JOp.esz (o : JOp) : Nat := elemBytes o.afmt

/-- The `n`-th uniform register from source B's on. -/
def Env.ureg (e : Env) (n : Nat) : Nat :=
  match e.c.srcb with
  | .uni k => e.uni 2 0 (k.toNat + n)
  | _ => 0

/-- The uniform words that an operation keeps: those of its operands, then the mask record's address. -/
def Env.jUnis (e : Env) (n : Nat) : List W64 := (List.range n).map fun k => BitVec.ofNat 64 (e.ureg k)

/-! ## Checks at issue: R417, R432, R435 and R444 -/

/-- Coordinates in bits [21:0] and [53:32]; the other bits are zero, R435. -/
def coordsOk (w : Nat) : Bool := field w 22 10 == 0 && field w 54 10 == 0

/-- The permission-violation trap of a check at issue. DEDUCED, log 66. -/
def Env.jRefuse (e : Env) (code addr : Nat) (lanes : BitVec 64) (s : State) : Out :=
  .next (e.raise 7 (BitVec.ofNat 64 (code * 2 ^ 60 + addr % 2 ^ 56)) lanes s)

/-- A scratch operand lies in its space, its offset a multiple of the alignment. -/
def State.extentOk (s : State) (r : CrewRef) (cw : Crew) (sp : Space) (align off n : Nat) : Bool :=
  off % align == 0 && decide (off + n ≤ s.spaceSize r.die cw sp)

/-- The first of several extents that fails: its offset. -/
def State.badExtent (s : State) (r : CrewRef) (cw : Crew) : List (Space × Nat × Nat × Nat) → Option Nat
  | [] => none
  | (sp, align, off, n) :: xs => if s.extentOk r cw sp align off n then s.badExtent r cw xs else some off

/-! ## Entering the queue: R427 -/

/-- Puts the operations of an instruction into the queue, and the band on. -/
def Env.jQueue (e : Env) (kind : WaitKind) (ops : List JOp) (s : State) : State :=
  let w : Waiter := { id := e.id, flag := e.flag, pc := e.b.x.pc, kind := kind }
  let b1 := ((e.advance e.next e.b).noteClob e.id w.keys).flagUp e.flag
  (e.commit { b1 with waits := b1.waits ++ [w] } s).updCore e.t.die e.t.core fun c =>
    let put := fun (c : Core) (o : JOp) => { c with jq := c.jq ++ [{ o with seq := c.seq }], seq := c.seq + 1 }
    ops.foldl put c

/-- An operation of the instruction. -/
def Env.jOp (e : Env) (kind : JOpKind) (tbl : Nat) (unis : List W64) : JOp :=
  { JOp.make kind 0 e.t e.id e.b.x.pc (BitVec.ofNat 64 (e.c.toRaw e.opc).base) with
    cmd := e.c.payload, tbl := tbl, unis := unis }

/-- The queue lacks places. -/
def Env.jFull (e : Env) (n : Nat) (s : State) : Bool := decide (32 < (s.coreOf e.t.die e.t.core).jq.length + n)

/-! ## The simple entries of the queue: R392, R425 and R426 -/

/-- The nine fields that decide whether a `JCFG` keeps a table's entries. -/
def JTable.shape (t : JTable) : List Nat := [t.mode, t.kind, t.plim, t.chsz, t.base, t.size, t.width, t.i0, t.j0]

/-- A table as a descriptor of Table 16.2 gives it. -/
def JTable.parse (b : List Byte) : JTable :=
  { JTable.off with
    mode := fld b 0 1, kind := fld b 1 1, plim := fld b 2 1, chsz := fld b 3 1, base := fld b 4 4, size := fld b 8 4,
    width := fld b 12 4, i0 := fld b 16 4, j0 := fld b 20 4, chbase := fld b 24 8, chlimit := fld b 32 8, chnext := fld b 40 8 }

/-- Performs a `JCFG`. -/
def State.configure (s : State) (r : CrewRef) (t : Nat) (d : JTable) : State :=
  let x := s.table r t
  if d.mode = 0 then (s.clearEntries r x).setTable r t JTable.off
  else if x.shape = d.shape then s.setTable r t { x with chbase := d.chbase, chlimit := d.chlimit, chnext := d.chnext }
  else (s.clearTable r t false).setTable r t { d with err := x.err, stopped := x.stopped }

/-- The uniform register of a `JQRY` gets its word. -/
def State.jAnswer (s : State) (o : JOp) (v : Nat) : State :=
  s.updWaiting o.thread o.waitId fun b =>
    match b.waits.find? fun w => w.id == o.waitId with
    | some w =>
      let p : Pend := { id := o.waitId, ready := none, flag := w.flag, latch := none, status := 0,
                        writes := w.keys.map fun k => (k, BitVec.ofNat 64 v) }
      { b with waits := b.waits.filter fun x => x.id != o.waitId, pends := b.pends ++ [p] }
    | none => b

/-- Performs an entry that is no pass and no drain; none while a `QFENCE` waits. -/
def State.simpleEntry (s : State) (d c : Nat) (o : JOp) : Option State :=
  let r := o.crew d c
  match o.kind with
  | .cfg => some ((s.configure r o.tbl (JTable.parse o.desc)).opDone d c o)
  | .clr reset => some ((s.clearTable r o.tbl reset).opDone d c o)
  | .qry w =>
    match s.crewOf r with
    | some cw => some ((s.jAnswer o (s.jQuery r cw o.tbl w)).opDone d c o)
    | none => some (s.opDone d c o)
  | .qfence m => if (s.coreOf d c).fencePassed o.seq (m - m % 2) then some (s.opDone d c o) else none
  | _ => none

/-- A stopped operation whose band runs no more ends with error 3; a drain whose region has restarted leaves the queue, R422
and R449. -/
def State.jPrune (s : State) (d c : Nat) : State :=
  (s.coreOf d c).jq.foldl (fun (s : State) o =>
    match s.thread o.thread with
    | none => s
    | some b =>
      if o.stopped && !b.running then s.opError d c o 3
      else if o.kind == .drain && !(b.waits.any fun w => w.id == o.waitId) then
        (s.updCore d c fun k => { k with jq := k.jq.filter fun x => x.seq != o.seq }.parkedOnly).updTable (o.crew d c) o.tbl
          fun t => { t with stopped := if o.stopped then false else t.stopped }
      else s) s

/-- Performs the simple entries that stand at the front of the queue. -/
def State.jFront (s : State) (d c : Nat) : Nat → State
  | 0 => s
  | n + 1 =>
    match s.nextOp d c with
    | none => s
    | some o =>
      match s.simpleEntry d c o with
      | some s1 => s1.jFront d c n
      | none => s

def State.jSettle (s : State) (d c : Nat) : State := (s.jPrune d c).jFront d c 33

/-! ## `JPASS`, `JBIT` and `JSTREAM` -/

/-- The instruction may enter the queue: it finds its crew, no trap holds it, and there is room for its operations. -/
def Env.jIssue (e : Env) (s : State) (k : Crew → Out) : Out :=
  match s.crewOf e.t.crew with
  | none => .fault .noThread
  | some cw =>
    if (cw.plan (field e.c.payload.toNat 60 4)).mode = 0 then e.jRefuse 7 0 e.lanes s else k cw

/-- The mask record's address. -/
def Env.maskReg (e : Env) : List W64 :=
  if e.c.payload.getLsbD 44 then [BitVec.ofNat 64 (e.uni 2 0 (field e.c.payload.toNat 39 5))] else []

/-- `JPASS`: one operation for each quarter with an acting lane. -/
def execJpass (c : Code) (s : State) : Out :=
  runInstr 0xF0 c s fun e =>
    if e.lanes = 0 then e.finish e.next e.b s
    else e.jIssue s fun cw =>
      let o := e.jOp .pass (field c.payload.toNat 60 4) (e.jUnis 3 ++ e.maskReg)
      let n := o.esz
      let row := fun (l : Nat) => e.srcA l 32
      let bad := e.ls.filter fun l => !s.extentOk e.t.crew cw o.asp 16 (row l) (32 * n)
      let rest := [(o.bsp, 16, o.ulo 0, 512 * n)] ++
        (if o.scaled then e.ls.map (fun l => (o.asp, 1, o.uhi 0 + l, 1)) ++ [(o.bsp, 1, o.ulo 1, 16)] else [])
      let quarters := (List.range 8).filter fun q => e.ls.any fun l => l / 8 == q
      if o.uhi 1 != 0 || !coordsOk (o.u 2) then e.jRefuse 7 0 e.lanes s
      else match bad with
        | l :: _ => e.jRefuse 2 (row l) (maskOf 64 fun i => bad.contains i) s
        | [] =>
          match s.badExtent e.t.crew cw rest with
          | some off => e.jRefuse 2 off e.lanes s
          | none =>
            if e.jFull quarters.length s then waits s
            else .next (e.jQueue .infuser (quarters.map fun q =>
              { o with quarter := q, rows := (List.range 8).map fun i =>
                  if e.lanes.getLsbD (8 * q + i) then some (row (8 * q + i)) else none }) s)

/-- `JBIT`: one operation. -/
def execJbit (c : Code) (s : State) : Out :=
  runInstr 0xF1 c s fun e =>
    if e.lanes = 0 then e.finish e.next e.b s
    else e.jIssue s fun cw =>
      let o := e.jOp .bit (field c.payload.toNat 60 4) (e.jUnis 4 ++ e.maskReg)
      let k := o.klen
      let exts := [(o.asp, 16, o.ulo 0, 2 * k), (o.asp, 16, o.uhi 0, 16 * k * o.esz), (o.bsp, 16, o.ulo 1, 2 * k),
          (o.bsp, 16, o.uhi 1, 16 * k * o.esz)] ++
        (if o.scaled then [(o.asp, 1, o.ulo 3, k / 2), (o.bsp, 1, o.uhi 3, k / 2)] else [])
      if !coordsOk (o.u 2) then e.jRefuse 7 0 e.lanes s
      else match s.badExtent e.t.crew cw exts with
        | some off => e.jRefuse 2 off e.lanes s
        | none => if e.jFull 1 s then waits s else .next (e.jQueue .infuser [o] s)

/-- `JSTREAM`: one operation. -/
def execJstream (c : Code) (s : State) : Out :=
  runInstr 0xF2 c s fun e =>
    if e.lanes = 0 then e.finish e.next e.b s
    else e.jIssue s fun cw =>
      let o := e.jOp .stream (field c.payload.toNat 60 4) (e.jUnis 2)
      match s.badExtent e.t.crew cw [(o.asp, 16, o.ulo 0, 16 * o.uhi 0), (o.bsp, 16, o.ulo 1, 16 * o.uhi 1)] with
      | some off => e.jRefuse 2 off e.lanes s
      | none => if e.jFull 1 s then waits s else .next (e.jQueue .infuser [o] s)

/-! ## `JBATCH` and `JWAIT`: R428 and R429 -/

/-- A batch of a band has come to its end: none of its operations is in the queue, nor kept by a `JSAVE`. -/
def State.batchOver (s : State) (t : ThreadRef) (n : Nat) : Bool :=
  let mine := fun (o : JOp) => o.thread == t && o.batch == some n && o.kind.batched
  !(s.coreOf t.die t.core).jq.any mine && (match s.crewOf t.crew with | some cw => !cw.ctl.jsaved.any mine | none => true)

/-- A pending batch completes: its status bits are set and the flag of its `JBATCH` clears, R265 and R428. -/
def State.batchDone (s : State) (t : ThreadRef) (n : Nat) : State :=
  s.updThread t fun b =>
    let b1 := { b with batchPend := b.batchPend.set n false, batchSt := b.batchSt.set n 0 }.addStatus (s.cyc t.die) (b.batchSt.get 0 n)
    match b1.waits.find? fun w => w.kind == .batch n with
    | some w => b1.dropWait w.id
    | none => b1

/-- `BATCH_COMPLETE`, at the band of `cur` for the batch that `unit` names. -/
def execBatchComplete (s : State) : Out :=
  match s.thread s.cur with
  | some b => .next (if b.batchPend.get false s.unit && s.batchOver s.cur s.unit then s.batchDone s.cur s.unit else s)
  | none => .next s

/-- `JBATCH`: every open operation of the band closes into its next batch. -/
def execJbatch (c : Code) (s : State) : Out :=
  runInstr 0xF3 c s fun e =>
    let n := e.b.batchNext
    if e.b.batchPend.get false n then waits s
    else
      let b0 := { e.b with batchNext := (n + 1) % 16, batchPend := e.b.batchPend.set n true,
                           batchSt := (e.b.batchSt.set n (e.b.batchSt.get 0 16)).set 16 0 }
      let b1 := (e.advance e.next b0).flagUp e.flag
      let w : Waiter := { id := e.id, flag := e.flag, pc := e.b.x.pc, kind := .batch n }
      let p := { e.fixed 1 (e.uniWrites n) none 0 with flag := none }
      let b2 := { b1 with waits := b1.waits ++ [w] }.pend p
      let close := fun (o : JOp) => if o.thread == e.t && o.batch.isNone && o.kind.batched then { o with batch := some n } else o
      let s1 := (e.commit b2 s).updCore e.t.die e.t.core fun k => { k with jq := k.jq.map close }
      .next (if s1.batchOver e.t n then s1.batchDone e.t n else s1)

/-- `JWAIT`: the band waits until the batch is not pending. A stopped operation of the batch delivers its trap once for each
stop; the `JWAIT` that runs again restarts it. -/
def execJwait (c : Code) (s : State) : Out :=
  runInstr 0xF4 c s fun e =>
    let n := e.srcA 0 64 % 16
    if !e.b.batchPend.get false n then e.finish e.next e.b s
    else
      let k := s.coreOf e.t.die e.t.core
      match k.jq.find? fun o => o.thread == e.t && o.batch == some n && o.stopped with
      | none => waits s
      | some o =>
        if o.told then
          .next ((s.updOp e.t.die e.t.core o.seq fun x => { x with stopped := false, told := false }).updTable e.t.crew o.tbl
            fun t => { t with stopped := false })
        else
          .next (e.raise 10 (BitVec.ofNat 64 (o.tbl + 256 * n)) e.lanes
            (s.updOp e.t.die e.t.core o.seq fun x => { x with told := true }))

/-! ## `JDRAIN` at issue: R444 and R449 -/

def JOp.list (o : JOp) : Bool := o.cmd.getLsbD 59
def JOp.ofmt (o : JOp) : Nat := field o.cmd.toNat 54 5
def JOp.oinf (o : JOp) : Bool := o.cmd.getLsbD 53
def JOp.amx (o : JOp) : Bool := o.cmd.getLsbD 52
def JOp.amaxSp (o : JOp) : Space := spaceOf2 (field o.cmd.toNat 50 2)
def JOp.rsp (o : JOp) : Space := if o.list then .glob else spaceOf2 (field o.cmd.toNat 48 2)
def JOp.ssp (o : JOp) : Space := spaceOf2 (field o.cmd.toNat 46 2)

/-- What is wrong with an address: bits above [55:0], alignment, or bytes outside the space. DEDUCED, log 66. -/
def State.badAddr (s : State) (r : CrewRef) (cw : Crew) (sp : Space) (align va n : Nat) : Option (Nat × Nat) :=
  if sp = .glob ∧ 2 ^ 56 ≤ va then some (3, va)
  else if va % align ≠ 0 ∨ (sp ≠ .glob ∧ s.spaceSize r.die cw sp < va + n) then some (2, va)
  else none

/-- The addresses that a drain's command word uses. -/
def State.drainAddrs (s : State) (r : CrewRef) (cw : Crew) (o : JOp) : Option (Nat × Nat) :=
  let main := if o.list then s.badAddr r cw .glob 8 (o.u 0) 8 else s.badAddr r cw o.rsp 64 (o.u 0) 64
  let scale := if isB8 o.ofmt then s.badAddr r cw o.ssp 1 (o.u 2) 1 else none
  let amax := if o.amx then s.badAddr r cw o.amaxSp 4 (o.u 3) 4 else none
  (main.or scale).or amax

/-- `JDRAIN`. -/
def execJdrain (c : Code) (s : State) : Out :=
  runInstr 0xF5 c s fun e =>
    e.jIssue s fun cw =>
      let o := { e.jOp .drain (field c.payload.toNat 60 4) (e.jUnis 4) with readDone := true }
      if !coordsOk (o.u 1) then e.jRefuse 7 0 e.lanes s
      else match s.drainAddrs e.t.crew cw o with
        | some a => e.jRefuse a.1 a.2 e.lanes s
        | none =>
          if !e.b.committed || e.jFull 1 s then waits s
          else
            let e1 := { e with b := e.b.openRegion (e.free + e.used) e.b.x.pc, free := e.free + 65 }
            .next (e1.jQueue .drain [o] s)

/-! ## `JCFG`, `JCLR` and `JQRY`: R423 to R426 -/

/-- A descriptor breaks a limit of Table 16.2. -/
def descBad (cw : Crew) (t : Nat) (b : List Byte) : Bool :=
  let d := JTable.parse b
  let z := d.chunk
  let pow2 := decide (8 ≤ d.size) && 2 ^ Nat.log2 d.size == d.size && decide (d.size ≤ if d.kind = 0 then 8192 else 4096)
  let apart := (List.range 16).all fun k =>
    let x := cw.plan k
    k == t || x.mode == 0 || decide (d.base + d.slots ≤ x.base) || decide (x.base + x.slots ≤ d.base)
  if d.mode = 0 then (b.drop 1).any fun x => x != 0
  else !(decide (d.mode ≤ 2) && decide (d.kind ≤ 1) && decide (d.chsz ≤ 1) && (d.kind == 0 || d.base % 2 == 0) &&
    (if d.mode = 2 then decide (1 ≤ d.plim) && decide (d.plim ≤ 8) && pow2 && d.width == 0 && d.i0 == 0 && d.j0 == 0
     else d.plim == 0 && decide (1 ≤ d.width) && decide (d.width ≤ 65535) && decide (1 ≤ d.size) && d.size % d.width == 0 &&
       decide (d.i0 < 2 ^ 22) && decide (d.j0 < 2 ^ 22)) &&
    d.chbase % z == 0 && d.chlimit % z == 0 && d.chnext % z == 0 && decide (d.chbase ≤ d.chnext) &&
    decide (d.chnext ≤ d.chlimit) && decide (d.chlimit < 2 ^ 56) && fld b 48 16 == 0 &&
    decide (d.base + d.slots ≤ cw.cfg.caddy) && apart)

/-- The table that the modifiers of opcode 0xF6 name. -/
def Code.tbl (c : Code) : Nat := field c.mods.toNat 2 4

/-- The extension word, as an operation record keeps it. -/
def Env.extWord (e : Env) : W64 := BitVec.ofNat 64 ((e.c.toRaw e.opc).second.toNat % 2 ^ 32)

/-- `JCFG`: it reads its descriptor at issue. -/
def execJcfg (c : Code) (s : State) : Out :=
  runInstr 0xF6 c s fun e =>
    match s.crewOf e.t.crew with
    | none => .fault .noThread
    | some cw =>
      let t := Code.tbl c
      let off := e.srcA 0 32
      let ts : List Touch := [⟨lowestLane e.lanes, (off : Nat), 64⟩]
      let ahead := (cw.table t).stopped
      if e.b.memHeld || (!ahead && e.jFull 1 s) then waits s
      else e.access s cw .core 1 .load attrR ts (e.initCheck s cw .core ts fun s =>
        let b := s.getScr e.t.crew cw .core 0 off 64
        let d := JTable.parse b
        let u := match uniOf false c.srca with | some _ => [BitVec.ofNat 64 (e.srcA 0 64)] | none => []
        let o := { e.jOp .cfg t u with desc := b, cmd := e.extWord }
        let plan := fun (w : Crew) => { w with planned := w.planned.set t d }
        if descBad cw t b then e.jRefuse 7 0 e.lanes s
        else if ahead && (cw.table t).shape == d.shape then
          e.finish e.next e.b ((s.configure e.t.crew t d).updCrew e.t.crew plan)
        else if e.jFull 1 s then waits s
        else .next (((e.jQueue .infuser [o] s).updCrew e.t.crew plan).jSettle e.t.die e.t.core))

/-- `JCLR`. -/
def execJclr (c : Code) (s : State) : Out :=
  runInstr 0xF6 c s fun e =>
    if e.jFull 1 s then waits s
    else
      let o := { e.jOp (.clr (c.mods.getLsbD 6)) (Code.tbl c) [] with cmd := e.extWord }
      .next ((e.jQueue .infuser [o] s).jSettle e.t.die e.t.core)

/-- `JQRY`. -/
def execJqry (c : Code) (s : State) : Out :=
  runInstr 0xF6 c s fun e =>
    if e.jFull 1 s then waits s
    else
      let w := match c.srcb with | .imm n => (immVal n).toNat | _ => 0
      let o := { e.jOp (.qry w) (Code.tbl c) [] with cmd := e.extWord, dst := uniOf false c.dst }
      .next ((e.jQueue (.query (o.dst.toList.map uniKey)) [o] s).jSettle e.t.die e.t.core)

end Sys2Proof.Machine
end

