-- ==== Sys2Proof/Machine/Passes.lean ====
section
/-!
DEFINITION. The passes of the Infuser: R204, R258, R259, R432 to R443.
-/
namespace Sys2Proof.Machine

/-! ## Operand reads: R432 and R433 -/

/-- An element as an interval, for entries of a format. -/
def elemIvl (f : Fmt) (code : Nat) (inf : Bool) (scale : Option Nat) (w : Nat) : Ivl × BitVec 6 :=
  if code = 0x0D then
    let v := f32.readPair w
    (v.1, stIf v.2 stIll)
  else
    let p := decodePoint code inf w
    match (match scale with | some k => scaled p k | none => p) with
    | .nan => (.empty, stEmpty)
    | .inf neg => (f.pointPair (if neg then .ninf else .pinf), stUnbounded)
    | .fin q => (Ivl.point q, 0)

/-- A byte of a scratch operand, as the Infuser sees it. -/
def State.jByte (s : State) (g : Eng) (cw : Crew) (sp : Space) (off : Nat) : Byte :=
  if sp = .clus then s.mcByte g.r cw g.reader off else (s.getScr g.r cw .core 0 off 1).headD 0

def State.jNat (s : State) (g : Eng) (cw : Crew) (sp : Space) (off n : Nat) : Nat :=
  leNat ((List.range n).map fun i => s.jByte g cw sp (off + i))

/-- The first uninitialised word among reads of n bytes each. -/
def State.jUninit (s : State) (g : Eng) (cw : Crew) (sp : Space) (n : Nat) (offs : List Nat) : Option Nat :=
  offs.findSome? fun o => s.uninit g.r cw sp o n

/-- What holds a pass: B operands in the cluster's space open windows, A operands join those that are open, R204. -/
def State.jWindows (s : State) (g : Eng) (cw : Crew) (aOffs bOffs : List Nat) : Option State :=
  let found := (s.mcBlocks g.r cw bOffs).map fun b => (b, (s.coreOf g.r.die b.1).mcFind b.2 g.reader)
  let due := found.filter fun x => x.2 == .none || x.2 == .joins
  let s1 := due.foldl (fun (s : State) x => s.mcOpen g cw x.1.1 x.1.2) s
  let waits_ := !due.isEmpty || found.any fun x => x.2 == .waits
  match s1.mcHeld g.r cw g.reader aOffs with
  | some s2 => some s2
  | none => if waits_ then some s1 else none

/-- The offsets of an operand that lie in the cluster's space. -/
def clusOnly (sp : Space) (offs : List Nat) : List Nat := if sp = .clus then offs else []

/-- What a begun pass delivers. -/
structure Begun where
  sums : List JSum
  st : BitVec 6
  /-- No pass follows. -/
  last : Bool
  fails : Nat
deriving DecidableEq, Repr

/-! ## Sums: R258 and R259 -/

/-- Depth of a pass, and whether it sums in pairs, Table 10.10. -/
def passDepth (nbv code : Nat) : Nat × Bool :=
  if isB8 code then (if nbv = 1 then (16, true) else (32, false))
  else if code = 8 ∨ code = 9 then (if nbv = 3 then 16 else 8, false)
  else (8, false)

/-- One level of the summation in pairs. -/
def pairUp (f : Fmt) : List Ivl → List Ivl
  | a :: b :: t => f.round (ivAdd a b) :: pairUp f t
  | l => l

def pairSum (f : Fmt) : Nat → List Ivl → Ivl
  | 0, l => l.headD (Ivl.point Q.zero)
  | n + 1, l => pairSum f n (pairUp f l)

/-- S of a pass, with the status of a sum in pairs that overflows. -/
def passSum (f : Fmt) (pairs : Bool) (ps : List Ivl) : Ivl × BitVec 6 :=
  if ps.any Ivl.isEmpty then (.empty, 0)
  else if pairs then
    let v := pairSum f 4 (ps ++ List.replicate (16 - ps.length) (Ivl.point Q.zero))
    (v, stIf (!v.bounded && ps.all Ivl.bounded) stUnbounded)
  else (ps.foldl ivAdd (Ivl.point Q.zero), 0)

/-- Puts a sum in its place by key. -/
def insertSum (m : JSum) : List JSum → List JSum
  | [] => [m]
  | x :: xs => if m.key < x.key then m :: x :: xs else x :: insertSum m xs

def sortSums (ms : List JSum) : List JSum := ms.foldl (fun l m => insertSum m l) []

/-! ## Masks: R438 -/

/-- The mask record, if it is valid. DEDUCED, log 66. -/
def maskBad (b : List Byte) : Bool :=
  let t := TensorRec.parse b
  tensorBad b || t.ndim != 2 || t.esz != 2 || t.dt != 6

def EngFault.maskStop (sp : Space) : EngFault → JStop
  | .page va => .park va
  | .wait => .window
  | .violation => .error (if sp = .glob then 5 else 1)

/-- The block columns that a block row allows. -/
def State.maskRow (s : State) (d c : Nat) (o : JOp) (cw : Crew) (t : TensorRec) (row : Nat) : Except JStop (List Nat) × State :=
  if t.sizeOf 1 ≤ row then (.ok [], s)
  else
    let g := o.eng d c
    (List.range (t.sizeOf 0)).foldl (fun (x : Except JStop (List Nat) × State) c0 =>
      match x.1 with
      | .error e => (.error e, x.2)
      | .ok l =>
        match x.2.engRead g cw t.at_ attrR (t.addr [c0, row]) 4 with
        | (.error e, s1) => (.error (e.maskStop t.at_), s1)
        | (.ok rd, s1) => (.ok (l ++ [leNat rd.bytes]), s1.opUninit d c o (t.at_ == .clus) rd.uninit)) (.ok [], s)

/-- Reads the mask of an operation for the block rows named: the allowed blocks of each. -/
def State.mask (s : State) (d c : Nat) (o : JOp) (cw : Crew) (rows : List Nat) : Except JStop (List (Nat × List Nat)) × State :=
  let g := o.eng d c
  let addr := (o.unis.getLastD 0).toNat
  if addr % 64 ≠ 0 then (.error (.error 1), s)
  else match s.engHeld g cw o.mrsp [addr] with
  | some s1 => (.error .window, s1)
  | none =>
    match s.engRead g cw o.mrsp attrR addr 64 with
    | (.error e, s1) => (.error (e.maskStop o.mrsp), s1)
    | (.ok rd, s1) =>
      let s2 := (s1.engLeaves g cw o.mrsp [addr]).opUninit d c o (o.mrsp == .clus) rd.uninit
      if maskBad rd.bytes then (.error (.error 1), s2)
      else rows.foldl (fun (x : Except JStop (List (Nat × List Nat)) × State) row =>
        match x.1 with
        | .error e => (.error e, x.2)
        | .ok l =>
          match x.2.maskRow d c o cw (TensorRec.parse rd.bytes) row with
          | (.error e, s3) => (.error e, s3)
          | (.ok bs, s3) => (.ok (l ++ [(row, bs)]), s3)) (.ok [], s2)

/-- A product of a row and a column is formed, as far as the mask tells. -/
def allowed (m : Option (List (Nat × List Nat))) (i j : Nat) : Bool :=
  match m with
  | none => true
  | some l => l.any fun x => x.1 == i / 16 && x.2.contains (j / 16)

/-- Reads the mask of a masked form. -/
def State.maskFor (s : State) (d c : Nat) (o : JOp) (cw : Crew) (is : List Nat) :
    Except JStop (Option (List (Nat × List Nat))) × State :=
  if !o.masked then (.ok none, s)
  else match s.mask d c o cw ((is.map fun i => i / 16).eraseDups) with
    | (.error e, s1) => (.error e, s1)
    | (.ok m, s1) => (.ok (some m), s1)

/-! ## Dense passes: R435 and R436 -/

def JOp.ibase (o : JOp) : Nat := field (o.u 2) 0 22
def JOp.jbase (o : JOp) : Nat := field (o.u 2) 32 22
def JOp.rowI (o : JOp) (r : Nat) : Nat := (o.ibase + r) % 2 ^ 22
def JOp.colJ (o : JOp) (c : Nat) : Nat := (o.jbase + c) % 2 ^ 22

/-- The rows of a quarter: lane and offset. -/
def JOp.laneRows (o : JOp) : List (Nat × Nat) :=
  (List.range 8).filterMap fun i => (o.rows.getD i none).map fun off => (8 * o.quarter + i, off)

/-- Begins a pass of a quarter operation: it reads its operands and forms its sums. -/
def State.quarterBegin (s : State) (d c : Nat) (o : JOp) (cw : Crew) : Except JStop Begun × State :=
  let g := o.eng d c
  let x := cw.table o.tbl
  let dp := passDepth cw.cfg.nbv.toNat o.afmt
  let n := o.esz
  let ks := (List.range dp.1).map fun k => o.step * dp.1 + k
  match s.maskFor d c o cw (o.laneRows.map fun l => o.rowI l.1) with
  | (.error e, s1) => (.error e, s1)
  | (.ok m, s1) =>
    let ok := fun (l col : Nat) => allowed m (o.rowI l) (o.colJ col)
    let cols := fun (l : Nat) => (List.range 16).filter fun col => ok l col
    let rows := o.laneRows.filter fun l => !(cols l.1).isEmpty
    let used := (List.range 16).filter fun col => rows.any fun l => ok l.1 col
    let aOff := fun (off k : Nat) => off + k * n
    let bOff := fun (k col : Nat) => o.ulo 0 + (16 * k + col) * n
    let aOffs := rows.flatMap fun l => ks.map fun k => aOff l.2 k
    let bOffs := used.flatMap fun col => ks.map fun k => bOff k col
    let asOffs := if o.scaled then rows.map fun l => o.uhi 0 + l.1 else []
    let bsOffs := if o.scaled then used.map fun col => o.ulo 1 + col else []
    match s1.jWindows g cw (clusOnly o.asp (aOffs ++ asOffs)) (clusOnly o.bsp (bOffs ++ bsOffs)) with
    | some s2 => (.error .window, s2)
    | none =>
      let scale := fun (sp : Space) (off : Nat) => if o.scaled then some (s1.jNat g cw sp off 1) else none
      let a := rows.map fun l => (l.1, ks.map fun k =>
        elemIvl x.fmt o.afmt o.ainf (scale o.asp (o.uhi 0 + l.1)) (s1.jNat g cw o.asp (aOff l.2 k) n))
      let b := used.map fun col => (col, ks.map fun k =>
        elemIvl x.fmt o.bfmt o.binf (scale o.bsp (o.ulo 1 + col)) (s1.jNat g cw o.bsp (bOff k col) n))
      let st := (a ++ b).foldl (fun st e => e.2.foldl (fun st v => st ||| v.2) st) 0
      let sums := a.flatMap fun l => (b.filter fun e => ok l.1 e.1).map fun e =>
        let v := passSum x.fmt dp.2 ((l.2.zip e.2).map fun p => ivMul p.1.1 p.2.1)
        { key := jkey o.tbl (o.rowI l.1) (o.colJ e.1), val := ivlPair v.1, st := v.2, a := 0, pos := 0 : JSum }
      let u := (((s1.jUninit g cw o.asp n aOffs).map fun w => (o.asp, w)).or
        ((s1.jUninit g cw o.bsp n bOffs).map fun w => (o.bsp, w))).or
        (((s1.jUninit g cw o.asp 1 asOffs).map fun w => (o.asp, w)).or ((s1.jUninit g cw o.bsp 1 bsOffs).map fun w => (o.bsp, w)))
      let s2 := s1.opUninit d c o ((u.map fun w => w.1 == .clus).getD false) (u.map fun w => w.2)
      let s3 := s2.mcLeaves g.r cw g.reader (clusOnly o.asp (aOffs ++ asOffs) ++ clusOnly o.bsp (bOffs ++ bsOffs))
      (.ok { sums := sortSums sums, st := st, last := decide (32 ≤ (o.step + 1) * dp.1), fails := 0 }, s3)

/-! ## Bitmap passes: R439 and R440 -/

/-- The positions at which a bitmap of n bits, given by its bytes, is set. -/
def setBits (n : Nat) (byte : Nat → Byte) : List Nat := (List.range n).filter fun k => (byte (k / 8)).getLsbD (k % 8)

/-- A list cut into parts of a size, the last of them shorter. -/
def chunksOf (n : Nat) : Nat → List Nat → List (List Nat)
  | 0, _ => []
  | fuel + 1, l => if l.isEmpty then [] else l.take n :: chunksOf n fuel (l.drop n)

/-- The place of a position among those set. -/
def packedAt (bits : List Nat) (k : Nat) : Nat := (bits.filter fun x => decide (x < k)).length

/-- Begins a step of a bitmap operation. -/
def State.bitBegin (s : State) (d c : Nat) (o : JOp) (cw : Crew) : Except JStop Begun × State :=
  let g := o.eng d c
  let x := cw.table o.tbl
  let dp := passDepth cw.cfg.nbv.toNat o.afmt
  let kl := o.klen
  let n := o.esz
  match s.maskFor d c o cw ((List.range 16).map o.rowI) with
  | (.error e, s1) => (.error e, s1)
  | (.ok m, s1) =>
    let mapOffs := fun (base : Nat) => (List.range (2 * kl)).map fun i => base + i
    let am := clusOnly o.asp (mapOffs (o.ulo 0))
    let bm := clusOnly o.bsp (mapOffs (o.ulo 1))
    match s1.jWindows g cw am bm with
    | some s2 => (.error .window, s2)
    | none =>
      let aBits := (List.range 16).map fun r => setBits kl fun i => s1.jByte g cw o.asp (o.ulo 0 + r * (kl / 8) + i)
      let bBits := (List.range 16).map fun r => setBits kl fun i => s1.jByte g cw o.bsp (o.ulo 1 + r * (kl / 8) + i)
      let meet := fun (r col : Nat) => if allowed m (o.rowI r) (o.colJ col) then
        (aBits.getD r []).filter fun k => (bBits.getD col []).contains k else []
      let outs := (List.range 16).flatMap fun r => (List.range 16).map fun col => (r, col, meet r col)
      let steps := outs.foldl (fun k w => max k ((w.2.2.length + 31) / 32)) 0
      let now := outs.map fun w => (w.1, w.2.1, chunksOf dp.1 32 ((w.2.2.drop (32 * o.step)).take 32))
      let aOff := fun (r k : Nat) => o.uhi 0 + (r * kl + packedAt (aBits.getD r []) k) * n
      let bOff := fun (col k : Nat) => o.uhi 1 + (col * kl + packedAt (bBits.getD col []) k) * n
      let asOff := fun (r k : Nat) => o.ulo 3 + r * (kl / 32) + k / 32
      let bsOff := fun (col k : Nat) => o.uhi 3 + col * (kl / 32) + k / 32
      let aUse := (now.flatMap fun w => w.2.2.flatten.map fun k => (w.1, k)).eraseDups
      let bUse := (now.flatMap fun w => w.2.2.flatten.map fun k => (w.2.1, k)).eraseDups
      let aOffs := aUse.map fun p => aOff p.1 p.2
      let bOffs := bUse.map fun p => bOff p.1 p.2
      let asOffs := if o.scaled then aUse.map fun p => asOff p.1 p.2 else []
      let bsOffs := if o.scaled then bUse.map fun p => bsOff p.1 p.2 else []
      let ca := am ++ clusOnly o.asp (aOffs ++ asOffs)
      let cb := bm ++ clusOnly o.bsp (bOffs ++ bsOffs)
      match s1.jWindows g cw ca cb with
      | some s2 => (.error .window, s2)
      | none =>
        let elemA := fun (r k : Nat) => elemIvl x.fmt o.afmt o.ainf
          (if o.scaled then some (s1.jNat g cw o.asp (asOff r k) 1) else none) (s1.jNat g cw o.asp (aOff r k) n)
        let elemB := fun (col k : Nat) => elemIvl x.fmt o.bfmt o.binf
          (if o.scaled then some (s1.jNat g cw o.bsp (bsOff col k) 1) else none) (s1.jNat g cw o.bsp (bOff col k) n)
        let st := bUse.foldl (fun st p => st ||| (elemB p.1 p.2).2) (aUse.foldl (fun st p => st ||| (elemA p.1 p.2).2) 0)
        let sums := (List.range 4).flatMap fun p => sortSums (now.filterMap fun w =>
          match w.2.2.drop p with
          | [] => none
          | ks :: _ =>
            let v := passSum x.fmt dp.2 (ks.map fun k => ivMul (elemA w.1 k).1 (elemB w.2.1 k).1)
            some { key := jkey o.tbl (o.rowI w.1) (o.colJ w.2.1), val := ivlPair v.1, st := v.2, a := 0, pos := 0 })
        let u := (((s1.jUninit g cw o.asp 1 (mapOffs (o.ulo 0))).map fun w => (o.asp, w)).or
          ((s1.jUninit g cw o.bsp 1 (mapOffs (o.ulo 1))).map fun w => (o.bsp, w))).or
          ((((s1.jUninit g cw o.asp n aOffs).map fun w => (o.asp, w)).or
          ((s1.jUninit g cw o.bsp n bOffs).map fun w => (o.bsp, w))).or
          (((s1.jUninit g cw o.asp 1 asOffs).map fun w => (o.asp, w)).or ((s1.jUninit g cw o.bsp 1 bsOffs).map fun w => (o.bsp, w))))
        let s2 := s1.opUninit d c o ((u.map fun w => w.1 == .clus).getD false) (u.map fun w => w.2)
        (.ok { sums := sums, st := st, last := decide (steps ≤ o.step + 1), fails := 0 }, s2.mcLeaves g.r cw g.reader (ca ++ cb))

/-! ## Stream joins: R441 and R442 -/

/-- A tuple of a stream: coordinate, k, and the sixteen bytes. -/
structure STuple where
  coord : Nat
  k : Nat
  bytes : List Byte
deriving DecidableEq, Repr

/-- The two streams of a join: tuples by index, how many, and whether the values are binary32 points. -/
structure Streams where
  a : Nat → STuple
  b : Nat → STuple
  na : Nat
  nb : Nat
  point : Bool

/-- What is wrong with a tuple when the join first reads it. -/
def tupleErr (t : Nat → STuple) (point : Bool) (i : Nat) : Option Nat :=
  let x := t i
  if 2 ^ 22 ≤ x.coord ∨ 2 ^ 22 ≤ x.k ∨ (point ∧ x.bytes.drop 12 ≠ [0, 0, 0, 0]) then some 6
  else if 0 < i ∧ x.k < (t (i - 1)).k then some 2 else none

/-- The end of the run of B tuples with a k, from an index on; an error, and how many tuples of B have been read. -/
def runEnd (w : Streams) (k : Nat) : Nat → Nat → Nat × Option Nat
  | 0, i => (i, none)
  | fuel + 1, i =>
    if w.nb ≤ i then (i, none)
    else match tupleErr w.b w.point i with
      | some e => (i, some e)
      | none => if (w.b i).k = k then runEnd w k fuel (i + 1) else (i, none)

/-- What a join delivers: products as pairs of indices with the start of the run, the error that ends it, and how many tuples of
each stream it reads. -/
structure Joined where
  pairs : List (Nat × Nat × Nat)
  fails : Nat
  readA : Nat
  readB : Nat
deriving DecidableEq, Repr

/-- DEDUCED, log 67. -/
def joinFrom (w : Streams) : Nat → Nat → Nat → Joined → Joined
  | 0, _, _, j => j
  | fuel + 1, ia, ib, j =>
    if w.na ≤ ia ∨ w.nb ≤ ib then j
    else
      let j1 := { j with readA := max j.readA (ia + 1) }
      match tupleErr w.a w.point ia with
      | some e => { j1 with fails := e }
      | none =>
        let j2 := { j1 with readB := max j1.readB (ib + 1) }
        match tupleErr w.b w.point ib with
        | some e => { j2 with fails := e }
        | none =>
          if (w.a ia).k < (w.b ib).k then joinFrom w fuel (ia + 1) ib j2
          else if (w.b ib).k < (w.a ia).k then joinFrom w fuel ia (ib + 1) j2
          else
            let e := runEnd w (w.b ib).k w.nb (ib + 1)
            let j3 := { j2 with readB := max j2.readB (min w.nb (e.1 + 1)) }
            match e.2 with
            | some code => { j3 with fails := code }
            | none => joinFrom w fuel (ia + 1) ib
                { j3 with pairs := j3.pairs ++ (List.range (e.1 - ib)).map fun t => (ia, ib + t, ib) }

/-- Begins a join: it reads both streams as far as the join goes. DEDUCED, log 67. -/
def State.streamBegin (s : State) (d c : Nat) (o : JOp) (cw : Crew) : Except JStop Begun × State :=
  let g := o.eng d c
  let x := cw.table o.tbl
  let code := o.afmt
  let tuple := fun (sp : Space) (base i : Nat) =>
    let bs := (List.range 16).map fun k => s.jByte g cw sp (base + 16 * i + k)
    { coord := fld bs 0 4, k := fld bs 4 4, bytes := bs : STuple }
  let w : Streams := { a := tuple o.asp (o.ulo 0), b := tuple o.bsp (o.ulo 1), na := o.uhi 0, nb := o.uhi 1, point := code == 0x0A }
  let j := joinFrom w (w.na + w.nb) 0 0 ⟨[], 0, 0, 0⟩
  let aOffs := (List.range j.readA).map fun i => o.ulo 0 + 16 * i
  let bOffs := (List.range j.readB).map fun i => o.ulo 1 + 16 * i
  match s.jWindows g cw (clusOnly o.asp aOffs) (clusOnly o.bsp bOffs) with
  | some s1 => (.error .window, s1)
  | none =>
    let value := fun (t : STuple) => elemIvl x.fmt code false none (if w.point then fld t.bytes 8 4 else fld t.bytes 8 8)
    let sums := j.pairs.map fun p =>
      let a := value (w.a p.1)
      let b := value (w.b p.2.1)
      { key := jkey o.tbl (w.a p.1).coord (w.b p.2.1).coord, val := ivlPair (ivMul a.1 b.1), st := a.2 ||| b.2, a := p.1,
        pos := p.2.1 - p.2.2 : JSum }
    let left := sums.filter fun m => decide (o.step < m.a) || (m.a == o.step && decide (o.keyPos ≤ m.pos))
    let u := ((s.jUninit g cw o.asp 16 aOffs).map fun w => (o.asp, w)).or ((s.jUninit g cw o.bsp 16 bOffs).map fun w => (o.bsp, w))
    let s1 := s.opUninit d c o ((u.map fun w => w.1 == .clus).getD false) (u.map fun w => w.2)
    (.ok { sums := left, st := 0, last := true, fails := j.fails },
      s1.mcLeaves g.r cw g.reader (clusOnly o.asp aOffs ++ clusOnly o.bsp bOffs))

/-! ## Steps of operations -/

/-- Places what is left of the pass under way, and ends the pass or the operation. -/
def State.opPlace (s : State) (d c : Nat) (o : JOp) (cw : Crew) : State :=
  let p := s.placeKeys (o.eng d c) cw o.tbl o.sums
  let placed := o.sums.length - p.1.length
  let o1 := { o with sums := p.1, status := o.status ||| p.2.2.1, st := .running }
  let o2 := match o.kind, p.1.head? with
    | .stream, some m => { o1 with step := m.a, keyPos := m.pos }
    | .stream, none => o1
    | _, _ => { o1 with keyPos := o.keyPos + placed }
  match p.2.1 with
  | some e => (p.2.2.2.updOp d c o.seq fun _ => o2).opStop d c o2 e
  | none =>
    if o.written then (if o.fails = 0 then p.2.2.2.opDone d c o2 else p.2.2.2.opError d c o2 o.fails)
    else p.2.2.2.updOp d c o.seq fun _ => { o2 with step := o.step + 1, keyPos := 0 }

/-- One step of an operation: a pass begins, unless one is under way, and its keys are placed. -/
def State.opStep (s : State) (d c : Nat) (o : JOp) (start : State → Nat → Nat → JOp → Crew → Except JStop Begun × State) : State :=
  match s.crewOf (o.crew d c) with
  | none => s
  | some cw =>
    if !o.sums.isEmpty then s.opPlace d c o cw
    else match start s d c o cw with
      | (.error e, s1) => s1.opStop d c o e
      | (.ok b, s1) =>
        let skip := if o.kind = .stream then 0 else o.keyPos
        let o1 := { o with sums := b.sums.drop skip, status := o.status ||| b.st, written := b.last, fails := b.fails,
                           readDone := o.readDone || b.last }
        let s2 := s1.updOp d c o.seq fun x => { o1 with logged := x.logged }
        (if b.last then s2.jReads d c o1 else s2).opPlace d c { o1 with logged := (s2.coreOf d c).jq.any fun x => x.seq == o.seq && x.logged } cw

/-- An event of the Infuser of the core at `cur`, for operations of a kind. -/
def infuserEvent (kind : JOpKind) (run : State → Nat → Nat → JOp → State) (s : State) : Out :=
  let d := s.cur.die
  let c := s.cur.core
  let s1 := s.jSettle d c
  match s1.nextOp d c with
  | some o => .next (if o.kind = kind then ((run s1 d c o).engRest (o.eng d c)).jSettle d c else s1)
  | none => .next s1

/-- `QUARTER_OPERATION`. DESIGN CHOICE, log 65. -/
def execQuarterOperation (s : State) : Out := infuserEvent .pass (fun s d c o => s.opStep d c o State.quarterBegin) s
/-- `BITMAP_STEP`. -/
def execBitmapStep (s : State) : Out := infuserEvent .bit (fun s d c o => s.opStep d c o State.bitBegin) s
/-- `STREAM_JOIN`. -/
def execStreamJoin (s : State) : Out := infuserEvent .stream (fun s d c o => s.opStep d c o State.streamBegin) s

end Sys2Proof.Machine
end

