-- ==== Sys2Proof/Machine/Drain.lean ====
section
/-!
DEFINITION. Drains, and the save and restore of the Infuser's state: R444 to R454.
-/
namespace Sys2Proof.Machine

/-! ## What a drain reads: R445 -/

/-- The tuples of a spill list, in spill order: reads chunk after chunk, at most `fuel` of them. -/
def State.spillTuples (s : State) (g : Eng) (cw : Crew) (t : JTable) : Nat → Nat → Except EngFault (List (Nat × Nat)) × State
  | 0, _ => (.ok [], s)
  | fuel + 1, at_ =>
    if at_ = 0 then (.ok [], s)
    else match s.engRead g cw .glob attrR at_ 16 with
      | (.error e, s1) => (.error e, s1)
      | (.ok h, s1) =>
        match s1.engRead g cw .glob attrR (at_ + 16) (t.tuple * min t.cap (fld h.bytes 8 4)) with
        | (.error e, s2) => (.error e, s2)
        | (.ok b, s2) =>
          let mine := (List.range (min t.cap (fld h.bytes 8 4))).map fun i =>
            (fld b.bytes (t.tuple * i) 8 % 2 ^ 48,
              if t.kind = 0 then fld b.bytes (t.tuple * i + 8) 8 else fld b.bytes (t.tuple * i + 16) 16)
          match s2.spillTuples g cw t fuel (fld h.bytes 0 8) with
          | (.error e, s3) => (.error e, s3)
          | (.ok l, s3) => (.ok (mine ++ l), s3)

/-- The values that a drain emits, by key: an entry, then the spilled tuples of the key, each with one outward rounding. -/
def emitted (t : JTable) (entries : List (Nat × CEntry)) (spills : List (Nat × Nat)) : Tbl (Ivl × BitVec 6) :=
  let read := fun (v : Ivl × Bool) => (v.1, stIf v.2 stIll)
  spills.foldl (fun (m : Tbl (Ivl × BitVec 6)) x =>
    let v := t.fmt.readPair x.2
    match m.find? x.1 with
    | some o =>
      let r := t.added (some (o.1, v.2)) v.1
      m.set x.1 ((t.fmt.readPair r.bits).1, o.2 ||| r.st)
    | none => m.set x.1 (read v)) (entries.foldl (fun m e => m.set e.2.key (read (t.entryIvl e.2))) [])

/-! ## Tiles: R446 and R447 -/

/-- Bytes of an element of a drain's format. -/
def drainBytes (code : Nat) : Nat :=
  if isB8 code then 1 else match code with
  | 0x08 => 2 | 0x09 => 2 | 0x0A => 4 | 0x0B => 8 | 0x0C => 4 | 0x0D => 8 | _ => 16

def JOp.iorg (o : JOp) : Nat := field (o.u 1) 0 22
def JOp.jorg (o : JOp) : Nat := field (o.u 1) 32 22

/-- Blocks of 32 of a row of the tile. -/
def TensorRec.blocks (t : TensorRec) : Nat := (t.sizeOf 0 + 31) / 32

/-- The record of a tile drain breaks a condition of R446. -/
def State.tileBad (s : State) (r : CrewRef) (cw : Crew) (o : JOp) (b : List Byte) : Bool :=
  let t := TensorRec.parse b
  let inside := fun (c0 c1 : Nat) => s.engScratch r cw t.at_ (t.addr [c0, c1]) t.bytes
  tensorBad b || t.ndim != 2 || t.dt != o.ofmt || t.bytes != drainBytes o.ofmt ||
    (if t.at_ = .glob then decide (2 ^ 56 ≤ t.base)
     else !((List.range (t.sizeOf 1)).all fun c1 => inside 0 c1 && inside (t.sizeOf 0 - 1) c1)) ||
    (isB8 o.ofmt && o.ssp != .glob && decide (s.spaceSize r.die cw o.ssp < o.u 2 + t.sizeOf 1 * t.blocks))

/-- The point to which a value collapses along the drain path, R251; none for Empty. -/
def collapseQ (f : Fmt) (nbv : Nat) (v : Ivl) : Option Q :=
  if nbv = 1 then
    match v with
    | .empty => none
    | .mk (.fin q) _ => some q
    | .mk _ _ => some f.largest.neg
  else f.midQ v

/-- The value at a key: zero where the table holds nothing of it. -/
def valueAt (vals : List JSum) (key : Nat) : Ivl × BitVec 6 :=
  match vals.find? fun m => m.key == key with
  | some m => (ivlOf m.val, m.st)
  | none => (Ivl.point Q.zero, 0)

/-- The scale of a block of collapsed points, R254. -/
def blockScale (code : Nat) (inf : Bool) (qs : List (Option Q)) : Nat :=
  scaleCode (qs.foldl (fun m q => match q with
    | some q => if m.lt q.abs then q.abs else m
    | none => m) Q.zero) (largestOf code inf)

/-- An element of a tile: its bits and the status of writing it. -/
def drainElem (f : Fmt) (nbv code : Nat) (inf : Bool) (scale : Option Nat) (v : Ivl) : Nat × BitVec 6 :=
  if 0x0C ≤ code ∧ code ≤ 0x0E then
    let r := (viewFmt code).narrow v
    (r.bits, r.st)
  else match collapseQ f nbv v with
    | none => ((encodePoint code inf .rtz .nan).1, stNan)
    | some q =>
      let k := (scale.bind e8m0).getD Q.one
      let r := encodePoint code inf .rtz (.fin (q.div k))
      (r.1, stIf r.2 stConvSat)

/-- The key of an element of the tile. -/
def JOp.tileKey (o : JOp) (c0 c1 : Nat) : Nat := jkey o.tbl (o.iorg + c1) (o.jorg + c0)

/-! ## How a drain's accesses end: R449 and R451 -/

/-- What keeps a drain from going on: an error, a chunk that it lacks, or a fault of an access. -/
inductive DrainStop where
  | stop (w : JStop)
  | fault (va : Nat) (write : Bool)
deriving DecidableEq, Repr

def EngFault.drainStop (write : Bool) : EngFault → DrainStop
  | .violation => .stop (.error 5)
  | .page va => .fault va write
  | .wait => .stop .window

/-- A fault of a drain's access: the drain is abandoned, and its band parks at the `JDRAIN`. DEDUCED, log 68. -/
def State.drainFault (s : State) (d c : Nat) (o : JOp) (va : Nat) (write : Bool) : State :=
  let s1 := s.updCore d c fun k => { k with jq := k.jq.filter fun x => x.seq != o.seq }.parkedOnly
  match s1.crewOf (o.crew d c), s1.thread o.thread with
  | some cw, some b =>
    let h := cw.cfg.handle
    let page := s1.engUnmapped (o.eng d c) (handleCtx h) va
    let f : MemFault := { va := va, pc := o.pc, lanes := 0, index := 0xFFFF, fetch := false,
                          cause := if write then 9 else if page then 0x0100 else 0x0101 }
    let detail := leBytes 8 va ++ leBytes 8 o.pc.toNat ++ leBytes 8 o.pc.toNat ++ leBytes 2 c ++ leBytes 2 (o.thread.band.getD 0)
      ++ [0xFF, b.region.tag] ++ leBytes 2 0xFFFF ++ [0]
    let b1 := if b.running then { b.restartRegion with parked := some (ParkInfo.of (handleCtx h) va) }
              else b.dropWait o.waitId
    let s2 := (s1.setThread o.thread b1).report d false (some (handleCtx h)) f.cause h detail
    if write then s2.countCause d h 9 else s2
  | _, _ => s1

/-- A drain stops or ends in error: in error its flag clears and its region no longer waits for it. A deferred fault that is
still on its way abandons the drain first. -/
def State.drainStopped (s : State) (d c : Nat) (o : JOp) (why : DrainStop) : State :=
  match o.refused, why with
  | _, .stop .window => s
  | some va, _ => s.drainFault d c o va true
  | none, .fault va w => s.drainFault d c o va w
  | none, .stop e =>
    let s1 := s.opStop d c o e
    if (s1.coreOf d c).jq.any fun x => x.seq == o.seq then s1 else s1.waitDone o.thread o.waitId

/-- Sends writes of a drain in order. A write that its home refuses is not performed, and the drain goes on, since the deferred
fault has not returned yet, R100 and R449; a write without a mapping or a permission keeps the drain from going on. DEDUCED, log 68. -/
def State.drainWrites (s : State) (d c : Nat) (cw : Crew) : JOp → List (Space × Nat × List Byte) → Option DrainStop × JOp × State
  | o, [] => (none, o, s)
  | o, (sp, va, bs) :: ws =>
    match s.engWrite (o.eng d c) cw sp (fun a => attrW a) va bs with
    | (.ok _, s1) => s1.drainWrites d c cw o ws
    | (.error (.page at_), s1) =>
      if s1.engUnmapped (o.eng d c) (handleCtx cw.cfg.handle) at_ then (some (.fault at_ true), o, s1)
      else s1.drainWrites d c cw (if o.refused.isSome then o else { o with refused := some at_ }) ws
    | (.error e, s1) => (some (e.drainStop true), o, s1)

/-! ## The steps of a drain -/

/-- The drain's own update of the largest magnitude, after every other write of the drain, R447. -/
def State.drainAmax (s : State) (d c : Nat) (o : JOp) (cw : Crew) (vals : List JSum) : Option DrainStop × State :=
  if !o.amx then (none, s)
  else
    let v := vals.foldl (fun n m => max n ((magWord (ivlOf m.val)).getD 0)) 0
    match s.engAtomic (o.eng d c) cw o.amaxSp (fun a => attrR a && attrW a && attrA a) (o.u 3) 9 4 false v with
    | (.error e, s1) => (some (e.drainStop true), s1)
    | (.ok _, s1) => (none, s1)

/-- A drain has written everything: it waits for `DRAIN_COMPLETE`. DEDUCED, log 68. -/
def State.drainWritten (s : State) (d c : Nat) (o : JOp) (cw : Crew) (mine : List JSum) (st : BitVec 6) : State :=
  if o.refused.isSome then s.drainStopped d c o (.stop .chunk)
  else match s.drainAmax d c o cw mine with
  | (some e, s1) => s1.drainStopped d c { o with status := o.status ||| st } e
  | (none, s1) => s1.updOp d c o.seq fun x => { x with written := true, status := x.status ||| st }

/-- Reads what a drain emits, and a tile's record; the drain writes nothing before. -/
def State.drainBegin (s : State) (d c : Nat) (o : JOp) (cw : Crew) : Except DrainStop JOp × State :=
  let g := o.eng d c
  let x := cw.table o.tbl
  match (if o.list then none else s.engHeld g cw o.rsp [o.u 0]) with
  | some s1 => (.error (.stop .window), s1)
  | none =>
    let r := if o.list then (.ok ⟨[], none⟩, s) else s.engRead g cw o.rsp attrR (o.u 0) 64
    match r with
    | (.error e, s1) => (.error (e.drainStop false), s1)
    | (.ok rd, s1) =>
      let s2 := if o.list then s1 else (s1.engLeaves g cw o.rsp [o.u 0]).opUninit d c o (o.rsp == .clus) rd.uninit
      if !o.list && s2.tileBad g.r cw o rd.bytes then (.error (.stop (.error 4)), s2)
      else match s2.spillTuples g cw x (x.spills + 1) x.sphead with
        | (.error e, s3) => (.error (e.drainStop false), s3)
        | (.ok l, s3) =>
          let vals := (emitted x (s3.entries g.r cw x) l).map fun v =>
            { key := v.1, val := ivlPair v.2.1, st := v.2.2, a := 0, pos := 0 : JSum }
          (.ok { o with sums := vals, rcd := some (TensorRec.parse rd.bytes), st := .running }, s3)

/-- Writes one element of a tile, after the scale of the block that it begins. -/
def State.tileStep (s : State) (d c : Nat) (o : JOp) (cw : Crew) (t : TensorRec) : State :=
  let x := cw.table o.tbl
  let nbv := cw.cfg.nbv.toNat
  let w := t.sizeOf 0
  let c0 := o.keyPos % w
  let c1 := o.keyPos / w
  let b8 := isB8 o.ofmt
  let blk := c0 / 32
  let point := fun (k : Nat) => collapseQ x.fmt nbv (valueAt o.sums (o.tileKey k c1)).1
  let scale := if b8 then some (blockScale o.ofmt o.oinf ((List.range (min 32 (w - 32 * blk))).map fun i => point (32 * blk + i))) else none
  let v := valueAt o.sums (o.tileKey c0 c1)
  let m := drainElem x.fmt nbv o.ofmt o.oinf scale v.1
  let ws := (match scale with
    | some k => if c0 % 32 = 0 then [(o.ssp, o.u 2 + c1 * t.blocks + blk, [BitVec.ofNat 8 k])] else []
    | none => []) ++ [(t.at_, t.addr [c0, c1], leBytes t.bytes m.1)]
  match s.drainWrites d c cw o ws with
  | (some e, o1, s1) => s1.drainStopped d c o1 e
  | (none, o1, s1) =>
    let o2 := { o1 with keyPos := o.keyPos + 1, status := o.status ||| v.2 ||| m.2 }
    let s2 := s1.updOp d c o.seq fun y => { y with keyPos := o2.keyPos, status := o2.status, refused := o2.refused }
    if o2.keyPos < w * t.sizeOf 1 then s2
    else
      let inside := fun (m : JSum) => decide (coordSub (keyI m.key) o.iorg < t.sizeOf 1) && decide (coordSub (keyJ m.key) o.jorg < w)
      s2.drainWritten d c o2 cw (o.sums.filter inside) 0

def JOp.nrows (o : JOp) : Nat := let n := field (o.u 1) 32 22; if n = 0 then 2 ^ 22 else n
/-- A key's row within the drain. -/
def JOp.rowOf (o : JOp) (key : Nat) : Nat := coordSub (keyI key) o.iorg

/-- The keys of a list drain, by row and column. -/
def JOp.listKeys (o : JOp) : List JSum :=
  let mine := o.sums.filter fun m => decide (o.rowOf m.key < o.nrows)
  let at_ := fun (m : JSum) => { m with key := o.rowOf m.key * 2 ^ 22 + keyJ m.key }
  (sortSums (mine.map at_)).map fun m => { m with key := jkey o.tbl (m.key / 2 ^ 22 + o.iorg) m.key }

/-- The heads of rows that hold no key, from one row up to another. -/
def JOp.emptyHeads (o : JOp) (lo hi : Nat) : List (Nat × List Byte) :=
  (List.range (hi - lo)).map fun i => (o.u 0 + 8 * (lo + i), leBytes 8 0)

/-- The row of a list drain that a restored operation goes on with: its chunks lie just before `CHNEXT`. -/
def JTable.rowRestored (x : JTable) (before : Nat) : List Nat :=
  let chunks := (before + x.cap - 1) / x.cap
  if before = 0 then [0, 0, 0] else [x.chnext - chunks * x.chunk, x.chnext - x.chunk, before - x.cap * (chunks - 1)]

/-- Writes to `glob` space. -/
def globs (ws : List (Nat × List Byte)) : List (Space × Nat × List Byte) := ws.map fun w => (.glob, w.1, w.2)

/-- Places one key of a list drain: the heads of the empty rows before it, its tuple, and its row's head if it is the row's
last; behind the last key come the heads of the rows left. -/
def State.listStep (s : State) (d c : Nat) (o : JOp) (cw : Crew) : State :=
  let g := o.eng d c
  let x := s.table g.r o.tbl
  let keys := o.listKeys
  let prior := if o.keyPos = 0 then none else keys[o.keyPos - 1]?.map fun m => o.rowOf m.key
  let from_ := match prior with | some r => r + 1 | none => 0
  match keys[o.keyPos]? with
  | none =>
    match s.drainWrites d c cw o (globs (o.emptyHeads from_ o.nrows)) with
    | (some e, o1, s1) => s1.drainStopped d c o1 e
    | (none, o1, s1) => s1.drainWritten d c o1 cw keys 0
  | some m =>
    let row := o.rowOf m.key
    let fresh := prior != some row
    let before := ((keys.take o.keyPos).filter fun k => o.rowOf k.key == row).length
    let cur := if fresh then [0, 0, 0] else if o.row.getD 1 0 = 0 then x.rowRestored before else o.row
    let tail := cur.getD 1 0
    let new := tail == 0 || decide (x.cap ≤ cur.getD 2 0)
    if new && !x.hasChunk then s.drainStopped d c o (.stop .chunk)
    else
      let bits := x.fmt.pair (ivlOf m.val)
      let head := if fresh then x.chnext else cur.getD 0 0
      let last := match keys[o.keyPos + 1]? with | some k => o.rowOf k.key != row | none => true
      let tuple := x.tupleBytes m.key bits
      let chunk := leBytes 8 0 ++ leBytes 4 1 ++ leBytes 4 0 ++ tuple
      let put := if new then (if tail = 0 then [] else [(tail, leBytes 8 x.chnext)]) ++ [(x.chnext, chunk)]
                 else x.append tail (cur.getD 2 0) x.chnext tuple
      let ws := (if fresh then o.emptyHeads from_ row else []) ++ put
        ++ (if last then [(o.u 0 + 8 * row, leBytes 8 head)] else [])
      let s1 := if new then s.setTable g.r o.tbl { x with chnext := x.chnext + x.chunk } else s
      match s1.drainWrites d c cw o (globs ws) with
      | (some e, o1, s2) => s2.drainStopped d c o1 e
      | (none, o1, s2) =>
        s2.updOp d c o.seq fun y => { y with
          refused := o1.refused,
          keyPos := o.keyPos + 1, status := y.status ||| m.st,
          row := [head, if new then x.chnext else tail, if new then 1 else cur.getD 2 0 + 1] }

/-- One step of a drain. -/
def State.drainStep (s : State) (d c : Nat) (o : JOp) : State :=
  match s.crewOf (o.crew d c) with
  | none => s
  | some cw =>
    if o.written then s
    else match o.rcd with
      | none =>
        match s.drainBegin d c o cw with
        | (.error e, s1) => s1.drainStopped d c o e
        | (.ok o1, s1) => s1.updOp d c o.seq fun x => { o1 with logged := x.logged }
      | some t => if o.list then s.listStep d c o cw else s.tileStep d c o cw t

/-- `DRAIN_OPERATION`. -/
def execDrainOperation (s : State) : Out := infuserEvent .drain (fun s d c o => s.drainStep d c o) s

/-- The keys of the table that a drain has not emitted. -/
def JOp.outside (o : JOp) : Nat :=
  if o.list then (o.sums.filter fun m => !decide (o.rowOf m.key < o.nrows)).length
  else match o.rcd with
    | some t => (o.sums.filter fun m => !(decide (coordSub (keyI m.key) o.iorg < t.sizeOf 1) &&
        decide (coordSub (keyJ m.key) o.jorg < t.sizeOf 0))).length
    | none => 0

/-- `DRAIN_COMPLETE`: every write has been acknowledged; the table is emptied, and then the flag clears. -/
def execDrainComplete (s : State) : Out :=
  infuserEvent .drain (fun s d c o =>
    if !o.written then s
    else
      let r := o.crew d c
      let x := s.table r o.tbl
      let y := { x with sphead := 0, sptail := 0, spcount := 0, spills := 0, outwin := min (2 ^ 32 - 1) (x.outwin + o.outside) }
      (((s.clearEntries r x).setTable r o.tbl y).opDone d c o).waitDone o.thread o.waitId) s

/-! ## The save area: Tables 16.10 and 16.12 -/

def JTable.bytes64 (t : JTable) : List Byte :=
  [BitVec.ofNat 8 t.mode, BitVec.ofNat 8 t.kind, BitVec.ofNat 8 t.plim, BitVec.ofNat 8 t.chsz] ++ leBytes 4 t.base ++
    leBytes 4 t.size ++ leBytes 4 t.width ++ leBytes 4 t.i0 ++ leBytes 4 t.j0 ++ leBytes 8 t.chbase ++ leBytes 8 t.chlimit ++
    leBytes 8 t.chnext ++ leBytes 8 t.sphead ++ leBytes 8 t.sptail
def JTable.bytes16 (t : JTable) : List Byte :=
  leBytes 4 t.spills ++ leBytes 4 t.outwin ++ leBytes 4 t.err ++ leBytes 4 (if t.stopped then 1 else 0)

/-- An operation record. -/
def JOp.record (o : JOp) : List Byte :=
  let u := fun (k : Nat) => leBytes 8 (o.u k)
  if o.kind = .pass then
    leBytes 8 o.base.toNat ++ leBytes 8 o.cmd.toNat ++ u 0 ++ u 1 ++ u 2 ++ leBytes 8 o.progress ++
      (List.range 8).flatMap fun i => leBytes 4 ((o.rows.getD i none).getD 0xFFFFFFFF)
  else
    leBytes 8 o.base.toNat ++ leBytes 8 o.cmd.toNat ++ u 0 ++ u 1 ++ u 2 ++ u 3 ++ leBytes 8 o.progress ++ List.replicate 24 0

/-- The word of a band in the save area. -/
def bandWord (b : Band) (ops : List JOp) (n : Nat) : List Byte :=
  leBytes 2 (maskNat 16 fun k => b.batchPend.get false k) ++
    [BitVec.ofNat 8 b.batchNext, BitVec.ofNat 8 (ops.filter fun o => o.thread.band == some n && o.batch.isNone && o.opk != 0).length]
    ++ List.replicate 12 0

/-- The Caddy's part of the save area: eight bytes for each slot of the share, all ones where it holds nothing; the share begins at
`base` of the table of entries. -/
def Crew.slotBytes (cw : Crew) (caddy : Tbl CEntry) (base : Nat) : List Byte :=
  let tables := (List.range 16).map fun t => cw.table t
  let wide := fun (k : Nat) => tables.any fun t => t.mode != 0 && t.kind == 1 && decide (t.base ≤ k) && decide (k < t.base + t.slots)
  (List.range cw.cfg.caddy).flatMap fun k =>
    if wide k then
      match caddy.find? (base + k / 2 * 2) with
      | some e => leBytes 8 (if k % 2 = 0 then e.lo else e.hi).toNat
      | none => List.replicate 8 0xFF
    else match caddy.find? (base + k) with
      | some e => leBytes 4 e.lo.toNat ++ leBytes 4 e.hi.toNat
      | none => List.replicate 8 0xFF

/-- The save area of a crew, with the entries of its share. -/
def Crew.saveArea (cw : Crew) (caddy : Tbl CEntry) (base : Nat) (ops : List JOp) : List Byte :=
  let tables := (List.range 16).map fun t => cw.table t
  let bandWords := (List.range 16).flatMap fun n =>
    match cw.bands.find? n with
    | some b => bandWord b ops n
    | none => List.replicate 16 0
  (tables.flatMap fun t => t.bytes64) ++ (tables.flatMap fun t => t.bytes16) ++ bandWords ++
    pad 2560 (ops.flatMap fun o => o.record) ++ cw.slotBytes caddy base

/-- The whole save area of a crew. -/
def State.saveArea (s : State) (r : CrewRef) (cw : Crew) (ops : List JOp) : List Byte :=
  cw.saveArea (s.coreOf r.die r.core).caddy cw.cfg.caddyBase ops

/-- The key image of a hashed table: the key word of each entry, with bit 63 set. -/
def State.keyImage (s : State) (r : CrewRef) (cw : Crew) (t : JTable) : List Byte :=
  let caddy := (s.coreOf r.die r.core).caddy
  (List.range t.size).flatMap fun e =>
    leBytes 8 (match caddy.find? (t.slot cw e) with | some x => x.key % 2 ^ 48 + 2 ^ 63 | none => 0)

/-- A hashed table's key image does not fit before `CHLIMIT`. -/
def JTable.noRoom (t : JTable) : Bool := t.mode == 2 && decide (t.chlimit - t.chnext < 8 * t.size)

/-- Writes of a save: the area and the key images. -/
def State.saveWrites (s : State) (r : CrewRef) (cw : Crew) (va : Nat) (ops : List JOp) : List (Nat × List Byte) :=
  (va, s.saveArea r cw ops) :: ((List.range 16).filterMap fun t =>
    let x := cw.table t
    if x.mode = 2 then some (x.chnext, s.keyImage r cw x) else none)

/-! ## `JSAVE` -/

/-- The area of a `JSAVE` or `JLOAD` is named wrongly: code and address. -/
def areaBad (va n : Nat) : Option Nat := if 2 ^ 56 < va + n then some 3 else if va % 64 ≠ 0 then some 2 else none

/-- The thread of an instruction, as it reads and writes `glob` bytes for itself. -/
def Env.eng (e : Env) : Eng := { r := e.t.crew, num := (ThreadRef.asker e.t).2.1, pc := e.b.x.pc, seq := 0 }

/-- The thread's operations at an access that fails: a fault parks the band at the instruction, a missing permission is a
trap. -/
def Env.areaFault (e : Env) (f : EngFault) (va : Nat) (write : Bool) (s : State) : Out :=
  match f with
  | .wait => .next (e.waitAway va s)
  | .violation => .next (e.raise 7 (BitVec.ofNat 64 ((if s.noRoute va then 4 else 1) * 2 ^ 60 + va % 2 ^ 56)) e.lanes (s.engDone e.eng))
  | .page at_ =>
    let ctx := match s.crewOf e.t.crew with | some cw => handleCtx cw.cfg.handle | none => 0
    let page := s.engUnmapped e.eng ctx at_
    let cause := if write then 9 else if page then 0x0100 else 0x0101
    .next ((e.settled (s.engDone e.eng)).memFault e.t
      { va := at_, pc := e.b.x.pc, lanes := e.lanes, index := 0xFFFF, fetch := false, cause := cause })

/-- The operations of a crew in its core's queue. -/
def State.crewOps (s : State) (r : CrewRef) : List JOp := (s.coreOf r.die r.core).jq.filter fun o => o.slot == r.slot

/-- The crew's operations leave the queue and its tables are off, R453. -/
def State.jDetach (s : State) (r : CrewRef) (ops : List JOp) : State :=
  let s1 := (List.range 16).foldl (fun (s : State) t => s.clearEntries r (s.table r t)) s
  let s2 := s1.updCore r.die r.core fun c => { c with jq := c.jq.filter fun o => o.slot != r.slot }.parkedOnly
  s2.updCrew r fun w => { w with tables := [], planned := [], ctl := { w.ctl with jsaved := ops, jHold := none } }

/-- `JSAVE`. DEDUCED, log 69. -/
def execJsave (c : Code) (s : State) : Out :=
  runInstr 0xF7 c s fun e0 =>
    match s.crewOf e0.t.crew with
    | none => .fault .noThread
    | some cw =>
      let va := e0.srcA 0 64
      let n := 8 * cw.cfg.caddy + 4096
      match areaBad va n with
      | some code => e0.jRefuse code va e0.lanes s
      | none =>
        if (List.range 16).any fun t => (cw.table t).noRoom then e0.jRefuse 7 0 e0.lanes s
        else if !e0.b.committed then waits s
        else match (s.crewOps e0.t.crew).filterMap fun o => o.refused.map fun at_ => (o, at_) with
        | x :: _ => .next (s.drainFault e0.t.die e0.t.core x.1 x.2 true)
        | [] =>
          let e := e0.ownRegion true
          let r := e.t.crew
          let ops := (s.crewOps r).map fun o => { o with st := if o.halted && !o.stopped then .queued else o.st }
          let g := e.eng
          match s.globWrites g cw (s.saveWrites r cw va ops) with
          | (some f, s1) =>
            e.areaFault f va true (s1.updCrew r fun w => { w with ctl := { w.ctl with jHold := e.t.band } })
          | (none, s1) => e.result (e.varied [] none 0) ((s1.engDone g).jDetach r ops)

/-! ## `JLOAD` -/

/-- A table as the save area holds it; the tuples of its last chunk are counted there. -/
def JTable.restore (b16 : List Byte) (b64 : List Byte) (count : Nat) : JTable :=
  { JTable.parse b64 with
    sphead := fld b64 48 8, sptail := fld b64 56 8, spcount := count, spills := fld b16 0 4, outwin := fld b16 4 4,
    err := fld b16 8 4, stopped := fld b16 12 4 != 0 }

/-- An operation from its record, by the opcode in its base word. -/
def JOp.restore (s : State) (r : CrewRef) (cw : Crew) (rec : List Byte) : JOp :=
  let base := fld rec 0 8
  let raw := Raw.ofWords base (fld rec 8 8) none
  let opc := raw.opc.toNat
  let m := (extOf 0xF6 .b (BitVec.ofNat 64 (fld rec 8 8))).mods.toNat
  let prog := if opc = 0xF0 then fld rec 40 8 else fld rec 48 8
  let band := prog / 2 ^ 52 % 16
  let kind : JOpKind :=
    if opc = 0xF0 then .pass else if opc = 0xF1 then .bit else if opc = 0xF2 then .stream else if opc = 0xF5 then .drain
    else if opc = 0xD4 then .qfence (raw.srca.toNat % 32)
    else if m % 4 = 0 then .cfg else if m % 4 = 1 then .clr (m.testBit 6)
    else .qry (match Opnd.ofBits raw.srcb with | some (.imm n) => (immVal n).toNat | _ => 0)
  let cmd := BitVec.ofNat 64 (fld rec 8 8)
  let unis := [16, 24, 32].map fun k => BitVec.ofNat 64 (fld rec k 8)
  let u3 := if opc = 0xF0 then [] else [BitVec.ofNat 64 (fld rec 40 8)]
  let mask := if kind.batched && kind != .drain && kind != .stream && cmd.getLsbD 44 then
      (match cw.bands.find? band with | some b => [b.r.uni.get 0 (field cmd.toNat 39 5)] | none => []) else []
  let o := JOp.make kind 0 (r.band band) 0 0 (BitVec.ofNat 64 base)
  let rows := (List.range 8).map fun i => let v := fld rec (48 + 4 * i) 4; if v = 0xFFFFFFFF then none else some v
  { o with
    cmd := cmd, tbl := if kind.batched then field cmd.toNat 60 4 else m / 4 % 16, unis := unis ++ u3 ++ mask,
    rows := if kind = .pass then rows else [], readDone := kind == .drain,
    desc := if kind = .cfg then s.getScr r cw .core 0 ((unis.headD 0).toNat % 2 ^ 32) 64 else [],
    dst := match Opnd.ofBits raw.dst with | some (.uni k) => some k.toNat | _ => none,
    step := prog / 2 ^ 32 % 2 ^ 20, keyPos := prog % 2 ^ 32, batch := some (prog / 2 ^ 56 % 16) }

/-- The operations of a save area; one of those that the crew's own save removed goes on as it was. -/
def restoredOps (s : State) (r : CrewRef) (cw : Crew) (removed : List JOp) (area : List Byte) : List JOp :=
  let recs := ((List.range 32).map fun k => (area.drop (1536 + 80 * k)).take 80).filter fun r => r.any fun b => b != 0
  ((List.range recs.length).zip recs).map fun x =>
    match removed[x.1]? with
    | some o => if o.record = x.2 then o else JOp.restore s r cw x.2
    | none => JOp.restore s r cw x.2

/-- The batch of each restored operation: the last operations of a band, as many as it had open, are in none. -/
def openLast (area : List Byte) (ops : List JOp) : List JOp :=
  let openOf := fun (n : Nat) => fld area (1280 + 16 * n + 3) 1
  ((List.range ops.length).zip ops).map fun x =>
    let later := (ops.drop (x.1 + 1)).filter fun o => o.thread.band == x.2.thread.band && o.opk != 0
    if x.2.opk != 0 && decide (later.length < openOf (x.2.thread.band.getD 0)) then { x.2 with batch := none } else x.2

/-- The quarter of a restored operation of `JPASS` is not recorded: it is the next among those of its instruction whose rows
are not restored yet. -/
def quartersOf (ops : List JOp) : List JOp :=
  ops.foldl (fun (l : List JOp) o =>
    if o.kind = .pass ∧ o.pc = 0 ∧ o.waitId = 0 then
      let same := l.filter fun x => x.kind == .pass && x.base == o.base && x.cmd == o.cmd && x.unis == o.unis && x.thread == o.thread
      l ++ [{ o with quarter := match same.getLast? with | some x => x.quarter + 1 | none => 0 }]
    else l ++ [o]) []

/-- The counts of the tail chunks of the saved tables. -/
def State.tailCounts (s : State) (g : Eng) (cw : Crew) (area : List Byte) : Nat → Except EngFault (List Nat) × State
  | 0 => (.ok [], s)
  | n + 1 =>
    let tail := fld area (64 * (15 - n) + 56) 8
    let r := if tail = 0 then (.ok ⟨leBytes 4 0, none⟩, s) else s.engRead g cw .glob attrR (tail + 8) 4
    match r with
    | (.error e, s1) => (.error e, s1)
    | (.ok b, s1) =>
      match s1.tailCounts g cw area n with
      | (.error e, s2) => (.error e, s2)
      | (.ok l, s2) => (.ok (leNat b.bytes :: l), s2)

/-- The keys of a hashed table by position, from its key image. -/
def JTable.imageKeys (t : JTable) (image : List Byte) : List (Option Nat) :=
  (List.range t.size).map fun e =>
    let w := fld image (8 * e) 8
    if w / 2 ^ 63 = 1 then some (w % 2 ^ 48) else none

/-- The keys of table n by position, where they are the positions themselves. -/
def JTable.placeKeys (t : JTable) (n : Nat) : List (Option Nat) :=
  (List.range (if t.mode = 1 then t.size else 0)).map fun p => some (jkey n (t.i0 + p / max 1 t.width) (t.j0 + p % max 1 t.width))

/-- The keys of a saved table by position: from its key image, or from the positions themselves. -/
def State.savedKeys (s : State) (g : Eng) (cw : Crew) (n : Nat) (t : JTable) : Except EngFault (List (Option Nat)) × State :=
  if t.mode = 2 then
    match s.engRead g cw .glob attrR t.chnext (8 * t.size) with
    | (.error e, s1) => (.error e, s1)
    | (.ok b, s1) => (.ok (t.imageKeys b.bytes), s1)
  else (.ok (t.placeKeys n), s)

/-- The entries of a saved table, by slot of the share. -/
def savedEntries (t : JTable) (area : List Byte) (keys : List (Option Nat)) : List (Nat × CEntry) :=
  ((List.range keys.length).zip keys).filterMap fun x =>
    let k := t.base + x.1 * (t.kind + 1)
    let bs := (area.drop (4096 + 8 * k)).take (8 * (t.kind + 1))
    match x.2 with
    | some key => if bs.all fun b => b == 0xFF then none else some (k, t.entry key (leNat bs))
    | none => none

/-- The tables of a save area with their entries. -/
def State.savedTables (s : State) (g : Eng) (cw : Crew) (area : List Byte) (counts : List Nat) :
    Nat → Except EngFault (List (Nat × JTable × List (Nat × CEntry))) × State
  | 0 => (.ok [], s)
  | n + 1 =>
    let k := 15 - n
    let t := JTable.restore ((area.drop (1024 + 16 * k)).take 16) ((area.drop (64 * k)).take 64) (counts.getD k 0)
    match s.savedKeys g cw k t with
    | (.error e, s1) => (.error e, s1)
    | (.ok keys, s1) =>
      match s1.savedTables g cw area counts n with
      | (.error e, s2) => (.error e, s2)
      | (.ok l, s2) => (.ok (if t.mode = 0 then l else (k, t, savedEntries t area keys) :: l), s2)

/-- Gives a crew the tables of a save area. DEDUCED, log 69. -/
def State.jInstall (s : State) (r : CrewRef) (ts : List (Nat × JTable × List (Nat × CEntry))) : State :=
  ts.foldl (fun (s : State) x =>
    match s.crewOf r with
    | none => s
    | some cw =>
      (s.updCore r.die r.core fun c => { c with caddy := x.2.2.foldl (fun m y => m.set (cw.cfg.caddyBase + y.1) y.2) c.caddy }).updCrew r
        fun w => { w with tables := w.tables.set x.1 x.2.1, planned := w.planned.set x.1 x.2.1 }) s

/-- The tables as the restored `JCFG` operations will leave them. -/
def planOps (ops : List JOp) (w : Crew) : Crew :=
  { w with planned := ops.foldl (fun (p : Tbl JTable) o => if o.kind = .cfg then p.set o.tbl (JTable.parse o.desc) else p) w.planned }

/-- Batches pending at the save are pending again. -/
def State.bandWords (s : State) (r : CrewRef) (area : List Byte) : State :=
  s.updCrew r fun w => { w with bands := w.bands.map fun b =>
    let m := fld area (1280 + 16 * b.1) 2
    let pend := (List.range 16).foldl (fun (t : Tbl Bool) k => if m.testBit k then t.set k true else t) b.2.batchPend
    (b.1, { b.2 with batchNext := fld area (1280 + 16 * b.1 + 2) 1 % 16, batchPend := pend }) }

/-- Appends operations to the queue in their order. -/
def State.jAppend (s : State) (d c : Nat) (ops : List JOp) : State :=
  s.updCore d c fun k => ops.foldl (fun (k : Core) o => { k with jq := k.jq ++ [{ o with seq := k.seq }], seq := k.seq + 1 }) k

/-- `JLOAD`. DEDUCED, log 69. -/
def execJload (c : Code) (s : State) : Out :=
  runInstr 0xF7 c s fun e0 =>
    match s.crewOf e0.t.crew with
    | none => .fault .noThread
    | some cw =>
      let va := e0.srcA 0 64
      let n := 8 * cw.cfg.caddy + 4096
      let r := e0.t.crew
      let d := r.die
      match areaBad va n with
      | some code => e0.jRefuse code va e0.lanes s
      | none =>
        if !(s.crewOps r).isEmpty || (List.range 16).any fun t => (cw.plan t).mode != 0 then e0.jRefuse 7 0 e0.lanes s
        else if !e0.b.committed then waits s
        else match (s.crewOps e0.t.crew).filterMap fun o => o.refused.map fun at_ => (o, at_) with
        | x :: _ => .next (s.drainFault e0.t.die e0.t.core x.1 x.2 true)
        | [] =>
          let e := e0.ownRegion true
          let g := e.eng
          match s.engRead g cw .glob attrR va n with
          | (.error f, s1) => e.areaFault f va false s1
          | (.ok a, s1) =>
            let ops := openLast a.bytes (quartersOf (restoredOps s1 r cw cw.ctl.jsaved a.bytes))
            if 32 < (s1.coreOf d r.core).jq.length + ops.length then waits s
            else match s1.tailCounts g cw a.bytes 16 with
              | (.error f, s2) => e.areaFault f va false s2
              | (.ok counts, s2) =>
                match s2.savedTables g cw a.bytes counts 16 with
                | (.error f, s3) => e.areaFault f va false s3
                | (.ok ts, s3) =>
                  match e.result (e.varied [] none 0) (s3.engDone g) with
                  | .next s4 =>
                    let s5 := (s4.jInstall r ts).updCrew r fun w =>
                      { planOps ops w with ctl := { w.ctl with jsaved := [] } }
                    .next ((((s5.bandWords r a.bytes).jAppend d r.core ops)).jSettle d r.core)
                  | o => o

end Sys2Proof.Machine
end

