-- ==== Sys2Proof/Machine/Events.lean ====
section
/-!
DEFINITION. What happens to bands with the passing of cycles: R165, R185, R269 and R280.
-/
namespace Sys2Proof.Machine

/-! ## The active set: R165 -/

/-- The bands of a core that run, by slot and number. -/
def Core.runningBands (c : Core) : List (Nat × Nat) :=
  c.crews.flatMap fun w => (w.2.bands.filter fun b => b.2.running).map fun b => (w.1, b.1)

/-- A band's waiting age: cycles since it last became eligible, R167. DEDUCED, log 51. -/
def Band.age (b : Band) (now : Nat) : Nat := if b.x.ready then now - b.x.since else 0

/-- For how many cycles a band has been eligible, or has not been. -/
def State.standing (s : State) (t : ThreadRef) : Nat :=
  match s.thread t with
  | some b => s.cyc t.die - b.x.since
  | none => 0

/-- The band was eligible, or was not, at the end of the last cycle, as it was recorded. DEDUCED, log 51. -/
def State.wasReady (s : State) (t : ThreadRef) (want : Bool) : Bool :=
  match s.thread t with
  | some b => b.x.ready == want && decide (b.x.since < s.cyc t.die)
  | none => false

/-- The key of R167: waiting age plus sixteen times the crew's priority. DEDUCED, log 51. -/
def State.key (s : State) (t : ThreadRef) : Nat :=
  match s.crewOf t.crew, s.thread t with
  | some cw, some b => b.age (s.cyc t.die) + 16 * cw.cfg.prio
  | _, _ => 0

/-- The first of a list with the greatest measure. -/
def greatest {α : Type} (f : α → Nat) : List α → Option α
  | [] => none
  | x :: xs =>
    match greatest f xs with
    | some y => if f y ≤ f x then some x else some y
    | none => some x

/-- The cycle at which a band issued last. -/
def State.issuedAt (s : State) (t : ThreadRef) : Nat :=
  match s.thread t with
  | some b => b.x.lastIssue.getD 0
  | none => 0

/-- A band outside the set takes the place of one in it. -/
def State.swapSet (s : State) (out : Option ThreadRef) (into : ThreadRef) : State :=
  match out with
  | some o => (s.leaveSet o).enterSet into
  | none => s.enterSet into

/-- `ACTIVE_SET_REPLACEMENT`, at the core of `cur`. A vacant place is taken like that of a band that is not eligible. DEDUCED, log 51. -/
def execActiveSetReplacement (s : State) : Out :=
  let d := s.cur.die
  let c := s.cur.core
  let s1 := s.trimSet d c
  let k := s1.coreOf d c
  let now := s1.cyc d
  let at_ := fun (p : Nat × Nat) => ({ die := d, core := c, slot := p.1, band := some p.2 } : ThreadRef)
  let inside := k.sel.active.map at_
  let outside := (k.runningBands.filter fun p => !k.sel.active.contains p).map at_
  let ready := outside.filter fun t => s1.wasReady t true
  let idle := inside.filter fun t => s1.wasReady t false
  let long := ready.filter fun t => decide (64 ≤ s1.standing t)
  if k.sel.lastSetChange = some now then .next s1
  else if inside.length < 8 then
    match greatest s1.key ready with
    | some t => .next (s1.swapSet none t)
    | none => .next s1
  else match greatest s1.standing idle, greatest s1.key ready with
    | some o, some t => .next (s1.swapSet (some o) t)
    | _, _ =>
      match greatest s1.issuedAt inside, greatest s1.key long with
      | some o, some t => .next (s1.swapSet (some o) t)
      | _, _ => .next s1

/-! ## Merging and traps -/

/-- `MRG_WAIT_EXPIRY`: the candidate at `cur` continues alone after 256 cycles. -/
def execMrgWaitExpiry (s : State) : Out :=
  match s.thread s.cur with
  | some b =>
    match b.x.phase with
    | .merging since =>
      if since + 256 ≤ s.cyc s.cur.die then
        .next { s.setThread s.cur (b.pastMrg s.free (b.x.pc + BitVec.ofNat 48 b.x.lastLen)) with free := s.free + 65 }
      else .next s
    | _ => .next s
  | none => .next s

/-- `TRAP_ENTRY`: the trap accepted at `cur` is entered once every earlier instruction that writes a register has
completed. -/
def execTrapEntry (s : State) : Out :=
  let s1 := s.settle s.cur
  match s1.thread s.cur with
  | some b => .next (if b.pending.isSome && !b.writersOut then s1.enterTrap s.cur else s1)
  | none => .next s1

/-! ## Overrun: R280 -/

/-- `SPMAX_OVERRUN`: the band at `cur` is stopped at an instruction boundary outside a chain, its accesses acknowledged; in a cancel
handler, which no save follows, it is killed, R123. DEDUCED, log 33. -/
def execSpmaxOverrun (s0 : State) : Out :=
  let s := s0.settle s0.cur
  match s.crewOf s.cur.crew, s.thread s.cur with
  | some cw, some b =>
    match b.stopReq with
    | none => .next s
    | some _ =>
      if s.cur.band.isNone || !s.overdue s.cur cw b || !b.running || b.stopped || b.pending.isSome || b.x.chain.isSome || !b.x.phase.mayOverrun
          || b.writersOut || !b.committed then .next s
      else
        let h := cw.cfg.handle
        let stop := fun (s : State) => if cw.ctl.cancelled && b.cancelTrap then s.killBand s.cur
          else s.setThread s.cur { b with stopped := true, full := true }
        .next (((stop s).trapEvent s.cur h 15 b.x.pc.toNat 0 b.exec.toNat 0).countCause s.cur.die h 15)
  | _, _ => .next s

end Sys2Proof.Machine
end

