-- ==== Sys2Proof/Machine/Packets.lean ====
section
/-!
DEFINITION. Packets and flits as bytes: R32 to R39.
-/
namespace Sys2Proof.Machine

/-! ## Bodies, Table 2.8 -/

def Route.word (r : Route) : Nat := r.queue.toNat + 2 ^ 2 * r.die.toNat + (if r.ackReq then 2 ^ 5 else 0)
def Route.ofNat (w : Nat) : Route :=
  { queue := BitVec.ofNat 2 w, die := BitVec.ofNat 3 (field w 2 3), ackReq := field w 5 1 == 1 }
def QueueWord.word (q : QueueWord) : Nat := q.ctx.toNat + 2 ^ 6 * q.queue.toNat + 2 ^ 12 * q.pos.toNat
def QueueWord.ofNat (w : Nat) : QueueWord :=
  { ctx := BitVec.ofNat 6 w, queue := BitVec.ofNat 6 (field w 6 6), pos := BitVec.ofNat 36 (field w 12 36) }

/-- The `KIND` code of a body. -/
def Body.kind : Body → Nat
  | .read _ => 0x00 | .write _ => 0x01 | .atomic _ => 0x02 | .coll _ => 0x03
  | .data _ _ => 0x20 | .ack _ => 0x21 | .old _ _ => 0x22 | .collres _ => 0x23
  | .enq _ => 0x40 | .enqack _ _ => 0x41 | .credit _ _ => 0x42 | .bounce _ => 0x43
  | .stealreq _ => 0x50 | .grant _ _ => 0x51 | .stealrec _ _ _ => 0x52 | .refuse _ => 0x53 | .stealack _ _ => 0x54
  | .token _ _ => 0x55 | .notice _ _ _ _ => 0x56 | .recpart _ _ => 0x57 | .rangereq _ => 0x58 | .range _ => 0x59
  | .retire _ => 0x5A | .mirrorack _ _ => 0x5B | .sweep _ _ => 0x5C | .sweepreply _ => 0x5D | .cancel _ => 0x5E
  | .barrier _ => 0x5F
  | .permreq _ _ => 0x60 | .permreply _ => 0x61 | .ready _ _ => 0x62 | .unpark => 0x63
  | .crread _ => 0x70 | .crwrite _ _ => 0x71 | .crreply _ _ => 0x72 | .event _ => 0x73 | .health _ => 0x74
  | .podseq _ => 0x75

/-- The virtual channel of a `KIND`, Table 2.4; none for a code assigned to none. -/
def kindVc (kind : Nat) : Option Nat :=
  if kind < 0x20 then some 0 else if kind < 0x40 then some 1 else if kind < 0x50 then some 2
  else if kind < 0x60 then some 3 else if kind < 0x70 then some 4 else if kind < 0x80 then some 5 else none

def Body.vc (b : Body) : Nat := (kindVc (Body.kind b)).getD 0

def CollB.bytesOf (b : CollB) : List Byte :=
  leBytes 8 (b.roster.toNat + 2 ^ 8 * b.gen.toNat + (if b.rred then 2 ^ 40 else 0) + 2 ^ 41 * b.part.toNat)
    ++ leBytes 8 b.lin.toNat ++ b.bytes
def EnqB.bytesOf (b : EnqB) : List Byte := leBytes 8 (Route.word b.route) ++ leBytes 8 b.handle.toNat ++ b.record
def RangeB.bytesOf (b : RangeB) : List Byte :=
  leBytes 8 b.handle.toNat ++ leBytes 8 b.first.toNat ++ leBytes 4 b.count.toNat ++ [if b.exhausted then 1 else 0, 0, 0, 0]

/-- The body in the layout of Table 2.8. -/
def Body.bytes : Body → List Byte
  | .read b => leBytes 8 (b.va.toNat + 2 ^ 56 * b.cntM1.toNat + (if b.acq then 2 ^ 63 else 0))
  | .write b => leBytes 8 (b.va.toNat + 2 ^ 56 * b.cntM1.toNat + (if b.rel then 2 ^ 63 else 0)) ++ b.bytes
  | .atomic b =>
    leBytes 8 (b.va.toNat + 2 ^ 56 * b.op.toNat + 2 ^ 60 * b.width.toNat + (if b.signed then 2 ^ 62 else 0))
      ++ leBytes 16 b.operand.toNat ++ (if b.op = 7 then leBytes 16 b.expected.toNat else [])
  | .coll b => CollB.bytesOf b
  | .data st bs => leBytes 8 st.toNat ++ bs
  | .ack st => leBytes 8 st.toNat
  | .old st v => leBytes 8 st.toNat ++ leBytes 16 v.toNat
  | .collres b => CollB.bytesOf b
  | .enq b => EnqB.bytesOf b
  | .enqack r h => leBytes 8 (Route.word r) ++ leBytes 8 h.toNat
  | .credit r h => leBytes 8 (Route.word r) ++ leBytes 8 h.toNat
  | .bounce b => EnqB.bytesOf b
  | .stealreq h => leBytes 8 h.toNat
  | .grant h k => leBytes 8 h.toNat ++ leBytes 8 k.toNat
  | .stealrec h p r => leBytes 8 h.toNat ++ leBytes 8 p.toNat ++ r
  | .refuse h => leBytes 8 h.toNat
  | .stealack h k => leBytes 8 h.toNat ++ leBytes 8 k.toNat
  | .token q t => leBytes 8 (QueueWord.word q) ++ t
  | .notice h q cw lo => leBytes 8 h.toNat ++ leBytes 8 (QueueWord.word q) ++ leBytes 8 cw.toNat ++ lo
  | .recpart h hi => leBytes 8 h.toNat ++ hi
  | .rangereq h => leBytes 8 h.toNat
  | .range b => RangeB.bytesOf b
  | .retire b => RangeB.bytesOf b
  | .mirrorack h f => leBytes 8 h.toNat ++ leBytes 8 f.toNat
  | .sweep h n => leBytes 8 h.toNat ++ leBytes 8 n.toNat
  | .sweepreply b => leBytes 8 b.handle.toNat ++ leBytes 8 b.sweep.toNat ++ leBytes 4 b.unretired.toNat
      ++ leBytes 4 b.live.toNat ++ leBytes 8 (if b.change then 1 else 0) ++ b.faults.flatMap fun f => leBytes 4 f.toNat
  | .cancel h => leBytes 8 h.toNat
  | .barrier b => leBytes 8 b.handle.toNat ++ leBytes 8 (b.kind.toNat + 2 ^ 8 * b.roster.toNat + 2 ^ 16 * b.gen.toNat
      + (if b.completion then 2 ^ 48 else 0) + (if b.broken then 2 ^ 49 else 0))
  | .permreq va t => leBytes 8 va.toNat ++ leBytes 8 t.toNat
  | .permreply b => leBytes 8 b.page.toNat ++ leBytes 2 b.attrs.toNat ++ [b.grant, if b.notMapped then 1 else 0]
      ++ leBytes 4 0
  | .ready p sz => leBytes 8 p.toNat ++ leBytes 8 sz.toNat
  | .unpark => []
  | .crread o => leBytes 8 o.toNat
  | .crwrite o v => leBytes 8 o.toNat ++ leBytes 8 v.toNat
  | .crreply st v => leBytes 8 st.toNat ++ leBytes 8 v.toNat
  | .event r => r
  | .health m => leBytes 4 m.toNat ++ leBytes 4 0
  | .podseq n => leBytes 8 n.toNat

/-- The n bytes from a place on, as a number. -/
def natAt (bs : List Byte) (off n : Nat) : Nat := leNat ((bs.drop off).take n)
/-- The n bytes from a place on, zero beyond the end. -/
def bytesAt (bs : List Byte) (off n : Nat) : List Byte := ((bs.drop off).take n ++ List.replicate n 0).take n

/-- A part is a whole number of units of 16 bytes, R397; what stands behind them in the last slot is none of it. -/
def CollB.parse (bs : List Byte) : CollB :=
  let w := natAt bs 0 8
  { roster := BitVec.ofNat 8 w, gen := BitVec.ofNat 32 (field w 8 32), rred := field w 40 1 == 1,
    part := BitVec.ofNat 15 (field w 41 15), lin := BitVec.ofNat 64 (natAt bs 8 8), bytes := (bs.drop 16).take (min 208 ((bs.length - 16) / 16 * 16)) }
def EnqB.parse (bs : List Byte) : EnqB :=
  { route := Route.ofNat (natAt bs 0 8), handle := BitVec.ofNat 48 (natAt bs 8 8), record := bytesAt bs 16 64 }
def RangeB.parse (bs : List Byte) : RangeB :=
  { handle := BitVec.ofNat 48 (natAt bs 0 8), first := BitVec.ofNat 64 (natAt bs 8 8),
    count := BitVec.ofNat 32 (natAt bs 16 4), exhausted := (bs.getD 20 0).getLsbD 0 }

/-- Reads a body; none for a `KIND` that Table 2.8 does not list. -/
def Body.parse (kind : Nat) (bs : List Byte) : Option Body :=
  let w := natAt bs 0 8
  let va : VAddr := BitVec.ofNat 56 w
  let h : Handle := BitVec.ofNat 48 w
  let n8 := BitVec.ofNat 64 (natAt bs 8 8)
  match kind with
  | 0x00 => some (.read { va := va, cntM1 := BitVec.ofNat 7 (field w 56 7), acq := field w 63 1 == 1 })
  | 0x01 => some (.write { va := va, cntM1 := BitVec.ofNat 7 (field w 56 7), rel := field w 63 1 == 1,
                           bytes := bytesAt bs 8 (field w 56 7 + 1) })
  | 0x02 => some (.atomic { va := va, op := BitVec.ofNat 4 (field w 56 4), width := BitVec.ofNat 2 (field w 60 2),
                            signed := field w 62 1 == 1, operand := BitVec.ofNat 128 (natAt bs 8 16),
                            expected := if field w 56 4 = 7 then BitVec.ofNat 128 (natAt bs 24 16) else 0 })
  | 0x03 => some (.coll (CollB.parse bs))
  | 0x20 => some (.data (BitVec.ofNat 8 w) ((bs.drop 8).take 64))
  | 0x21 => some (.ack (BitVec.ofNat 8 w))
  | 0x22 => some (.old (BitVec.ofNat 8 w) (BitVec.ofNat 128 (natAt bs 8 16)))
  | 0x23 => some (.collres (CollB.parse bs))
  | 0x40 => some (.enq (EnqB.parse bs))
  | 0x41 => some (.enqack (Route.ofNat w) (BitVec.ofNat 48 (natAt bs 8 8)))
  | 0x42 => some (.credit (Route.ofNat w) (BitVec.ofNat 48 (natAt bs 8 8)))
  | 0x43 => some (.bounce (EnqB.parse bs))
  | 0x50 => some (.stealreq h)
  | 0x51 => some (.grant h n8)
  | 0x52 => some (.stealrec h n8 (bytesAt bs 16 64))
  | 0x53 => some (.refuse h)
  | 0x54 => some (.stealack h n8)
  | 0x55 => some (.token (QueueWord.ofNat w) (bytesAt bs 8 64))
  | 0x56 => some (.notice h (QueueWord.ofNat (natAt bs 8 8)) (BitVec.ofNat 64 (natAt bs 16 8)) (bytesAt bs 24 128))
  | 0x57 => some (.recpart h (bytesAt bs 8 128))
  | 0x58 => some (.rangereq h)
  | 0x59 => some (.range (RangeB.parse bs))
  | 0x5A => some (.retire (RangeB.parse bs))
  | 0x5B => some (.mirrorack h n8)
  | 0x5C => some (.sweep h n8)
  | 0x5D => some (.sweepreply { handle := h, sweep := n8, unretired := BitVec.ofNat 32 (natAt bs 16 4),
                                live := BitVec.ofNat 32 (natAt bs 20 4), change := (bs.getD 24 0).getLsbD 0,
                                faults := (List.range 32).map fun i => BitVec.ofNat 32 (natAt bs (32 + 4 * i) 4) })
  | 0x5E => some (.cancel h)
  | 0x5F =>
    let b := natAt bs 8 8
    some (.barrier { handle := h, kind := BitVec.ofNat 3 b, roster := BitVec.ofNat 8 (field b 8 8),
                     gen := BitVec.ofNat 32 (field b 16 32), completion := field b 48 1 == 1, broken := field b 49 1 == 1 })
  | 0x60 => some (.permreq va n8)
  | 0x61 => some (.permreply { page := va, attrs := BitVec.ofNat 16 (natAt bs 8 2), grant := bs.getD 10 0,
                               notMapped := (bs.getD 11 0).getLsbD 0 })
  | 0x62 => some (.ready va (BitVec.ofNat 2 (natAt bs 8 1)))
  | 0x63 => some .unpark
  | 0x70 => some (.crread (BitVec.ofNat 64 w))
  | 0x71 => some (.crwrite (BitVec.ofNat 64 w) n8)
  | 0x72 => some (.crreply (BitVec.ofNat 8 w) n8)
  | 0x73 => some (.event (bytesAt bs 0 64))
  | 0x74 => some (.health (BitVec.ofNat 32 w))
  | 0x75 => some (.podseq (BitVec.ofNat 64 w))
  | _ => none

/-! ## Packets, Table 2.3 -/

/-- Slots of 16 bytes that a packet occupies. -/
def Packet.slots (p : Packet) : Nat := (8 + (Body.bytes p.body).length + 15) / 16

/-- The header word of a packet. -/
def Packet.head (p : Packet) : Nat :=
  let h := p.hdr
  Packet.slots p + 2 ^ 4 * Body.kind p.body + 2 ^ 12 * h.dstSock.toNat + 2 ^ 17 * h.srcSock.toNat + 2 ^ 22 * h.dstPkg.toNat
    + 2 ^ 30 * h.srcPkg.toNat + 2 ^ 38 * h.tag.toNat + 2 ^ 58 * h.ctx.toNat

/-- Cuts bytes into slots of 16, the last filled with zeros. -/
def cutSlots : Nat → List Byte → List (List Byte)
  | 0, _ => []
  | n + 1, bs => bytesAt bs 0 16 :: cutSlots n (bs.drop 16)

def Packet.cut (p : Packet) : List (List Byte) := cutSlots (Packet.slots p) (leBytes 8 (Packet.head p) ++ Body.bytes p.body)

/-- Reads a packet from the slots of a flit: none where `LEN` or `KIND` is wrong for the channel, R34; else the packet and
the slots after it. -/
def Packet.parse (vc : Nat) (slots : List (List Byte)) : Option (Packet × List (List Byte)) :=
  let w := natAt (slots.headD []) 0 8
  let len := field w 0 4
  let kind := field w 4 8
  if len = 0 ∨ slots.length < len ∨ kindVc kind ≠ some vc then none
  else
    (Body.parse kind ((slots.take len).flatten.drop 8)).map fun b =>
      (⟨{ ctx := BitVec.ofNat 6 (field w 58 6), tag := BitVec.ofNat 20 (field w 38 20), srcPkg := BitVec.ofNat 8 (field w 30 8),
          dstPkg := BitVec.ofNat 8 (field w 22 8), srcSock := BitVec.ofNat 5 (field w 17 5),
          dstSock := BitVec.ofNat 5 (field w 12 5) }, b⟩, slots.drop len)

/-- Reads every packet of a flit. -/
def Packet.parseAll (vc : Nat) : Nat → List (List Byte) → Option (List Packet)
  | _, [] => some []
  | 0, _ => none
  | n + 1, slots =>
    match Packet.parse vc slots with
    | none => none
    | some (p, rest) => (Packet.parseAll vc n rest).map fun ps => p :: ps

/-! ## Flits: R32 to R34 -/

/-- One bit into the CRC of R34. -/
def crcBit (r : W64) (b : Bool) : W64 :=
  let top := r.getLsbD 63 != b
  let s := r <<< 1
  if top then s ^^^ 0x42F0E1EBA9EA3693#64 else s

def crcByte (r : W64) (b : Byte) : W64 := (List.range 8).foldl (fun r i => crcBit r (b.getLsbD (7 - i))) r

/-- The CRC of bytes 0 to 247. -/
def crc64 (bs : List Byte) : W64 := bs.foldl crcByte (BitVec.allOnes 64) ^^^ BitVec.allOnes 64

/-- The flit header of Table 2.2. -/
structure FlitHdr where
  crcum : Byte
  crvc : Nat
  ctrl : Bool
  nak : Bool
  ackv : Bool
  nslot : Nat
  vc : Nat
  ackseq : W16
  seq : W16
deriving DecidableEq, Repr

def FlitHdr.word (h : FlitHdr) : Nat :=
  h.seq.toNat + 2 ^ 16 * h.ackseq.toNat + 2 ^ 32 * h.vc + 2 ^ 36 * h.nslot + (if h.ackv then 2 ^ 42 else 0)
    + (if h.nak then 2 ^ 43 else 0) + (if h.ctrl then 2 ^ 44 else 0) + 2 ^ 46 * h.crvc + 2 ^ 50 * h.crcum.toNat

def FlitHdr.ofNat (w : Nat) : FlitHdr :=
  { crcum := BitVec.ofNat 8 (field w 50 8), crvc := field w 46 4, ctrl := field w 44 1 == 1, nak := field w 43 1 == 1,
    ackv := field w 42 1 == 1, nslot := field w 36 4, vc := field w 32 4, ackseq := BitVec.ofNat 16 (field w 16 16),
    seq := BitVec.ofNat 16 (field w 0 16) }

/-- The reserved bits of the header are zero. -/
def flitRsvdOk (w : Nat) : Bool := field w 58 6 == 0 && field w 45 1 == 0 && field w 40 2 == 0

/-- A flit: header, 15 slots, CRC. -/
def flitBytes (h : FlitHdr) (slots : List (List Byte)) : List Byte :=
  let b := leBytes 8 (FlitHdr.word h) ++ bytesAt slots.flatten 0 240
  b ++ leBytes 8 (crc64 b).toNat

/-- What a receiver makes of a flit. -/
inductive FlitIn where
  | crcBad
  /-- A protocol error of R34. -/
  | wrong
  | good (h : FlitHdr) (ps : List Packet)
deriving DecidableEq, Repr

def readFlit (flit : List Byte) : FlitIn :=
  let w := natAt flit 0 8
  let h := FlitHdr.ofNat w
  let slots := (cutSlots 15 (bytesAt flit 8 240)).take h.nslot
  if flit.length ≠ 256 ∨ (crc64 (flit.take 248)).toNat ≠ natAt flit 248 8 then .crcBad
  else if !flitRsvdOk w || decide (6 ≤ h.vc) || decide (6 ≤ h.crvc) || (h.ctrl != (h.nslot == 0)) then .wrong
  else if h.ctrl then .good h []
  else match Packet.parseAll h.vc 15 slots with
    | some ps => .good h ps
    | none => .wrong

end Sys2Proof.Machine
end

