-- ==== Sys2Proof/Machine/Links.lean ====
section
/-!
DEFINITION. Modules and pod ports: transmitters, receivers, replay, retrain, the pod: R30 to R52.
-/
namespace Sys2Proof.Machine

/-! ## The transmitter: R37, R38 and R40 -/

/-- Slots of a receiver's buffer, Table 2.4. -/
def vcSlots (vc : Nat) : Nat := [64, 128, 64, 32, 32, 16].getD vc 0

/-- Credit of a channel. -/
def LinkTx.credit (t : LinkTx) (vc : Nat) : Nat := vcSlots vc - (t.sent.getD vc 0 - t.freed.getD vc 0).toNat

/-- A channel has a packet pending that its credit lets through. -/
def LinkTx.offers (t : LinkTx) (vc : Nat) : Bool :=
  match t.pending.getD vc [] with
  | p :: _ => decide (Packet.slots p ≤ t.credit vc)
  | [] => false

/-- The channel of the next flit: 5 first, else round robin after the last served. -/
def LinkTx.nextVc (t : LinkTx) : Option Nat :=
  if t.offers 5 then some 5 else ((List.range 6).map fun i => (t.lastVc + 1 + i) % 6).find? t.offers

/-- The fields that every flit sent carries: the acknowledgement and a credit count, R37 and R41. -/
def Link.hdrNow (l : Link) (nak ctrl : Bool) (nslot vc : Nat) (seq : W16) : FlitHdr :=
  { crcum := l.rx.freed.getD l.rx.reportVc 0, crvc := l.rx.reportVc, ctrl := ctrl, nak := nak, ackv := true, nslot := nslot,
    vc := vc, ackseq := l.rx.exp, seq := seq }

/-- A flit goes out; it reports `E` and the next channel's count. -/
def Link.emit (l : Link) (h : FlitHdr) (slots : List (List Byte)) (now : Nat) : Link :=
  { l with tx := { l.tx with wire := l.tx.wire ++ [flitBytes h slots] },
           rx := { l.rx with unreported := 0, reportedAt := now, reportVc := (l.rx.reportVc + 1) % 6 } }

/-- A control flit, R38, R41 and R42. -/
def Link.control (l : Link) (nak : Bool) (now : Nat) : Link := l.emit (l.hdrNow nak true 0 0 0) [] now

/-- A negative acknowledgement. -/
def Link.nak (l : Link) (now : Nat) : Link :=
  let l1 := l.control true now
  { l1 with rx := { l1.rx with nakAt := now } }

/-- The transmitter sends flits: it is neither in HOLD nor DOWN. -/
def LinkTx.runs (t : LinkTx) : Bool := t.st == .send || t.st == .replay

/-- A control flit that reports `E`, unless the transmitter must send nothing. -/
def Link.reportE (l : Link) (now : Nat) : Link := if l.tx.runs then l.control false now else l

/-- One movement of the transmitter: opens a flit, places a packet, closes or sends; none when nothing moves. -/
def Link.txStep (l : Link) (now : Nat) : Option Link :=
  let t := l.tx
  match t.opened with
  | none =>
    t.nextVc.map fun vc => { l with tx := { t with opened := some { vc := vc, slots := [], lastAt := now, closed := false } } }
  | some f =>
    if f.closed then
      if t.st = .send ∧ t.buf.length < 128 then
        let n := BitVec.ofNat 8 f.slots.length
        let kept : TxFlit := { seq := t.next, vc := f.vc, slots := f.slots, sentAt := now }
        let l1 := { l with tx := { t with opened := none, next := t.next + 1, lastVc := f.vc, buf := t.buf ++ [kept],
                                          sent := t.sent.modify f.vc (· + n) } }
        some (l1.emit (l1.hdrNow false false f.slots.length f.vc t.next) f.slots now)
      else none
    else match t.pending.getD f.vc [] with
      | [] => none
      | p :: ps =>
        let n := Packet.slots p
        if f.slots.length + n ≤ 15 ∧ f.slots.length + n ≤ t.credit f.vc then
          let g := { f with slots := f.slots ++ Packet.cut p, lastAt := now, closed := f.slots.length + n == 15 }
          some { l with tx := { t with pending := t.pending.set f.vc ps, opened := some g } }
        else some { l with tx := { t with opened := some { f with closed := true } } }

/-- Runs the transmitter until nothing moves: every packet pending takes at most three movements. -/
def Link.pumpN (now : Nat) : Nat → Link → Link
  | 0, l => l
  | n + 1, l => match l.txStep now with
    | some l1 => Link.pumpN now n l1
    | none => l
def Link.pump (l : Link) (now : Nat) : Link := Link.pumpN now (4 + 4 * (l.tx.pending.map List.length).sum) l

/-- Frees the buffered flits that lie before A, R40 and R41. -/
def LinkTx.free (t : LinkTx) (a : W16) : LinkTx :=
  { t with buf := t.buf.filter fun f => let k := (a - f.seq).toNat; !(1 ≤ k && k ≤ 128) }

/-- Resends from the oldest flit kept. -/
def LinkTx.replay (t : LinkTx) : LinkTx :=
  if t.buf.isEmpty then { t with st := .send, resend := 0 } else { t with st := .replay, resend := t.buf.length }

/-- One link cycle of a replay: the next kept flit goes out again, with its acknowledgement, credit and CRC made new. -/
def Link.replayStep (l : Link) (now : Nat) : Link :=
  if l.tx.st ≠ .replay then l
  else
    let i := l.tx.buf.length - l.tx.resend
    match l.tx.buf[i]? with
    | none => ({ l with tx := { l.tx with st := .send, resend := 0 } }).pump now
    | some f =>
      let left := l.tx.resend - 1
      let l1 := { l with tx := { l.tx with resend := left, st := if left = 0 then .send else .replay,
                                           buf := l.tx.buf.set i { f with sentAt := now } } }
      let l2 := l1.emit (l1.hdrNow false false f.slots.length f.vc f.seq) f.slots now
      if left = 0 then l2.pump now else l2

/-! ## Retrains: R44 to R46 -/

/-- Both directions go into HOLD. -/
def Link.retrain (l : Link) (byCtl : Bool) : Link :=
  { l with regs := { l.regs with retrains := satInc l.regs.retrains, retrainByCtl := byCtl },
           tx := { l.tx with st := .hold, resend := 0 }, rx := { l.rx with st := .hold } }

/-- `LINK_CTL.RETRAIN`: ignored in HOLD and in DOWN. -/
def Link.retrainCtl (l : Link) : Link :=
  if l.rx.st = .hold ∨ l.tx.st = .hold ∨ l.rx.st = .down then l else l.retrain true

/-- The far end of the module or port has begun a retrain, which puts both directions into HOLD. -/
def Link.peerRetrain (l : Link) (byCtl : Bool) : Link :=
  if l.rx.st = .hold ∨ l.tx.st = .hold ∨ l.rx.st = .down then l else l.retrain byCtl

/-- A failure is counted in `LINK_ERRCNT`, and among those of its reference period. -/
def LinkRegs.countFailure (r : LinkRegs) (now : Nat) (protocol : Bool) : LinkRegs :=
  let same := r.errAt == now
  { r with
    crcErr := satInc r.crcErr, protErr := if protocol then satInc r.protErr else r.protErr, errAt := now,
    crcNow := (if same then r.crcNow else 0) + 1,
    protNow := (if same then r.protNow else 0) + (if protocol then 1 else 0) }

/-- `LINK_CTL.CLRCNT`: the failures of this reference period stay counted, R47. -/
def LinkRegs.clear (r : LinkRegs) (now : Nat) : LinkRegs :=
  let same := r.errAt == now
  { r with retrains := 0, protErr := if same then r.protNow else 0, crcErr := if same then r.crcNow else 0 }

/-- A failure at the receiver: counted, and judged against the threshold of R44. DESIGN CHOICE, log 76. -/
def Link.failure (l : Link) (now : Nat) (protocol : Bool) : Link × Bool :=
  let recent := l.rx.failTimes.filter fun t => now < t + 1000000
  let l1 := { l with
    regs := l.regs.countFailure now protocol,
    rx := { l.rx with failTimes := now :: recent } }
  (l1, decide (l.regs.errThr.toNat ≤ recent.length + 1))

/-! ## The receiver: R37, R41, R42 and Table 2.5 -/

/-- What the header of a good flit tells the transmitter: credit, an acknowledgement, a negative one. -/
def Link.heed (l : Link) (h : FlitHdr) (now : Nat) : Link :=
  let l0 := { l with tx := { l.tx with freed := l.tx.freed.set h.crvc h.crcum } }
  if !h.ackv then l0.pump now
  else
    let k := (l0.tx.next - h.ackseq).toNat
    if 128 < k then ({ l0 with regs := { l0.regs with protErr := satInc l0.regs.protErr } }).pump now
    else
      let t := l0.tx.free h.ackseq
      if h.nak && t.st != .down then ({ l0 with tx := t.replay }).pump now
      else ({ l0 with tx := { t with resend := min t.resend t.buf.length } }).pump now

/-- A data flit with a good CRC meets the receiver: accepted packets go to the buffer of their channel. -/
def Link.accept (l : Link) (h : FlitHdr) (ps : List Packet) (now : Nat) : Link :=
  let behind := (l.rx.exp - h.seq).toNat
  if h.seq = l.rx.exp then
    let n := l.rx.unreported + 1
    let l1 := { l with rx := { l.rx with
      st := .accept, exp := l.rx.exp + 1, unreported := n, bufs := l.rx.bufs.modify h.vc fun q => q ++ ps } }
    if 16 ≤ n then l1.reportE now else l1
  else if l.rx.st = .discard then l
  else if 1 ≤ behind ∧ behind ≤ 128 then l.reportE now
  else { l with rx := { l.rx with st := .discard } }.nak now

/-- The oldest packet of a channel leaves the receiver's buffer, and its slots are freed, R37. -/
def Link.unload (l : Link) (vc : Nat) : Option (Packet × Link) :=
  match l.rx.bufs.getD vc [] with
  | [] => none
  | p :: rest =>
    let n := BitVec.ofNat 8 (Packet.slots p)
    some (p, { l with rx := { l.rx with bufs := l.rx.bufs.set vc rest, freed := l.rx.freed.modify vc fun x => x + n } })

/-- A flit reaches a receiver. -/
def Link.receive (l : Link) (flit : List Byte) (asCtl : Bool) (now : Nat) : Link :=
  if l.rx.st = .hold ∨ l.rx.st = .down then l
  else
    let bad := fun (protocol : Bool) =>
      let r := l.failure now protocol
      if r.2 then r.1.retrain false
      else if asCtl || l.rx.st == .discard then r.1
      else { r.1 with rx := { r.1.rx with st := .discard } }.nak now
    match readFlit flit with
    | .crcBad => bad false
    | .wrong => bad true
    | .good h ps =>
      let l1 := l.heed h now
      if h.ctrl then l1 else l1.accept h ps now

/-! ## The package ring: R48 and R49 -/

/-- The compute dies in ring order. -/
def ringDies : List Nat := [0, 1, 2, 3, 7, 6, 5, 4]

/-- The healthy dies in ring order, from a die on: the first is the die itself, if it is healthy. -/
def State.ringFrom (s : State) (d : Nat) : List Nat :=
  let i := ringDies.findIdx fun x => x == d
  (ringDies.drop i ++ ringDies.take i).filter fun x => s.healthy x

/-- The die at which a passenger's packets join the ring. -/
def State.ringJoin (s : State) (sock : Nat) : Nat :=
  if sock < 8 then sock else (s.ringFrom (if sock = 25 then 4 else 0)).headD 0

/-- The die of the next hop from one die toward another: the successor, or the predecessor where that way is shorter, R49. Each die
reckons the way from the dies that are healthy then. DESIGN CHOICE, log 86. -/
def State.ringNext (s : State) (at_ to_ : Nat) : Nat :=
  let l := at_ :: (s.ringFrom at_).filter fun x => x != at_
  let i := l.findIdx fun x => x == to_
  if i = 0 ∨ l.length ≤ i then to_ else if 2 * i ≤ l.length then l.getD 1 to_ else l.getLastD to_

/-- A packet travels along the ring. -/
def Packet.onRing (p : Packet) : Bool := Body.vc p.body == 3

/-- The die at which a packet leaves the ring. -/
def State.ringEnd (s : State) (p : Packet) : Nat := s.ringJoin p.hdr.dstSock.toNat

/-! ## The pod: R52 -/

/-- The I/O die of a pod port, and the port's place on it. -/
def portLink (p : Nat) : LinkId := if p < 9 then ⟨24, true, p⟩ else ⟨25, true, p - 9⟩
def linkPort (lk : LinkId) : Nat := (lk.sock - 24) * 9 + lk.idx

/-- A hardware event for which the spec names no cause, log 14. -/
def State.hwEvent (s : State) (sock n : Nat) (fatal : Bool) : State :=
  s.report sock fatal none (Config.hwCause n).toNat 0 (leBytes 40 (Config.hwDetail n).toNat)

/-- A packet that an I/O die has taken from a pod port stays, on the ring where that carries it; goes on; or is dropped. -/
def State.podArrive (s : State) (port : Nat) (p : Packet) : State :=
  let iod := (portLink port).sock
  if p.hdr.dstPkg.toNat = s.pkg then
    (if Packet.onRing p then { s with ring := s.ring ++ [(s.ringJoin iod, p)] } else { s with net := s.net ++ [p] })
  else match s.toPod iod p with
    | some s1 => s1
    | none =>
      ({ s with podrt := s.podrt.set iod { s.podOf iod with drop := satInc (s.podOf iod).drop } }).hwEvent iod 2 false

/-- A packet has left the buffer of a module's or a port's receiver. -/
def State.delivered (s : State) (lk : LinkId) (p : Packet) : State :=
  if lk.port then s.podArrive (linkPort lk) p else { s with net := s.net ++ [p] }

/-- The oldest packet of a channel leaves a receiver's buffer. DESIGN CHOICE, log 16. -/
def State.unload (s : State) (lk : LinkId) (vc : Nat) : State :=
  match (s.linkOf lk).unload vc with
  | some (p, l) => (s.updLink lk fun _ => l).delivered lk p
  | none => s

/-! ## Events -/

/-- Packets of a flit kept or open, to be sent over other routes. -/
def flitPackets (vc : Nat) (slots : List (List Byte)) : List Packet := (Packet.parseAll vc 15 slots).getD []

/-- The packets of a transmitter that no acknowledgement has freed, oldest first in each channel. DESIGN CHOICE, log 18. -/
def LinkTx.handOver (t : LinkTx) : List Packet :=
  t.buf.flatMap (fun f => flitPackets f.vc f.slots) ++ (match t.opened with | some f => flitPackets f.vc f.slots | none => [])
    ++ t.pending.flatten

/-- A packet joins the packets pending at a transmitter. -/
def Link.take (l : Link) (p : Packet) (now : Nat) : Link :=
  ({ l with tx := { l.tx with pending := l.tx.pending.modify (Body.vc p.body) fun q => q ++ [p] } }).pump now

/-- The package network offers a packet to a transmitter; a module that is DOWN carries nothing, and the packet goes
another way. DESIGN CHOICE, log 16. -/
def State.offer (s : State) (lk : LinkId) (p : Packet) : State :=
  if lk.port then s
  else if (s.linkOf lk).tx.st = .down then { s with net := s.net ++ [p] }
  else s.updLink lk fun l => l.take p s.time

/-- Two packets take the same route: the five values of R43. -/
def Packet.sameRoute (p q : Packet) : Bool :=
  p.hdr.srcPkg == q.hdr.srcPkg && p.hdr.dstPkg == q.hdr.dstPkg && p.hdr.srcSock == q.hdr.srcSock &&
    p.hdr.dstSock == q.hdr.dstSock && Body.vc p.body == Body.vc q.body

/-- Two packets of one port go to the same destination. -/
def samePlace (x y : Nat × Packet) : Bool :=
  x.1 == y.1 && x.2.hdr.dstPkg == y.2.hdr.dstPkg && x.2.hdr.dstSock == y.2.hdr.dstSock

/-- A packet of the same route has not yet been accepted at the far end of another port, R52. -/
def State.heldByPort (s : State) (x : Nat × Packet) : Bool :=
  (List.range 18).any fun n => n != x.1 && (s.linkOf (portLink n)).tx.handOver.any fun q => Packet.sameRoute q x.2

/-- An I/O die hands the packet at this place to its port's transmitter: in order among those of one port and destination,
and among those of one route; and not while another port has still to deliver one of its route, R52. -/
def State.podOffer (s : State) (n : Nat) : State :=
  match s.host.podOut[n]? with
  | none => s
  | some x =>
    let ahead := s.host.podOut.take n
    let lk := portLink x.1
    if ahead.any (fun y => Packet.sameRoute y.2 x.2 || samePlace y x) || s.heldByPort x || (s.linkOf lk).tx.st == .down then s
    else
      { s with host := { s.host with podOut := s.host.podOut.eraseIdx n } }.updLink lk fun l => l.take x.2 s.time

/-- A transmitter with no data flit ready sends a control flit, R38. DESIGN CHOICE, log 17. -/
def Link.idle (l : Link) (now : Nat) : Link :=
  let ready := match l.tx.opened with | some f => f.closed && decide (l.tx.buf.length < 128) | none => false
  if l.tx.st = .send ∧ ready = false then l.control false now else l

/-- Two link cycles without a new packet close the open flit, R38. DESIGN CHOICE, log 20. -/
def execFlitCloseTimeout (lk : LinkId) (s : State) : Out :=
  let l := s.linkOf lk
  match l.tx.opened with
  | some f =>
    if !f.closed && !f.slots.isEmpty && decide (f.lastAt + 2 ≤ s.time) then
      .next (s.updLink lk fun l => ({ l with tx := { l.tx with opened := some { f with closed := true } } }).pump s.time)
    else .next s
  | none => .next s

/-- A flit reaches the receiver of a module or port. -/
def State.flitIn (s : State) (lk : LinkId) (flit : List Byte) (asCtl : Bool) : State :=
  s.updLink lk fun l => l.receive flit asCtl s.time

/-- A flit with payload reaches a receiver. -/
def execDataFlitReceive (lk : LinkId) (flit : List Byte) (s : State) : Out := .next (s.flitIn lk flit false)

/-- A control flit reaches a receiver. -/
def execControlFlitReceive (lk : LinkId) (flit : List Byte) (s : State) : Out := .next (s.flitIn lk flit true)

/-- 32 link cycles since `E` was last reported, R41. DESIGN CHOICE, log 20. -/
def execAckTimeout (lk : LinkId) (s : State) : Out :=
  if (s.linkOf lk).rx.reportedAt + 32 ≤ s.time then .next (s.updLink lk fun l => l.reportE s.time) else .next s

/-- The oldest flit has gone unacknowledged for 256 link cycles. DESIGN CHOICE, log 20. -/
def execReplayTimeout (lk : LinkId) (s : State) : Out :=
  let l := s.linkOf lk
  match l.tx.buf with
  | f :: _ =>
    if l.tx.st = .send ∧ f.sentAt + 256 ≤ s.time then .next (s.updLink lk fun l => { l with tx := l.tx.replay }) else .next s
  | [] => .next s

/-- 64 link cycles since the last `NAK`. -/
def execNakRepeat (lk : LinkId) (s : State) : Out :=
  let l := s.linkOf lk
  if l.rx.st = .discard ∧ l.rx.nakAt + 64 ≤ s.time then .next (s.updLink lk fun l => l.nak s.time) else .next s

/-- Lanes of a module or a port. -/
def laneCount (lk : LinkId) : Nat := if lk.port then 4 else 64

/-- A half of the lanes passes. -/
def halfPasses (lk : LinkId) (fail : W64) (hi : Bool) : Bool :=
  let n := laneCount lk / 2
  (List.range n).all fun i => !fail.getLsbD (if hi then n + i else i)

/-- The width that a lane test selects: width and half; none when it fails, R45 and R51. -/
def retrainWidth (lk : LinkId) (byCtl : Bool) (fail : W64) : Option (BitVec 2 × Bool) :=
  if byCtl && halfPasses lk fail false && halfPasses lk fail true then some (0, false)
  else if halfPasses lk fail false then some (1, false)
  else if halfPasses lk fail true then some (1, true) else none

/-- No module of a passenger is up. -/
def State.noModule (s : State) (sock : Nat) : Bool :=
  (List.range (moduleCount sock)).all fun i => (s.linkOf ⟨sock, false, i⟩).regs.width == 2

/-- A module or port goes DOWN: its traffic takes other routes, ahead of later packets, R46 and R51. -/
def State.linkDown (s : State) (lk : LinkId) (fail : W64) : State :=
  let ps := (s.linkOf lk).tx.handOver
  let s1 := s.updLink lk fun l =>
    { l with regs := { l.regs with width := 2, laneMap := fail },
             tx := { l.tx with st := .down, buf := [], opened := none, pending := List.replicate 6 [], resend := 0 },
             rx := { l.rx with st := .down } }
  if lk.port then
    let bit_ : BitVec 18 := ~~~(1#18 <<< linkPort lk)
    let cut := fun (p : PodRt) => { p with masks := p.masks.map fun (m : Nat × BitVec 18) => (m.1, m.2 &&& bit_) }
    let s2 := { s1 with podrt := (s1.podrt.set 24 (cut (s1.podOf 24))) }
    let s3 := { s2 with podrt := (s2.podrt.set 25 (cut (s2.podOf 25))) }
    let routed := ps.filterMap fun p => (s3.podPortFor lk.sock p.hdr).map fun n => (n, p)
    let moved := s3.host.podOut.filterMap fun x =>
      if x.1 = linkPort lk then (s3.podPortFor lk.sock x.2.hdr).map fun n => (n, x.2) else some x
    { s3 with host := { s3.host with podOut := routed ++ moved } }
  else { s1 with net := ps ++ s1.net }

/-- Lanes are taken after a lane test: the receiver asks again from `E`. -/
def Link.trained (l : Link) (w : BitVec 2 × Bool) (fail : W64) (now : Nat) : Link :=
  ({ l with regs := { l.regs with width := w.1, half := w.2, laneMap := fail },
            rx := { l.rx with st := .discard } }).nak now

/-- `POD_PACKET_ARRIVAL`. -/
def execPodPacketArrival (port : Nat) (p : Packet) (s : State) : Out := .next (s.podArrive port p)

end Sys2Proof.Machine
end

