-- ==== Sys2Proof/Machine/Failures.lean ====
section
/-!
DEFINITION. Fatal errors, thermal samples and the ends of retrains: R17, R23, R45, R46 and R51.
-/
namespace Sys2Proof.Machine

/-- A passenger loses its `BOOT_HEALTHY` bit; elections and what follows from the loss come with it, R17 and R113. -/
def State.loseHealth (s : State) (sock : Nat) : State :=
  let b := s.host.boot
  let s1 := { s with host := { s.host with boot := { b with healthy := b.healthy &&& ~~~(1#26 <<< sock) } } }
  (if sock < 8 then s1.dieFailed sock else s1.reelect none).tellHealth

/-- A passenger counts as failed, R17: its bit falls, and the start under way does not set it; a compute die stops. -/
def State.passengerFails (s : State) (sock : Nat) : State :=
  let x := s.host.start
  let off := ~~~(1#26 <<< sock)
  let s1 := { s with host := { s.host with start := { x with healthyAtStart := x.healthyAtStart &&& off, okSoFar := x.okSoFar &&& off } } }
  if s1.healthy sock then s1.loseHealth sock
  else if sock < 8 then s1.updDie sock fun d => { d with stopped := true } else s1

/-- A passenger is on the package. -/
def State.present (s : State) (sock : Nat) : Bool := s.host.boot.present.getLsbD sock

/-- `PASSENGER_FATAL_ERROR`: the record goes to the passenger's fatal slot. -/
def execPassengerFatalError (sock : BitVec 5) (cause : W16) (detail : List Byte) (s : State) : Out :=
  let k := sock.toNat
  if !s.present k then .next s
  else .next ((s.report k true none cause.toNat 0 detail).passengerFails k)

/-- A thermal ceiling after a sample. -/
def Pwr.sample (p : Pwr) (temp : Nat) : Pwr :=
  { p with
    temp := BitVec.ofNat 8 temp,
    ceilTherm := if 100 ≤ temp then (if p.ceilTherm = 0 then 0 else p.ceilTherm - 1)
      else if temp ≤ 90 then (if p.ceilTherm = 7 then 7 else p.ceilTherm + 1) else p.ceilTherm }

/-- `THERMAL_SAMPLE` of a compute die, in degrees Celsius, R23: at 110 the die trips. -/
def execThermalSample (die : BitVec 3) (temp : Byte) (s : State) : Out :=
  let d := die.toNat
  if !s.present d then .next s
  else
    let s1 := (s.updDie d fun x => { x with pwr := x.pwr.sample temp.toNat }).retarget d
    if 110 ≤ temp.toNat then .next ((s1.hwEvent d 0 true).passengerFails d) else .next s1

/-- A failed retrain: the module or port goes down, and a passenger left with no module counts as failed. -/
def State.retrainFails (s : State) (lk : LinkId) (fail : W64) : State :=
  let s1 := s.linkDown lk fail
  if !lk.port && s1.noModule lk.sock && s1.present lk.sock then (s1.hwEvent lk.sock 1 true).passengerFails lk.sock else s1

/-- The module or port is in HOLD. -/
def State.inHold (s : State) (lk : LinkId) : Bool := (s.linkOf lk).rx.st == .hold

/-- `RETRAIN_DONE`: the lane test selects the width and the lanes; when no half passes, the retrain has failed. -/
def execRetrainDone (lk : LinkId) (fail : W64) (s : State) : Out :=
  if !s.inHold lk then .next s
  else match retrainWidth lk (s.linkOf lk).regs.retrainByCtl fail with
    | some w => .next (s.updLink lk fun l => l.trained w fail s.time)
    | none => .next (s.retrainFails lk fail)

/-- `RETRAIN_FAILED`. -/
def execRetrainFailed (lk : LinkId) (fail : W64) (s : State) : Out :=
  if !s.inHold lk then .next s else .next (s.retrainFails lk fail)

end Sys2Proof.Machine
end

