-- ==== Sys2Proof/Machine/Save.lean ====
section
/-!
DEFINITION. Pre-emption: the request, the save of a cluster, its restore, and the resume of a grid: R277 to R283, R414 and R454.
-/
namespace Sys2Proof.Machine

/-! ## What a save keeps: R278 and R280 -/

/-- The registers that a band keeps: all of them when it stopped while parked or by an overrun, else those that the annex of its
safe point lists. -/
def Band.savedRegs (b : Band) (cw : Crew) : BandRegs :=
  if b.full then b.r
  else
    let keep := annexSlots b.x.lastAnnex cw.cfg.regs
    { b.r with
      slots := b.r.slots.filter fun x => keep.contains (x.1 % 256) && !b.r.exited.getLsbD (x.1 / 256),
      preds := if b.x.lastAnnex.getLsbD 8 then b.r.preds else [],
      uni := if b.x.lastAnnex.getLsbD 7 then b.r.uni else cw.cfg.preUni.foldl (fun (t : Tbl W64) p => t.set p.1 p.2) [] }

/-- Where a saved thread goes on: the latches are empty, and a lookup under way begins again. -/
def Exec.saved (x : Exec) : Exec :=
  { Exec.reset with
    pc := x.pc, workSet := x.workSet, lastLen := x.lastLen, lastSp := x.lastSp, lastAnnex := x.lastAnnex,
    phase := match x.phase with | .lookup _ => .fresh | p => p }

/-- The registers that a band's save loses are numbered from here. -/
def lostAt (free k : Nat) : Nat := free + 2 ^ 19 * k

/-- A band as its save block holds it: at its restart point, and at the entry of its handler, it has the registers that are left,
R283. -/
def Band.toSave (b : Band) (cw : Crew) (free : Nat) : Band :=
  if b.running then
    let r := b.savedRegs cw
    let kept := fun (f : Nat) (old : BandRegs) => BandRegs.keptAt f cw.cfg.regs b.width r old
    { b with r := r, x := b.x.saved, region := { b.region with snap := kept free b.region.snap },
             handlerSnap := if b.trapPriv then kept (free + 2 ^ 18) b.handlerSnap else b.handlerSnap }
  else { b with r := { BandRegs.reset with exited := b.r.exited }, x := Exec.reset }

/-- A crew as its save blocks hold it, ready to go on. -/
def Crew.toSave (cw : Crew) (free : Nat) : Crew :=
  ({ cw with
    bands := cw.bands.map (fun (b : Nat × Band) => (b.1, b.2.toSave cw (lostAt free b.1))),
    front := cw.front.map fun f => { f with th := { f.th with x := f.th.x.saved } },
    tables := cw.tables } : Crew).release

/-! ## When a cluster may be saved: R278, R279 and R454 -/

/-- A band issues nothing more before its save: it has stopped, or it has ended and its stores are acknowledged. DEDUCED, log 62. -/
def Band.halted (b : Band) : Bool :=
  if b.running then (b.stopped || b.x.phase == .ending) && b.accs.isEmpty else b.accs.isEmpty

/-- DEDUCED, log 62. -/
def Crew.halted (cw : Crew) : Bool :=
  cw.ctl.stopping && cw.bands.all (fun b => b.2.halted) &&
    match cw.front with
    | some f => f.ended || f.th.stopped
    | none => true

/-- Some band's annex does not save a queue: 0 the Infuser's, 1 to 4 the copy channels. -/
def Crew.mustDrain (cw : Crew) (k : Nat) : Bool :=
  cw.bands.any fun b => b.2.running && b.2.x.phase != .ending && !b.2.full && !b.2.x.lastAnnex.getLsbD (2 + k)

/-- The queues that are not saved hold no operation of the crew, and no engine of it waits for an answer of another package. -/
def State.drained (s : State) (r : CrewRef) (cw : Crew) : Bool :=
  ((s.coreOf r.die r.core).remote.all fun x => x.asker.1 != r.slot || decide (5 ≤ x.asker.2.1)) && (!cw.mustDrain 0 || (s.crewOps r).isEmpty) &&
    (List.range 4).all fun ch => !cw.mustDrain (1 + ch) || ((s.coreOf r.die r.core).copyOf r.slot ch).isEmpty

/-- The crews of a cluster on a die. -/
def State.clusterCrews (s : State) (d : Nat) (h : Handle) (cluster : Nat) : List (CrewRef × Crew) :=
  (s.crewsOf d h).filterMap fun r =>
    match s.crewOf r with
    | some cw => if clusterOf cw.cfg = cluster then some (r, cw) else none
    | none => none

/-! ## The save block: Table 11.9 -/

/-- The n entries of a table from key i on. -/
def spread {α : Type} (d : α) : Nat → Nat → Tbl α → List α
  | 0, _, _ => []
  | n + 1, i, [] => d :: spread d n (i + 1) []
  | n + 1, i, (k, v) :: t => if k = i then v :: spread d n (i + 1) t else d :: spread d n (i + 1) ((k, v) :: t)

/-- The bytes of a stretch that are not zero, by their place from `at_` on. -/
def gather (at_ : Nat) (bs : List Byte) : Tbl Byte :=
  ((List.range bs.length).zip bs).filterMap fun x => if x.2 = 0 then none else some (at_ + x.1, x.2)

/-- Valid bits as bytes, and back. -/
def validBytes (v : Tbl Bool) (w n : Nat) : List Byte :=
  (List.range (n / 8)).map fun i => BitVec.ofNat 8 (maskNat 8 fun j => v.get false (w + 8 * i + j))
def validBits (w : Nat) (bs : List Byte) : Tbl Bool :=
  ((List.range bs.length).zip bs).flatMap fun x =>
    (List.range 8).filterMap fun j => if x.2.getLsbD j then some (w + 8 * x.1 + j, true) else none

/-- The stretch of `KB` KiB at byte `at_` and word `w` of a saved crew's cells: bytes, then one valid bit for each word. -/
def SavedCrew.scratchImage (sv : SavedCrew) (at_ w kb : Nat) : List Byte :=
  spread 0 (kb * 1024) at_ (sv.scr.filter fun c => decide (at_ ≤ c.1)) ++ validBytes sv.valid w (kb * 256)

/-- A crew's block: the sections in the order of the table; bytes that stand for nothing are free. DESIGN CHOICE, log 15. -/
def SavedCrew.bytes (sv : SavedCrew) (free : Nat) : List Byte :=
  let c := sv.crew.cfg
  let at_ := fun (k : Nat) => free + c.sectionAt k
  let running := maskNat c.bands fun b => (sv.crew.bands.get Band.reset b).running
  let ended := match sv.crew.front with | some f => f.ended | none => true
  let header : Fields := [word8 0 sv.handle.toNat, word8 8 c.lin, word8 16 sv.rank, word8 24 (running + bit ended 63)] ++
    (List.range 12).map fun k => word8 (32 + 8 * k) (c.sectionAt k)
  let slots := fun (t : Tbl W32) (l : Nat) =>
    (spread 0 c.regs (slotKey l 0) (t.filter fun x => decide (slotKey l 0 ≤ x.1))).flatMap fun w => leBytes 4 w.toNat
  let dq : Fields := ((List.range sv.crew.dq.length).zip sv.crew.dq).map (fun x =>
    word8 (8 * ((sv.crew.dqBase + x.1) % 64)) x.2.toNat) ++ [word8 512 (sv.crew.dqBase + sv.crew.dq.length)]
  let records := (List.range c.poolN).zip sv.crew.window
  let pool : Fields := records.map (fun x => (64 * x.1, x.2.record)) ++ [(64 * c.poolN, leBytes 1 records.length)] ++
    (records.filter fun x => decide (x.1 < 255)).map fun x => (64 * c.poolN + 1 + x.1, leBytes 1 x.1)
  let log : Fields := [word8 0 (bit sv.crew.ctl.scrchkLog 0), word8 8 sv.crew.ctl.wlogCnt] ++
    ((List.range 16).zip sv.crew.ctl.wlog).map fun x => word8 (16 + 8 * x.1) x.2.toNat
  let copy : Fields := sv.commands.flatMap fun k =>
    Fields.from_ (2048 * k.1 + 128 * k.2.1) (k.2.2.fields (sv.crew.flagOf k.2.2.thread k.2.2.waitId))
  layFields 256 (at_ 0) header ++
    layFields 1024 (at_ 1) (match sv.crew.front with | some f => f.fields | none => []) ++
    (List.range c.bands).flatMap (fun b => layFields 1024 (at_ 2 + 1024 * b)
      (match sv.crew.bands.find? b with | some x => x.fields 32 | none => [])) ++
    (List.range c.bands).flatMap (fun b => (List.range c.width).flatMap (slots (sv.crew.bands.get Band.reset b).r.slots)) ++
    spread 0 (c.bands * (c.width * 256)) 0 sv.slices ++
    layFields 576 (at_ 5) dq ++ sv.scratchImage 0 0 c.scrKB ++ sv.scratchImage (2 ^ 20) (2 ^ 18) c.clusKB ++
    layFields (c.poolN * 64 + 256) (at_ 8) pool ++ layFields 8192 (at_ 9) copy ++
    sv.crew.saveArea sv.caddy 0 sv.jq ++ layFields 256 (at_ 11) log

/-- The registers of a band as its section has them. -/
def savedSlots (c : CrewCfg) (bs : List Byte) : Tbl W32 :=
  (List.range c.width).flatMap fun l => (List.range c.regs).filterMap fun n =>
    let v := fld (bs.drop (4 * c.regs * l)) (4 * n) 4
    if v = 0 then none else some (slotKey l n, BitVec.ofNat 32 v)

/-- A saved crew as its block has it; the operations of the Infuser are read with its core. DESIGN CHOICE, log 15. -/
def SavedCrew.ofBlock (sv : SavedCrew) (bs : List Byte) : SavedCrew :=
  let c := sv.crew.cfg
  let part := fun (k : Nat) => (bs.drop (c.sectionAt k)).take (c.sections.getD k 0)
  let band := fun (b : Nat × Band) =>
    if b.2.running && decide (b.1 < c.bands) then
      let x := b.2.ofSection 32 ((part 2).drop (1024 * b.1))
      { x with r := { x.r with slots := savedSlots c ((part 3).drop (4 * c.regs * c.width * b.1)) } }
    else b.2
  let tail := fld (part 5) 512 8
  let base := sv.crew.dqBase
  let dqLen := if base ≤ tail ∧ tail ≤ base + 64 then tail - base else sv.crew.dq.length
  let n := min c.poolN (fld (part 8) (64 * c.poolN) 1)
  let record := fun (i : Nat) =>
    let old := sv.crew.window.getD i { record := [], order := sv.crew.winNext + i, at_ := 0 }
    { old with record := ((part 8).drop (64 * i)).take 64 : WinRec }
  let scratch := fun (k at_ w kb : Nat) =>
    (gather at_ ((part k).take (kb * 1024)), validBits w ((part k).drop (kb * 1024)))
  let own := scratch 6 0 0 c.scrKB
  let clus := scratch 7 (2 ^ 20) (2 ^ 18) c.clusKB
  { sv with
    crew := { sv.crew with
      bands := sv.crew.bands.map fun (b : Nat × Band) => (b.1, band b),
      front := sv.crew.front.map fun f => if f.ended then f else f.ofSection (part 1),
      dq := (List.range dqLen).map fun i => BitVec.ofNat 64 (fld (part 5) (8 * ((base + i) % 64)) 8),
      window := (List.range n).map record ++ sv.crew.window.drop c.poolN,
      winNext := sv.crew.winNext + n,
      ctl := { sv.crew.ctl with
        scrchkLog := fld (part 11) 0 1 % 2 == 1, wlogCnt := fld (part 11) 8 8,
        wlog := (List.range sv.crew.ctl.wlog.length).map fun i => BitVec.ofNat 64 (fld (part 11) (16 + 8 * i) 8) } },
    scr := own.1 ++ clus.1, valid := own.2 ++ clus.2, slices := gather 0 (part 4),
    copy := ((List.range 4).zip sv.copy).map fun q => ((List.range q.2.length).zip q.2).map fun k =>
      k.2.ofSection ((part 9).drop (2048 * q.1 + 128 * k.1)) }

/-- The region's pages grant what a save needs. -/
def savePage (a : W16) : Bool := attrR a && attrW a && attrKind a == .free && !attrDdr a

/-- Writes bytes of a save, in order, up to the first that fails. -/
def State.saveBytes (s : State) (ctx : B6) : List (Nat × List Byte × Bool) → Option DevFault × State
  | [] => (none, s)
  | (va, bs, block) :: ws =>
    match s.devKeys ctx (fun a => if block then savePage a else attrW a) va bs.length with
    | .error e => (some e, s)
    | .ok ks => (s.setMem ((ks.zip bs).foldl (fun m x => Memory.write m x.1 x.2) s.mem)).saveBytes ctx ws

/-- Runs of pages for blocks of these lengths, each the lowest that is free. -/
def carve (used : List Nat) (base pages : Nat) : List Nat → Option (List Nat)
  | [] => some []
  | n :: ns =>
    let at_ := fun (i : Nat) => (List.range n).map fun j => base + 65536 * (i + j)
    match (List.range (pages + 1 - n)).find? fun i => (at_ i).all fun p => !used.contains p with
    | none => none
    | some i => (carve (used ++ at_ i) base pages ns).map fun vs => (base + 65536 * i) :: vs

/-! ## `CREW_SAVE`: R281 -/

/-- What a crew holds in its core's memories, by place in its own ranges. -/
def cellsFrom (m : List Host.Cell) (k n at_ : Nat) : Tbl Byte :=
  (m.filter fun c => k ≤ c.1 && c.1 < k + n).map fun c => (c.1 - k + at_, c.2)

def validFrom (v : Tbl Bool) (w n at_ : Nat) : Tbl Bool :=
  (v.filter fun c => w ≤ c.1 && c.1 < w + n).map fun c => (c.1 - w + at_, c.2)

/-- The operations as a save keeps them: what waits for a page begins again. -/
def JOp.kept (o : JOp) : JOp := { o with st := if o.halted && !o.stopped then .queued else o.st }

def State.toSaved (s : State) (r : CrewRef) (cw : Crew) (block free : Nat) : SavedCrew :=
  let c := cw.cfg
  let k := s.coreOf r.die r.core
  let clus := c.clusBase.getD c.rank 0
  { handle := c.handle, cluster := clusterOf c, rank := c.rank, home := r, block := block,
    crew := cw.toSave (free + c.blockBytes),
    scr := cellsFrom s.mem (coreKey r.die r.core (c.kbBase * 1024)) (c.scrKB * 1024) 0 ++
      cellsFrom s.mem (coreKey r.die r.core (clus * 1024)) (c.clusKB * 1024) (2 ^ 20),
    valid := validFrom k.valid (c.kbBase * 256) (c.scrKB * 256) 0 ++ validFrom k.valid (clus * 256) (c.clusKB * 256) (2 ^ 18),
    slices := cellsFrom s.mem (laneKey r.die r.core c.laneBase 0) (c.bands * c.width * 256) 0,
    caddy := (k.caddy.filter fun e => c.caddyBase ≤ e.1 && e.1 < c.caddyBase + c.caddy).map fun e => (e.1 - c.caddyBase, e.2),
    copy := (List.range 4).map fun ch => (k.copyOf r.slot ch).map fun x => { x with buf := [] },
    jq := (s.crewOps r).map JOp.kept }

/-- A crew leaves its core: its resources return, R127. -/
def State.dropCrew (s : State) (r : CrewRef) (cw : Crew) : State :=
  let c := cw.cfg
  let mine := fun (j : Nat × Nat × Nat) => j.1 == r.core && j.2.1 == r.slot
  let s1 := s.updCore r.die r.core fun k => { k with
    crews := k.crews.erase r.slot, jq := k.jq.filter (fun o => o.slot != r.slot),
    copy := k.copy.map (fun q => q.filter fun x => x.slot != r.slot), remote := k.remote.filter (fun x => x.asker.1 != r.slot),
    caddy := k.caddy.filter fun e => !(c.caddyBase ≤ e.1 && e.1 < c.caddyBase + c.caddy),
    sel := { k.sel with active := k.sel.active.filter fun p => p.1 != r.slot } }
  let s2 := s1.updCore r.die r.core fun k => k.parkedOnly
  let leave := fun (k : Core) => { k with windows := k.windows.map fun w => { w with joined := w.joined.filter fun j => !mine j } }
  let here := fun (w : PageWait) => match w with
    | .requeue core slot _ _ => core == r.core && slot == r.slot
    | .thread core slot _ _ => core == r.core && slot == r.slot
    | _ => false
  (s2.updDie r.die fun x => { x with cores := x.cores.map fun k => (k.1, leave k.2) }).updDisp r.die fun x =>
    { x with pageWait := x.pageWait.filter fun w => !(w.1 == c.handle && here w.2) }

/-- The bands of a cluster that is not saved go on. -/
def State.abandonSave (s : State) (d : Nat) (h : Handle) (cs : List (CrewRef × Crew)) (cause : Nat) : State :=
  let s1 := cs.foldl (fun (s : State) x => s.updCrew x.1 Crew.release) s
  (s1.report d false (some (handleCtx h)) cause h (openDetail cause [])).preSettle (handleCtx h).toNat

/-- The cluster's blocks are written and its crews leave their cores. -/
def State.saveAt (s : State) (d : Nat) (h : Handle) (cluster : Nat) (cs : List (CrewRef × Crew)) (vas : List Nat) : State :=
  let ctx := handleCtx h
  let size := (cs.map fun x => lostAt x.2.cfg.blockBytes (x.2.cfg.bands + 1)).foldl max 0
  let crews := (List.range cs.length).zip (cs.zip vas)
  let free := fun (x : Nat × (CrewRef × Crew) × Nat) => s.free + size * x.1
  let toSaved := fun (x : Nat × (CrewRef × Crew) × Nat) => s.toSaved x.2.1.1 x.2.1.2 x.2.2 (free x)
  let one := fun (x : Nat × (CrewRef × Crew) × Nat) =>
    (x.2.2, (toSaved x).bytes (free x), true) :: ((List.range 16).filterMap fun t =>
      let tb := x.2.1.2.table t
      if tb.mode = 2 then some (tb.chnext, s.keyImage x.2.1.1 x.2.1.2 tb, false) else none)
  match s.saveBytes ctx (crews.flatMap one) with
  | (some _, s1) => s1.abandonSave d h cs 0x0121
  | (none, s1) =>
    let pages := (cs.zip vas).flatMap fun x => (List.range x.1.2.cfg.blockPages).map fun i => x.2 + 65536 * i
    let blocks := (cs.zip vas).map fun x => (x.2, x.1.2.cfg.blockPages)
    let saved := crews.map toSaved
    let s2 := { s1 with free := s1.free + size * cs.length }.updCtxDie d ctx.toNat fun c => { c with saveUsed := c.saveUsed ++ pages }
    let s3 := s2.updGridDie d h fun y => { y with saved := y.saved ++ [{ cluster := cluster, blocks := blocks }] }
    let s4 := s3.updDie d fun x => { x with savedCrews := x.savedCrews ++ saved }
    ((cs.foldl (fun (s : State) x => s.dropCrew x.1 x.2) s4).retarget d).preSettle ctx.toNat

/-- `CREW_SAVE`: the cluster of the crew at `cur` is saved once all its crews have stopped. -/
def execCrewSave (s : State) : Out :=
  let r := s.cur.crew
  match s.crewOf r with
  | none => .next s
  | some cw =>
    let h := cw.cfg.handle
    let ctx := handleCtx h
    let cs := s.clusterCrews r.die h (clusterOf cw.cfg)
    if !(cs.all fun x => x.2.halted && s.drained x.1 x.2) then .next s
    else
      let reg := s.ctxDie r.die ctx.toNat
      let room := !(cs.any fun x => (List.range 16).any fun t => (x.2.table t).noRoom)
      match (if room then carve reg.saveUsed (reg.saveBase.toNat * 65536) reg.savePages.toNat (cs.map fun x => x.2.cfg.blockPages)
          else none) with
      | some vas => .next (s.saveAt r.die h (clusterOf cw.cfg) cs vas)
      | none =>
        let s1 := s.updCtx ctx.toNat fun c => { c with preNospace := true }
        .next (s1.abandonSave r.die h cs 0x0120)

/-! ## The restore: R282, R232 and R414 -/

/-- The numbers of a thread's waits. -/
def Band.waitIds (b : Band) : List Nat := b.waits.map fun w => w.id

def Crew.waitIds (cw : Crew) : List Nat :=
  cw.bands.flatMap (fun b => b.2.waitIds) ++ match cw.front with | some f => f.th.waitIds | none => []

/-- DEDUCED, log 63. -/
def Band.renumber (f : Nat → Nat) (now : Nat) (b : Band) : Band :=
  { b with waits := b.waits.map (fun w => { w with id := f w.id }),
           x := { b.x with since := now, phase := match b.x.phase with | .launching i => .launching (f i) | p => p } }

/-- A name of a thread's wait, moved with its crew. -/
def moveName (ids : List Nat) (old new : CrewRef) (f : Nat → Nat) (x : ThreadRef × Nat) : ThreadRef × Nat :=
  if x.1.crew = old ∧ ids.contains x.2 then ({ x.1 with die := new.die, core := new.core, slot := new.slot }, f x.2) else x

/-- Every name of a wait of the crew that the machine holds. DEDUCED, log 63. -/
def State.moveNames (s : State) (g : ThreadRef × Nat → ThreadRef × Nat) : State :=
  let tag := fun (u : TagUse) => match u with
    | .enq t w h p k => let n := g (t, w); .enq n.1 n.2 h p k
    | x => x
  let tok := fun (t : Token) => { t with submitter := t.submitter.map g }
  { s with
    dies := s.dies.map (fun (d : Nat × Die) => (d.1, { d.2 with tags := d.2.tags.map fun (u : Nat × TagUse) => (u.1, tag u.2) })),
    colls := s.colls.map (fun c => let n := g (c.thread, c.waitId); { c with thread := n.1, waitId := n.2 }),
    disp := { s.disp with
      queues := s.disp.queues.map (fun (q : Nat × LaunchQ) => (q.1, { q.2 with toks := q.2.toks.map tok })),
      forwarded := s.disp.forwarded.map (fun f => { f with submitter := f.submitter.map g }),
      grids := s.disp.grids.map fun (x : Nat × Grid) => (x.1, { x.2 with submitter := x.2.submitter.map g }) } }

/-- Puts saved cells back in a stretch of n bytes. -/
def putCells (m : List Host.Cell) (k n : Nat) (cs : Tbl Byte) : List Host.Cell :=
  cs.foldl (fun m c => Memory.write m (k + c.1) c.2) (Memory.clear m k n)

/-- The saved crew as its block has it, and the bytes of the Infuser's section; one whose block cannot be read is as it was saved.
DESIGN CHOICE, log 15. -/
def State.readBlock (s : State) (sv : SavedCrew) : SavedCrew × Option (List Byte) :=
  let c := sv.crew.cfg
  match s.devRead (handleCtx sv.handle) attrR sv.block c.blockBytes with
  | .ok bs => (sv.ofBlock bs, some ((bs.drop (c.sectionAt 10)).take (c.caddy * 8 + 4096)))
  | .error _ => (sv, none)

/-- The tables of a block with their entries: as `JLOAD` has them, read by the dispatcher. -/
def State.blockTables (s : State) (sv : SavedCrew) (area : List Byte) : List (Nat × JTable × List (Nat × CEntry)) :=
  let bytes := fun (va n : Nat) => match s.devRead (handleCtx sv.handle) attrR va n with | .ok bs => bs | .error _ => []
  (List.range 16).filterMap fun k =>
    let old := sv.crew.table k
    let tail := fld area (64 * k + 56) 8
    let count := if tail = old.sptail then old.spcount else leNat (bytes (tail + 8) 4)
    let t := JTable.restore ((area.drop (1024 + 16 * k)).take 16) ((area.drop (64 * k)).take 64) count
    if t.mode = 0 then none
    else some (k, t, savedEntries t area (if t.mode = 2 then t.imageKeys (bytes t.chnext (8 * t.size)) else t.placeKeys k))

/-- The Infuser's part of a restored crew that stands in its slot: its operations, once its tables are back. An area that nothing has
changed brings back what was saved. -/
def State.readArea (s : State) (sv : SavedCrew) (r : CrewRef) (cw : Crew) : Option (List Byte) → List JOp × State
  | none => (sv.jq, s)
  | some area =>
    if area = sv.crew.saveArea sv.caddy 0 sv.jq then (sv.jq, s)
    else
      let ops := openLast area (quartersOf (restoredOps s r cw sv.jq area))
      let mine := fun (e : Nat × CEntry) => decide (cw.cfg.caddyBase ≤ e.1) && decide (e.1 < cw.cfg.caddyBase + cw.cfg.caddy)
      let s1 := (s.updCore r.die r.core fun k => { k with caddy := k.caddy.filter fun e => !mine e }).updCrew r fun w =>
        { w with tables := [], planned := [] }
      (ops, ((s1.jInstall r (s.blockTables sv area)).updCrew r (planOps ops)).bandWords r area)

/-- The commands and operations of a restored crew, behind what their queues hold. -/
def Core.requeueWork (k : Core) (sv : SavedCrew) (r : CrewRef) (f : Nat → Nat) : Core :=
  let move := fun (t : ThreadRef) => { t with die := r.die, core := r.core, slot := r.slot }
  let k1 := sv.jq.foldl (fun (k : Core) o =>
    { k with jq := k.jq ++ [{ o with seq := k.seq, slot := r.slot, thread := move o.thread, waitId := f o.waitId }],
             seq := k.seq + 1 }) k
  ((List.range 4).zip sv.copy).foldl (fun (k : Core) q => q.2.foldl (fun (k : Core) x =>
    { k with copy := k.copy.modify q.1 (fun l =>
        l ++ [{ x with seq := k.seq, slot := r.slot, thread := move x.thread, waitId := f x.waitId }]),
             seq := k.seq + 1 }) k) k1

/-- Lanes whose requeue waited when their crew was saved wait again. -/
def State.requeueAgain (s : State) (r : CrewRef) : State :=
  match s.crewOf r with
  | none => s
  | some cw => cw.bands.foldl (fun (s : State) b =>
      (lanesOf b.2.requeue).foldl (fun (s : State) l => s.requeueLane (r.band b.1) l) s) s

/-- A saved crew goes on in a slot of a core, in the ranges of its new allotments. DEDUCED, log 63. -/
def State.restoreCrew (s : State) (sv0 : SavedCrew) (r : CrewRef) (cfg : CrewCfg) : State :=
  let (sv, area) := s.readBlock sv0
  let ids := sv.crew.waitIds
  let base := (s.coreOf r.die r.core).nextId
  let f := fun (n : Nat) => base + n
  let now := s.cyc r.die
  let top := (ids ++ (sv.jq.map fun o => o.waitId) ++ sv.copy.flatten.map fun k => k.waitId).foldl max 0
  let clus := cfg.clusBase.getD cfg.rank 0
  let low := fun (t : Tbl Byte) => t.filter fun c => decide (c.1 < 2 ^ 20)
  let high := fun (t : Tbl Byte) => (t.filter fun c => decide (2 ^ 20 ≤ c.1)).map fun c => (c.1 - 2 ^ 20, c.2)
  let cw : Crew := { sv.crew with
    cfg := cfg, bands := sv.crew.bands.map (fun (b : Nat × Band) => (b.1, b.2.renumber f now)),
    front := sv.crew.front.map fun fr => { fr with th := fr.th.renumber f now },
    ctl := { sv.crew.ctl with jsaved := sv.crew.ctl.jsaved.map fun o =>
      { o with slot := r.slot, thread := { o.thread with die := r.die, core := r.core, slot := r.slot }, waitId := f o.waitId } } }
  let s1 := s.setMem (putCells (putCells (putCells s.mem
    (coreKey r.die r.core (cfg.kbBase * 1024)) (cfg.scrKB * 1024) (low sv.scr))
    (coreKey r.die r.core (clus * 1024)) (cfg.clusKB * 1024) (high sv.scr))
    (laneKey r.die r.core cfg.laneBase 0) (cfg.bands * cfg.width * 256) sv.slices)
  let word := fun (w : Nat) => if w < 2 ^ 18 then cfg.kbBase * 256 + w else clus * 256 + (w - 2 ^ 18)
  let s2 := s1.updCore r.die r.core fun k => { k with
    crews := k.crews.set r.slot cw, nextId := base + top + 1,
    valid := sv.valid.foldl (fun (t : Tbl Bool) v => t.set (word v.1) v.2) k.valid,
    caddy := sv.caddy.foldl (fun (t : Tbl CEntry) e => t.set (cfg.caddyBase + e.1) e.2) k.caddy }
  let back := s2.readArea sv0 r cw area
  let s3 := back.2.updCore r.die r.core fun k => k.requeueWork { sv with jq := back.1 } r f
  let s4 := s3.moveNames (moveName ids sv.home r f)
  let ctx := handleCtx cfg.handle
  (s4.l1Drop r.die r.core fun x _ _ => x == ctx || x == 0).requeueAgain r

/-! ## Requests of the owner: R279 and R282 -/

/-- A crew is to stop: its bands and its front context are marked. -/
def Crew.mark (now : Nat) (cw : Crew) : Crew :=
  let m := fun (b : Band) => { b with stopReq := some now }
  { cw with ctl := { cw.ctl with stopping := true }, bands := cw.bands.map (fun (b : Nat × Band) => (b.1, m b.2)),
            front := cw.front.map fun f => { f with th := m f.th } }

/-- The pre-emption of a grid on a die: its placed crews are marked, and dealing to the die stops. -/
def State.preemptDie (s : State) (h : Handle) (d : Nat) : State :=
  let s1 := s.updGridDie d h fun y => { y with halted := true }
  (s1.crewsOf d h).foldl (fun (s : State) r => s.updCrew r fun w => if w.ctl.cancelled then w else w.mark (s.cyc d)) s1

/-- A write of `CTX_PREEMPT`, Table 11.8. DEDUCED, log 62. -/
def State.ctxPreempt (s : State) (c : Nat) (v : W64) : State :=
  let s1 := if v.getLsbD 57 then s.updCtx c fun x => { x with preNospace := false } else s
  let h : Handle := v.extractLsb' 0 48
  match s1.gridOf h with
  | none => s1
  | some g =>
    if (s.ctxOf c).preBusy || (handleCtx h).toNat != c || g.own.isEnded then s1
    else
      let s2 := s1.updCtx c fun x => { x with preBusy := true }
      (((List.range 8).filter fun d => v.getLsbD (48 + d)).foldl (fun (s : State) d => s.preemptDie h d) s2).preSettle c

/-- The saved clusters of a grid on a die are queued again, and dealing resumes. -/
def State.resumeDie (s : State) (g : Grid) (d : Nat) : State :=
  let h := g.handle
  let queued := (s.dieOf d).disp.queues.flatten
  let s1 := s.updGridDie d h fun y => { y with halted := false }
  let s2 := ((s1.gridDie d h).saved.filter fun c => !(queued.any fun q => q.handle == h && q.saved == some c.cluster)).foldl
    (fun (s : State) c => s.enqueueCluster d g.launch.prio
      { handle := h, cluster := c.cluster, age := 0, drain := none, saved := some c.cluster }) s1
  (s2.retarget d).wantRange d h

/-- A write of `CTX_RESUME`. -/
def State.ctxResume (s : State) (c : Nat) (v : W64) : State :=
  let h : Handle := v.extractLsb' 0 48
  match s.gridOf h with
  | none => s
  | some g => if (handleCtx h).toNat = c then (List.range 8).foldl (fun (s : State) d => s.resumeDie g d) s else s

end Sys2Proof.Machine
end

