-- ==== Sys2Proof/Machine/Place.lean ====
section
/-!
DEFINITION. Gang placement, the start of crews and their retirement: R110, R111, R119, R125 to R129, R150, R157 and R431.
-/
namespace Sys2Proof.Machine

/-! ## Slots and fits: R126 and R127 -/

/-- A slot: its region and the core of rank 0. -/
structure Slot where
  region : Nat
  core0 : Nat
deriving DecidableEq, Repr

/-- The slots of a cluster's shape, in order. -/
def slotsOf (clw clh : Nat) : List Slot :=
  (List.range 32).flatMap fun g =>
    if clw = 4 ∧ g % 2 = 1 then []
    else (List.range (4 / clh)).flatMap fun r => (List.range (if clw = 4 then 1 else 2 / clw)).map fun c =>
      { region := g, core0 := 16 * (4 * (g / 8) + r * clh) + 2 * (g % 8) + c * clw }

/-- The cores of a slot, in rank order, R111. -/
def slotCores (clw clh core0 : Nat) : List Nat :=
  (List.range (clw * clh)).map fun k => core0 + k % max 1 clw + 16 * (k / max 1 clw)

/-- The region of a core. -/
def coreRegion (n : Nat) : Nat := n % 16 / 2 + 8 * (n / 64)

def Drain.covers (x : Drain) (core : Nat) : Bool :=
  coreRegion core == x.region || (x.pair && coreRegion core == x.region + 1)

/-- The lowest place at which a range fits between those in use. -/
def lowestFit (used : List (Nat × Nat)) (limit n : Nat) : Option Nat :=
  let fits := fun (p : Nat) => decide (p + n ≤ limit) && used.all fun u =>
    u.2 == 0 || n == 0 || decide (p + n ≤ u.1) || decide (u.1 + u.2 ≤ p)
  ((0 :: used.map fun u => u.1 + u.2).filter fits).min?

def CrewCfg.kib (c : CrewCfg) : Nat := c.scrKB + c.clusKB + (c.poolN * 64 + 1023) / 1024

/-- What a crew takes on a core. -/
structure Fit where
  core : Nat
  slot : Nat
  kb : Nat
  caddy : Nat
deriving DecidableEq, Repr

/-- Whether a core can take a crew of a launch, and where. -/
def Core.fit (k : Core) (core : Nat) (l : LaunchRec) : Option Fit :=
  let cs := k.crews.map fun w => w.2.cfg
  let lanes := (cs.map fun c => c.bands * c.width).sum
  let far := (cs.map fun c => c.bands * c.width * c.regs).sum
  if 8 ≤ cs.length ∨ 1024 < lanes + l.bands * l.width ∨ 65536 < far + l.bands * l.width * l.regs then none
  else
    match (List.range 8).find? (fun j => (k.crews.find? j).isNone), lowestFit (cs.map fun c => (c.kbBase, c.kib)) 512 l.kib,
        lowestFit (cs.map fun c => (c.caddyBase, c.caddy)) 8192 l.caddy with
    | some slot, some kb, some caddy => some { core := core, slot := slot, kb := kb, caddy := caddy }
    | _, _, _ => none

/-- The fits of a slot's cores in rank order, if every one can take a crew. -/
def State.slotFits (s : State) (d : Nat) (l : LaunchRec) (x : Slot) : Option (List Fit) :=
  (slotCores l.clw l.clh x.core0).mapM fun n => (s.coreOf d n).fit n l

/-- The drain regions of queued clusters. -/
abbrev Drains := List (QCluster × Drain)

def State.drains (s : State) (d : Nat) : Drains :=
  (s.dieOf d).disp.queues.flatten.filterMap fun c => c.drain.map fun x => (c, x)

def QCluster.same (a b : QCluster) : Bool := a.handle == b.handle && a.cluster == b.cluster

/-- The first slot that a cluster fits, no core of it in the drain region of another, R129. -/
def State.firstSlot (s : State) (d : Nat) (l : LaunchRec) (c : QCluster) (ds : Drains) : Option (Slot × List Fit) :=
  let still := fun (x : QCluster) => (s.dieOf d).disp.queues.any fun q => q.any fun y => y.same x
  let others := (ds.filter fun x => !x.1.same c && still x.1).map fun x => x.2
  (slotsOf l.clw l.clh).findSome? fun x =>
    if (slotCores l.clw l.clh x.core0).any fun n => others.any fun y => y.covers n then none
    else (s.slotFits d l x).map fun f => (x, f)

/-- The drain region that a head chooses: that of the slot with the fewest cores that cannot take a crew, the first of equals. -/
def State.chooseDrain (s : State) (d : Nat) (l : LaunchRec) : Option Drain :=
  let bad := fun (x : Slot) => ((slotCores l.clw l.clh x.core0).filter fun n => ((s.coreOf d n).fit n l).isNone).length
  let best := (slotsOf l.clw l.clh).foldl (fun (b : Option (Nat × Slot)) x =>
    match b with
    | some y => if bad x < y.1 then some (bad x, x) else some y
    | none => some (bad x, x)) none
  best.map fun b => { region := b.2.region, pair := l.clw == 4 }

/-! ## The start of a crew: R110, R111, R157, R189 and R195 -/

/-- The value of a preload identifier from 1 on, Table 5.5. -/
def preloadValue (l : LaunchRec) (rosters : List Nat) (pkg die lin k : Nat) : Nat :=
  if k = 1 then lin % l.gx else if k = 2 then lin / l.gx % l.gy else if k = 3 then lin / (l.gx * l.gy)
  else if k = 4 then lin / max 1 l.csize else if k = 5 then lin % max 1 l.csize
  else if k < 10 then rosters.getD (k - 6) (2 ^ 64 - 1)
  else if k = 10 then l.width else if k = 11 then pkg else die

/-- The rosters of a crew in ascending order, R112. -/
def Grid.rostersOf (g : Grid) (lin : Nat) : List Nat :=
  (List.range g.rosters.length).filter fun n => (g.rosters.getD n []).contains lin

/-- The configuration of a crew of a cluster, by its fits. -/
def State.crewCfg (s : State) (d : Nat) (g : Grid) (cluster core0 rank : Nat) (fits : List Fit) (f : Fit) : CrewCfg :=
  let l := g.launch
  let lin := cluster * max 1 l.csize + rank
  let rs := g.rostersOf lin
  { handle := g.handle, lin := lin, bands := l.bands, width := l.width, regs := l.regs, scrKB := l.scrKB, clusKB := l.clusKB,
    poolN := l.poolN, caddy := l.caddy, caddyBase := f.caddy, kbBase := f.kb, clusBase := fits.map (fun x => x.kb + l.scrKB),
    laneBase := 1024 * f.slot, rank := rank, clw := l.clw, clh := l.clh, core0 := core0, prio := l.prio,
    taskBase := g.khdr.taskBase, trapVec := g.khdr.trapVec, bandPc := g.khdr.bandPc, nbv := (s.gridDie d g.handle).nbv,
    spmax := l.spmax, rosters := rs,
    preUni := ((preloads l g.khdr).filter fun p => p.1 != 0).map fun p =>
      (p.2, BitVec.ofNat 64 (preloadValue l rs s.pkg d lin p.1)) }

/-- The registers of a starting thread: the preloads, and zero elsewhere; predicates are F, log 9. -/
def CrewCfg.startRegs (c : CrewCfg) (tid : Option Nat) (band : Nat) : BandRegs :=
  let u : BandRegs := c.preUni.foldl (fun (r : BandRegs) p => r.putKey (uniKey p.1) p.2) BandRegs.reset
  match tid with
  | some v => (List.range c.width).foldl (fun (r : BandRegs) l =>
      r.putKey (slotKey l v) (BitVec.ofNat 64 (band * c.width + l))) u
  | none => u

/-- A band as its crew starts it. -/
def CrewCfg.startBand (c : CrewCfg) (now : Nat) (tid : Option Nat) (band : Nat) : Band :=
  let r := c.startRegs tid band
  let pc := BitVec.ofNat 48 c.bandPc
  { Band.reset with
    r := r, x := { Exec.reset with pc := pc, since := now }, width := c.width, launchBand := true, running := true,
    region := { restart := pc, tag := 0, snap := r, stores := 0 } }

/-- A front context as its crew starts it. -/
def CrewCfg.startFront (c : CrewCfg) (now pc : Nat) : Front :=
  let r := c.startRegs none 0
  let at_ := BitVec.ofNat 48 pc
  { th := { Band.reset with r := r, x := { Exec.reset with pc := at_, since := now }, width := 1, running := true,
                            region := { restart := at_, tag := 0, snap := r, stores := 0 } },
    loops := [], ended := false }

/-- A crew as it starts. -/
def Grid.startCrew (g : Grid) (cfg : CrewCfg) (now : Nat) : Crew :=
  let tid := ((preloads g.launch g.khdr).find? fun p => p.1 == 0).map fun p => p.2
  { cfg := cfg,
    ctl := { mergePct := g.launch.mergePct, scrchkLog := g.launch.scrchkLog, wlogCnt := 0, wlog := [],
             cpy := List.replicate 4 { bytes := 0, err := 0 }, cancelled := false, killed := false, stopping := false,
             jHold := none, jsaved := [], collGens := [] },
    bands := (List.range cfg.bands).map fun b => (b, cfg.startBand now tid b),
    front := if g.khdr.frontPc = 0 then none else some (cfg.startFront now g.khdr.frontPc),
    dq := [], dqBase := 0, window := [], winNext := 0, tables := [], planned := [] }

/-- A crew's ranges as its start leaves them: slices zero, valid bits clear, no Caddy entry. -/
def State.clearRanges (s : State) (d : Nat) (cfg : CrewCfg) (f : Fit) : State :=
  let w := f.kb * 256
  let n := cfg.kib * 256
  (s.clearKey (laneKey d f.core cfg.laneBase 0) (cfg.bands * cfg.width * 256)).updCore d f.core fun k =>
    { k with valid := k.valid.filter (fun v => !(w ≤ v.1 && v.1 < w + n)),
             caddy := k.caddy.filter fun e => !(cfg.caddyBase ≤ e.1 && e.1 < cfg.caddyBase + cfg.caddy) }

/-- Every crew of a cluster starts, or goes on from its save block. -/
def State.startCluster (s : State) (d : Nat) (g : Grid) (c : QCluster) (core0 : Nat) (fits : List Fit) : State :=
  let now := s.cyc d
  let saved := (s.dieOf d).savedCrews.filter fun x => x.handle == g.handle && x.cluster == c.cluster
  let s1 := ((List.range fits.length).zip fits).foldl (fun (s : State) x =>
    let cfg := s.crewCfg d g c.cluster core0 x.1 fits x.2
    let r : CrewRef := { die := d, core := x.2.core, slot := x.2.slot }
    match c.saved with
    | none => (s.clearRanges d cfg x.2).setCrew r (g.startCrew cfg now)
    | some _ =>
      match saved.find? fun y => y.rank == x.1 with
      | some sv => (s.clearRanges d cfg x.2).restoreCrew sv r cfg
      | none => s) s
  match c.saved with
  | none => s1.updGridDie d g.handle fun y => { y with placed := true }
  | some k => s1.dropSaved d g.handle fun n => n == k

/-! ## `PLACEMENT_ROUND`: R125, R128 and R129 -/

/-- A die holds the first cluster of a launch until its operating point has reached the target. -/
def State.held (s : State) (d : Nat) (c : QCluster) : Bool :=
  let p := (s.dieOf d).pwr
  !(s.gridDie d c.handle).placed && (p.trans || p.cur != p.target)

/-- The head of a queue; the clusters of a grid whose pre-emption halts it here stay queued, R279. -/
def State.headOf (s : State) (d p : Nat) : Option QCluster :=
  ((s.dieOf d).disp.queues.getD p []).find? fun c => !(s.gridDie d c.handle).halted

def State.updHeads (s : State) (d p : Nat) (f : List QCluster → List QCluster) : State :=
  s.updDisp d fun x => { x with queues := x.queues.modify p f }

/-- A head that fits no slot ages, and at 16 chooses its drain region. -/
def State.ageHead (s : State) (d p : Nat) (c : QCluster) (l : LaunchRec) : State :=
  let age := c.age + 1
  let x := { c with age := age, drain := if age = 16 then s.chooseDrain d l else c.drain }
  s.updHeads d p fun q => q.map fun y => if y = c then x else y

/-- One queue of a round. -/
def State.placeQueue (d p : Nat) (ds : Drains) : Nat → State → State
  | 0, s => s
  | n + 1, s =>
    match s.headOf d p with
    | none => s
    | some c =>
      match s.gridOf c.handle with
      | none => State.placeQueue d p ds n (s.updHeads d p fun q => q.erase c)
      | some g =>
        if s.held d c then s
        else match s.firstSlot d g.launch c ds with
          | some (x, fits) =>
            State.placeQueue d p ds n (((s.updHeads d p fun q => q.erase c).startCluster d g c x.core0 fits).wantRange d c.handle)
          | none => s.ageHead d p c g.launch

/-- A round of a die. -/
def State.placeRound (s : State) (d : Nat) : State :=
  let ds := s.drains d
  let n := (s.dieOf d).disp.queues.flatten.length + 1
  [3, 2, 1, 0].foldl (fun (s : State) p => State.placeQueue d p ds n s) s

/-- `PLACEMENT_ROUND`, at the die of `cur`: once in each 128 cycles while a cluster waits. -/
def execPlacementRound (s : State) : Out :=
  let d := s.cur.die
  let x := (s.dieOf d).disp
  let period := s.cyc d / 128
  if (s.dieOf d).stopped || x.queues.all List.isEmpty || decide (period ≤ x.lastRound) then .next s
  else .next ((s.placeRound d).updDisp d fun y => { y with lastRound := period })

/-! ## `CREW_RETIRE`: R119, R150 and R431 -/

/-- A band has ended and its stores are acknowledged. -/
def Band.over (b : Band) : Bool := !b.running && b.committed

/-- A crew with a pool may end its bands only at the end of the die's task work. -/
def State.poolOver (s : State) (r : CrewRef) (cw : Crew) : Bool :=
  let g := s.gridDie r.die cw.cfg.handle
  cw.cfg.poolN == 0 || cw.ctl.cancelled || (g.live == 0 && g.allRefused)

/-- A crew may retire. -/
def State.mayRetire (s : State) (r : CrewRef) (cw : Crew) : Bool :=
  cw.bands.all (fun b => b.2.over) && (match cw.front with | some f => f.ended && f.th.accs.isEmpty | none => true) &&
    cw.window.isEmpty && (s.crewOps r).isEmpty && ((List.range 4).all fun ch => ((s.coreOf r.die r.core).copyOf r.slot ch).isEmpty) &&
    s.poolOver r cw

/-- One crew of a die's ranges has retired; a range with no crew left is reported to the owner, R116. -/
def State.countRetired (s : State) (d : Nat) (h : Handle) (lin : Nat) : State :=
  let has := fun (x : Nat × Nat × Nat) => decide (x.1 ≤ lin) && decide (lin < x.1 + x.2.1)
  let s1 := s.updGridDie d h fun y => { y with
    unretired := y.unretired - 1, ranges := y.ranges.map fun x => if has x then (x.1, x.2.1, x.2.2 + 1) else x }
  match (s1.gridDie d h).ranges.find? has with
  | some x => if x.2.1 = x.2.2 then s1.sendTo (handleCtx h) 0 d (s1.ownerAt h) (.retire (rangeBody h x.1 x.2.1)) else s1
  | none => s1

/-- `CREW_RETIRE`, of the crew at `cur`. -/
def execCrewRetire (s : State) : Out :=
  let r := s.cur.crew
  match s.crewOf r with
  | none => .next s
  | some cw =>
    if !s.mayRetire r cw then .next s
    else
      let h := cw.cfg.handle
      let s1 := (s.dropCrew r cw).countRetired r.die h cw.cfg.lin
      let s2 := ((s1.breakAll h cw.collectives).retarget r.die).wantRange r.die h
      .next ((s2.barNudge r.die h).preSettle (handleCtx h).toNat)

end Sys2Proof.Machine
end

