-- ==== Sys2Proof/Machine/Start.lean ====
section
/-!
DEFINITION. The start of the package, claims and handovers, firmware images and attestation: R58 to R69, R75 and R76.
-/
namespace Sys2Proof.Machine

def State.updBoot (s : State) (f : Boot → Boot) : State := { s with host := { s.host with boot := f s.host.boot } }
def State.updOwn (s : State) (f : Own → Own) : State := { s with host := { s.host with own := f s.host.own } }
def State.updStart (s : State) (f : Start → Start) : State := { s with host := { s.host with start := f s.host.start } }
def State.updFw (s : State) (f : Fw → Fw) : State := { s with host := { s.host with fw := f s.host.fw } }

/-- A refused claim or a dropped write. -/
def State.denied (s : State) : State := s.updOwn fun o => { o with denied := satInc o.denied }

/-! ## The nonce and the claim window: R60 and R61 -/

/-- A new `BOOT_NONCE` from the entropy source. -/
def State.drawNonce (s : State) : State :=
  s.updBoot fun b => { b with nonce := Config.entropy b.draws, draws := b.draws + 1 }

/-- The nonce is drawn, and the claim window opens. -/
def State.openWindow (s : State) : State :=
  s.drawNonce.updOwn fun o => { o with drawn := true, windowOpen := true, windowOpenedAt := s.time, valid := [] }

/-! ## Claim, release and accept records: R59, R61 and R63 -/

/-- Bytes of a candidate's mailbox. -/
def State.mailboxBytes (s : State) (c : Nat) : List Byte :=
  (List.range 1024).flatMap fun w => leBytes 8 (s.host.mailbox.get 0 (1024 * c + w)).toNat

def zeroBytes (b : List Byte) (off n : Nat) : Bool := ((b.drop off).take n).all fun x => x == 0

/-- The record of a candidate's mailbox is valid, R59. -/
def State.recordValid (s : State) (c : Nat) (b : List Byte) : Bool :=
  let keys := (b.drop 64).take 1984
  let hash := s.host.boot.keyHash.getD c 0
  let msg := b.take 2048
  fld b 0 4 == 0x434E574F && fld b 4 1 == c && decide (fld b 5 1 ≤ 2) && fld b 7 1 == s.pkg &&
    fld b 8 32 == s.host.boot.nonce.toNat && zeroBytes b 40 24 && zeroBytes b 5421 3 && hash != 0 && Config.sha3 keys == hash &&
    Config.edVerify ((b.drop 64).take 32) msg ((b.drop 2048).take 64) &&
    Config.mlVerify ((b.drop 96).take 1952) msg ((b.drop 2112).take 3309) &&
    (fld b 5 1 != 0 || fld b 6 1 == 0)

/-- The claim window closes: the lowest of the valid candidates is owner. -/
def State.closeWindow (s : State) : State :=
  s.updOwn fun o => { o with
    windowOpen := false, valid := [], owned := !o.valid.isEmpty,
    owner := o.valid.foldl (fun (m : BitVec 2) c => if c.toNat < m.toNat then c else m) (o.valid.headD 0) }

/-- Two seconds have passed since an open window opened. -/
def State.windowDue (s : State) : Bool := s.host.own.windowOpen && decide (s.host.own.windowOpenedAt + 2000000000 ≤ s.time)

/-- `CLAIM_WINDOW_CLOSE`, two seconds after the nonce was drawn. -/
def execClaimWindowClose (s : State) : Out := .next (if s.windowDue then s.closeWindow else s)

/-- A claim: it waits for the close of the window, or makes its candidate owner; of valid claims in one reference period the
lower number wins. DEDUCED, log 25. -/
def State.claimNow (s : State) (cand : BitVec 2) (valid : Bool) : State :=
  let o := s.host.own
  if !valid || !o.drawn then s.denied
  else if o.owned then
    if o.claimedAt = some s.time ∧ cand.toNat < o.owner.toNat then (s.updOwn fun o => { o with owner := cand }).denied else s.denied
  else if o.windowOpen then s.updOwn fun o => { o with valid := o.valid ++ [cand] }
  else s.updOwn fun o => { o with owned := true, owner := cand, claimedAt := some s.time }

/-- A claim reaches the device: a window that has lasted two seconds has closed before it. -/
def State.claim (s : State) (cand : BitVec 2) (valid : Bool) : State :=
  (if s.windowDue then s.closeWindow else s).claimNow cand valid

/-- The owner's release. DEDUCED, log 25. DESIGN CHOICE, log 81. -/
def State.release (s : State) (cand tgt : Nat) (valid : Bool) : State :=
  let o := s.host.own
  if !valid || !o.owned || o.owner.toNat != cand || o.hopend || decide (2 < tgt) then s.denied
  else s.updOwn fun o => { o with hopend := true, hoto := BitVec.ofNat 2 tgt, hoAt := s.time }

/-- The target's accept, within one second. -/
def State.acceptOwner (s : State) (cand tgt : Nat) (valid : Bool) : State :=
  let o := s.host.own
  if !valid || !o.hopend || o.hoto.toNat != cand || tgt != cand || decide (o.hoAt + 1000000000 < s.time) then s.denied
  else (s.updOwn fun o => { o with owner := BitVec.ofNat 2 cand, hopend := false, claimedAt := none }).drawNonce

/-- A write of 1 to `OWN_SUBMIT.GO`: the record in the writer's mailbox is judged by its `KIND`. DEDUCED, log 25. -/
def State.submit (s : State) (cand : BitVec 2) : State :=
  let b := s.mailboxBytes cand.toNat
  let ok := s.recordValid cand.toNat b
  match fld b 5 1 with
  | 1 => s.release cand.toNat (fld b 6 1) ok
  | 2 => s.acceptOwner cand.toNat (fld b 6 1) ok
  | _ => s.claim cand ok

/-- `HANDOVER_TIMEOUT`. -/
def execHandoverTimeout (s : State) : Out :=
  let o := s.host.own
  if o.hopend && decide (o.hoAt + 1000000000 ≤ s.time) then .next (s.updOwn fun o => { o with hopend := false }) else .next s

/-! ## Firmware: R67 and R71 -/

/-- The bytes of an image: its header and its body of `LEN` bytes. -/
def imageBytes (b : List Byte) : Nat := 5440 + fld b 16 8

/-- An image of a class is accepted. -/
def Fuses.imageOk (f : Fuses) (cls : Nat) (b : List Byte) : Bool :=
  let msg := b.take 72
  fld b 0 4 == 0x57464B56 && fld b 8 1 == cls && zeroBytes b 9 7 && zeroBytes b 5429 11 && b.length == imageBytes b &&
    Config.sha3 ((b.drop 72).take 1984) == f.fwHash &&
    Config.edVerify ((b.drop 72).take 32) msg ((b.drop 2056).take 64) &&
    Config.mlVerify ((b.drop 104).take 1952) msg ((b.drop 2120).take 3309) &&
    Config.sha3 (b.drop 5440) == BitVec.ofNat 384 (fld b 24 48) && decide ((f.fwMin.getD cls 0).toNat ≤ fld b 4 4)

/-- The class of a passenger's image. -/
def classOf (sock : Nat) : Nat := if sock < 8 then 0 else if sock < 24 then 1 else 2

/-- Every image that a present passenger needs is accepted. -/
def State.imagesOk (s : State) : Bool :=
  (List.range 26).all fun k => !s.host.boot.present.getLsbD k ||
    s.host.fuses.imageOk (classOf k) (s.host.fw.flash.getD (classOf k) [])

/-- The staged image of a class in the staging buffer. -/
def State.stagedImage (s : State) (cls : Nat) : List Byte :=
  let t := s.host.fw.staging.getD cls []
  let head := (List.range 24).map fun i => t.get 0 i
  (List.range (min (imageBytes head) (2 ^ 26))).map fun i => t.get 0 i

/-- `FLASH_WRITE_DONE`. -/
def execFlashWriteDone (s : State) : Out :=
  match s.host.fw.writing with
  | some (cls, img) => .next (s.updFw fun w => { w with flash := w.flash.set cls img, flashBusy := false, writing := none })
  | none => .next s

/-! ## Attestation: R68 and R69 -/

/-- A request takes the lowest free buffer, or is refused. -/
def State.attRequest (s : State) (cand : BitVec 2) : State :=
  let b := s.host.boot
  match (List.range 4).find? fun k => match b.att[k]? with | some a => !a.run && !a.done | none => false with
  | some k => s.updBoot fun b => { b with
      att := b.att.modify k fun a => { a with run := true, cand := cand, nonce := b.attNonce.getD cand.toNat 0 },
      attQueue := b.attQueue ++ [k] }
  | none => s.updBoot fun b => { b with attBusy := true }

/-- Bytes 0 to 383 of a report. -/
def State.reportBody (s : State) (a : AttBuf) (serial : Nat) : List Byte :=
  let digest := fun (k : Nat) => leBytes 48 (s.host.fw.running.getD k 0).toNat
  let chash := fun (k : Nat) => leBytes 48 (s.host.fuses.candHash.getD k 0).toNat
  leBytes 4 0x54414B56 ++ leBytes 4 serial ++ leBytes 32 a.nonce.toNat ++ digest 0 ++ digest 1 ++ digest 2
    ++ leBytes 4 s.host.boot.present.toNat ++ leBytes 4 s.host.boot.healthy.toNat ++ leBytes 4 s.host.own.reg
    ++ leBytes 4 s.host.start.reg ++ leBytes 1 s.pkg ++ List.replicate 7 0 ++ chash 0 ++ chash 1 ++ chash 2 ++ List.replicate 32 0

/-- `ATTESTATION_REPORT_DONE`: the oldest request is served. -/
def execAttestationReportDone (s : State) : Out :=
  let b := s.host.boot
  match b.attQueue with
  | [] => .next s
  | k :: rest =>
    let serial := b.serial + 1
    let body := s.reportBody (b.att.getD k AttBuf.reset) serial.toNat
    let bytes := body ++ (Config.edSign body).toList ++ (Config.mlSign body).toList ++ [0, 0, 0]
    .next (s.updBoot fun b => { b with
      serial := serial, attQueue := rest,
      att := b.att.modify k fun a => { a with run := false, done := true, serial := serial, bytes := bytes } })

/-! ## The steps of a start: R64 to R66, R75 and R76 -/

/-- A start begins: the machine stops, no owner is carried over. A cold start begins at step 1 with the counters at 0; a warm
start at step 4. DEDUCED, log 23. -/
def State.beginStart (s : State) (kind : StartKind) (again : Bool) : State :=
  let cold := kind != .warm
  let was := if again then s.host.start.healthyAtStart else s.host.boot.healthy
  let s1 := if cold then
      { s with time := 0, host := { s.host with
          boot := { s.host.boot with present := s.host.fuses.present, attBusy := false, attNonce := [0, 0, 0],
                                     att := List.replicate 4 AttBuf.reset, attQueue := [], serial := 0 },
          own := HostSt.reset.own } }
    else s
  let s2 := (s1.updBoot fun b => { b with healthy := 0 }).updOwn fun o =>
    { o with owned := false, owner := 0, hopend := false, drawn := false, windowOpen := false, valid := [], claimedAt := none }
  let s3 := s2.updStart fun x =>
    { x with step := if cold then 1 else 4, kind := kind, st := .running, healthyAtStart := was,
             okSoFar := if cold then BitVec.allOnes 26 else s2.host.boot.present, stepAt := s2.time }
  { s3 with net := [], ring := [], host := { s3.host with podOut := [] }, dies := s3.dies.map fun (d : Nat × Die) => (d.1, { d.2 with stopped := true }) }

/-- Safe mode: only the management path, the nonce and the ownership registers remain. -/
def State.safeMode (s : State) : State := (s.updStart fun x => { x with kind := .safe, st := .failed }).openWindow

/-- A start that fails is retried, or ends in safe mode, Table 3.5. -/
def State.startFailed (s : State) : State :=
  let x := s.host.start
  if x.kind = .warm then
    if x.wfail.toNat < 2 then (s.updStart fun y => { y with wfail := y.wfail + 1 }).beginStart .warm true
    else (s.updStart fun y => { y with wfail := 3 }).beginStart .cold true
  else if x.cfail = 0 then (s.updStart fun y => { y with cfail := 1 }).beginStart .cold true
  else (s.updStart fun y => { y with cfail := 2 }).safeMode

/-- The limit of a step, in reference periods. DEDUCED, log 24. -/
def stepLimit (step : Nat) : Nat :=
  match step with
  | 1 => 1000000 | 2 => 200000000 | 3 => 4000000000 | 4 => 500000000 | 5 => 50000000 | 6 => 10000000 | _ => 2000000000

/-- GiB of the host partition after the rounding of R86. -/
def State.partitionGiB (s : State) : Nat :=
  let m := s.tierChannels.length
  let extra := ((s.ddrPopulated.drop m).map fun c => s.host.fuses.ddrGiB.getD c 0).sum
  let size := s.host.boot.hostMem.toNat
  if size ≤ extra then size else extra + (size - extra + (m - 1)) / max 1 m * m

/-- Some pod port is up. -/
def State.podPortUp (s : State) : Bool := (List.range 18).any fun p => (s.linkOf (portLink p)).regs.width != 2

/-- A step reports an error: `ok` names the passengers whose part of it succeeded. DEDUCED, log 24. -/
def State.stepFails (s : State) (step : Nat) (ok : BitVec 26) : Bool :=
  let present := s.host.boot.present
  let lost := fun (lo n : Nat) => (List.range n).any fun i => present.getLsbD (lo + i) && !ok.getLsbD (lo + i)
  match step with
  | 1 => s.host.fuses.parityBad
  | 2 => lost 0 8
  | 3 => lost 8 16 || (s.ddrPopulated.any fun c => !ok.getLsbD (24 + c / 8)) || s.ddrPopulated.isEmpty ||
      s.host.boot.hostMem == 0 || decide (s.host.fuses.ddrGiB.sum < s.partitionGiB)
  | 4 => !s.imagesOk
  | 7 => !ok.getLsbD 24 || (s.host.boot.podEn && !s.podPortUp)
  | _ => s.host.start.okSoFar &&& ~~~ok != 0

/-- Every module of a passenger that has not trained is down. DEDUCED, log 19. -/
def State.untrained (s : State) (sock : Nat) : State :=
  (List.range (moduleCount sock)).foldl (fun (s : State) i => s.updLink ⟨sock, false, i⟩ fun l =>
    { l with regs := { l.regs with width := 2 }, tx := { l.tx with st := .down }, rx := { l.rx with st := .down } }) s

/-- The memories of a package without its scratchpads: the bytes of HBM and DDR. -/
def clearSrams (m : List Host.Cell) : List Host.Cell := m.filter fun c => decide (c.1 < coreKey 0 0 0)

/-- The registers and the work of the whole package, cleared at step 5: every SRAM is clear, and every context but context 0 is
gone. DEDUCED, log 23. -/
def State.clearAll (s : State) (cold : Bool) (ok : BitVec 26) : State :=
  let die := fun (d : Nat) =>
    let x := s.dieOf d
    let cyc := if cold then 0 else x.cyc
    let frac := if cold then 0 else x.frac
    let pwr := if cold then Pwr.reset else x.pwr
    { Die.reset with cyc := cyc, frac := frac, pwr := pwr, stopped := !ok.getLsbD d }
  let s1 := { s with
    dies := (List.range 8).map fun d => (d, die d), mem := clearSrams s.mem,
    ctxs := [(0, { Ctx.reset with st := .active, mode := 0 })], ctrls := [], barDone := [], colls := [], net := [], ring := [],
    disp := { Disp.reset with apBase := if cold then 0 else s.disp.apBase },
    timeConv := if cold then [] else s.timeConv,
    host := { s.host with pwr := if cold then HostSt.reset.pwr else s.host.pwr } }
  (List.range 8).foldl (fun (s : State) d => s.retarget d) s1

/-- The unacknowledged entries of a log are posted again with `REPLAY` set. -/
def State.replayLog (s : State) (sock : Nat) : State :=
  ((s.sockEv sock).log.filter fun e => !e.acked).foldl (fun (s : State) e =>
    s.postRecord (e.record.set 6 (e.record.getD 6 0 ||| 2))) s

/-- What a step that succeeds does. DEDUCED, log 19. DEDUCED, log 23. -/
def State.stepDone (s : State) (step : Nat) (ok : BitVec 26) : State :=
  let cold := s.host.start.kind != .warm
  match step with
  | 1 => s.updBoot fun b => { b with present := s.host.fuses.present, keyHash := s.host.fuses.candHash }
  | 2 => ((List.range 26).filter fun k => s.host.boot.present.getLsbD k && !ok.getLsbD k).foldl
      (fun (s : State) k => s.untrained k) { s with links := [], podrt := [] }
  | 3 => { s with mem := [] }.updBoot fun b => { b with hostPlaced := s.partitionGiB }
  | 4 =>
    let digests := (List.range 3).map fun k => BitVec.ofNat 384 (fld (s.host.fw.flash.getD k []) 24 48)
    (s.updFw fun w => { w with running := digests }).openWindow
  | 5 => s.clearAll cold s.host.start.okSoFar
  | 6 => if cold then s.updEvq fun _ => HostSt.reset.evq else (List.range 26).foldl (fun (s : State) k => s.replayLog k) s
  | _ =>
    if cold then
      let p := if s.host.boot.podEn then s.host.boot.podPkg else 0
      { s with host := { s.host with inPod := s.host.boot.podEn, peerHealth := [] },
               podrt := [(24, { s.podOf 24 with pkg := p }), (25, { s.podOf 25 with pkg := p })] }
    else s

/-- The end of step 7: the passengers whose steps succeeded are healthy, and leaders are elected. -/
def State.startDone (s : State) : State :=
  let x := s.host.start
  let cold := x.kind != .warm
  let healthy := if cold then x.okSoFar else x.okSoFar &&& x.healthyAtStart
  let s1 := s.updBoot fun b => { b with healthy := healthy }
  (s1.updStart fun y => { y with st := .done, wfail := 0, cfail := 0, coldDone := y.coldDone || cold }).elect.tellHealth

/-- `START_STEP_COMPLETE`: a step ends within its limit; the next begins, or the start fails. DEDUCED, log 24. -/
def execStartStepComplete (ok : BitVec 26) (s : State) : Out :=
  let x := s.host.start
  let k := x.step.toNat
  if x.st ≠ .running ∨ k = 0 then .next s
  else if x.stepAt + stepLimit k < s.time ∨ s.stepFails k ok then .next s.startFailed
  else
    let good := if k = 1 then s.host.fuses.present else x.okSoFar &&& ok
    let s1 := (s.stepDone k ok).updStart fun y => { y with okSoFar := good }
    if k = 7 then .next s1.startDone
    else .next (s1.updStart fun y => { y with step := y.step + 1, stepAt := s1.time })

/-- `START_STEP_TIMEOUT`: a step has exceeded its limit. -/
def execStartStepTimeout (s : State) : Out :=
  let x := s.host.start
  if x.st = .running ∧ x.step ≠ 0 ∧ x.stepAt + stepLimit x.step.toNat < s.time then .next s.startFailed else .next s

/-- A cold start that the owner requests. -/
def State.bootCold (s : State) : State :=
  let x := s.host.start
  let s1 := if x.kind = .safe then s.updStart fun y => { y with wfail := 0, cfail := 0 } else s
  if x.st = .running then s else s1.beginStart .cold false

/-- A warm start that the owner requests: cold while none has succeeded since power-on. -/
def State.bootWarm (s : State) : State :=
  let x := s.host.start
  if x.st = .running ∨ x.kind = .safe then s else s.beginStart (if x.coldDone then .warm else .cold) false

/-- `POWER_ON`: every register at its reset value, the fuses and the flash as they are; a cold start begins. -/
def execPowerOn (s : State) : Out :=
  let host := { HostSt.reset with
    fuses := s.host.fuses, fw := { HostSt.reset.fw with flash := s.host.fw.flash },
    boot := { HostSt.reset.boot with draws := s.host.boot.draws } }
  let fresh := { State.reset with host := host, cur := s.cur, unit := s.unit, free := s.free, agenda := s.agenda }
  .next (fresh.beginStart .cold false)

end Sys2Proof.Machine
end

