-- ==== Sys2Proof/Machine/Master.lean ====
section
/-!
DEFINITION. What masters do: the writes of control registers, judged by R62, and their effects; the management port; the pod
leader's agent; event records: R11, R24, R28, R47, R52, R55 to R57, R62, R68, R70 to R75, R79, R80, R90, R130, R193, R260.
-/
namespace Sys2Proof.Machine

/-! ## Judging a write: R55, R62 and R66 -/

/-- Registers that are powered in safe mode, R66. DEDUCED, log 26. -/
def Reg.inSafe : Reg → Bool
  | .bootPresent | .bootHealthy | .bootStatus | .bootCtl | .bootNonce _ | .bootHostmem | .bootPodcfg | .bootAttnonce _ _
  | .bootAttreq | .bootAttst _ | .bootIdkey _ | .attBuf _ _ | .ownStatus | .ownSubmit | .mailbox _ _ => true
  | _ => false

/-- The register that a master reaches at an offset of a passenger's window: none where the table assigns none, where the
socket is absent, and where safe mode leaves it without power. DEDUCED, log 26. -/
def State.reach (s : State) (cand : BitVec 2) (sock off : Nat) : Option Reg :=
  match decodeReg sock off with
  | none => none
  | some r =>
    if sock ≠ 24 ∧ !s.host.boot.present.getLsbD sock then none
    else if s.host.start.kind = .safe ∧ !(r.inSafe && cand == 1) then none
    else some r

/-- What the exemption of R62 says of a candidate's write: its own, another candidate's, or not exempt. -/
def State.exempt (s : State) (cand : BitVec 2) (r : Reg) : Option Bool :=
  match r with
  | .mailbox c _ => some (c == cand.toNat)
  | .bootAttnonce c _ => some (c == cand.toNat)
  | .bootAttst k => some ((s.host.boot.att.getD k AttBuf.reset).cand == cand)
  | .ownSubmit => some true
  | .bootAttreq => some true
  | _ => none

/-- The master is the owner. -/
def State.owns (s : State) (cand : BitVec 2) : Bool := s.host.own.owned && s.host.own.owner == cand

/-- A write may take effect. DEDUCED, log 26. -/
def State.mayWrite (s : State) (cand : BitVec 2) (r : Reg) : Bool :=
  match s.exempt cand r with
  | some own => own
  | none => s.owns cand

/-! ## Effects: contexts -/

/-- `CREATE` may make the context active, R80. DEDUCED, log 28. -/
def State.mayCreate (s : State) (x : Ctx) : Bool :=
  let p := x.place.toNat
  match x.mode.toNat with
  | 0 => p == 0
  | 1 => decide (p ≤ 1) && (List.range 4).any fun i => s.healthy (4 * p + i)
  | 2 => s.healthy p
  | _ => false

/-- `DESTROY` begins: every grid of the context is cancelled. -/
def State.destroy (s : State) (c : Nat) : State :=
  let s1 := s.updCtx c fun x => { x with st := .destroying, destroy := .cancelling }
  let mine := s1.disp.grids.filter fun g => (handleCtx g.2.handle).toNat == c && !g.2.own.isEnded
  (mine.foldl (fun (s : State) g => s.cancelAt 24 g.2.handle) s1).destroyStep c

/-- A write of `CTX_CFG`, R80. DEDUCED, log 28. -/
def State.writeCtxCfg (s : State) (c : Nat) (v : W64) : State :=
  match (s.ctxOf c).st with
  | .free =>
    let s1 := s.updCtx c fun x =>
      { x with mode := v.extractLsb' 26 2, place := v.extractLsb' 23 3, gwin := v.getLsbD 22 }
    if v.getLsbD 0 && s1.mayCreate (s1.ctxOf c) then s1.updCtx c fun x => { x with st := .active, destroy := .none } else s1
  | .active => if v.getLsbD 1 && c != 0 then s.destroy c else s
  | .destroying => s

/-- `CTX_UNPARK.ALL`: every healthy die is told, R103. -/
def State.unparkAll (s : State) (c : Nat) : State :=
  (s.healthyDies s.pkg).foldl (fun (s : State) d => s.send (s.hdr (BitVec.ofNat 6 c) 0 24 d) .unpark) s

/-- A write of `CTX_DIESCR`, R193: ignored where it meets another active context's allotment or passes 32 MiB; a change
zeroes the new allotment. -/
def State.writeDiescr (s : State) (d c : Nat) (v : W64) : State :=
  let base := (v.extractLsb' 16 9).toNat
  let size := (v.extractLsb' 0 10).toNat
  let meets := (List.range 64).any fun k => k != c && (s.ctxOf k).st == .active &&
    runsMeet base size (s.ctxDie d k).scrBase.toNat (s.ctxDie d k).scrSize.toNat && size != 0 && (s.ctxDie d k).scrSize != 0
  let x := s.ctxDie d c
  if meets || decide (512 < base + size) then s
  else if x.scrBase.toNat = base ∧ x.scrSize.toNat = size then s
  else (s.clearKey (dieKey d (65536 * base)) (65536 * size)).updCtxDie d c fun y =>
    { y with scrBase := v.extractLsb' 16 9, scrSize := v.extractLsb' 0 10 }

/-- A write of a command word; word 3 starts the command, R90. DEDUCED, log 28. -/
def State.writeTrcmd (s : State) (n i : Nat) (v : W64) : State :=
  let s1 := s.updCtrl n fun k => { k with cmd := k.cmd.set i v }
  if i ≠ 3 then s1
  else if (s.ctrlOf n).busy then s1.updCtrl n fun k => { k with lost := true }
  else
    let s2 := s1.updCtrl n fun k => { k with run := k.cmd, busy := true, unmap := none }
    let op := (TrCmd.of (s2.ctrlOf n).run).op
    if op = 0 ∨ 3 < op then s2.trDone n 1 else s2

/-! ## Effects: the host's registers -/

/-- `EVQ_HEAD` after a write: not beyond `TAIL`. DESIGN CHOICE, log 79. -/
def Evq.setHead (e : Evq) (v : W16) : Evq := { e with head := if e.tail - e.head < v - e.head then e.tail else v }

/-- Entries of a log up to an `ESEQ` are acknowledged, R72. -/
def SockEv.ackTo (e : SockEv) (v : W32) : SockEv :=
  { e with logAck := v, log := e.log.map fun x => if leNat (x.record.take 4) ≤ v.toNat then { x with acked := true } else x }

/-- One word of a number of 256 bits. -/
def setWord (n : BitVec 256) (w : Nat) (v : W64) : BitVec 256 :=
  BitVec.ofNat 256 ((List.range 4).foldl (fun m k => m + 2 ^ (64 * k) * (if k = w then v.toNat else wordOf n.toNat k)) 0)

def atMost (n lo hi : Nat) : Nat := if n < lo then lo else if hi < n then hi else n

def State.updConv (s : State) (sock : Nat) (f : TimeConv → TimeConv) : State :=
  { s with timeConv := s.timeConv.set sock (f (s.convOf sock)) }

/-- Writes of `BOOT_CTL`, `BOOT_ATTREQ` and the like, by the register. -/
def State.storeBoot (s : State) (cand : BitVec 2) (r : Reg) (v : W64) : State :=
  match r with
  | .bootCtl => if v.getLsbD 1 then s.bootCold else if v.getLsbD 0 then s.bootWarm else s
  | .bootHostmem => s.updBoot fun b => { b with hostMem := v.extractLsb' 0 16 }
  | .bootPodcfg => s.updBoot fun b => { b with podPkg := v.extractLsb' 8 8, podEn := v.getLsbD 0 }
  | .bootAttnonce c w => s.updBoot fun b => { b with attNonce := b.attNonce.modify c fun n => setWord n w v }
  | .bootAttreq =>
    let s1 := if v.getLsbD 1 then s.updBoot fun b => { b with attBusy := false } else s
    if v.getLsbD 0 then s1.attRequest cand else s1
  | .bootAttst k =>
    if v.getLsbD 1 then s.updBoot fun b => { b with att := b.att.modify k fun a => { a with done := false } } else s
  | .ownSubmit => if v.getLsbD 0 then s.submit cand else s
  | .mailbox c w => { s with host := { s.host with mailbox := s.host.mailbox.set (1024 * c + w) v } }
  | .evqBase => s.updEvq fun e => { e with base := v &&& ~~~0x7FFF#64 }
  | .evqHead => s.updEvq fun e => e.setHead (v.extractLsb' 0 16)
  | .evqStatus => if v.getLsbD 0 then s.updEvq fun e => { e with overflow := false } else s
  | .evqLogack k => s.updSockEv k fun e => e.ackTo (v.extractLsb' 0 32)
  | .pwrPkgcap =>
    let cap := BitVec.ofNat 16 (atMost (v.toNat % 65536) 1200 3000)
    { s with host := { s.host with pwr := { s.host.pwr with capW := cap } } }
  | .pwrCtl d => (s.updDie d fun x => { x with pwr := { x.pwr with opcap := v.extractLsb' 0 3 } }).retarget d
  | _ => s

/-- The pod ports that are not down, as a mask: a route mask names no other, R51. -/
def State.portsUp (s : State) : BitVec 18 := BitVec.ofNat 18 (maskNat 18 fun n => (s.linkOf (portLink n)).regs.width != 2)

/-- Writes of link, pod and time registers. -/
def State.storeLink (s : State) (r : Reg) (v : W64) : State :=
  match r with
  | .linkErrthr lk =>
    let thr : Byte := v.extractLsb' 0 8
    s.updLink lk fun l => { l with regs := { l.regs with errThr := if thr = 0 then 1 else thr } }
  | .linkCtl lk =>
    let s1 := if v.getLsbD 0 then
        s.updLink lk fun l => { l with regs := l.regs.clear s.time } else s
    if v.getLsbD 1 then s1.updLink lk fun l => l.retrainCtl else s1
  | .linkPodrt sock n =>
    let p := s.podOf sock
    { s with podrt := s.podrt.set sock { p with masks := p.masks.set n (v.extractLsb' 0 18 &&& s.portsUp) } }
  | .timeOffset k => s.updConv k fun c => { c with offset := v }
  | .timeRate k => s.updConv k fun c => { c with rate := v.extractLsb' 0 32 }
  | .timeCtl k => if v.getLsbD 0 then s.updConv k fun c => { c with offsetNow := c.offset, rateNow := c.rate } else s
  | _ => s

/-- Writes of context, dispatch, pool, translation and crew registers; every other register ignores writes. -/
def State.storeCtx (s : State) (r : Reg) (v : W64) : State :=
  match r with
  | .dispApbase => { s with disp := { s.disp with apBase := v &&& ~~~0xFFFFFF#64 } }
  | .dispCancel c =>
    let h : Handle := v.extractLsb' 0 48
    if (handleCtx h).toNat = c then s.cancelAt 24 h else s
  | .ctxCfg c => s.writeCtxCfg c v
  | .ctxLeaseMax c =>
    let l : Byte := v.extractLsb' 0 8
    s.updCtx c fun x => { x with lease := if l = 0 then 1 else l }
  | .ctxUnpark c => if v.getLsbD 0 then s.unparkAll c else s
  | .ctxPreempt c => s.ctxPreempt c v
  | .ctxResume c => s.ctxResume c v
  | .ctxPreemptLimit c => s.updCtx c fun x => { x with preLimit := BitVec.ofNat 32 (max 4096 (v.toNat % 2 ^ 32)) }
  | .numNbv c => s.updCtx c fun x => if v.extractLsb' 0 2 = 0#2 then x else { x with nbv := v.extractLsb' 0 2 }
  | .poolFlush c => s.updCtx c fun x => { x with flush := BitVec.ofNat 16 (max 64 (v.toNat % 65536)) }
  | .poolEnqres c => s.updCtx c fun x => { x with enqres := BitVec.ofNat 4 (atMost (v.toNat % 16) 1 8) }
  | .ctxTrbase n => s.updCtrl n fun k => { k with trBase := v.extractLsb' 0 8 }
  | .ctxTrsize n => s.updCtrl n fun k => { k with trSize := v.extractLsb' 0 8 }
  | .ctxTrcmd n i => s.writeTrcmd n i v
  | .ctxTrstat n => if v.getLsbD 30 then s.updCtrl n fun k => { k with lost := false } else s
  | .ctxDiescr d c => s.writeDiescr d c v
  | .ctxSave d c => s.updCtxDie d c fun x => { x with saveBase := v.extractLsb' 16 40, savePages := v.extractLsb' 0 16 }
  | .poolSpill d c => s.updCtxDie d c fun x => { x with spillBase := v.extractLsb' 16 40, spillPages := v.extractLsb' 0 16 }
  | .poolEnqbase d c => s.updCtxDie d c fun x => { x with enqBase := v.extractLsb' 16 40 }
  | .poolLivesel d => s.updDisp d fun x => { x with liveSel := v.extractLsb' 0 48 }
  | .crewMerge r => s.writeMerge r v
  | .crewScrchk r => s.writeScrchk r v
  | _ => s

/-- The effect of a write that reaches its register. -/
def State.store (s : State) (cand : BitVec 2) (r : Reg) (v : W64) : State :=
  ((s.storeBoot cand r v).storeLink r v).storeCtx r v

/-- A master's write of a register word: 0 done, 1 denied, 2 no such register. A write with a bit of a reserved field is
counted, R11. -/
def State.regWrite (s : State) (cand : BitVec 2) (sock off : Nat) (v : W64) : Nat × State :=
  match s.reach cand sock off with
  | none => (2, s)
  | some r =>
    if cand = 3 then (2, s)
    else if !s.mayWrite cand r then (1, s.denied)
    else (0, (if r.rsvdHit v then s.updOwn fun o => { o with rsvdw := satInc o.rsvdw } else s).store cand r v)

/-- A master's read: 0 and the value, or 2. -/
def State.regRead (s : State) (cand : BitVec 2) (sock off : Nat) : Nat × W64 :=
  match s.reach cand sock off with
  | none => (2, 0)
  | some r => (0, s.regValue r)

/-- A master's write to a passenger's window. -/
def State.master (s : State) (cand : BitVec 2) (sock off : Nat) (v : W64) : Out := .next (s.regWrite cand sock off v).2

/-- `CONTROL_REGISTER_WRITE`. -/
def execControlRegisterWrite (cand : BitVec 2) (sock : BitVec 5) (off val : W64) (s : State) : Out :=
  s.master cand sock.toNat off.toNat val

/-! ## The writes that the opcode table names -/

def execBootCtlCold (cand : BitVec 2) (s : State) : Out := s.master cand 24 0x18 2
def execBootCtlWarm (cand : BitVec 2) (s : State) : Out := s.master cand 24 0x18 1

/-- `CLAIM`: `OWN_SUBMIT.GO` is written; the record in the mailbox says by its `KIND` what is asked. -/
def execClaim (cand : BitVec 2) (s : State) : Out := s.master cand 24 0x10008 1
def execHandoverRelease (cand : BitVec 2) (s : State) : Out := s.master cand 24 0x10008 1
def execHandoverAccept (cand : BitVec 2) (s : State) : Out := s.master cand 24 0x10008 1

def execAttestationRequest (cand : BitVec 2) (s : State) : Out := s.master cand 24 0xE0 1
def execAttestationDoneWrite (cand : BitVec 2) (k : BitVec 2) (s : State) : Out := s.master cand 24 (0x100 + 8 * k.toNat) 2

/-- Offset of a register of a context, Table 3.10. -/
def ctxOff (c : B6) (sub : Nat) : Nat := 0x40000 + 0x100 * c.toNat + sub

/-- `CREATE`: a write of `CTX_CFG` with `CREATE` set. -/
def execCreate (cand : BitVec 2) (ctx : B6) (val : W64) (s : State) : Out := s.master cand 24 (ctxOff ctx 0) (val ||| 1)
/-- `DESTROY`: a write of `CTX_CFG` with `DESTROY` set. -/
def execDestroy (cand : BitVec 2) (ctx : B6) (val : W64) (s : State) : Out := s.master cand 24 (ctxOff ctx 0) (val ||| 2)
def execCtxUnparkAll (cand : BitVec 2) (ctx : B6) (s : State) : Out := s.master cand 24 (ctxOff ctx 0x10) 1
def execCtxPreemptWrite (cand : BitVec 2) (ctx : B6) (val : W64) (s : State) : Out := s.master cand 24 (ctxOff ctx 0x18) val
def execCtxResumeWrite (cand : BitVec 2) (ctx : B6) (val : W64) (s : State) : Out := s.master cand 24 (ctxOff ctx 0x20) val
def execDispCancelWrite (cand : BitVec 2) (ctx : B6) (val : W64) (s : State) : Out :=
  s.master cand 24 (0x30200 + 8 * ctx.toNat) val
def execCtxDiescrWrite (cand : BitVec 2) (die : BitVec 3) (ctx : B6) (val : W64) (s : State) : Out :=
  s.master cand die.toNat (0x90000 + 0x40 * ctx.toNat) val

/-- Offset of `LINK_CTL` of a module or port. -/
def linkCtlOff (lk : LinkId) : Nat := (if lk.port then 0x61000 else 0x60000) + 0x40 * lk.idx + 0x28
def execLinkCtlRetrain (cand : BitVec 2) (lk : LinkId) (s : State) : Out := s.master cand lk.sock (linkCtlOff lk) 2
def execLinkCtlClrcnt (cand : BitVec 2) (lk : LinkId) (s : State) : Out := s.master cand lk.sock (linkCtlOff lk) 1

def execTimeCtlApply (cand : BitVec 2) (sock : BitVec 5) (s : State) : Out := s.master cand sock.toNat 0x70018 1
def execOpcapWrite (cand : BitVec 2) (die : BitVec 3) (val : W64) (s : State) : Out := s.master cand die.toNat 8 val
def execPwrPkgcapWrite (cand : BitVec 2) (val : W64) (s : State) : Out := s.master cand 24 0x50000 val
def execEvqHeadWrite (cand : BitVec 2) (val : W64) (s : State) : Out := s.master cand 24 0x20010 val
def execEvqLogackWrite (cand : BitVec 2) (sock : BitVec 5) (val : W64) (s : State) : Out :=
  s.master cand 24 (0x20300 + 8 * sock.toNat) val

/-- `CREW_SCRCHK.CLRLOG`, with the mode as it is. -/
def execCrewScrchkClrlog (cand : BitVec 2) (c : CrewRef) (s : State) : Out :=
  s.master cand c.die (0x100000 + 0x100 * (8 * c.core + c.slot) + 0x18)
    (BitVec.ofNat 64 (2 + s.crewReg c fun cw => bit cw.ctl.scrchkLog 0))

/-! ## The management port: R70 and R71 -/

/-- A request whose form is wrong: status 3. DEDUCED, log 27. DESIGN CHOICE, log 77. -/
def mgmtBad (msg : List Byte) : Bool :=
  let op := fld msg 5 1
  let n := fld msg 24 8
  decide (msg.length < 32) || fld msg 0 4 != 0x504D4B56 || fld msg 4 1 != 1 || op == 0 || decide (5 < op) ||
    (if op = 3 then decide (n < 8) || decide (1024 < n) || n % 8 != 0 || msg.length != 32 + n
     else if op = 4 then msg.length != 32 + n else msg.length != 32)

/-- Consecutive register writes of a block: the first status that is not zero, and the state. DEDUCED, log 27. -/
def State.blockWrite (s : State) (sock : Nat) : Nat → Nat → List Byte → Nat × State
  | _, 0, _ => (0, s)
  | off, n + 1, bs =>
    let r := s.regWrite 1 sock off (BitVec.ofNat 64 (leNat (bs.take 8)))
    let rest := r.2.blockWrite sock (off + 8) n (bs.drop 8)
    (if r.1 = 0 then rest.1 else r.1, rest.2)

/-- Image bytes go to the staging buffer of their class. -/
def State.stage (s : State) (cls off : Nat) (bs : List Byte) : State :=
  let put := fun (t : Tbl Byte) => (List.range bs.length).foldl (fun (t : Tbl Byte) i => t.set (off + i) (bs.getD i 0)) t
  s.updFw fun w => { w with staging := w.staging.modify cls put }

/-- The staged image of a class is checked, and its write to the flash begins. -/
def State.commitImage (s : State) (cls : Nat) : Nat × State :=
  let img := s.stagedImage cls
  if s.host.fw.flashBusy then (4, s)
  else if !s.host.fuses.imageOk cls img then (5, s)
  else (0, s.updFw fun w => { w with flashBusy := true, writing := some (cls, img) })

/-- A management request: status, value read, state. DEDUCED, log 27. -/
def State.mgmtRun (s : State) (msg : List Byte) : Nat × W64 × State :=
  let sock := fld msg 8 1
  let off := fld msg 16 8
  let n := fld msg 24 8
  if mgmtBad msg then (3, 0, s)
  else match fld msg 5 1 with
    | 1 => let r := s.regRead 1 sock off; (r.1, r.2, s)
    | 2 => let r := s.regWrite 1 sock off (BitVec.ofNat 64 n); (r.1, 0, r.2)
    | 3 => let r := s.blockWrite sock off (n / 8) (msg.drop 32); (r.1, 0, r.2)
    | op =>
      if 2 < sock ∨ (op = 4 ∧ 2 ^ 26 < off + n) then (2, 0, s)
      else if !s.owns 1 then (1, 0, s.denied)
      else if op = 4 then (0, 0, s.stage sock off (msg.drop 32))
      else let r := s.commitImage sock; (r.1, 0, r.2)

/-- The reply of Table 3.15. -/
def mgmtReply (msg : List Byte) (status : Nat) (v : W64) : List Byte :=
  leBytes 4 0x524D4B56 ++ [1, msg.getD 5 0] ++ leBytes 2 (fld msg 6 2) ++ leBytes 1 status ++ List.replicate 7 0 ++ leBytes 8 v.toNat

/-- A management request, and its reply to the address and the port that it came from, R70 and R71. -/
def State.mgmt (s : State) (m : MgmtMsg) : Out :=
  let r := s.mgmtRun m.bytes
  let reply : MgmtReply := { addr := m.addr, port := m.port, bytes := mgmtReply m.bytes r.1 r.2.1 }
  .next { r.2.2 with host := { r.2.2.host with mgmtOut := r.2.2.host.mgmtOut ++ [reply] } }

def execMgmtRegisterRead (msg : MgmtMsg) (s : State) : Out := s.mgmt msg
def execMgmtRegisterWrite (msg : MgmtMsg) (s : State) : Out := s.mgmt msg
def execMgmtBlockWrite (msg : MgmtMsg) (s : State) : Out := s.mgmt msg
def execFirmwareStage (msg : MgmtMsg) (s : State) : Out := s.mgmt msg
def execFirmwareCommit (msg : MgmtMsg) (s : State) : Out := s.mgmt msg

/-! ## The pod leader's agent: R39 and R55 -/

/-- `CRREAD` at a passenger. -/
def execCrread (h : PktHdr) (off : W64) (s : State) : Out :=
  let r := s.regRead 2 h.dstSock.toNat off.toNat
  .next (s.send (PktHdr.reply h) (.crreply (BitVec.ofNat 8 r.1) r.2))

/-- `CRWRITE` at a passenger: a write of candidate 2, which is the pod leader's agent. -/
def execCrwrite (h : PktHdr) (off val : W64) (s : State) : Out :=
  let r := if h.srcPkg = s.disp.podldr then s.regWrite 2 h.dstSock.toNat off.toNat val else (1, s.denied)
  .next (r.2.send (PktHdr.reply h) (.crreply (BitVec.ofNat 8 r.1) 0))

/-- `CRREPLY` at the agent that asked. -/
def execCrreply (h : PktHdr) (status : Byte) (val : W64) (s : State) : Out :=
  .next { s with host := { s.host with crReplies := s.host.crReplies ++ [⟨h, .crreply status val⟩] } }

/-! ## Event records: R73 and R74 -/

/-- `EVENT` at I/O die 0. -/
def execEvent (_h : PktHdr) (record : List Byte) (s : State) : Out := .next (s.postRecord (pad 64 record))

end Sys2Proof.Machine
end

