-- ==== Sys2Proof/Machine/Dispatch.lean ====
section
/-!
DEFINITION. Dispatch: one arm for each step, each a direct call of its meaning.
-/
namespace Sys2Proof.Machine

def exec (i : Instr) (s : State) : Host.Outcome State Fault Refusal :=
  match i with
  | .bootCtlCold cand => Sys2Proof.Machine.execBootCtlCold cand s
  | .bootCtlWarm cand => Sys2Proof.Machine.execBootCtlWarm cand s
  | .claim cand => Sys2Proof.Machine.execClaim cand s
  | .handoverRelease cand => Sys2Proof.Machine.execHandoverRelease cand s
  | .handoverAccept cand => Sys2Proof.Machine.execHandoverAccept cand s
  | .attestationRequest cand => Sys2Proof.Machine.execAttestationRequest cand s
  | .attestationDoneWrite cand k => Sys2Proof.Machine.execAttestationDoneWrite cand k s
  | .mgmtRegisterRead msg => Sys2Proof.Machine.execMgmtRegisterRead msg s
  | .mgmtRegisterWrite msg => Sys2Proof.Machine.execMgmtRegisterWrite msg s
  | .mgmtBlockWrite msg => Sys2Proof.Machine.execMgmtBlockWrite msg s
  | .firmwareStage msg => Sys2Proof.Machine.execFirmwareStage msg s
  | .firmwareCommit msg => Sys2Proof.Machine.execFirmwareCommit msg s
  | .crread h off => Sys2Proof.Machine.execCrread h off s
  | .crwrite h off val => Sys2Proof.Machine.execCrwrite h off val s
  | .crreply h status val => Sys2Proof.Machine.execCrreply h status val s
  | .controlRegisterWrite cand sock off val => Sys2Proof.Machine.execControlRegisterWrite cand sock off val s
  | .create cand ctx val => Sys2Proof.Machine.execCreate cand ctx val s
  | .destroy cand ctx val => Sys2Proof.Machine.execDestroy cand ctx val s
  | .ctxUnparkAll cand ctx => Sys2Proof.Machine.execCtxUnparkAll cand ctx s
  | .ctxPreemptWrite cand ctx val => Sys2Proof.Machine.execCtxPreemptWrite cand ctx val s
  | .ctxResumeWrite cand ctx val => Sys2Proof.Machine.execCtxResumeWrite cand ctx val s
  | .dispCancelWrite cand ctx val => Sys2Proof.Machine.execDispCancelWrite cand ctx val s
  | .ctxDiescrWrite cand die ctx val => Sys2Proof.Machine.execCtxDiescrWrite cand die ctx val s
  | .linkCtlRetrain cand lk => Sys2Proof.Machine.execLinkCtlRetrain cand lk s
  | .linkCtlClrcnt cand lk => Sys2Proof.Machine.execLinkCtlClrcnt cand lk s
  | .timeCtlApply cand sock => Sys2Proof.Machine.execTimeCtlApply cand sock s
  | .opcapWrite cand die val => Sys2Proof.Machine.execOpcapWrite cand die val s
  | .pwrPkgcapWrite cand val => Sys2Proof.Machine.execPwrPkgcapWrite cand val s
  | .powerWindow avgW => Sys2Proof.Machine.execPowerWindow avgW s
  | .thermalSample die temp => Sys2Proof.Machine.execThermalSample die temp s
  | .passengerFatalError sock cause detail => Sys2Proof.Machine.execPassengerFatalError sock cause detail s
  | .evqHeadWrite cand val => Sys2Proof.Machine.execEvqHeadWrite cand val s
  | .evqLogackWrite cand sock val => Sys2Proof.Machine.execEvqLogackWrite cand sock val s
  | .flitCloseTimeout lk => Sys2Proof.Machine.execFlitCloseTimeout lk s
  | .dataFlitReceive lk flit => Sys2Proof.Machine.execDataFlitReceive lk flit s
  | .controlFlitReceive lk flit => Sys2Proof.Machine.execControlFlitReceive lk flit s
  | .ackTimeout lk => Sys2Proof.Machine.execAckTimeout lk s
  | .replayTimeout lk => Sys2Proof.Machine.execReplayTimeout lk s
  | .nakRepeat lk => Sys2Proof.Machine.execNakRepeat lk s
  | .retrainDone lk fail => Sys2Proof.Machine.execRetrainDone lk fail s
  | .retrainFailed lk fail => Sys2Proof.Machine.execRetrainFailed lk fail s
  | .podPacketArrival port p => Sys2Proof.Machine.execPodPacketArrival port p s
  | .read h b => Sys2Proof.Machine.execRead h b s
  | .write h b => Sys2Proof.Machine.execWrite h b s
  | .atomic h b => Sys2Proof.Machine.execAtomic h b s
  | .coll h b => Sys2Proof.Machine.execColl h b s
  | .collres h b => Sys2Proof.Machine.execCollres h b s
  | .data h status bytes => Sys2Proof.Machine.execData h status bytes s
  | .ack h status => Sys2Proof.Machine.execAck h status s
  | .old h status val => Sys2Proof.Machine.execOld h status val s
  | .deferredFault acc => Sys2Proof.Machine.execDeferredFault acc s
  | .permreq h va ts => Sys2Proof.Machine.execPermreq h va ts s
  | .permreply h b => Sys2Proof.Machine.execPermreply h b s
  | .ready h page sz => Sys2Proof.Machine.execReady h page sz s
  | .unpark h => Sys2Proof.Machine.execUnpark h s
  | .launchTokenWrite addr bytes => Sys2Proof.Machine.execLaunchTokenWrite addr bytes s
  | .token h q tok => Sys2Proof.Machine.execToken h q tok s
  | .tokenForwardTimeout q => Sys2Proof.Machine.execTokenForwardTimeout q s
  | .notice h g q cw lo => Sys2Proof.Machine.execNotice h g q cw lo s
  | .recpart h g hi => Sys2Proof.Machine.execRecpart h g hi s
  | .podseq h n => Sys2Proof.Machine.execPodseq h n s
  | .health h mask => Sys2Proof.Machine.execHealth h mask s
  | .rangereq h g => Sys2Proof.Machine.execRangereq h g s
  | .mirrorack h g first => Sys2Proof.Machine.execMirrorack h g first s
  | .range h b => Sys2Proof.Machine.execRange h b s
  | .retire h b => Sys2Proof.Machine.execRetire h b s
  | .sweep h g n => Sys2Proof.Machine.execSweep h g n s
  | .sweepreply h b => Sys2Proof.Machine.execSweepreply h b s
  | .cancel h g => Sys2Proof.Machine.execCancel h g s
  | .barrier h b => Sys2Proof.Machine.execBarrier h b s
  | .stealRound die g => Sys2Proof.Machine.execStealRound die g s
  | .stealRoundWaitExpiry die g => Sys2Proof.Machine.execStealRoundWaitExpiry die g s
  | .stealreq h g => Sys2Proof.Machine.execStealreq h g s
  | .grant h g k => Sys2Proof.Machine.execGrant h g k s
  | .stealrec h g pos record => Sys2Proof.Machine.execStealrec h g pos record s
  | .refuse h g => Sys2Proof.Machine.execRefuse h g s
  | .stealack h g k => Sys2Proof.Machine.execStealack h g k s
  | .enqArrival h b => Sys2Proof.Machine.execEnqArrival h b s
  | .enqack h r g => Sys2Proof.Machine.execEnqack h r g s
  | .credit h r g => Sys2Proof.Machine.execCredit h r g s
  | .bounce h b => Sys2Proof.Machine.execBounce h b s
  | .execWrite c => Sys2Proof.Machine.execExecWrite c s
  | .nestWrite c => Sys2Proof.Machine.execNestWrite c s
  | .crewMergeWrite c => Sys2Proof.Machine.execCrewMergeWrite c s
  | .crewScrchkClrlog cand c => Sys2Proof.Machine.execCrewScrchkClrlog cand c s
  | .nop c => Sys2Proof.Machine.execNop c s
  | .iadd c => Sys2Proof.Machine.execIadd c s
  | .isub c => Sys2Proof.Machine.execIsub c s
  | .iadds c => Sys2Proof.Machine.execIadds c s
  | .isubs c => Sys2Proof.Machine.execIsubs c s
  | .imul c => Sys2Proof.Machine.execImul c s
  | .imulh c => Sys2Proof.Machine.execImulh c s
  | .imad c => Sys2Proof.Machine.execImad c s
  | .imulq c => Sys2Proof.Machine.execImulq c s
  | .iabs c => Sys2Proof.Machine.execIabs c s
  | .imin c => Sys2Proof.Machine.execImin c s
  | .imax c => Sys2Proof.Machine.execImax c s
  | .ineg c => Sys2Proof.Machine.execIneg c s
  | .ishl c => Sys2Proof.Machine.execIshl c s
  | .ishr c => Sys2Proof.Machine.execIshr c s
  | .ishra c => Sys2Proof.Machine.execIshra c s
  | .andb c => Sys2Proof.Machine.execAndb c s
  | .orb c => Sys2Proof.Machine.execOrb c s
  | .xorb c => Sys2Proof.Machine.execXorb c s
  | .notb c => Sys2Proof.Machine.execNotb c s
  | .andn c => Sys2Proof.Machine.execAndn c s
  | .bsel c => Sys2Proof.Machine.execBsel c s
  | .popc c => Sys2Proof.Machine.execPopc c s
  | .clz c => Sys2Proof.Machine.execClz c s
  | .ctz c => Sys2Proof.Machine.execCtz c s
  | .brev c => Sys2Proof.Machine.execBrev c s
  | .bfx c => Sys2Proof.Machine.execBfx c s
  | .bfi c => Sys2Proof.Machine.execBfi c s
  | .isetp c => Sys2Proof.Machine.execIsetp c s
  | .mov c => Sys2Proof.Machine.execMov c s
  | .movi c => Sys2Proof.Machine.execMovi c s
  | .sel c => Sys2Proof.Machine.execSel c s
  | .cvti c => Sys2Proof.Machine.execCvti c s
  | .lea c => Sys2Proof.Machine.execLea c s
  | .setix c => Sys2Proof.Machine.execSetix c s
  | .bra c => Sys2Proof.Machine.execBra c s
  | .brx c => Sys2Proof.Machine.execBrx c s
  | .call c => Sys2Proof.Machine.execCall c s
  | .ret c => Sys2Proof.Machine.execRet c s
  | .exit c => Sys2Proof.Machine.execExit c s
  | .ifb c => Sys2Proof.Machine.execIfb c s
  | .elseb c => Sys2Proof.Machine.execElseb c s
  | .endif c => Sys2Proof.Machine.execEndif c s
  | .if3 c => Sys2Proof.Machine.execIf3 c s
  | .elsef c => Sys2Proof.Machine.execElsef c s
  | .elseu c => Sys2Proof.Machine.execElseu c s
  | .endif3 c => Sys2Proof.Machine.execEndif3 c s
  | .loopb c => Sys2Proof.Machine.execLoopb c s
  | .brk c => Sys2Proof.Machine.execBrk c s
  | .cont c => Sys2Proof.Machine.execCont c s
  | .endloop c => Sys2Proof.Machine.execEndloop c s
  | .mrg c => Sys2Proof.Machine.execMrg c s
  | .rgn c => Sys2Proof.Machine.execRgn c s
  | .pand c => Sys2Proof.Machine.execPand c s
  | .por c => Sys2Proof.Machine.execPor c s
  | .pxor c => Sys2Proof.Machine.execPxor c s
  | .pnot c => Sys2Proof.Machine.execPnot c s
  | .pdec c => Sys2Proof.Machine.execPdec c s
  | .pmov c => Sys2Proof.Machine.execPmov c s
  | .dqpop c => Sys2Proof.Machine.execDqpop c s
  | .dqbr c => Sys2Proof.Machine.execDqbr c s
  | .shfl c => Sys2Proof.Machine.execShfl c s
  | .vote c => Sys2Proof.Machine.execVote c s
  | .redi c => Sys2Proof.Machine.execRedi c s
  | .scani c => Sys2Proof.Machine.execScani c s
  | .rdlane c => Sys2Proof.Machine.execRdlane c s
  | .wrlane c => Sys2Proof.Machine.execWrlane c s
  | .sop c => Sys2Proof.Machine.execSop c s
  | .smovi c => Sys2Proof.Machine.execSmovi c s
  | .sbr c => Sys2Proof.Machine.execSbr c s
  | .floop c => Sys2Proof.Machine.execFloop c s
  | .dqpush c => Sys2Proof.Machine.execDqpush c s
  | .fend c => Sys2Proof.Machine.execFend c s
  | .fadd c => Sys2Proof.Machine.execFadd c s
  | .fsub c => Sys2Proof.Machine.execFsub c s
  | .fmul c => Sys2Proof.Machine.execFmul c s
  | .ffma c => Sys2Proof.Machine.execFfma c s
  | .fsqr c => Sys2Proof.Machine.execFsqr c s
  | .fhull c => Sys2Proof.Machine.execFhull c s
  | .fisect c => Sys2Proof.Machine.execFisect c s
  | .flb c => Sys2Proof.Machine.execFlb c s
  | .fub c => Sys2Proof.Machine.execFub c s
  | .fmid c => Sys2Proof.Machine.execFmid c s
  | .frad c => Sys2Proof.Machine.execFrad c s
  | .fwid c => Sys2Proof.Machine.execFwid c s
  | .fmag c => Sys2Proof.Machine.execFmag c s
  | .fmig c => Sys2Proof.Machine.execFmig c s
  | .fmk c => Sys2Proof.Machine.execFmk c s
  | .fbis c => Sys2Proof.Machine.execFbis c s
  | .fcmp c => Sys2Proof.Machine.execFcmp c s
  | .fneg c => Sys2Proof.Machine.execFneg c s
  | .fabs c => Sys2Proof.Machine.execFabs c s
  | .fmin c => Sys2Proof.Machine.execFmin c s
  | .fmax c => Sys2Proof.Machine.execFmax c s
  | .fdiv c => Sys2Proof.Machine.execFdiv c s
  | .fdivp c => Sys2Proof.Machine.execFdivp c s
  | .fsqrt c => Sys2Proof.Machine.execFsqrt c s
  | .frcp c => Sys2Proof.Machine.execFrcp c s
  | .frsqrt c => Sys2Proof.Machine.execFrsqrt c s
  | .fexp2 c => Sys2Proof.Machine.execFexp2 c s
  | .flog2 c => Sys2Proof.Machine.execFlog2 c s
  | .fsinpi c => Sys2Proof.Machine.execFsinpi c s
  | .fcospi c => Sys2Proof.Machine.execFcospi c s
  | .ftanh c => Sys2Proof.Machine.execFtanh c s
  | .fpown c => Sys2Proof.Machine.execFpown c s
  | .fcvt c => Sys2Proof.Machine.execFcvt c s
  | .fcoll c => Sys2Proof.Machine.execFcoll c s
  | .fq8 c => Sys2Proof.Machine.execFq8 c s
  | .ld c => Sys2Proof.Machine.execLd c s
  | .st c => Sys2Proof.Machine.execSt c s
  | .atom c => Sys2Proof.Machine.execAtom c s
  | .cas c => Sys2Proof.Machine.execCas c s
  | .atomFadd c => Sys2Proof.Machine.execAtomFadd c s
  | .atomFmaxa c => Sys2Proof.Machine.execAtomFmaxa c s
  | .amaxswap c => Sys2Proof.Machine.execAmaxswap c s
  | .fence c => Sys2Proof.Machine.execFence c s
  | .fenceDrain c => Sys2Proof.Machine.execFenceDrain c s
  | .bar c => Sys2Proof.Machine.execBar c s
  | .arrive c => Sys2Proof.Machine.execArrive c s
  | .await c => Sys2Proof.Machine.execAwait c s
  | .rmcast c => Sys2Proof.Machine.execRmcast c s
  | .rred c => Sys2Proof.Machine.execRred c s
  | .cpy c => Sys2Proof.Machine.execCpy c s
  | .cpyg c => Sys2Proof.Machine.execCpyg c s
  | .cpys c => Sys2Proof.Machine.execCpys c s
  | .cpyAdd c => Sys2Proof.Machine.execCpyAdd c s
  | .qfence c => Sys2Proof.Machine.execQfence c s
  | .emit c => Sys2Proof.Machine.execEmit c s
  | .split c => Sys2Proof.Machine.execSplit c s
  | .tend c => Sys2Proof.Machine.execTend c s
  | .enq c => Sys2Proof.Machine.execEnq c s
  | .enqA c => Sys2Proof.Machine.execEnqA c s
  | .launch c => Sys2Proof.Machine.execLaunch c s
  | .gcancel c => Sys2Proof.Machine.execGcancel c s
  | .gstatus c => Sys2Proof.Machine.execGstatus c s
  | .jpass c => Sys2Proof.Machine.execJpass c s
  | .jbit c => Sys2Proof.Machine.execJbit c s
  | .jstream c => Sys2Proof.Machine.execJstream c s
  | .jbatch c => Sys2Proof.Machine.execJbatch c s
  | .jwait c => Sys2Proof.Machine.execJwait c s
  | .jdrain c => Sys2Proof.Machine.execJdrain c s
  | .jcfg c => Sys2Proof.Machine.execJcfg c s
  | .jclr c => Sys2Proof.Machine.execJclr c s
  | .jqry c => Sys2Proof.Machine.execJqry c s
  | .jsave c => Sys2Proof.Machine.execJsave c s
  | .jload c => Sys2Proof.Machine.execJload c s
  | .csrr c => Sys2Proof.Machine.execCsrr c s
  | .csrw c => Sys2Proof.Machine.execCsrw c s
  | .bkpt c => Sys2Proof.Machine.execBkpt c s
  | .strap c => Sys2Proof.Machine.execStrap c s
  | .tretResume c => Sys2Proof.Machine.execTretResume c s
  | .tretSkip c => Sys2Proof.Machine.execTretSkip c s
  | .tretWriteSkip c => Sys2Proof.Machine.execTretWriteSkip c s
  | .tretRetryRegion c => Sys2Proof.Machine.execTretRetryRegion c s
  | .tretKillLanes c => Sys2Proof.Machine.execTretKillLanes c s
  | .tretKillBand c => Sys2Proof.Machine.execTretKillBand c s
  | .event h record => Sys2Proof.Machine.execEvent h record s
  | .startStepComplete ok => Sys2Proof.Machine.execStartStepComplete ok s
  | .powerOn => Sys2Proof.Machine.execPowerOn s
  | .startStepTimeout => Sys2Proof.Machine.execStartStepTimeout s
  | .claimWindowClose => Sys2Proof.Machine.execClaimWindowClose s
  | .handoverTimeout => Sys2Proof.Machine.execHandoverTimeout s
  | .attestationReportDone => Sys2Proof.Machine.execAttestationReportDone s
  | .tokenTake => Sys2Proof.Machine.execTokenTake s
  | .flashWriteDone => Sys2Proof.Machine.execFlashWriteDone s
  | .palLeaseExpiry => Sys2Proof.Machine.execPalLeaseExpiry s
  | .crewRetire => Sys2Proof.Machine.execCrewRetire s
  | .bandFormation => Sys2Proof.Machine.execBandFormation s
  | .flushAgeExpiry => Sys2Proof.Machine.execFlushAgeExpiry s
  | .take => Sys2Proof.Machine.execTake s
  | .activeSetReplacement => Sys2Proof.Machine.execActiveSetReplacement s
  | .mrgWaitExpiry => Sys2Proof.Machine.execMrgWaitExpiry s
  | .multicastWindowClose => Sys2Proof.Machine.execMulticastWindowClose s
  | .trapEntry => Sys2Proof.Machine.execTrapEntry s
  | .spmaxOverrun => Sys2Proof.Machine.execSpmaxOverrun s
  | .crewSave => Sys2Proof.Machine.execCrewSave s
  | .quarterOperation => Sys2Proof.Machine.execQuarterOperation s
  | .bitmapStep => Sys2Proof.Machine.execBitmapStep s
  | .streamJoin => Sys2Proof.Machine.execStreamJoin s
  | .drainOperation => Sys2Proof.Machine.execDrainOperation s
  | .drainComplete => Sys2Proof.Machine.execDrainComplete s
  | .placementRound => Sys2Proof.Machine.execPlacementRound s
  | .spillPageReturn => Sys2Proof.Machine.execSpillPageReturn s
  | .opPointChangeDone => Sys2Proof.Machine.execOpPointChangeDone s
  | .map => Sys2Proof.Machine.execMap s
  | .unmap => Sys2Proof.Machine.execUnmap s
  | .unmapWaitExpiry => Sys2Proof.Machine.execUnmapWaitExpiry s
  | .setp => Sys2Proof.Machine.execSetp s
  | .copyCommandStart => Sys2Proof.Machine.execCopyCommandStart s
  | .copyCommandComplete => Sys2Proof.Machine.execCopyCommandComplete s
  | .batchComplete => Sys2Proof.Machine.execBatchComplete s
  | .cpyCtlReset => Sys2Proof.Machine.execCpyCtlReset s
  | .cpyCtlClrerr => Sys2Proof.Machine.execCpyCtlClrerr s

end Sys2Proof.Machine
end

