-- ==== Sys2Proof/Machine/Sched.lean ====
section
/-!
DEFINITION. Which of the package's agents moves next, log 2: the agenda, and what happens when it is empty; the passing of time,
R19 and R27; the delivery of packets, R43.
-/
namespace Sys2Proof.Machine

/-! ## Packets arrive: R35 and R43 -/

/-- The step that a packet is at its destination. -/
def Packet.instr (p : Packet) : Instr :=
  let h := p.hdr
  match p.body with
  | .read b => .read h b
  | .write b => .write h b
  | .atomic b => .atomic h b
  | .coll b => .coll h b
  | .data st bs => .data h st bs
  | .ack st => .ack h st
  | .old st v => .old h st v
  | .collres b => .collres h b
  | .enq b => .enqArrival h b
  | .enqack r g => .enqack h r g
  | .credit r g => .credit h r g
  | .bounce b => .bounce h b
  | .stealreq g => .stealreq h g
  | .grant g k => .grant h g k
  | .stealrec g pos r => .stealrec h g pos r
  | .refuse g => .refuse h g
  | .stealack g k => .stealack h g k
  | .token q tok => .token h q tok
  | .notice g q cw lo => .notice h g q cw lo
  | .recpart g hi => .recpart h g hi
  | .rangereq g => .rangereq h g
  | .range b => .range h b
  | .retire b => .retire h b
  | .mirrorack g first => .mirrorack h g first
  | .sweep g n => .sweep h g n
  | .sweepreply b => .sweepreply h b
  | .cancel g => .cancel h g
  | .barrier b => .barrier h b
  | .permreq va ts => .permreq h va ts
  | .permreply b => .permreply h b
  | .ready page sz => .ready h page sz
  | .unpark => .unpark h
  | .crread off => .crread h off
  | .crwrite off val => .crwrite h off val
  | .crreply st v => .crreply h st v
  | .event r => .event h r
  | .health m => .health h m
  | .podseq n => .podseq h n

/-- A compute die runs. -/
def State.dieRuns (s : State) (d : Nat) : Bool := s.healthy d && !(s.dieOf d).stopped

/-- The package is in safe mode: only the management path, the entropy source, and the registers of R66 have power. -/
def State.inSafeMode (s : State) : Bool := s.host.start.kind == .safe

/-- A passenger takes packets. -/
def State.takesPackets (s : State) (sock : Nat) : Bool :=
  !s.inSafeMode && if sock < 8 then s.dieRuns sock else s.healthy sock || sock == 24

/-- A steal request comes to a die in a cycle in which a crew has taken records from the ring: it is served before the take, or in a
later cycle, R142. -/
def State.tooLate (s : State) (p : Packet) : Bool :=
  match p.body with
  | .stealreq g => (s.gridDie p.hdr.dstSock.toNat g).takenAt == some (s.cyc p.hdr.dstSock.toNat)
  | _ => false

/-- A packet has come to its passenger; one that is not healthy loses it. -/
def State.arrives (s : State) (p : Packet) : State × Option Instr :=
  (s, if s.takesPackets p.hdr.dstSock.toNat then some (Packet.instr p) else none)

/-- The packet at a place in flight arrives, if it is the first of its route; one of virtual channel 3 begins its way along
the ring. DESIGN CHOICE, log 16. -/
def State.deliver (s : State) (n : Nat) : State × Option Instr :=
  match s.net[n]? with
  | none => (s, none)
  | some p =>
    if (s.net.take n).any fun q => Packet.sameRoute q p then (s, none)
    else if s.tooLate p then (s, none)
    else
      let s1 := { s with net := s.net.eraseIdx n }
      let from_ := s.ringJoin p.hdr.srcSock.toNat
      if Packet.onRing p && from_ != s.ringEnd p then ({ s1 with ring := s.ring ++ [(s.ringNext from_ (s.ringEnd p), p)] }, none)
      else if Packet.onRing p && s.ring.any fun x => Packet.sameRoute x.2 p then (s, none)
      else s1.arrives p

/-- The packet at a place on the ring makes its next hop, or leaves the ring at its end; never past an older one of its
route, R43 and R49. -/
def State.hop (s : State) (n : Nat) : State × Option Instr :=
  match s.ring[n]? with
  | none => (s, none)
  | some (d, p) =>
    let older := (s.ring.take n).filter fun x => Packet.sameRoute x.2 p
    if d = s.ringEnd p then
      (if older.isEmpty && !s.tooLate p then { s with ring := s.ring.eraseIdx n }.arrives p else (s, none))
    else if older.any fun x => x.1 == d then (s, none)
    else ({ s with ring := s.ring.set n (s.ringNext d (s.ringEnd p), p) }, none)

/-! ## Time passes: R19, R27 and R42 -/

/-- MHz of an operating point, Table 1.4. -/
def pointMHz (p : BitVec 3) : Nat := 450 + 50 * p.toNat

/-- Cycles of a die in some reference periods. -/
def Die.elapse (x : Die) (periods : Nat) : Die :=
  let f := x.frac + periods * pointMHz x.pwr.cur
  if x.stopped then x else { x with cyc := x.cyc + f / 1000, frac := f % 1000 }

/-- One link cycle of a replay: at half width a flit takes two, R31. -/
def Link.cycle (l : Link) (now : Nat) : Link := if l.regs.width = 1 ∧ now % 2 = 1 then l else l.replayStep now

/-- Link cycles of a replay in some reference periods. -/
def Link.elapse (l : Link) (now periods : Nat) : Link :=
  if l.tx.st = .replay then (List.range (min periods (2 * l.tx.resend + 2))).foldl (fun (l : Link) i => l.cycle (now + i + 1)) l else l

/-- The cores that hold anything, by die. -/
def State.coreList (s : State) : List (Nat × Nat) := s.dies.flatMap fun d => d.2.cores.map fun c => (d.1, c.1)

/-! ## Eligibility: R158, R165 and R167 -/

/-- Between two states a thread has got on with its instruction: it has issued it or part of it, trapped or ended. -/
def State.gotOn (s u : State) (t : ThreadRef) : Bool :=
  match s.thread t, u.thread t with
  | some b, some b1 =>
    b1.x.lastIssue != b.x.lastIssue || b1.pending != b.pending || b1.trapPriv != b.trapPriv || b1.running != b.running ||
      b1.parked != b.parked || (match b1.x.phase with | .sending _ _ => b1.x.phase != b.x.phase | _ => false)
  | some _, none => true
  | none, _ => false

/-- Between two states a thread's instruction has asked for what it lacks: for permissions or bytes by packets, for a page, or,
as a `JWAIT` does, for an operation to go on. -/
def State.hasAsked (s u : State) (t : ThreadRef) : Bool :=
  (u.dieOf t.die).tags.length != (s.dieOf t.die).tags.length ||
    (u.dieOf t.die).disp.pageWait.length != (s.dieOf t.die).disp.pageWait.length ||
    (u.coreOf t.die t.core).jq != (s.coreOf t.die t.core).jq

/-- The instruction issues here, or asks for what it lacks; or it waits at issue. -/
def State.issues (s : State) (t : ThreadRef) (i : Instr) : Bool :=
  match exec i { s with cur := t } with
  | .next u => s.gotOn u t || s.hasAsked u t
  | _ => true

/-- A thread is eligible, in the set or not: its next instruction is at hand and nothing holds it. DEDUCED, log 51. -/
def State.eligible (s : State) (t : ThreadRef) : Bool :=
  match s.nextIf t false with
  | .run d => s.issues t d.instr
  | .trap _ _ => true
  | .fault _ => true
  | _ => false

/-- What a thread is at the end of a cycle. -/
def State.noteReady (s : State) (t : ThreadRef) : State :=
  match s.thread t with
  | some b =>
    if t.band.isNone || !b.running || s.eligible t == b.x.ready then s
    else s.setThread t { b with x := { b.x with ready := !b.x.ready, since := s.cyc t.die } }
  | none => s

/-- A front context of the core comes first in the round robin from the one that issued last, and could issue, R158. -/
def State.frontBlocked (s : State) (t : ThreadRef) : Bool :=
  let last := (s.coreOf t.die t.core).sel.frontLast
  let place := fun (slot : Nat) => (slot + 4095 - last) % 4096
  t.band.isNone && (s.coreOf t.die t.core).crews.any fun w =>
    decide (place w.1 < place t.slot) && s.eligible { t with slot := w.1 }

/-! ## Collection: R176 -/

/-- The cycle at which a band may issue an instruction that collects its sources in more than one cycle, if its collection has begun;
and whether it has one. -/
def State.collecting (s : State) (t : ThreadRef) (i : Instr) : Bool × Option Nat :=
  match t.band, s.thread t, i.code with
  | some _, some b0, some (opc, c) =>
    let b := s.issuing t b0
    let sel := (s.coreOf t.die t.core).sel
    let k := if b.x.half = 1 then 1 else 0
    (decide (1 < collectCycles opc c b), if sel.holds t k then (sel.held k).map fun h => h.2.2 else none)
  | _, _, _ => (false, none)

/-- A band begins to collect: no other band issues on its halves until it issues itself. -/
def State.collect (s : State) (t : ThreadRef) (i : Instr) : State :=
  match t.band, s.thread t, i.code with
  | some k, some b0, some (opc, c) =>
    let b := s.issuing t b0
    let h := some (t.slot, k, s.cyc t.die + collectCycles opc c b - 1)
    s.updCore t.die t.core fun x => { x with sel := { x.sel with
      held0 := if b.x.half = 1 then x.sel.held0 else h, held1 := if b.x.half = 0 then x.sel.held1 else h } }
  | _, _, _ => s

/-- A picked thread runs its instruction, once its sources are collected. -/
def State.issue (s : State) (t : ThreadRef) (i : Instr) : Out :=
  match s.collecting t i, exec i s with
  | (true, none), .next u => if s.gotOn u t then .next (s.collect t i) else .next u
  | (true, some at_), .next u => if decide (s.cyc t.die < at_) && s.gotOn u t then .next s else .next u
  | _, o => o

/-- Reference periods pass: what is eligible is recorded, clocks run, replays go on, leases end, and ends of other packages' grids become known. -/
def State.elapse (s0 : State) (periods : Nat) : State :=
  let s := (s0.coreList.flatMap fun c => s0.threadsAt c.1 c.2).foldl (fun (s : State) t => s.noteReady t) s0
  let s1 := { s with
    time := s.time + periods,
    dies := s.dies.map fun (d : Nat × Die) => (d.1, d.2.elapse periods),
    links := if s.inSafeMode then s.links else s.links.map fun (l : Nat × Link) => (l.1, l.2.elapse s.time periods) }
  (s1.coreList.foldl (fun (s : State) c => s.palExpire c.1 c.2) s1).serveFar

/-! ## Turns -/

/-- An event that happens on the compute die of `cur`. -/
def Instr.onDie : Instr → Bool
  | .opPointChangeDone | .placementRound | .spillPageReturn | .crewRetire | .bandFormation | .flushAgeExpiry | .take
  | .activeSetReplacement | .mrgWaitExpiry | .multicastWindowClose | .trapEntry | .spmaxOverrun | .crewSave | .quarterOperation
  | .bitmapStep | .streamJoin | .drainOperation | .drainComplete | .copyCommandStart | .copyCommandComplete | .batchComplete
  | .palLeaseExpiry | .deferredFault _ => true
  | _ => false

/-- An event that safe mode leaves possible, R66: power, the management port and its agent, the nonce, ownership and firmware. -/
def Instr.inSafe : Instr → Bool
  | .powerOn | .mgmtRegisterRead .. | .mgmtRegisterWrite .. | .mgmtBlockWrite .. | .firmwareStage .. | .firmwareCommit ..
  | .controlRegisterWrite .. | .bootCtlCold _ | .bootCtlWarm _ | .claim _ | .handoverRelease _ | .handoverAccept _
  | .attestationRequest _ | .attestationDoneWrite _ _ | .attestationReportDone | .claimWindowClose | .handoverTimeout
  | .flashWriteDone => true
  | _ => false

/-- An event may happen at a unit: no instruction is one, its die runs, and what acts has power. -/
def State.mayHappen (s : State) (at_ : ThreadRef) (i : Instr) : Bool :=
  i.code.isNone && (!Instr.onDie i || s.dieRuns at_.die) && (!s.inSafeMode || Instr.inSafe i)

/-! ## Stores of the host complex: R53 to R55 and R62 -/

/-- First byte of the control-register windows. -/
def windowBase : Nat := 0x7F0000000000

/-- A byte of host memory lies in the event queue: its ring or its fatal slots, R73. -/
def State.inEvq (s : State) (pa : Nat) : Bool :=
  let base := s.host.evq.base.toNat
  (decide (base ≤ pa) && decide (pa < base + 0x4000)) || (decide (base + 0x4000 ≤ pa) && decide (pa < base + 0x4000 + 64 * 26))

/-- A store of the host complex: to its partition, to a window, or to the enqueue apertures. A peripheral reaches no window.
While the host complex is not the owner its stores to the event queue are dropped and counted, R62. DESIGN CHOICE, log 87. -/
def State.hostStore (s : State) (peripheral : Bool) (pa : Nat) (bs : List Byte) : State × Option Instr :=
  if windowBase ≤ pa ∧ pa < windowBase + 26 * 2 ^ 24 then
    let off := (pa - windowBase) % 2 ^ 24
    (s, if peripheral || bs.length != 8 || off % 8 != 0 then none
        else some (.controlRegisterWrite 0 (BitVec.ofNat 5 ((pa - windowBase) / 2 ^ 24)) (BitVec.ofNat 64 off) (BitVec.ofNat 64 (leNat bs))))
  else if pa < s.host.boot.hostPlaced * 2 ^ 30 then
    (if !s.owns 0 && (List.range bs.length).any fun i => s.inEvq (pa + i) then (s.denied, none) else (s.hostWrite pa bs, none))
  else (s, some (.launchTokenWrite (BitVec.ofNat 64 pa) bs))

/-- A load of the host complex: its partition's bytes, or a register of a window, R53 and R55. -/
def State.hostLoad (s : State) (pa n : Nat) : List Byte :=
  if windowBase ≤ pa ∧ pa < windowBase + 26 * 2 ^ 24 then
    let off := (pa - windowBase) % 2 ^ 24
    if n = 8 ∧ off % 8 = 0 then leBytes 8 (s.regRead 0 ((pa - windowBase) / 2 ^ 24) off).2.toNat else List.replicate n 0
  else s.hostRead pa n

/-- A result of variable latency reaches its registers, or a write its control register. DESIGN CHOICE, log 55. -/
def State.landNow (s : State) (t : ThreadRef) (id : Nat) : State :=
  match s.thread t with
  | some b =>
    match b.pends.find? fun p => p.id == id && p.ready.isNone with
    | some p =>
      let s1 := { s.setThread t (b.land (s.cyc t.die) s.free p) with free := s.free + 65 }
      match p.csr with | some w => s1.performCsr t.crew w | none => s1
    | none => s
  | none => s

/-- What a turn does before the meaning of a step, and the step, if there is one. An instruction runs only where it is fetched. -/
def State.turn (s : State) : Turn → State × Option Instr
  | .event at_ unit i =>
    if s.mayHappen at_ i then ({ s with cur := at_, unit := unit }, some i) else (s, none)
  | .issue t => if s.dieRuns t.die && !s.frontBlocked t then s.pick t else (s, none)
  | .deliver n => s.deliver n
  | .send t acc piece => (if s.dieRuns t.die then s.sendPiece t acc piece else s, none)
  | .land t id => (if s.dieRuns t.die then s.landNow t id else s, none)
  | .elapse n => (s.elapse n, none)
  | .offer lk p => (if s.inSafeMode then s else s.offer lk p, none)
  | .hop n => s.hop n
  | .unload lk vc => (if s.inSafeMode then s else s.unload lk vc, none)
  | .podOffer n => (if s.inSafeMode then s else s.podOffer n, none)
  | .idle lk => (if s.inSafeMode then s else s.updLink lk fun l => l.idle s.time, none)
  | .peerRetrain lk byCtl => (if s.inSafeMode then s else s.updLink lk fun l => l.peerRetrain byCtl, none)
  | .host peripheral pa bs => if s.inSafeMode then (s, none) else s.hostStore peripheral pa.toNat bs

/-- A step, with what comes before it. -/
def State.runTurn (s : State) (t : Turn) : Out :=
  match s.turn t, t with
  | (s1, none), _ => .next s1
  | (s1, some i), .issue th => s1.issue th i
  | (s1, some i), _ => exec i s1

/-! ## When the agenda is empty: log 2 -/

/-- The parts of a thread's accesses that are still held. -/
def Band.held (b : Band) (t : ThreadRef) : List Turn :=
  b.accs.flatMap fun a => ((List.range a.pieces.length).filter fun i => b.canSend a i).map fun i => .send t a.id i

def Band.landing (b : Band) (t : ThreadRef) : List Turn :=
  (b.pends.filter fun p => p.ready.isNone).map fun p => .land t p.id

/-- Events that a thread may meet. -/
def Band.events (b : Band) (t : ThreadRef) : List Turn :=
  (b.accs.map fun a => Turn.event t 0 (.deferredFault a.id)) ++
    [.event t 0 .trapEntry, .event t 0 .mrgWaitExpiry, .event t 0 .spmaxOverrun] ++
    (b.batchPend.map fun n => Turn.event t n.1 .batchComplete)

def crewEvents (t : ThreadRef) : List Turn :=
  [.event t 0 .bandFormation, .event t 0 .flushAgeExpiry, .event t 0 .take, .event t 0 .crewSave, .event t 0 .crewRetire]

def coreEvents (t : ThreadRef) : List Turn :=
  [.event t 0 .activeSetReplacement, .event t 0 .multicastWindowClose, .event t 0 .quarterOperation, .event t 0 .bitmapStep,
   .event t 0 .streamJoin, .event t 0 .drainOperation, .event t 0 .drainComplete] ++
    (List.range 4).flatMap fun n => [.event t n .copyCommandStart, .event t n .copyCommandComplete]

def Die.events (x : Die) (d : Nat) : List Turn :=
  let t : ThreadRef := { die := d, core := 0, slot := 0, band := none }
  [.event t 0 .opPointChangeDone, .event t 0 .placementRound] ++
    (x.ctxs.map fun c => Turn.event t c.1 .spillPageReturn) ++
    (x.disp.grids.flatMap fun g =>
      [.event t 0 (.stealRound d (BitVec.ofNat 48 g.1)), .event t 0 (.stealRoundWaitExpiry d (BitVec.ofNat 48 g.1))])

/-- The module or port of a key. -/
def linkOfKey (k : Nat) : LinkId := ⟨k / 64, k % 64 / 32 == 1, k % 32⟩

def State.hostEvents (s : State) : List Turn :=
  let e := fun (i : Instr) => Turn.event s.cur 0 i
  [e .claimWindowClose, e .handoverTimeout, e .startStepTimeout, e .attestationReportDone, e .flashWriteDone] ++
    (s.links.flatMap fun l =>
      let lk := linkOfKey l.1
      [e (.flitCloseTimeout lk), e (.ackTimeout lk), e (.replayTimeout lk), e (.nakRepeat lk)]) ++
    (s.ctrls.flatMap fun k =>
      [Turn.event s.cur k.1 .map, Turn.event s.cur k.1 .unmap, Turn.event s.cur k.1 .setp, Turn.event s.cur k.1 .unmapWaitExpiry]) ++
    (s.disp.queues.map fun q => Turn.event s.cur q.1 .tokenTake) ++
    (s.disp.forwarded.map fun f =>
      e (.tokenForwardTimeout { ctx := f.ctx, queue := BitVec.ofNat 6 f.queue, pos := BitVec.ofNat 36 f.pos }))

/-- The threads of the package. -/
def State.allThreads (s : State) : List ThreadRef := s.coreList.flatMap fun c => s.threadsAt c.1 c.2

/-- Puts a thread in its place by the key of R167, the greatest first. -/
def State.byKey (s : State) (t : ThreadRef) : List ThreadRef → List ThreadRef
  | [] => [t]
  | x :: xs => if s.key x < s.key t then t :: x :: xs else x :: s.byKey t xs

/-- Everything that may happen on the package's own account: packets, then accesses and results, then events, then issue. DESIGN CHOICE, log 54. -/
def State.own (s : State) : List Turn :=
  let ts := s.allThreads
  let each := fun (f : Band → ThreadRef → List Turn) => ts.flatMap fun t => match s.thread t with | some b => f b t | none => []
  let crews := s.coreList.flatMap fun c => (s.coreOf c.1 c.2).crews.map fun w =>
    ({ die := c.1, core := c.2, slot := w.1, band := none } : ThreadRef)
  (if s.net.isEmpty then [] else [.deliver 0]) ++ ((List.range s.ring.length).map Turn.hop) ++
    ((List.range s.host.podOut.length).map Turn.podOffer) ++
    (s.links.flatMap fun l => (List.range 6).filterMap fun vc =>
      if (l.2.rx.bufs.getD vc []).isEmpty then none else some (.unload (linkOfKey l.1) vc)) ++ each Band.held ++ each Band.landing ++ s.hostEvents ++
    (s.dies.flatMap fun d => d.2.events d.1) ++
    (s.coreList.flatMap fun c => coreEvents { die := c.1, core := c.2, slot := 0, band := none }) ++
    crews.flatMap crewEvents ++ each Band.events ++ (ts.foldl (fun l t => s.byKey t l) []).map Turn.issue

/-- A turn changes more than the names of the unit and the count of free choices. -/
def State.moves (s : State) (t : Turn) : Bool :=
  match s.runTurn t with
  | .next x => decide ({ x with cur := s.cur, unit := s.unit, free := s.free } ≠ s)
  | _ => true

/-- The turn that an empty agenda stands for: the first that moves, or the passing of a reference period. -/
def State.ownTurn (s : State) : Turn := (s.own.find? s.moves).getD (.elapse 1)

/-- The turn of this step, and the state with it taken from the agenda. -/
def State.nextTurn (s : State) : Turn × State :=
  match s.agenda with
  | t :: rest => (t, { s with agenda := rest })
  | [] => (s.ownTurn, s)

/-! ## Placing an instruction -/

/-- Where a placed instruction lies, and the thread that runs it. -/
def placedPc : Nat := 0x10000
def placedCtx : B6 := 1
/-- The handle of the crew that runs it: sequence number 1 of context 1. -/
def placedHandle : Handle := 0x101
def placedFrame : Nat := 2 ^ 30

/-- The crew that runs a placed instruction: one band of 32 lanes with every register slot, every allotment, and a front context. -/
def placedCrew (now : Nat) : Crew :=
  let cfg : CrewCfg :=
    { handle := placedHandle, lin := 0, bands := 1, width := 32, regs := 192, scrKB := 64, clusKB := 64, poolN := 64, caddy := 1024,
      caddyBase := 0, kbBase := 0, clusBase := [64], laneBase := 0, rank := 0, clw := 1, clh := 1, core0 := 0, prio := 0,
      taskBase := 0, trapVec := 0, bandPc := placedPc, nbv := 3, spmax := 0, rosters := [0], preUni := [] }
  { cfg := cfg,
    ctl := { mergePct := 25, scrchkLog := true, wlogCnt := 0, wlog := [], cpy := List.replicate 4 { bytes := 0, err := 0 },
             cancelled := false, killed := false, stopping := false, jHold := none, jsaved := [], collGens := [] },
    bands := [(0, cfg.startBand now none 0)], front := some (cfg.startFront now placedPc), dq := [], dqBase := 0, window := [],
    winNext := 0, tables := [], planned := [] }

/-- The grid of that crew: one crew, dealt to die 0, in one roster. -/
def placedGrid : Grid :=
  { handle := placedHandle, seq := 1, srcPkg := 0, queue := 0, pos := 0, utag := 0, doneVA := 0,
    launch := { hdr := 0, gx := 1, gy := 1, gz := 1, deal := 1, bands := 1, bandw := 32, regs := 192, scrKB := 64, clusKB := 64,
                poolN := 64, caddy := 1024, clw := 1, clh := 1, rost := 0, nrost := 1, preload := 0, spmax := 0, prio := 0, ophint := 7,
                podsc := false, replayLost := false, depStrict := false, mergePct := 25, scrchkLog := true, after := 0, pkgMask := 1,
                fsum := 0 },
    khdr := { frontPc := placedPc, bandPc := placedPc, trapVec := 0, pren := 0, taskBase := 0, dest := [] },
    rosters := [[0]],
    own := { OwnerSt.reset with
      st := .running, next := 1,
      ranges := [{ first := 0, count := 1, pkg := 0, die := 0, retired := false, lost := false, replayed := false }] },
    reason := 0, submitter := none }

/-- A page of code for context 1, a grid, and a crew of it that runs on core 0 of die 0: the load that stands for a launch, log 2. -/
def State.placeCode (s : State) (bs : List Byte) : State :=
  let attr : W16 := 0x010F#16
  let s1 := { s with host := { s.host with boot := { s.host.boot with healthy := s.host.boot.healthy ||| 1 } } }
  let s2 := s1.updCtx placedCtx.toNat fun x => { x with st := .active, mode := 0, place := 0 }
  let page : Mapping := { ctx := placedCtx, va := placedPc, attr := attr, frame := placedFrame, p := true, horizon := s.time + 1000,
                          unmapping := false }
  let s3 := s2.updCtrl (s2.stackOf placedCtx placedPc) fun k => { k with maps := page :: k.maps }
  let key := hbmKey (s2.stackOf placedCtx placedPc) (placedFrame + pieceOff 65536 4 placedPc)
  let s4 := s3.writeKey key (bs ++ List.replicate (24 - bs.length) 0)
  let grids := s4.disp.grids.set placedHandle.toNat { placedGrid with srcPkg := s.pkg }
  let s5 := { s4 with disp := { s4.disp with grids := grids } }.updDie 0 fun d =>
    let g := { GridDie.reset with involved := true, placed := true, exhausted := true, unretired := 1, ranges := [(0, 1, 0)] }
    { d with stopped := false, disp := { d.disp with grids := d.disp.grids.set placedHandle.toNat g } }
  s5.updCore 0 0 fun c => { c with
    crews := c.crews.set 0 (placedCrew (s.cyc 0)),
    sel := { c.sel with active := [(0, 0)], half0 := none, half1 := none, portAt := none, frontAt := none,
                        held0 := some (0, 0, s.cyc 0), held1 := none },
    pal := { ctx := placedCtx, page := placedPc, attr := attr, expiry := s.time + 1000, used := 0 } :: c.pal }

/-- A band decodes these bytes. -/
def bandDecodes (bs : List Byte) : Bool := match decode false bs with | .ok _ => true | .error _ => false

/-- The bytes are placed, and the next turn issues them: in the band, or in the front context where only that can. -/
def State.placeAndIssue (s : State) (bs : List Byte) : State :=
  let r : CrewRef := { die := 0, core := 0, slot := 0 }
  let t := if bandDecodes bs then r.band 0 else r.front
  { s.placeCode bs with agenda := [.issue t] }

end Sys2Proof.Machine
end

