-- ==== Sys2Proof/Machine/Step.lean ====
section
/-!
DEFINITION. One step of the package, and the placing of an instruction where the next step fetches it.
-/
namespace Sys2Proof.Machine

/-- One step: the turn that the agenda, or the package itself, has next. -/
def step (s : State) : Host.Outcome State Fault Refusal := s.nextTurn.2.runTurn s.nextTurn.1

/-- The state with an instruction where the next step fetches: bits above `nbits` are zero. -/
def State.withFetchWord (s : State) (nbits w : Nat) : State := s.placeAndIssue (leBytes 24 (w % 2 ^ nbits))

end Sys2Proof.Machine
end

