-- ==== Sys2Proof/Safety.lean ====
section
/-!
DEFINITION. What counts as a safe run, and the terms in which claims speak of steps: when an instruction issues, what it answers,
and what it leaves alone.
-/
namespace Sys2Proof.Machine

/-- A run of n steps that neither faults nor is refused, from one state to another. -/
def Runs (n : Nat) (s t : State) : Prop := Sys2Proof.core.run n s = .next t

/-- A state from which n steps run without a fault or a refusal. -/
def SafeFor (n : Nat) (s : State) : Prop := ∃ t, Runs n s t

/-- The package's memories are in canonical form. -/
def State.MemCanonical (s : State) : Prop := Memory.wf s.mem = true

/-- A property that every step keeps. -/
def KeptByStep (p : State → Prop) : Prop := ∀ s t : State, p s → step s = .next t → p t

/-! ## Issue -/

/-- The instruction with these fields issues in the thread that `cur` names: the thread runs, `e` is what the instruction sees, and
none of the decode tests of Table 12.14 that depend on the band fails. -/
def Issues (opc : Nat) (c : Code) (s : State) (e : Env) : Prop := mkEnv opc c s = some e ∧ e.decodeTrap = none

/-- The instruction does not issue: its thread runs and a decode test fails with this trap. -/
def DecodeTraps (opc : Nat) (c : Code) (s : State) (e : Env) (d : DecTrap) : Prop := mkEnv opc c s = some e ∧ e.decodeTrap = some d

/-- The crew in whose thread the instruction issues. -/
def CrewAt (e : Env) (s : State) (cw : Crew) : Prop := s.crewOf e.t.crew = some cw

/-- Where a thread goes on that falls through to `pc`: a front context at the last instruction of a hardware loop goes back, R160. -/
def Env.lands (e : Env) (s : State) (pc : PCW) : PCW :=
  if !e.front || pc != e.b.x.pc + BitVec.ofNat 48 e.c.len then pc
  else match s.crewOf e.t.crew with
    | some cw => match cw.front with
      | some f => (loopStep e.b.x.pc pc f.loops).2
      | none => pc
    | none => pc

/-! ## What an instruction leaves alone -/

/-- What a die, a core and a crew hold beside the threads, the issue selector and the instruction count. -/
def Die.rest (x : Die) : Die := { x with cores := [] }
def Core.rest (k : Core) : Core := { k with crews := [], sel := Core.reset.sel, nextId := 0 }
def Crew.rest (w : Crew) : Crew := { w with bands := [], front := none }

/-- A thread but for its latches, which another band's issue on its half empties, R170. -/
def Band.rest (b : Band) : Band :=
  { b with x := { b.x with lt := [], hd := [] },
           pends := b.pends.map fun p => { p with latch := p.latch.map fun w => { w with live := false } } }

/-- Everything that belongs to no thread is as it was: time, every byte of memory, every register of the host, of a context, of a
controller, of a link, of a die, of a core and of a crew, the engines with their queues and tables, and the packets in flight. -/
structure SameOutside (s t : State) : Prop where
  time : t.time = s.time
  mem : t.mem = s.mem
  host : t.host = s.host
  links : t.links = s.links
  podrt : t.podrt = s.podrt
  timeConv : t.timeConv = s.timeConv
  ctxs : t.ctxs = s.ctxs
  ctrls : t.ctrls = s.ctrls
  disp : t.disp = s.disp
  barDone : t.barDone = s.barDone
  colls : t.colls = s.colls
  net : t.net = s.net
  ring : t.ring = s.ring
  die : ∀ d, (t.dieOf d).rest = (s.dieOf d).rest
  core : ∀ d c, (t.coreOf d c).rest = (s.coreOf d c).rest
  crew : ∀ r, (t.crewOf r).map Crew.rest = (s.crewOf r).map Crew.rest

/-- Every other thread is as it was, but for its latches. -/
def SameOthers (me : ThreadRef) (s t : State) : Prop :=
  ∀ u : ThreadRef, u ≠ me → (t.thread u).map Band.rest = (s.thread u).map Band.rest

/-- The thread `b` has what `b1` has in every field but its issue state, its flag counters and the results on their way. -/
def SameThread (b1 b : Band) : Prop :=
  { b with x := b1.x, flags := b1.flags, pends := b1.pends, clob := b1.clob, only := b1.only, bpSkip := b1.bpSkip } = b1

/-! ## What an instruction answers -/

/-- The machine answers a next state. In it the thread stands at `pc`; it is what the instruction makes of it, `b1`, with the results
`ps` on their way and the flag of `SETF` counted; everything else is as it was. -/
def Ends (e : Env) (s : State) (o : Out) (pc : PCW) (b1 : Band) (ps : List Pend) : Prop :=
  ∃ t b, o = .next t ∧ t.thread e.t = some b ∧ b.x.pc = e.lands s pc ∧ b.pends = b1.pends ++ ps ∧
    b.flags = (b1.flagUp e.flag).flags ∧ SameThread b1 b ∧ SameOutside s t ∧ SameOthers e.t s t

/-- The thread goes to the next instruction with one result on its way. -/
def Answers (e : Env) (s : State) (o : Out) (p : Pend) : Prop := Ends e s o e.next e.b [p]

/-- What is on its way of an instruction that writes no register later: a flag clears one cycle after issue, R305. -/
def Env.flagOnly (e : Env) : List Pend := match e.flag with | some _ => [e.fixed 1 [] none 0] | none => []

/-- The thread goes to `pc` as `b1`, with no result on its way. -/
def Goes (e : Env) (s : State) (o : Out) (pc : PCW) (b1 : Band) : Prop := Ends e s o pc b1 e.flagOnly

/-- As `Ends`, and a new region stands where the thread then is: its tag is the next, and it has stored nothing, R101; at TRAP
privilege none opens, R274. -/
def EndsNew (e : Env) (s : State) (o : Out) (pc : PCW) (b1 : Band) (ps : List Pend) : Prop :=
  ∃ t b, o = .next t ∧ t.thread e.t = some b ∧ b.x.pc = e.lands s pc ∧ b.pends = b1.pends ++ ps ∧
    b.flags = (b1.flagUp e.flag).flags ∧ SameThread { b1 with region := b.region } b ∧
    (if b1.trapPriv then b.region = b1.region
     else b.region.restart = b.x.pc ∧ b.region.tag = b1.region.tag + 1 ∧ b.region.stores = 0) ∧
    SameOutside s t ∧ SameOthers e.t s t

/-- The thread goes to `pc` as `b1`, with no result on its way, in a new region. -/
def GoesNew (e : Env) (s : State) (o : Out) (pc : PCW) (b1 : Band) : Prop := EndsNew e s o pc b1 e.flagOnly

/-- The thread goes on with one more wait, of a kind, whose end clears the flag of `SETF` where the wait holds it. -/
def Waits (e : Env) (s : State) (o : Out) (b1 : Band) (kind : WaitKind) : Prop :=
  ∃ w, w.id = e.id ∧ w.flag = e.flag ∧ w.pc = e.b.x.pc ∧ w.kind = kind ∧ Ends e s o e.next { b1 with waits := b1.waits ++ [w] } []

/-- Operations enter the Infuser's queue behind what it holds, numbered in their order, and the thread goes on as `b1` with a wait. -/
def Queues (e : Env) (s : State) (o : Out) (b1 : Band) (kind : WaitKind) (ops : List JOp) : Prop :=
  let put := fun (c : Core) (o : JOp) => { c with jq := c.jq ++ [{ o with seq := c.seq }], seq := c.seq + 1 }
  Waits e (s.updCore e.t.die e.t.core fun c => ops.foldl put c) o b1 kind

/-- The thread enters its handler: what Table 11.3 records, TRAP privilege, the lanes that trap active and the others not, the handler's
first instruction; and the save area of each lane that has not exited holds its counter, R268 and R269. -/
def EntersHandler (e : Env) (s : State) (cw : Crew) (o : Out) (cause : Nat) (info : W64) (lanes : BitVec 64) (pc : Nat) : Prop :=
  ∃ t b, o = .next t ∧ t.thread e.t = some b ∧ b.trapPriv = true ∧ b.running = true ∧ b.x.pc = BitVec.ofNat 48 pc ∧
    b.trap.cause.toNat = cause ∧ b.trap.info = info ∧ b.trap.lanes = lanes ∧ b.trap.fpc = e.b.x.pc ∧
    b.trap.pc = (match e.b.x.chain with | some (p, _) => p | none => e.b.x.pc) ∧ b.trap.exec = e.b.exec ∧ b.trap.wstat = 0 ∧
    (∀ l ∈ e.b.alive, b.count l = if lanes.getLsbD l then 0 else 1) ∧
    b.r.exited = e.b.r.exited ∧ b.r.slots = e.b.r.slots ∧ b.r.preds = e.b.r.preds ∧ b.r.uni = e.b.r.uni ∧
    (∀ l ∈ e.b.alive, t.readKey (cw.sliceKey e.t l 176) 2 = [BitVec.ofNat 8 (e.b.count l), 0]) ∧ SameOthers e.t s t

/-! ## Sources and results, in the words of the rules -/

/-- Sources A, B and C of an integer instruction in a lane, in the type of `TYPE`, R312. -/
def Env.ity (e : Env) : ITy := ITy.of e.c.type.toNat
def Env.intA (e : Env) (l : Nat) : Int := e.ity.read (e.srcA l e.ity.bits)
def Env.intB (e : Env) (l : Nat) : Int := e.ity.read (e.srcB l e.ity.bits)
def Env.intC (e : Env) (l : Nat) : Int := e.ity.read (e.srcC l e.ity.bits)

/-- An integer result in each acting lane, R313, two cycles after issue, or five with a modifier. -/
def Env.intResult (e : Env) (t : ITy) (v : Nat → Int) : Pend := e.intPend t (e.ls.map fun l => (l, v l))

/-- The instruction answers an integer result: v in each acting lane. -/
def IntEffect (opc : Nat) (mk : Code → Instr) (v : Env → Nat → Int) : Prop :=
  ∀ c s e, Issues opc c s e → Answers e s (exec (mk c) s) (e.intResult e.ity (v e))

/-- Interval sources A, B and C in a lane, an ill-formed pair read as Empty, R234. -/
def Env.ivA (e : Env) (l : Nat) : Ivl := (e.iv 1 l).1
def Env.ivB (e : Env) (l : Nat) : Ivl := (e.iv 2 l).1
def Env.ivC (e : Env) (l : Nat) : Ivl := (e.iv 3 l).1

/-- `ILLFORMED` where one of the first n sources is an ill-formed pair. -/
def Env.illFormed (e : Env) (n l : Nat) : BitVec 6 := stIf ((List.range n).any fun i => (e.iv (i + 1) l).2) stIll

/-- A result of n interval sources: bits and status in each acting lane. -/
def Env.ivResult (e : Env) (n : Nat) (r : Nat → Res) : List (Nat × Res) :=
  e.ls.map fun l => (l, { r l with st := (r l).st ||| e.illFormed n l })

/-- Its bits by lane, as written to the destination and to the pipe's latch; and the same at a width of its own. -/
def Env.ivOut (e : Env) (lat : Option Nat) (words : Nat) (rs : List (Nat × Res)) : Pend :=
  let raw := rs.map fun r => (r.1, r.2.bits)
  let p := e.fixed (lat.getD 0) (e.laneWrites words raw) (e.latchW words raw) (statusOf rs)
  match lat with | some _ => p | none => { p with ready := none }

/-- Cycles of an interval instruction of the float pipe: 4, or 6 where one of the first m sources is a multiplicand whose sign is
not known in some acting lane; 3 more for a modifier that is applied. -/
def Env.ivLat (e : Env) (n m : Nat) : Nat :=
  (if 0 < m ∧ ∃ l ∈ e.ls, ¬ (∀ v ∈ (e.ivs n l).1.take m, signKnown v = true) then 6 else 4) + e.modCycles

/-- The instruction answers an interval result of fixed latency from its first n sources, m of them multiplicands. -/
def IvEffect (opc n m : Nat) (mk : Code → Instr) (r : Env → Nat → Res) : Prop :=
  ∀ c s e, Issues opc c s e → Answers e s (exec (mk c) s) (e.ivOut (some (e.ivLat n m)) e.words (e.ivResult n (r e)))

/-- The instruction answers a result of the transcendental and convert pipe, of variable latency. -/
def IvVariedEffect (opc n : Nat) (mk : Code → Instr) (words : Env → Nat) (r : Env → Nat → Res) : Prop :=
  ∀ c s e, Issues opc c s e → Answers e s (exec (mk c) s) (e.ivOut none (words e) (e.ivResult n (r e)))

/-- The set image of an operation on the first n sources, rounded outward, R240. -/
def Env.imageOf (e : Env) (ops : List Ivl) (img : Img) : Res := e.fmt.image ops img

/-- Words in each acting lane, to the destination and to the pipe's latch. -/
def Env.wordsResult (e : Env) (lat words : Nat) (v : Nat → Nat) : Pend :=
  let raw := e.ls.map fun l => (l, v l)
  e.fixed lat (e.laneWrites words raw) (e.latchW words raw) 0

/-- A uniform value of the cross-lane pipe, to the destination and to every lane of the pipe's latch. -/
def Env.crossResult (e : Env) (v : Nat) : Pend :=
  e.fixed e.xLat (e.uniWrites v) (e.latchW 2 ((List.range e.width).map fun l => (l, v))) 0

/-- A value of a predicate in each acting lane. -/
def Env.predResult (e : Env) (lat : Nat) (v : Nat → Tri) : Pend :=
  e.fixed lat (Env.predWrites e.c.dst (e.ls.map fun l => (l, v l))) none 0

/-- The instruction changes each lane's counter to f of its counter, and goes to its target where `branch` says so and no lane that
has not exited is then at 0; where no counter would pass 255. -/
def CountEffect (opc : Nat) (mk : Code → Instr) (branch : Bool) (f : Env → Nat → Nat → Nat) : Prop :=
  ∀ c s e, Issues opc c s e → e.b.only = none → (∀ l ∈ e.b.alive, f e l (e.b.count l) ≤ 255) →
    Goes e s (exec (mk c) s) (if branch ∧ ∀ l ∈ e.b.alive, f e l (e.b.count l) ≠ 0 then e.target else e.next)
      (e.b.setCounts fun l => f e l (e.b.count l))

/-! ## Writes of masters -/

/-- The step is a master's write of v to a register of a passenger, R55, R62 and R66. An absent or unpowered register takes no write.
Else the write takes effect where the master may write the register, and a bit of a reserved field is counted, R11; where it may not,
the write is counted in `DENIED` and changes nothing else. -/
def Writes (i : Instr) (cand : BitVec 2) (sock : Nat) (r : Reg) (v : State → W64) : Prop :=
  ∀ s : State,
    let there := cand ≠ 3 ∧ (sock = 24 ∨ s.host.boot.present.getLsbD sock = true) ∧
      (s.host.start.kind = .safe → cand = 1 ∧ r.inSafe = true)
    (¬ there → exec i s = .next s) ∧
    (there → s.mayWrite cand r = true → exec i s =
      .next ((if r.rsvdHit (v s) then s.updOwn fun o => { o with rsvdw := satInc o.rsvdw } else s).store cand r (v s))) ∧
    (there → s.mayWrite cand r = false → exec i s = .next (s.updOwn fun o => { o with denied := satInc o.denied }))

end Sys2Proof.Machine
end

