-- ==== Sys2Proof/WellFormed.lean ====
section
/-!
DEFINITION. Which terms of the syntax stand for a step that can occur: the instructions that have an encoding, chapter 12, and the
events whose arguments lie in the ranges that the spec gives them.
-/
namespace Sys2Proof

/-- The fields that the form of an instruction does not encode hold their defaults: R295 and R300. -/
def Code.canon (opc : Nat) (c : Code) : Bool :=
  match c.form with
  | .a => c.payload == 0 && c.ext == Ext.default opc
  | .b => if opc = 0 then c.ext == Ext.default 0 && decide (c.payload.toNat < 2 ^ 32) else c.payload == 0
  | .d => opc != 0 && decide (c.payload.toNat < 2 ^ 32)
  | .f => c.ext == Ext.default opc && decide (c.payload.toNat < 2 ^ 32)
  | _ => c.ext == Ext.default opc

/-- The annex is marked as one, and a front context has none, Table 12.6. -/
def Code.annexOk (front : Bool) (c : Code) : Bool :=
  match c.annex with
  | none => true
  | some w => !front && w.extractLsb' 0 2 == 3#2

/-- The tests of Table 12.14 that depend on the encoding accept the instruction, in its form. -/
def Code.accepted (front : Bool) (opc : Nat) (c : Code) : Bool :=
  match checkRaw front (c.toRaw opc) with
  | .ok fm => fm == c.form
  | .error _ => false

/-- An instruction that some bytes encode, for a band or for a front context. -/
def Instr.encodable (front : Bool) (i : Instr) : Bool :=
  match i.code with
  | none => false
  | some (opc, c) => c.canon opc && c.annexOk front && c.accepted front opc && mkInstr opc c == some i

/-! ## Events -/

/-- A candidate master, Table 3.1. -/
def candOk (c : BitVec 2) : Bool := c != 3

/-- A socket, R12; the codes 26 to 31 are never emitted, R16. -/
def sockOk (s : BitVec 5) : Bool := decide (s.toNat < 26)

/-- A module of a passenger, or a pod port of an I/O die, R18 and R50. -/
def linkOk (lk : LinkId) : Bool :=
  decide (lk.sock < 26) && (if lk.port then Machine.isIo lk.sock && decide (lk.idx < 9) else decide (lk.idx < Machine.moduleCount lk.sock))

/-- A packet header. -/
def hdrOk (h : PktHdr) : Bool := sockOk h.srcSock && sockOk h.dstSock

def recordOk (bs : List Byte) (n : Nat) : Bool := bs.length == n

/-- The arguments of an event are in range; an instruction has none. -/
def Instr.inRange : Instr → Bool
  | .bootCtlCold c | .bootCtlWarm c | .claim c | .handoverRelease c | .handoverAccept c | .attestationRequest c
  | .attestationDoneWrite c _ | .create c _ _ | .destroy c _ _ | .ctxUnparkAll c _ | .ctxPreemptWrite c _ _ | .ctxResumeWrite c _ _
  | .dispCancelWrite c _ _ | .ctxDiescrWrite c _ _ _ | .opcapWrite c _ _ | .pwrPkgcapWrite c _ | .evqHeadWrite c _ => candOk c
  | .crewScrchkClrlog c r => candOk c && decide (r.die < 8) && decide (r.core < 256) && decide (r.slot < 8)
  | .controlRegisterWrite c s _ _ | .timeCtlApply c s | .evqLogackWrite c s _ => candOk c && sockOk s
  | .linkCtlRetrain c lk | .linkCtlClrcnt c lk => candOk c && linkOk lk
  | .passengerFatalError s _ d => sockOk s && decide (d.length ≤ 40)
  | .flitCloseTimeout lk | .ackTimeout lk | .replayTimeout lk | .nakRepeat lk | .retrainDone lk _ | .retrainFailed lk _ => linkOk lk
  | .dataFlitReceive lk f | .controlFlitReceive lk f => linkOk lk && f.length == 256
  | .podPacketArrival port p => decide (port < 18) && hdrOk p.hdr
  | .write h b => hdrOk h && b.bytes.length == b.cntM1.toNat + 1
  | .enqArrival h b | .bounce h b => hdrOk h && recordOk b.record 64
  | .stealrec h _ _ r => hdrOk h && recordOk r 64
  | .event h r => hdrOk h && recordOk r 64
  | .token h _ t => hdrOk h && recordOk t 64
  | .notice h _ _ _ lo => hdrOk h && recordOk lo 128
  | .recpart h _ hi => hdrOk h && recordOk hi 128
  | .crread h _ | .crwrite h _ _ | .crreply h _ _ | .read h _ | .atomic h _ | .coll h _ | .collres h _ | .data h _ _ | .ack h _
  | .old h _ _ | .permreq h _ _ | .permreply h _ | .ready h _ _ | .unpark h | .podseq h _ | .health h _ | .rangereq h _
  | .mirrorack h _ _ | .range h _ | .retire h _ | .sweep h _ _ | .sweepreply h _ | .cancel h _ | .barrier h _ | .stealreq h _
  | .grant h _ _ | .refuse h _ | .stealack h _ _ | .enqack h _ _ | .credit h _ _ => hdrOk h
  | .stealRound d _ | .stealRoundWaitExpiry d _ => decide (d < 8)
  | _ => true

/-- A well-formed step: an instruction that a band or a front context can fetch, or an event in range. -/
def Instr.wf (i : Instr) : Bool :=
  match i.code with
  | none => i.inRange
  | some _ => i.encodable false || i.encodable true

end Sys2Proof
end

