-- ==== Sys2Proof/Certificates/Slice0/Obligations.lean ====
section
/-!
DEFINITION. The statements for the provers.
-/

open Sys2Proof Sys2Proof.Machine

/-! ## Integer instructions -/

/-- Table 13.1 and R316: each writes, in each acting lane, the value of its Effect column; every arithmetic step is exact until it is
wrapped or clamped. -/
def Obligations.IntegerArithmetic : Prop :=
  IntEffect 0x01 .iadd (fun e l => e.ity.wrap (e.intA l + e.intB l)) ∧
  IntEffect 0x02 .isub (fun e l => e.ity.wrap (e.intA l - e.intB l)) ∧
  IntEffect 0x03 .iadds (fun e l => e.ity.sat (e.intA l + e.intB l)) ∧
  IntEffect 0x04 .isubs (fun e l => e.ity.sat (e.intA l - e.intB l)) ∧
  IntEffect 0x05 .imul (fun e l => e.ity.wrap (e.intA l * e.intB l)) ∧
  IntEffect 0x06 .imulh (fun e l => e.ity.wrap ((e.intA l * e.intB l) / 2 ^ e.ity.bits)) ∧
  IntEffect 0x07 .imad (fun e l => e.ity.wrap (e.intA l * e.intB l + e.intC l)) ∧
  IntEffect 0x08 .imulq (fun e l => e.ity.sat (roundShift (e.intA l * e.intB l) (e.c.mods.toNat % 64) (e.c.rmode == 1))) ∧
  IntEffect 0x09 .iabs (fun e l => e.ity.wrap (if e.intA l < 0 then -e.intA l else e.intA l)) ∧
  IntEffect 0x0A .imin (fun e l => min (e.intA l) (e.intB l)) ∧
  IntEffect 0x0B .imax (fun e l => max (e.intA l) (e.intB l)) ∧
  IntEffect 0x0C .ineg (fun e l => e.ity.wrap (-e.intA l)) ∧
  IntEffect 0x21 .lea (fun e l => e.ity.wrap (e.intA l + e.intB l * 2 ^ (e.c.mods.toNat % 8)))

/-- R317 to R320 and R324: shifts, bitwise operations, bit counts, fields and conversions, on the w bits of the sources. -/
def Obligations.IntegerBits : Prop :=
  IntEffect 0x0D .ishl (fun e l => ishlOp e.ity (e.intA l) (e.intB l)) ∧
  IntEffect 0x0E .ishr (fun e l => ishrOp e.ity (e.intA l) (e.intB l)) ∧
  IntEffect 0x0F .ishra (fun e l => ishraOp e.ity (e.intA l) (e.intB l)) ∧
  IntEffect 0x10 .andb (fun e l => e.ity.wrap (e.ity.bitsOf (e.intA l) &&& e.ity.bitsOf (e.intB l) : Nat)) ∧
  IntEffect 0x11 .orb (fun e l => e.ity.wrap (e.ity.bitsOf (e.intA l) ||| e.ity.bitsOf (e.intB l) : Nat)) ∧
  IntEffect 0x12 .xorb (fun e l => e.ity.wrap (e.ity.bitsOf (e.intA l) ^^^ e.ity.bitsOf (e.intB l) : Nat)) ∧
  IntEffect 0x13 .notb (fun e l => e.ity.wrap (2 ^ e.ity.bits - 1 - e.ity.bitsOf (e.intA l))) ∧
  IntEffect 0x14 .andn (fun e l => bitsAndn e.ity (e.intA l) (e.intB l)) ∧
  IntEffect 0x15 .bsel (fun e l => bselOp e.ity (e.intA l) (e.intB l) (e.intC l)) ∧
  IntEffect 0x16 .popc (fun e l => e.ity.wrap (popcNat e.ity.bits (e.ity.bitsOf (e.intA l)))) ∧
  IntEffect 0x17 .clz (fun e l => e.ity.wrap (clzNat e.ity.bits (e.ity.bitsOf (e.intA l)))) ∧
  IntEffect 0x18 .ctz (fun e l => e.ity.wrap (ctzNat e.ity.bits (e.ity.bitsOf (e.intA l)))) ∧
  IntEffect 0x19 .brev (fun e l => e.ity.wrap (brevNat e.ity.bits (e.ity.bitsOf (e.intA l)))) ∧
  IntEffect 0x1A .bfx (fun e l => bfxOp e.ity (e.intA l) (e.intB l)) ∧
  IntEffect 0x1B .bfi (fun e l => bfiOp e.ity (e.intA l) (e.intB l) (e.intC l)) ∧
  (∀ c s e, Issues 0x20 c s e →
    let d := ITy.of (c.mods.toNat % 8)
    Answers e s (exec (.cvti c) s)
      (e.intResult d fun l => if c.mods.getLsbD 3 then d.sat (e.intA l) else d.wrap (e.intA l)))

/-- R305, R321 to R323 and R326: `NOP` acts in no lane; `ISETP` writes a relation into the predicate, `SEL` one of its sources, `MOVI` bits
[31:0] of `IMM64`, `MOV` the bits of A, an interval's unchanged; `SETIX` writes the sum modulo 256 to the index register. R328: `PMOV`
copies a predicate, writes its code 0, 1 or 2 to a slot as a 32-bit integer, or sets it from a slot, where 0 gives F, 1 gives T and any
other value U. -/
def Obligations.MovesAndCompares : Prop :=
  (∀ c s e, Issues 0x00 c s e → Goes e s (exec (.nop c) s) e.next e.b) ∧
  (∀ c s e, Issues 0x1C c s e →
    Answers e s (exec (.isetp c) s) (e.predResult e.intLat fun l => triOfBool (intRel c.mods.toNat (e.intA l) (e.intB l)))) ∧
  (∀ c s e, Issues 0x1E c s e →
    Answers e s (exec (.movi c) s) (e.intResult ⟨32, false⟩ fun _ => ((c.payload.toNat % 2 ^ 32 : Nat) : Int))) ∧
  (∀ c s e, Issues 0x1F c s e →
    Answers e s (exec (.sel c) s) (e.intResult e.ity fun l =>
      if e.pred 3 c.srcc l = .t ∨ (e.pred 3 c.srcc l = .u ∧ c.mods.toNat % 2 = 1) then e.intA l else e.intB l)) ∧
  (∀ c s e, Issues 0x1D c s e → 0xC ≤ c.type.toNat →
    let raw := e.ls.map fun l => (l, e.srcA l (2 * e.fmt.width))
    Answers e s (exec (.mov c) s) (e.fixed e.intLat (e.laneWrites e.words raw) (e.latchW e.words raw) 0)) ∧
  (∀ c s e, Issues 0x1D c s e → c.type.toNat < 0xC → Answers e s (exec (.mov c) s) (e.intResult e.ity e.intA)) ∧
  (∀ c s e, Issues 0x22 c s e → ∀ k, c.dst = .slot k →
    Answers e s (exec (.setix c) s)
      (e.fixed 2 [(ixKey (k.toNat % 2), BitVec.ofNat 64 ((e.srcA 0 8 + e.srcB 0 8) % 256))] none 0)) ∧
  (∀ c s e, Issues 0x57 c s e → c.mods.toNat % 4 = 1 →
    let raw := e.ls.map fun l => (l, triNum (e.pred 1 c.srca l))
    Answers e s (exec (.pmov c) s) (e.fixed 2 (e.laneWrites 1 raw) (e.latchW 1 raw) 0)) ∧
  (∀ c s e, Issues 0x57 c s e → c.mods.toNat % 4 = 2 →
    Answers e s (exec (.pmov c) s) (e.predResult 2 fun l => triOf (e.srcA l 32))) ∧
  (∀ c s e, Issues 0x57 c s e → c.mods.toNat % 4 = 0 →
    Answers e s (exec (.pmov c) s) (e.predResult 2 fun l => e.pred 1 c.srca l))

/-! ## Interval instructions -/

/-- R362: the set images of a + b, a - b, a × b, a × b + c and a², rounded outward. -/
def Obligations.IntervalArithmetic : Prop :=
  IvEffect 0x80 2 0 .fadd (fun e l => e.imageOf [e.ivA l, e.ivB l] ⟨ivAdd (e.ivA l) (e.ivB l), false⟩) ∧
  IvEffect 0x81 2 0 .fsub (fun e l => e.imageOf [e.ivA l, e.ivB l] ⟨ivAdd (e.ivA l) (ivNeg (e.ivB l)), false⟩) ∧
  IvEffect 0x82 2 2 .fmul (fun e l => e.imageOf [e.ivA l, e.ivB l] ⟨ivMul (e.ivA l) (e.ivB l), false⟩) ∧
  IvEffect 0x83 3 2 .ffma
    (fun e l => e.imageOf [e.ivA l, e.ivB l, e.ivC l] ⟨ivAdd (ivMul (e.ivA l) (e.ivB l)) (e.ivC l), false⟩) ∧
  IvEffect 0x84 1 1 .fsqr (fun e l => e.imageOf [e.ivA l] ⟨ivSqr (e.ivA l), false⟩)

/-- Table 14.4 and R369: set operations, bounds, midpoint, radius, width, magnitude, mignitude and the making of an interval. R370 and R371:
`FBIS` writes a half of a splittable interval and, where it is told to and does not write the latch alone, T or F to the predicate that
`SRCC` names; `FCMP` writes the
relation's value of Table 10.7 to its predicate and sets no status bit but `ILLFORMED`. -/
def Obligations.IntervalSets : Prop :=
  IvEffect 0x85 2 0 .fhull (fun e l => ⟨e.fmt.pair ((e.ivA l).hull (e.ivB l)), 0⟩) ∧
  IvEffect 0x86 2 0 .fisect (fun e l => ⟨e.fmt.pair (ivIsect (e.ivA l) (e.ivB l)),
    stIf (!(e.ivA l).isEmpty && !(e.ivB l).isEmpty && (ivIsect (e.ivA l) (e.ivB l)).isEmpty) stEmpty⟩) ∧
  IvEffect 0x87 1 0 .flb (fun e l => e.fmt.pt (lowerOf (e.ivA l))) ∧
  IvEffect 0x88 1 0 .fub (fun e l => e.fmt.pt (upperOf (e.ivA l))) ∧
  IvEffect 0x89 1 0 .fmid (fun e l => e.fmt.pt ((e.fmt.mid (e.ivA l)).map .fin)) ∧
  IvEffect 0x8A 1 0 .frad (fun e l => e.fmt.rad (e.ivA l)) ∧
  IvEffect 0x8B 1 0 .fwid (fun e l => e.fmt.wid (e.ivA l)) ∧
  IvEffect 0x8C 1 0 .fmag (fun e l => e.fmt.pt (ivMag (e.ivA l))) ∧
  IvEffect 0x8D 1 0 .fmig (fun e l => e.fmt.pt (ivMig (e.ivA l))) ∧
  IvEffect 0x8E 2 0 .fmk (fun e l => e.fmt.mkPair (e.ivA l) (e.ivB l)) ∧
  IvEffect 0x91 1 0 .fneg (fun e l => ⟨e.fmt.pair (ivNeg (e.ivA l)), 0⟩) ∧
  IvEffect 0x92 1 0 .fabs (fun e l => ⟨e.fmt.pair (ivAbs (e.ivA l)), 0⟩) ∧
  IvEffect 0x93 2 0 .fmin (fun e l => ⟨e.fmt.pair (ivMin (e.ivA l) (e.ivB l)), 0⟩) ∧
  IvEffect 0x94 2 0 .fmax (fun e l => ⟨e.fmt.pair (ivMax (e.ivA l) (e.ivB l)), 0⟩) ∧
  (∀ c s e, Issues 0x8F c s e →
    let half := fun l => (e.fmt.halves (e.ivA l)).map fun h => if c.mods.getLsbD 0 then h.2 else h.1
    let rs := e.ivResult 1 fun l => ⟨e.fmt.pair ((half l).getD (e.ivA l)), 0⟩
    let raw := rs.map fun r => (r.1, r.2.bits)
    Answers e s (exec (.fbis c) s) (e.fixed (4 + e.modCycles) (e.laneWrites e.words raw ++
      (if c.mods.getLsbD 1 ∧ c.nw = false then Env.predWrites c.srcc (e.ls.map fun l => (l, triOfBool (half l).isSome)) else []))
      (e.latchW e.words raw) (statusOf rs))) ∧
  (∀ c s e, Issues 0x90 c s e →
    let rel := c.mods.toNat % 8
    Answers e s (exec (.fcmp c) s) { e.predResult (4 + e.modCycles) (fun l => ivCmp rel (e.ivA l) (e.ivB l)) with
      status := statusOf (e.ivResult (if rel = 7 then 1 else 2) fun _ => ⟨0, 0⟩) })

/-- R363 to R367: division, the two results of `FDIVP`, roots, powers and the transcendental functions, over the domains of
Table 10.5. `FDIVP` writes its second piece to the register that follows its destination. -/
def Obligations.TranscendentalFunctions : Prop :=
  IvVariedEffect 0xA0 2 .fdiv Env.words (fun e l => e.imageOf [e.ivA l, e.ivB l] (ivDiv (e.ivA l) (e.ivB l))) ∧
  IvVariedEffect 0xA2 1 .fsqrt Env.words (fun e l => e.imageOf [e.ivA l] (ivSqrt (e.ivA l))) ∧
  IvVariedEffect 0xA3 1 .frcp Env.words (fun e l => e.imageOf [e.ivA l] (ivDiv (Ivl.point Q.one) (e.ivA l))) ∧
  IvVariedEffect 0xA4 1 .frsqrt Env.words (fun e l => e.imageOf [e.ivA l] (ivRsqrt (e.ivA l))) ∧
  IvVariedEffect 0xA5 1 .fexp2 Env.words (fun e l => e.imageOf [e.ivA l] (ivExp2 (e.ivA l))) ∧
  IvVariedEffect 0xA6 1 .flog2 Env.words (fun e l => e.imageOf [e.ivA l] (ivLog2 (e.ivA l))) ∧
  IvVariedEffect 0xA7 1 .fsinpi Env.words (fun e l => e.imageOf [e.ivA l] (ivSinpi (e.ivA l))) ∧
  IvVariedEffect 0xA8 1 .fcospi Env.words (fun e l => e.imageOf [e.ivA l] (ivCospi (e.ivA l))) ∧
  IvVariedEffect 0xA9 1 .ftanh Env.words (fun e l => e.imageOf [e.ivA l] (ivTanh (e.ivA l))) ∧
  IvVariedEffect 0xAA 1 .fpown Env.words (fun e l => e.imageOf [e.ivA l] (ivPown (e.ivA l) ((ITy.of 2).read (e.srcB l 32)))) ∧
  (∀ c s e, Issues 0xA1 c s e →
    let p := e.ivOut none e.words (e.ivResult 2 fun l => (e.fmt.divp (e.ivA l) (e.ivB l)).1)
    let second := match e.dst2 with
      | some n => e.ls.flatMap fun l => (List.range e.words).map fun i =>
          (slotKey l (n + i), BitVec.ofNat 64 ((e.fmt.divp (e.ivA l) (e.ivB l)).2 / 2 ^ (32 * i) % 2 ^ 32))
      | none => []
    Answers e s (exec (.fdivp c) s) { p with writes := p.writes ++ if c.nw then [] else second })

/-- R372 to R374: conversion into an interval view, collapse to a point, and collapse to a binary8 code with a given scale. -/
def Obligations.Conversions : Prop :=
  (∀ c s e, Issues 0xAB c s e →
    let m := c.mods.toNat
    Answers e s (exec (.fcvt c) s) (e.ivOut none e.words (e.ls.map fun l =>
      (l, e.fmt.convert (m % 32) (m / 32 % 2 == 1) (if m / 64 % 2 = 1 then some (e.srcB l 8) else none)
        (e.srcA l (codeBits (m % 32))))))) ∧
  IvVariedEffect 0xAC 1 .fcoll (fun e => codeWords (e.c.mods.toNat % 32))
    (fun e l => e.fmt.collapse (e.c.mods.toNat % 32) (e.ivA l)) ∧
  (∀ c s e, Issues 0xAD c s e → c.mods.toNat / 64 % 2 = 0 →
    Answers e s (exec (.fq8 c) s) (e.ivOut none 1 (e.ivResult 1 fun l =>
      e.fmt.quant (c.mods.toNat % 32) (c.mods.toNat / 32 % 2 == 1) (e.srcB l 8) (e.ivA l)))) ∧
  (∀ c s e, Issues 0xAD c s e → c.mods.toNat / 64 % 2 = 1 →
    let inf := c.mods.toNat / 32 % 2 == 1
    let scale := fun l => scaleCode (amaxOf e.fmt ((e.ls.filter fun k => k / 32 == l / 32).map e.ivA))
      (largestOf (c.mods.toNat % 32) inf)
    Answers e s (exec (.fq8 c) s) (e.ivOut none 1 (e.ivResult 1 fun l =>
      e.fmt.quant (c.mods.toNat % 32) inf (scale l) (e.ivA l))))

/-! ## Control flow -/

/-- R329, R330, R344: a branch goes to its target when its guard holds in every active lane, and otherwise falls through; in a front
context `SBR` branches when source A is not zero. `CALL` also writes the next address to its uniform register. -/
def Obligations.Branches : Prop :=
  (∀ c s e, Issues 0x40 c s e → Goes e s (exec (.bra c) s) (if e.front ∨ e.lanes = e.b.exec then e.target else e.next) e.b) ∧
  (∀ c s e, Issues 0x41 c s e → Goes e s (exec (.brx c) s) (if e.front ∨ e.lanes = e.b.exec then e.indirect else e.next) e.b) ∧
  (∀ c s e, Issues 0x42 c s e → e.front ∨ e.lanes = e.b.exec →
    Ends e s (exec (.call c) s) e.target e.b [e.varied (e.uniWrites e.next.toNat) none 0]) ∧
  (∀ c s e, Issues 0x42 c s e → ¬(e.front ∨ e.lanes = e.b.exec) → Goes e s (exec (.call c) s) e.next e.b) ∧
  (∀ c s e, Issues 0x43 c s e → Goes e s (exec (.ret c) s) e.indirect e.b) ∧
  (∀ c s e, Issues 0x72 c s e → Goes e s (exec (.sbr c) s) (if e.srcA 0 64 ≠ 0 then e.target else e.next) e.b)

/-- Table 7.3, R332 and R334: the divergence instructions change the counter of every lane that has not exited as the table gives, and
branch when no lane is then at 0. What setting the counters does: a lane that has not exited reads its new counter, every other lane its
old one, and nothing else of the thread changes. -/
def Obligations.Divergence : Prop :=
  CountEffect 0x45 .ifb true (fun e l n => if 0 < n then n + 1 else if e.lanes.getLsbD l then 0 else 1) ∧
  CountEffect 0x46 .elseb true (fun _ _ n => if n = 0 then 1 else if n = 1 then 0 else n) ∧
  CountEffect 0x47 .endif false (fun _ _ n => n - 1) ∧
  CountEffect 0x48 .if3 true (fun e l n =>
    if 0 < n then n + 3 else match e.pred 1 e.c.srca l with | .t => 0 | .f => 1 | .u => 2) ∧
  CountEffect 0x49 .elsef true (fun _ _ n => if n = 0 then 3 else if n = 1 then 0 else if n = 2 then 1 else n) ∧
  CountEffect 0x4A .elseu true (fun _ _ n => if n = 0 then 3 else if n = 1 then 0 else n) ∧
  CountEffect 0x4B .endif3 false (fun _ _ n => n - 3) ∧
  CountEffect 0x4C .loopb true (fun _ _ n => if 0 < n then n + 2 else 0) ∧
  (∀ (b : Band) (f : Nat → Nat), (∀ l ∈ b.alive, f l ≤ 255) →
     (∀ l ∈ b.alive, (b.setCounts f).count l = f l) ∧ (∀ l, l ∉ b.alive → (b.setCounts f).count l = b.count l) ∧
     { b.setCounts f with r := { (b.setCounts f).r with nest := b.r.nest } } = b)

/-- R333 and R334: `BRK #d` and `CONT #d` set their guarded active lanes to 2 + d and 1 + d, and branch when no lane that has not exited
holds a counter from 0 to d, lowering every counter above d by d; `ENDLOOP` returns lanes at 1 to 0 and branches back if a lane is then
at 0, else it lowers the counters by 2. -/
def Obligations.Loops : Prop :=
  (∀ (mk : Code → Instr) (opc step : Nat), (mk = .brk ∧ opc = 0x4D ∧ step = 2) ∨ (mk = .cont ∧ opc = 0x4E ∧ step = 1) →
    ∀ c s e, Issues opc c s e → e.b.only = none →
    let d := c.srca.bits.toNat % 256
    let n := fun l => if e.lanes.getLsbD l then step + d else e.b.count l
    (∀ l ∈ e.b.alive, n l ≤ 255) →
    Goes e s (exec (mk c) s) (if ∃ l ∈ e.b.alive, n l ≤ d then e.next else e.target)
      (e.b.setCounts fun l => if ∃ l ∈ e.b.alive, n l ≤ d then n l else n l - d)) ∧
  (∀ c s e, Issues 0x4F c s e →
    let n := fun l => if e.b.count l = 1 then 0 else e.b.count l
    Goes e s (exec (.endloop c) s) (if ∃ l ∈ e.b.alive, n l = 0 then e.target else e.next)
      (e.b.setCounts fun l => if ∃ l ∈ e.b.alive, n l = 0 then n l else n l - 2))

/-- R248 and R327: predicates hold F, T or U, codes 00, 01 and 10; code 11 is never written and reads as U; predicate logic is Kleene
logic, by Table 10.8; `PDEC` maps T to T, F to F, and U to the value that its operand names. -/
def Obligations.PredicateLogic : Prop :=
  (∀ p : Tri, triOf (triNum p) = p ∧ triNum p < 3) ∧ triOf 0 = .f ∧ triOf 1 = .t ∧ triOf 2 = .u ∧ triOf 3 = .u ∧
  (∀ (mk : Code → Instr) (opc : Nat) (f : Code → Tri → Tri → Tri),
    (mk = .pand ∧ opc = 0x52 ∧ f = (fun _ a b => if a = .f ∨ b = .f then .f else if a = .t ∧ b = .t then .t else .u)) ∨
    (mk = .por ∧ opc = 0x53 ∧ f = (fun _ a b => if a = .t ∨ b = .t then .t else if a = .f ∧ b = .f then .f else .u)) ∨
    (mk = .pxor ∧ opc = 0x54 ∧ f = (fun _ a b => if a = .u ∨ b = .u then .u else if a = b then .f else .t)) ∨
    (mk = .pnot ∧ opc = 0x55 ∧ f = (fun _ a _ => match a with | .f => .t | .t => .f | .u => .u)) ∨
    (mk = .pdec ∧ opc = 0x56 ∧ f = (fun c a _ => if a = .u then (if c.mods.getLsbD 0 then .t else .f) else a)) →
    ∀ c s e, Issues opc c s e → Answers e s (exec (mk c) s) (e.predResult 2 fun l => f c (e.pred 1 c.srca l) (e.pred 2 c.srcb l)))

/-! ## Cross-lane and uniform instructions -/

/-- R337 to R340: `SHFL` writes source B as read through its modifier, or its own A where the source lane is not active; `VOTE` counts the
acting lanes whose predicate lies in its set; `REDI` and `SCANI` combine source A over the acting lanes, by Table 13.5. R341: `RDLANE`
writes source A in lane b mod W to a uniform register; `WRLANE` writes a uniform value to a slot of lane b mod W unless that lane has
exited, whatever its counter, and to no other lane. -/
def Obligations.CrossLane : Prop :=
  (∀ c s e, Issues 0x60 c s e →
    let v := fun l => if c.mods.getLsbD 0 ∧ ∃ k, e.xsrc l = some k ∧ e.b.active k = false then e.srcA l e.typeBits else e.srcB l e.typeBits
    Answers e s (exec (.shfl c) s) (e.wordsResult e.xLat (typeWords c.type) fun l => e.typed (v l))) ∧
  (∀ c s e, Issues 0x61 c s e → ∀ mask : BitVec 64,
    (∀ l, l < 64 → (mask.getLsbD l = true ↔ e.lanes.getLsbD l = true ∧ (match c.mods.toNat / 4 % 4 with
      | 0 => e.pred 1 c.srca l = .t | 1 => e.pred 1 c.srca l = .f | 2 => e.pred 1 c.srca l = .u | _ => e.pred 1 c.srca l ≠ .f))) →
    let v := if c.mods.toNat % 4 = 0 then (if mask = 0 then 0 else 1)
             else if c.mods.toNat % 4 = 1 then (if mask = e.lanes then 1 else 0) else mask.toNat
    Answers e s (exec (.vote c) s)
      (if (uniOf e.front c.dst).isSome then e.crossResult v else e.wordsResult e.xLat 1 fun _ => v % 2 ^ 32)) ∧
  (∀ (ex : Bool) (c : Code) (s : State) (e : Env) (op : Int → Int → Int) (id : Int),
    (match c.mods.toNat % 8 with
      | 0 => op = (fun x y => e.ity.wrap (x + y)) ∧ id = 0
      | 1 => op = min ∧ id = e.ity.max
      | 2 => op = max ∧ id = e.ity.min
      | 3 => op = bitsAnd e.ity ∧ id = e.ity.wrap (2 ^ e.ity.bits - 1)
      | 4 => op = bitsOr e.ity ∧ id = 0
      | 5 => op = bitsXor e.ity ∧ id = 0
      | _ => False) →
    (Issues 0x62 c s e →
      let v := e.ls.foldl (fun x l => op x (e.intA l)) id
      Answers e s (exec (.redi c) s) (if (uniOf e.front c.dst).isSome then e.crossResult (e.ity.uni v)
        else e.wordsResult e.xLat (intWords c.type.toNat) fun _ => e.ity.reg v)) ∧
    (Issues 0x63 c s e → c.mods.getLsbD 3 = ex →
      Answers e s (exec (.scani c) s) (e.wordsResult e.xLat (intWords c.type.toNat) fun l =>
        e.ity.reg ((e.ls.filter fun k => if ex then decide (k < l) else decide (k ≤ l)).foldl (fun x k => op x (e.intA k)) id)))) ∧
  (∀ c s e, Issues 0x64 c s e →
    Answers e s (exec (.rdlane c) s) (e.crossResult (e.ity.uni (e.intA (e.srcB 0 32 % e.width))))) ∧
  (∀ c s e, Issues 0x65 c s e →
    let l := e.srcB 0 32 % e.width
    let raw := if e.b.gone l then [] else [(l, e.ity.reg (e.intA 0))]
    let n := intWords c.type.toNat
    Answers e s (exec (.wrlane c) s) (e.fixed e.xLat (e.laneWrites n raw) (e.latchW n raw) 0))

/-- R342 and Table 13.6: `SOP` writes its result, extended to 64 bits by the type's signedness, to its uniform register, and writes no
latch. -/
def Obligations.UniformOperations : Prop :=
  ∀ c s e, Issues 0x70 c s e → ∀ v : Int → Int → Int,
    (match c.mods.toNat % 32 with
      | 0 => v = fun a b => e.ity.wrap (a + b)
      | 1 => v = fun a b => e.ity.wrap (a - b)
      | 2 => v = fun a b => e.ity.wrap (a * b)
      | 3 => v = fun a b => e.ity.wrap (a * b / 2 ^ e.ity.bits)
      | 4 => v = bitsAnd e.ity
      | 5 => v = bitsOr e.ity
      | 6 => v = bitsXor e.ity
      | 7 => v = bitsAndn e.ity
      | 8 => v = ishlOp e.ity
      | 9 => v = ishrOp e.ity
      | 10 => v = ishraOp e.ity
      | 11 => v = min
      | 12 => v = max
      | 13 => v = fun a b => if a < b then 1 else 0
      | 14 => v = fun a b => if a ≤ b then 1 else 0
      | 15 => v = fun a b => if a = b then 1 else 0
      | 16 => v = fun a b => if a = b then 0 else 1
      | 17 => v = fun a _ => a
      | _ => False) →
    Answers e s (exec (.sop c) s) (e.fixed 2 (e.uniWrites (e.ity.uni (v (e.intA 0) (e.intB 0)))) none 0)

/-- R343: `SMOVI` writes all 64 bits of `IMM64` to its uniform register. -/
def Obligations.UniformImmediate : Prop :=
  ∀ c s e, Issues 0x71 c s e → ∃ p, Answers e s (exec (.smovi c) s) p ∧ p.ready = some (e.now + 2) ∧
    ∀ n, uniOf e.front c.dst = some n → ∀ (b : Band) (now free : Nat), b.clob = [] → (b.land now free p).r.getKey (uniKey n) = c.payload

/-! ## The front context and the decision queue -/

/-- R345: `FLOOP` with a count opens a loop from the next instruction to its `OFF32` target, inclusive, inside those that are open, and a third one
is a nesting overflow; the `FLOOP` of a loop that R160 has restarted opens it anew, log 13; with a count of 0 it goes on after the end instruction. R348: `FEND` ends the front context once its
register-writing instructions have completed; the entries it pushed stay in the queue, and every open loop closes. -/
def Obligations.FrontContext : Prop :=
  (∀ c s e cw f, Issues 0x73 c s e → CrewAt e s cw → cw.front = some f → e.srcA 0 32 ≠ 0 →
    let l : HwLoop := { left := e.srcA 0 32, count := e.srcA 0 32, first := e.next, last := e.target, again := false }
    let opens := fun (ls : List HwLoop) =>
      ∃ u t cw' f', Goes e s (.next u) e.next e.b ∧ exec (.floop c) s = .next t ∧ t.crewOf e.t.crew = some cw' ∧ cw'.front = some f' ∧
        f'.loops = ls ∧ t.thread e.t = u.thread e.t ∧ SameOutside u t ∧ SameOthers e.t u t
    (f.loops.length < 2 → opens (l :: (loopStep e.b.x.pc e.next f.loops).1)) ∧
    (∀ i o, f.loops = [i, o] →
      (i.again = true ∧ i.first = l.first ∧ i.last = l.last → i.last ≠ e.b.x.pc → o.last ≠ e.b.x.pc → opens [l, o]) ∧
      (¬ (i.again = true ∧ i.first = l.first ∧ i.last = l.last) → exec (.floop c) s = .next (e.raise 5 0 e.lanes s)))) ∧
  (∀ c s e cw op, Issues 0x73 c s e → CrewAt e s cw → e.srcA 0 32 = 0 →
    s.fetchBytes e.t.die e.t.core (handleCtx cw.cfg.handle) e.target.toNat 1 = .bytes [op] →
    Goes e s (exec (.floop c) s) (e.target + BitVec.ofNat 48 (8 + secondBytes (BitVec.ofNat 2 op.toNat))) e.b) ∧
  (∀ c s e cw f, Issues 0x75 c s e → CrewAt e s cw → cw.front = some f → e.b.writersOut = false →
     ∃ t cw' f', exec (.fend c) s = .next t ∧ t.crewOf e.t.crew = some cw' ∧ cw'.front = some f' ∧ f'.ended = true ∧ f'.loops = [] ∧
       cw'.dq = cw.dq ∧ cw'.dqBase = cw.dqBase ∧ SameOutside s t ∧ SameOthers e.t s t)

/-- R346: `DQPUSH` appends the 64 bits of a to the crew's decision queue, and is complete when the entry is there; entries that every running
band has popped make room first; it waits while the queue has no room. -/
def Obligations.DecisionPush : Prop :=
  (∀ c s e cw, Issues 0x74 c s e → CrewAt e s cw → cw.dqFree.dq.length < 64 →
    Goes e (s.setCrew e.t.crew { cw.dqFree with dq := cw.dqFree.dq ++ [BitVec.ofNat 64 (e.srcA 0 64)] }) (exec (.dqpush c) s) e.next e.b) ∧
  (∀ c s e cw, Issues 0x74 c s e → CrewAt e s cw → 64 ≤ cw.dqFree.dq.length → exec (.dqpush c) s = .next s)

/-- R159 and R347: a pop gives a band the entry at its position and advances the position; `DQBR` also branches when bit 0 of the entry
is 1. -/
def Obligations.DecisionPop : Prop :=
  ∀ c s e cw v, CrewAt e s cw → e.front = false → cw.dqBase ≤ e.b.dqPos → cw.dq[e.b.dqPos - cw.dqBase]? = some v →
    (Issues 0x58 c s e →
      Ends e s (exec (.dqpop c) s) e.next { e.b with dqPos := e.b.dqPos + 1 } [e.varied (e.uniWrites v.toNat) none 0]) ∧
    (Issues 0x59 c s e →
      Ends e s (exec (.dqbr c) s) (if v.getLsbD 0 then e.target else e.next) { e.b with dqPos := e.b.dqPos + 1 }
        [e.varied (e.uniWrites v.toNat) none 0])

/-! ## Regions, merging and exits -/

/-- R102, R274 and R335: `RGN`, once its band has committed, opens a region at itself, but at TRAP privilege; its working set is the slots
that its command word lists. R184, R185 and R336: `MRG`, once its band has committed, its flags are clear and the Infuser holds no
operation of it, falls through in a new region where the band is no candidate; a candidate waits for a partner where none waits that it
fits. -/
def Obligations.RegionsAndMerging : Prop :=
  (∀ c s e, Issues 0x51 c s e → e.b.committed = true →
     ∃ t b snap, exec (.rgn c) s = .next t ∧ t.thread e.t = some b ∧ b.x.workSet = rgnSlots c.payload e.regs ∧
       (e.b.pends = [] → snap = e.b.r) ∧
       Goes e s (exec (.rgn c) s) e.next { e.b with region := if e.b.trapPriv then e.b.region
         else { restart := e.b.x.pc, tag := e.b.region.tag + 1, snap := snap, stores := 0 } }) ∧
  (∀ c s e cw, Issues 0x50 c s e → CrewAt e s cw → e.b.committed = true → (∀ f ∈ e.b.flags, f.2 = 0) →
     (∀ o ∈ (s.coreOf e.t.die e.t.core).jq ++ cw.ctl.jsaved, o.thread ≠ e.t) →
     (cw.candidate e.b = false → GoesNew e s (exec (.mrg c) s) e.next e.b) ∧
     (cw.candidate e.b = true → cw.mergePartner (e.t.band.getD 0) e.b = none →
       Goes e s (exec (.mrg c) s) e.b.x.pc e.b ∧
       ∃ t b, exec (.mrg c) s = .next t ∧ t.thread e.t = some b ∧ b.x.phase = .merging e.now))

/-- R138, R331 and R408: `EXIT` and `TEND` set the exited bit of each lane in which they act; a lane that runs a task ends it, and the
live counter of its grid on its die falls by the tasks that end; where a lane is left, the thread goes on. -/
def Obligations.Exits : Prop :=
  ∀ (mk : Code → Instr) (opc : Nat), (mk = .exit ∧ opc = 0x44) ∨ (mk = .tend ∧ opc = 0xE2) →
    ∀ c s e cw, Issues opc c s e → CrewAt e s cw → e.lanes ≠ 0 → e.b.requeue = 0 →
    ((e.b.exitLanes e.lanes).alive = [] ∨ e.b.tasks &&& e.lanes ≠ 0 ∨ opc = 0xE2 → e.b.committed = true) →
    ∃ t b, exec (mk c) s = .next t ∧ t.thread e.t = some b ∧ b.r.exited = e.b.r.exited ||| e.lanes ∧ b.r.nest = e.b.r.nest ∧
      b.r.preds = e.b.r.preds ∧ b.r.slots = e.b.r.slots ∧ b.r.uni = e.b.r.uni ∧
      t.mem = s.mem ∧ SameOthers e.t s t ∧
      (t.gridDie e.t.die cw.cfg.handle).live = (s.gridDie e.t.die cw.cfg.handle).live
        - popCount (if e.b.committed then e.b.tasks &&& (e.b.r.exited ||| e.lanes) else 0) ∧
      b.tasks = e.b.tasks &&& ~~~(if e.b.committed then e.b.tasks &&& (e.b.r.exited ||| e.lanes) else 0) ∧
      (if (e.b.exitLanes e.lanes).alive = [] then b.running = false else b.running = true ∧ b.x.pc = e.lands s e.next)

/-! ## Memory instructions -/

/-- R378 to R384 and R204, in a scratch space: `LD` reads each acting lane's bytes, lowest address first, once no multicast window of its
blocks is open; the values reach the destination with variable latency, and memory stays as it was. An acquire of scope CORE or wider
then drops the core's RELEASE lines, R199. -/
def Obligations.ScratchLoads : Prop :=
  ∀ c s e0 cw, Issues 0xB0 c s e0 → CrewAt e0 s cw → Code.space c ≠ .glob → Code.ord c < 2 → e0.b.memHeld = false → e0.ls ≠ [] →
    let e := e0.ownRegion e0.front
    let sp := Code.space c
    let ts := e0.touches (Code.memLen c)
    let offs := ts.map fun t => t.addr.toNat
    e.check s cw sp 1 .load attrR ts = .ok → e.uninits s cw sp ts = [] →
    (sp = .clus → s.mcHeld e.t.crew cw (ThreadRef.reader e.t) offs = none) →
    let d := e0.destOf (typeWords c.type) (memBytes c.type) (intSigned c.type.toNat) c.rmode.toNat
      (if 0xC ≤ c.type.toNat then c.type.toNat else 0)
    let v := fun (t : Touch) => d.value (if sp = .clus then s.mcRead e.t.crew cw (ThreadRef.reader e.t) t.addr.toNat t.len
      else s.getScr e.t.crew cw sp (e.laneCtx cw t.lane) t.addr.toNat t.len)
    ∃ u t, exec (.ld c) s = .next t ∧ t.mem = s.mem ∧
      Answers e s (.next u) (e.varied (ts.flatMap fun t => d.writes t.lane (v t).bits) none (ts.foldl (fun st t => st ||| (v t).st) 0)) ∧
      (let u1 := if Code.ord c = 1 ∧ 3 ≤ Code.scope c then u.l1Acquire e.t.die e.t.core else u
       t = if sp = .clus then u1.mcLeaves e.t.crew cw (ThreadRef.reader e.t) offs else u1)

/-- R378 to R384, in a scratch space: `ST` writes each acting lane's bytes at its address, lowest first, ascending by lane, and nothing
else; a release waits until every earlier access of the band is
performed, and opens a region. -/
def Obligations.ScratchStores : Prop :=
  ∀ c s e0 cw, Issues 0xB1 c s e0 → CrewAt e0 s cw → Code.space c ≠ .glob → Code.ord c % 2 = 0 → e0.b.memHeld = false → e0.ls ≠ [] →
    let rel := decide (2 ≤ Code.ord c)
    let e := e0.ownRegion (rel || e0.front)
    let sp := Code.space c
    e.check s cw sp 1 .store attrW (e0.touches (Code.memLen c)) = .ok →
    let t := e0.ls.foldl (fun t l => t.putScr e.t.crew cw sp (e.laneCtx cw l) (e0.addr l).toNat (e0.storeData l).1) s
    let p := e.fixed 1 [] none (e0.ls.foldl (fun st l => st ||| (e0.storeData l).2) 0)
    (rel = false → Ends e t (exec (.st c) s) e.next e.b [p]) ∧
    (rel = true → e0.b.quiet = true → EndsNew e t (exec (.st c) s) e.next e.b [p])

/-- R192 to R195: scratch bytes that a store writes read back; every key outside the stored bytes, and outside a word that the store
initialises, holds what it held; the other bytes of such a word go on reading as 0. -/
def Obligations.ScratchBytes : Prop :=
  ∀ (s : State) (d : Nat) (p : Spot) (v : Byte), s.MemCanonical →
    (∀ c w, p.word = some (c, w) → p.key / 4 = coreKey d c (4 * w) / 4 ∧ coreKey d c (4 * w) % 4 = 0) →
    (s.putSpot d p v).MemCanonical ∧ (s.putSpot d p v).getSpot d p = v ∧ (s.putSpot d p v).validAt d p.word = true ∧
    (∀ q : Spot, q.key ≠ p.key → q.word = p.word → q.key / 4 = p.key / 4 → (s.putSpot d p v).getSpot d q = s.getSpot d q) ∧
    (∀ k, k ≠ p.key → (k / 4 ≠ p.key / 4 ∨ s.validAt d p.word = true) → Memory.read (s.putSpot d p v).mem k = Memory.read s.mem k)

/-- R387 to R390, in a scratch space: each atomic waits for the commit, reads and rewrites its location once a lane, in ascending order,
answers the old values with variable latency, and opens a region. -/
def Obligations.ScratchAtomics : Prop :=
  ∀ (mk : Code → Instr) (opc op len : Nat) (signed : Bool) (operand : Env → Nat → Option Nat) (expect : Env → Nat → Nat)
    (dest : Env → AccDest) (c : Code) (s : State) (e0 : Env) (cw : Crew),
    let w := memBytes c.type
    let sg := intSigned c.type.toNat
    (mk = .atom ∧ opc = 0xB2 ∧ op = c.rmode.toNat ∧ len = w ∧ signed = sg ∧ operand = (fun e l => some (e.srcC l (8 * w))) ∧
        expect = (fun _ _ => 0) ∧ dest = fun e => e.destOf (typeWords c.type) w sg 0 0) ∨
    (mk = .cas ∧ opc = 0xB3 ∧ op = 7 ∧ len = w ∧ signed = sg ∧ operand = (fun e l => some (e.srcC l (8 * w))) ∧
        expect = (fun e l => e.srcD l (8 * w)) ∧ dest = fun e => e.destOf (typeWords c.type) w sg 0 0) ∨
    (mk = .atomFadd ∧ opc = 0xB4 ∧ op = 8 ∧ len = w ∧ signed = false ∧ operand = (fun e l => some (e.srcC l (8 * w))) ∧
        expect = (fun _ _ => 0) ∧ dest = fun e => e.destOf (typeWords c.type) w false 0 c.type.toNat) ∨
    (mk = .atomFmaxa ∧ opc = 0xB5 ∧ op = 9 ∧ len = 4 ∧ signed = false ∧
        operand = (fun e l => magWord ((viewFmt c.type.toNat).readPair (e.srcC l (2 * (viewFmt c.type.toNat).width))).1) ∧
        expect = (fun _ _ => 0) ∧ dest = fun e => e.destOf 1 4 false 0 0) ∨
    (mk = .amaxswap ∧ opc = 0xB6 ∧ op = 10 ∧ len = 4 ∧ signed = false ∧ operand = (fun e l => some (e.srcC l 32)) ∧
        expect = (fun _ _ => 0) ∧ dest = fun e => e.destOf 1 4 false 0 0) →
    Issues opc c s e0 → CrewAt e0 s cw → Code.space c ≠ .glob → e0.b.memHeld = false →
    (if 2 ≤ Code.ord c then e0.b.quiet else e0.b.committed) = true → e0.ls ≠ [] →
    let e := e0.ownRegion (decide (2 ≤ Code.ord c) || e0.front)
    let sp := Code.space c
    let ts := e0.touches len
    e.check s cw sp len .atomic (fun a => attrR a && attrW a && attrA a) ts = .ok → e.uninits s cw sp ts = [] →
    ∃ m u t st, m.kind = .atomic ∧ m.op = op ∧ m.len = len ∧ m.signed = signed ∧
      (∀ l ∈ e0.ls, m.operands.find? l = (operand e0 l).map (BitVec.ofNat 128)) ∧
      (opc = 0xB3 → ∀ l ∈ e0.ls, m.expects.get 0 l = BitVec.ofNat 128 (expect e0 l)) ∧
      exec (mk c) s = .next t ∧
      (let r := e.scratch cw sp m ts s
       EndsNew e r.2.2 (.next u) e.next e.b [e.varied (r.1.flatMap fun x => (dest e0).writes x.1 ((dest e0).value x.2).bits) none st]) ∧
      t = if Code.ord c % 2 = 1 ∧ 3 ≤ Code.scope c then u.l1Acquire e.t.die e.t.core else u

/-- Table 15.6: what an atomic makes of its location, by operation: add, minimum, maximum, and, or, exclusive or, exchange, compare and
swap, interval addition, amax update and swap; and that it answers the old bytes. -/
def Obligations.AtomicOperations : Prop :=
  ∀ (e : Env) (cw : Crew) (sp : Space) (m : MemOp) (t : Touch) (s : State),
    let ty : ITy := { bits := 8 * m.len, signed := m.signed }
    let bytes := s.getScr e.t.crew cw sp (e.laneCtx cw t.lane) t.addr.toNat m.len
    let old := leNat bytes
    let x := (m.operands.get 0 t.lane).toNat
    let puts := fun (n : Nat) => s.putScr e.t.crew cw sp (e.laneCtx cw t.lane) t.addr.toNat (leBytes m.len (n % 2 ^ (8 * m.len)))
    let r := e.scratchAtomic cw sp m t s
    r.1 = bytes ∧
    (m.op = 0 → r.2.2 = puts (ty.bitsOf (ty.read old + ty.read x))) ∧
    (m.op = 1 → r.2.2 = puts (ty.bitsOf (min (ty.read old) (ty.read x)))) ∧
    (m.op = 2 → r.2.2 = puts (ty.bitsOf (max (ty.read old) (ty.read x)))) ∧
    (m.op = 3 → r.2.2 = puts (old &&& x)) ∧ (m.op = 4 → r.2.2 = puts (old ||| x)) ∧ (m.op = 5 → r.2.2 = puts (old ^^^ x)) ∧
    (m.op = 6 → r.2.2 = puts x) ∧
    (m.op = 7 → r.2.2 = puts (if old = (m.expects.get 0 t.lane).toNat then x else old)) ∧
    (m.op = 8 → ∀ f, (m.len = 4 ∧ f = f16) ∨ (m.len = 8 ∧ f = f32) ∨ (m.len = 16 ∧ f = f64) →
      let a := (f.readPair old).1
      let b := (f.readPair x).1
      r.2.2 = puts (f.image [a, b] ⟨ivAdd a b, false⟩).bits) ∧
    (m.op = 9 → r.2.2 = if m.operands.find? t.lane = none then puts old else puts (amaxUpdate old x)) ∧
    (m.op = 10 → r.2.2 = puts x)

/-- R99, R382, R383 and R387, in `glob` space: an access whose tests pass and whose pages the lookaside holds goes into flight, cut at
64-byte lines, with every byte of every acting lane in a piece; memory stays as it is until a home performs it. A committing one holds its
thread until it is acknowledged. -/
def Obligations.GlobAccesses : Prop :=
  ∀ (mk : Code → Instr) (opc len align : Nat) (kind : AccKind) (need : W16 → Bool) (c : Code) (s : State) (e0 : Env) (cw : Crew),
    let at_ := fun (a : W16) => attrR a && attrW a && attrA a
    (mk = .ld ∧ opc = 0xB0 ∧ len = Code.memLen c ∧ align = 1 ∧ kind = .load ∧ need = attrR) ∨
    (mk = .st ∧ opc = 0xB1 ∧ len = Code.memLen c ∧ align = 1 ∧ kind = .store ∧ need = attrW) ∨
    (mk = .atom ∧ opc = 0xB2 ∧ len = memBytes c.type ∧ align = len ∧ kind = .atomic ∧ need = at_) ∨
    (mk = .cas ∧ opc = 0xB3 ∧ len = memBytes c.type ∧ align = len ∧ kind = .atomic ∧ need = at_) ∨
    (mk = .atomFadd ∧ opc = 0xB4 ∧ len = memBytes c.type ∧ align = len ∧ kind = .atomic ∧ need = at_) ∨
    (mk = .atomFmaxa ∧ opc = 0xB5 ∧ len = 4 ∧ align = 4 ∧ kind = .atomic ∧ need = at_) ∨
    (mk = .amaxswap ∧ opc = 0xB6 ∧ len = 4 ∧ align = 4 ∧ kind = .atomic ∧ need = at_) →
    Issues opc c s e0 → CrewAt e0 s cw → Code.space c = .glob → e0.b.memHeld = false → e0.ls ≠ [] →
    let ts := e0.touches len
    let rel := decide (2 ≤ Code.ord c) && !e0.allFree s cw ts
    let committing := kind == .atomic || rel
    let e := e0.ownRegion (rel || e0.front)
    (committing = true → (if rel then e0.b.quiet else e0.b.committed) = true) → e.check s cw .glob align kind need ts = .ok →
    (kind = .store → (s.coreOf e.t.die e.t.core).lfsb +
      ((e0.ls.flatMap fun l => (List.range len).map fun i => ((e0.addr l).toNat + i) / 64).eraseDups).length ≤ 1024) →
    ∃ a t b, a.id = e.id ∧ a.kind = kind ∧ a.lanes = e.lanes ∧ a.pc = e.b.x.pc ∧ a.flag = e.flag ∧ a.release = rel ∧
      (∀ p ∈ a.pieces, p.st = .held ∧ 0 < p.len ∧ p.va / 64 = (p.va + p.len - 1) / 64) ∧
      (∀ l ∈ e0.ls, ∀ i, i < len → ∃ p ∈ a.pieces, p.mask.getLsbD l = true ∧
        p.va ≤ (e0.addr l).toNat + i ∧ (e0.addr l).toNat + i < p.va + p.len) ∧
      Ends e (if kind = .atomic then e.atomDrops cw ts s else s) (exec (mk c) s) e.next
        { e.b with accs := e.b.accs ++ [a],
                   region := if kind = .store then { e.b.region with stores := e.b.region.stores + 1 } else e.b.region } [] ∧
      exec (mk c) s = .next t ∧ t.mem = s.mem ∧ t.net = s.net ∧
      t.thread e.t = some b ∧ b.x.phase = (if committing then .performed e.id else .fresh)

/-- R195 and R196: a read that meets uninitialised words of core or cluster space raises the trap of cause 6 in the lanes that meet one,
with the first address of the lowest, and where the crew's warnings are on makes an entry in its log and goes on. -/
def Obligations.UninitialisedReads : Prop :=
  ∀ (e : Env) (s : State) (cw : Crew) (sp : Space) (ts : List Touch) (k : State → Host.Outcome State Fault Refusal) (l a : Nat)
    (rest : List (Nat × Nat)), e.uninits s cw sp ts = (l, a) :: rest →
    (sp = .core ∨ sp = .clus) ∧
    (cw.ctl.scrchkLog = false → ∃ lanes, e.initCheck s cw sp ts k =
        .next (e.raise 6 (BitVec.ofNat 64 (a + if sp = .clus then 2 ^ 62 else 0)) lanes s) ∧
      ∀ i, i < 64 → (lanes.getLsbD i = true ↔ i = l ∨ ∃ x ∈ rest, x.1 = i)) ∧
    (cw.ctl.scrchkLog = true → e.initCheck s cw sp ts k = k (s.logUninit e.t.crew false (sp == .clus) l a e.b.x.pc.toNat))

/-! ## Ordering and bringing threads together -/

/-- R217 and R391: `FENCE.ACQ` waits for the loads and atomics before it; the other fences wait until every earlier access of
the band is performed, and open a region;
`FENCE.AR` of scope CORE or wider drops the RELEASE lines of the L1, and `FENCE.DRAIN` its FREE lines. -/
def Obligations.Fences : Prop :=
  (∀ c s e, Issues 0xB7 c s e → c.srca.bits.toNat / 8 % 4 = 0 →
    ∃ u w, exec (.fence c) s = .next (u.poll e.t) ∧ w.kind = .fence (c.srca.bits.toNat % 8) e.id ∧
      Ends e s (.next u) e.next { e.b with waits := e.b.waits ++ [w] } []) ∧
  (∀ c s e, Issues 0xB7 c s e → e.b.quiet = true →
    (c.srca.bits.toNat / 8 % 4 = 1 → GoesNew e s (exec (.fence c) s) e.next e.b) ∧
    (c.srca.bits.toNat / 8 % 4 = 2 →
      GoesNew e (if 3 ≤ c.srca.bits.toNat % 8 then s.l1Acquire e.t.die e.t.core else s) (exec (.fence c) s) e.next e.b) ∧
    GoesNew e (s.l1Drain e.t.die e.t.core) (exec (.fenceDrain c) s) e.next e.b) ∧
  (∀ (s : State) (d c : Nat), s.mem = (s.l1Acquire d c).mem ∧ s.mem = (s.l1Drain d c).mem ∧
    (∀ l, l ∈ ((s.l1Acquire d c).coreOf d c).l1 ↔ l ∈ (s.coreOf d c).l1 ∧ l.free = true) ∧
    (∀ l, l ∈ ((s.l1Drain d c).coreOf d c).l1 ↔ l ∈ (s.coreOf d c).l1 ∧ l.free = false))

/-- R393 to R395: `BAR`, once its band has committed, arrives at its next generation, and waits for it unless it is complete. R212, R400 and
R401: `ARRIVE` adds source B to the arrival count of each acting lane's counter, in its upper four bytes, and opens a region; `AWAIT`
waits for its counters. -/
def Obligations.Meetings : Prop :=
  (∀ c s e cw, Issues 0xB8 c s e → CrewAt e s cw → e.b.committed = true →
     let kind := c.srca.bits.toNat % 4
     let roster := if kind = 2 then e.srcB 0 32 else 0
     (kind = 2 → cw.cfg.rosters.contains roster = true) →
     ∃ t b, exec (.bar c) s = .next t ∧ t.thread e.t = some b ∧ b.x.pc = e.lands s e.next ∧
       b.gen kind roster = e.b.gen kind roster + 1 ∧ b.r = e.b.r ∧ b.accs = e.b.accs ∧ t.mem = s.mem ∧ SameOthers e.t s t ∧
       (b.x.phase = .fresh ∨ ∃ w, b.x.phase = .barrier w ∧ w.kind = kind ∧ w.roster = roster ∧ w.gen = e.b.gen kind roster ∧
         w.pc = e.b.x.pc)) ∧
  (∀ c s e0 cw, CrewAt e0 s cw → e0.b.memHeld = false → e0.ls ≠ [] →
     let e := e0.ownRegion e0.front
     let sp := if c.mods.getLsbD 0 then Space.clus else Space.core
     let ts := e0.ls.map fun l => (⟨l, (e.srcA l 32 : Nat), 8⟩ : Touch)
     let counts := ts.map fun t => { t with addr := t.addr + 4, len := 4 }
     (Issues 0xB9 c s e0 → e0.b.committed = true → e.check s cw sp 8 .atomic attrR ts = .ok → e.uninits s cw sp counts = [] →
       ∃ m st, m.kind = .atomic ∧ m.op = 0 ∧ m.len = 4 ∧ (∀ l ∈ e0.ls, m.operands.find? l = some (BitVec.ofNat 128 (e.srcB l 32))) ∧
         EndsNew e (e.scratch cw sp m counts s).2.2 (exec (.arrive c) s) e.next e.b [e.varied [] none st]) ∧
     (Issues 0xBA c s e0 → e.check s cw sp 8 .load attrR ts = .ok → e.uninits s cw sp ts = [] →
       ∃ u w, exec (.await c) s = .next (u.poll e.t) ∧
         w.kind = .await (c.mods.getLsbD 0) (ts.map fun t => (t.lane, t.addr.toNat)) ∧
         Ends e s (.next u) e.next { e.b with waits := e.b.waits ++ [w] } []))

/-- R397 to R399: a roster collective, where its operands lie in the crew's space, issues its crew's next generation with the bytes of its
source as they are now, and the thread goes on; the destination is written only as the results arrive. -/
def Obligations.RosterCollectives : Prop :=
  ∀ (rred : Bool) (c : Code) (s : State) (e : Env) (cw : Crew) (g : Grid),
    Issues (if rred then 0xBC else 0xBB) c s e → CrewAt e s cw → s.gridOf cw.cfg.handle = some g →
    let k := CollCmd.of rred c.payload.toNat
    let members := g.rosters.getD k.roster []
    let src := e.srcA 0 32
    let n := 2 * k.roster + if rred then 1 else 0
    e.lanes ≠ 0 → e.b.memHeld = false → cw.cfg.rosters.contains k.roster = true → k.root < members.length →
    k.doff + k.len ≤ cw.cfg.scrKB * 1024 → src + k.len ≤ cw.cfg.scrKB * 1024 → src % 16 = 0 →
    (rred = true ∨ members.getD k.root 0 = cw.cfg.lin → e.uninits s cw .core [⟨lowestLane e.lanes, (src : Nat), k.len⟩] = []) →
    ∃ t b w i cw', exec (if rred then .rred c else .rmcast c) s = .next t ∧ t.thread e.t = some b ∧ b.x.pc = e.lands s e.next ∧
      b.waits = e.b.waits ++ [w] ∧ w.kind = .coll ∧ w.id = e.id ∧ b.r = e.b.r ∧ t.mem = s.mem ∧ SameOthers e.t s t ∧
      t.colls = s.colls ++ [i] ∧ i.thread = e.t ∧ i.waitId = e.id ∧ i.lin = cw.cfg.lin ∧ i.rred = rred ∧ i.roster = k.roster ∧
      i.gen = cw.ctl.collGens.get 0 n ∧ i.bytes = s.getScr e.t.crew cw .core 0 src k.len ∧
      t.crewOf e.t.crew = some cw' ∧ cw'.ctl.collGens.get 0 n = cw.ctl.collGens.get 0 n + 1

/-! ## Copy commands -/

/-- R392, R402 to R404: a copy command enters its channel behind the commands there, and the thread goes on; `CPY.ADD` waits for the commit
first. `QFENCE` enters the Infuser's queue or a channel in the same way. -/
def Obligations.CopyCommands : Prop :=
  (∀ (mk : Code → Instr) (opc : Nat) (op : CopyOp), (mk = .cpy ∧ opc = 0xD0 ∧ op = .cpy) ∨ (mk = .cpyg ∧ opc = 0xD1 ∧ op = .cpyg) ∨
      (mk = .cpys ∧ opc = 0xD2 ∧ op = .cpys) ∨ (mk = .cpyAdd ∧ opc = 0xD3 ∧ op = .cpyAdd) →
    ∀ c s e, Issues opc c s e → e.lanes ≠ 0 → (op = .cpyAdd → e.b.committed = true) →
    let ch := field c.payload.toNat 62 2
    let core := s.coreOf e.t.die e.t.core
    (core.copy.getD ch []).length < 16 →
    ∃ k : CopyCmd, k.op = op ∧ k.cmd = c.payload ∧ k.seq = core.seq ∧ k.thread = e.t ∧ k.waitId = e.id ∧ k.slot = e.t.slot ∧
      k.st = .queued ∧ k.pos = 0 ∧ k.recAddr = BitVec.ofNat 64 (e.srcA 0 64) ∧ k.dense = BitVec.ofNat 64 (e.srcB 0 64) ∧
      Waits e (s.updCore e.t.die e.t.core fun x => { x with copy := x.copy.modify ch fun q => q ++ [k], seq := x.seq + 1 })
        (exec (mk c) s) e.b .copy) ∧
  (∀ c s e, Issues 0xD4 c s e →
    let x := c.srcb.bits.toNat % 8
    let op := c.srca.bits.toNat % 32
    let core := s.coreOf e.t.die e.t.core
    (x = 0 → core.jq.length < 32 → ∃ o : JOp, o.kind = .qfence op ∧ o.thread = e.t ∧ o.waitId = e.id ∧
      Queues e s (exec (.qfence c) s) e.b .infuser [o]) ∧
    (x ≠ 0 → (core.copy.getD (x - 1) []).length < 16 → ∃ k : CopyCmd, k.op = .qfence op ∧ k.seq = core.seq ∧ k.thread = e.t ∧
      Waits e (s.updCore e.t.die e.t.core fun y => { y with copy := y.copy.modify (x - 1) fun q => q ++ [k], seq := y.seq + 1 })
        (exec (.qfence c) s) e.b .copy))

/-! ## Tasks and grids -/

/-- R133 to R136, R138, R406 and R407: `EMIT` and `SPLIT`, once the band has committed, in a crew with a window, give one record for each
acting lane (`SPLIT`: for each whose interval can be halved), in some order of the lanes; the records are counted and enter the window,
and a region opens. `SPLIT` leaves the lower half, or the interval itself, and T or F where it is told to. R134 and R136: new records
are counted as live work of their grid on the die; one that has a bin, or may open one, enters a window that has room, as its youngest. -/
def Obligations.TaskCreation : Prop :=
  (∀ c s e cw, Issues 0xE0 c s e → CrewAt e s cw → e.lanes ≠ 0 → e.b.committed = true → cw.cfg.poolN ≠ 0 →
    (∀ l ∈ e.ls, recValid (e.record l) = true) → (∀ order : List Nat, order.Perm e.ls → (e.create cw (order.map e.record) s).isSome) →
    ∃ (order : List Nat) (s1 : State), order.Perm e.ls ∧ e.create cw (order.map e.record) s = some s1 ∧ GoesNew e s1 (exec (.emit c) s) e.next e.b) ∧
  (∀ c s e cw, Issues 0xE1 c s e → CrewAt e s cw → e.lanes ≠ 0 → e.b.committed = true → cw.cfg.poolN ≠ 0 →
    let half := fun l => e.fmt.halves (e.ivA l)
    let kid := fun l => match half l with | some h => e.child s cw l h.2 | none => []
    let kids := e.ls.filter fun l => (half l).isSome
    (∀ order : List Nat, order.Perm kids → (e.create cw (order.map kid) s).isSome) →
    let left := e.ls.flatMap fun l => e.slotWrites c.dst l e.words (e.fmt.pair (match half l with | some h => h.1 | none => e.ivA l))
    let preds := if c.mods.getLsbD 7 then e.ls.map fun l => (predKey l (c.mods.toNat / 16 % 8),
      BitVec.ofNat 64 (if (half l).isSome then 1 else 0)) else []
    ∃ (order : List Nat) (s1 : State) (st : BitVec 6), order.Perm kids ∧ e.create cw (order.map kid) s = some s1 ∧
      EndsNew e s1 (exec (.split c) s) e.next e.b [e.varied (left ++ preds) none st]) ∧
  (∀ (e : Env) (cw : Crew) (r : List Byte) (s : State), CrewAt e s cw → (s.gridDie e.t.die cw.cfg.handle).cancelled = false →
     cw.hasBin r = true → cw.window.length < cw.cfg.poolN →
     ∃ s1 cw', e.create cw [r] s = some s1 ∧ s1.crewOf e.t.crew = some cw' ∧
       cw'.window = cw.window ++ [{ record := r, order := cw.winNext, at_ := s.cyc e.t.die }] ∧
       (s1.gridDie e.t.die cw.cfg.handle).live = (s.gridDie e.t.die cw.cfg.handle).live + 1 ∧ s1.mem = s.mem ∧
       cw'.bands = cw.bands ∧ cw'.front = cw.front)

/-- R144, R145 and R409: an enqueue whose records and destinations are in order, and whose reservations have room for them all, counts each
record as live work and sends it, and a region opens; for `ENQ.A` and an enqueue of a front context it opens at the last acknowledgement, for
which the thread waits. -/
def Obligations.Enqueues : Prop :=
  ∀ (ack : Bool) (c : Code) (s : State) (e : Env) (cw : Crew) (g : Grid), Issues (if ack then 0xE4 else 0xE3) c s e → CrewAt e s cw →
    s.gridOf cw.cfg.handle = some g → e.lanes ≠ 0 → e.b.committed = true → e.b.x.phase = .fresh →
    let h := cw.cfg.handle
    let dst := fun l => EnqDst.of (e.srcB l 32)
    (∀ l ∈ e.ls, (dst l).rsvd = false ∧ recValid (e.record l) = true ∧ s.enqRefused g (dst l) = false ∧
      (recNoSteal (e.record l) = true → (dst l).pkg = s.pkg ∧ (dst l).die = e.t.die)) →
    (∀ l ∈ e.ls, s.enqUsed e.t.die (handleCtx h).toNat (dst l).pkg (dst l).die +
      (e.ls.filter fun k => (dst k).pkg == (dst l).pkg && (dst k).die == (dst l).die).length ≤ (s.gridDie e.t.die h).enqRes) →
    ∃ s1 w, s1.mem = s.mem ∧ (s1.gridDie e.t.die h).live = (s.gridDie e.t.die h).live + e.ls.length ∧ w.kind = .enq ∧
      (∀ l ∈ e.ls, (dst l).pkg = s.pkg → ∃ p ∈ s1.net, p.hdr.dstSock.toNat = (dst l).die % 2 ^ 5 ∧
        ∃ b, p.body = .enq b ∧ b.record = e.record l ∧ b.handle = h ∧ b.route.queue.toNat = (dst l).queue ∧ b.route.ackReq = ack) ∧
      (if ack ∨ e.front then
         Ends e s1 (exec (if ack then .enqA c else .enq c) s) e.next { e.b with waits := e.b.waits ++ [w] }
             (if ack then [] else e.flagOnly) ∧
           ∃ t b, exec (if ack then .enqA c else .enq c) s = .next t ∧ t.thread e.t = some b ∧ b.x.phase = .performed e.id
       else EndsNew e s1 (exec (.enq c) s) e.next e.b e.flagOnly)

/-- R104 and R410 to R412: `LAUNCH` reads its token where its address may be read, and waits for its handle, or receives 0 where the token
is dropped; `GCANCEL` cancels a grid of its own context; `GSTATUS` answers 0 for a grid of another context or one that is not known, the
completion word of one that has ended, and else the handle itself. -/
def Obligations.GridInstructions : Prop :=
  (∀ c s e0 cw tok s1 d, Issues 0xE5 c s e0 → CrewAt e0 s cw → e0.b.committed = true → uniOf e0.front c.dst = some d → d < 64 →
    let e := e0.ownRegion true
    let va := e.srcA 0 64
    let q := e.srcB 0 64
    let ctx := handleCtx cw.cfg.handle
    let x := palFind (s.coreOf e.t.die e.t.core).pal ctx va s.timeCount
    let a := match x with | some x => x.attr | none => 0
    e.check s cw .glob 64 .load attrR [⟨lowestLane e.lanes, (va : Nat), 64⟩] = .ok → s.foreign va = false →
    s.homeRead ctx va 64 (s.homeSock ctx va (attrKind a) (attrDdr a)) = (0, tok, s1) →
    let r := s1.tokenArrive ctx.toNat q tok (some (e.t, e.id))
    (q < 64 → r.2 = true → Waits e r.1 (exec (.launch c) s) e.b (.launch d) ∧
      ∃ t b, exec (.launch c) s = .next t ∧ t.thread e.t = some b ∧ b.x.phase = .launching e.id) ∧
    (q < 64 → r.2 = false → GoesNew e r.1 (exec (.launch c) s) e.next { e.b with r := e.b.r.putKey (uniKey d) 0 }) ∧
    (64 ≤ q → GoesNew e s1 (exec (.launch c) s) e.next { e.b with r := e.b.r.putKey (uniKey d) 0 })) ∧
  (∀ c s e cw, Issues 0xE6 c s e → CrewAt e s cw → ∃ u, Goes e s (.next u) e.next e.b ∧
    exec (.gcancel c) s = .next (if handleCtx e.handle = handleCtx cw.cfg.handle then u.cancelAt e.t.die e.handle else u)) ∧
  (∀ c s e cw, Issues 0xE7 c s e → CrewAt e s cw → ∃ v : W64, Answers e s (exec (.gstatus c) s) (e.varied (e.uniWrites v.toNat) none 0) ∧
    (handleCtx e.handle ≠ handleCtx cw.cfg.handle → v = 0) ∧
    (handleCtx e.handle = handleCtx cw.cfg.handle →
      (s.gridOf e.handle = none → v = 0) ∧
      ∀ g, s.gridOf e.handle = some g →
        (∀ k, g.own.st = .ended k → v = completionWord k g.reason e.handle) ∧ (g.own.isEnded = false → v.toNat = e.handle.toNat)))

/-! ## The Infuser -/

/-- R417 and R432 to R435: `JPASS` with operands in order enters one operation for each quarter with an acting lane; `JBIT` and `JSTREAM`
enter one. R428 and R429: `JBATCH` closes every open operation of its band into the band's next batch, whose number it writes; the batch
is pending until its operations are over. `JWAIT` goes on once its batch is not pending. -/
def Obligations.InfuserOperations : Prop :=
  (∀ c s e cw, Issues 0xF0 c s e → CrewAt e s cw → e.lanes ≠ 0 →
    let tbl := field c.payload.toNat 60 4
    let o := e.jOp .pass tbl (e.jUnis 3 ++ e.maskReg)
    let rest := [(o.bsp, 16, o.ulo 0, 512 * o.esz)] ++
        (if o.scaled then e.ls.map (fun l => (o.asp, 1, o.uhi 0 + l, 1)) ++ [(o.bsp, 1, o.ulo 1, 16)] else [])
    let quarters := (List.range 8).filter fun q => e.ls.any fun l => l / 8 == q
    (cw.plan tbl).mode ≠ 0 → o.uhi 1 = 0 → coordsOk (o.u 2) = true →
    (∀ l ∈ e.ls, s.extentOk e.t.crew cw o.asp 16 (e.srcA l 32) (32 * o.esz) = true) →
    (∀ x ∈ rest, s.extentOk e.t.crew cw x.1 x.2.1 x.2.2.1 x.2.2.2 = true) →
    (s.coreOf e.t.die e.t.core).jq.length + quarters.length ≤ 32 →
    Queues e s (exec (.jpass c) s) e.b .infuser (quarters.map fun q =>
      { o with quarter := q, rows := (List.range 8).map fun i =>
          if e.lanes.getLsbD (8 * q + i) then some (e.srcA (8 * q + i) 32) else none })) ∧
  (∀ c s e cw, Issues 0xF1 c s e → CrewAt e s cw → e.lanes ≠ 0 →
    let tbl := field c.payload.toNat 60 4
    let o := e.jOp .bit tbl (e.jUnis 4 ++ e.maskReg)
    let k := o.klen
    let exts := [(o.asp, 16, o.ulo 0, 2 * k), (o.asp, 16, o.uhi 0, 16 * k * o.esz), (o.bsp, 16, o.ulo 1, 2 * k),
      (o.bsp, 16, o.uhi 1, 16 * k * o.esz)] ++ (if o.scaled then [(o.asp, 1, o.ulo 3, k / 2), (o.bsp, 1, o.uhi 3, k / 2)] else [])
    (cw.plan tbl).mode ≠ 0 → coordsOk (o.u 2) = true → (∀ x ∈ exts, s.extentOk e.t.crew cw x.1 x.2.1 x.2.2.1 x.2.2.2 = true) →
    (s.coreOf e.t.die e.t.core).jq.length < 32 → Queues e s (exec (.jbit c) s) e.b .infuser [o]) ∧
  (∀ c s e cw, Issues 0xF2 c s e → CrewAt e s cw → e.lanes ≠ 0 →
    let tbl := field c.payload.toNat 60 4
    let o := e.jOp .stream tbl (e.jUnis 2)
    (cw.plan tbl).mode ≠ 0 → s.extentOk e.t.crew cw o.asp 16 (o.ulo 0) (16 * o.uhi 0) = true →
    s.extentOk e.t.crew cw o.bsp 16 (o.ulo 1) (16 * o.uhi 1) = true →
    (s.coreOf e.t.die e.t.core).jq.length < 32 → Queues e s (exec (.jstream c) s) e.b .infuser [o]) ∧
  (∀ c s e, Issues 0xF3 c s e → e.b.batchPend.get false e.b.batchNext = false →
    let n := e.b.batchNext
    let close := fun (o : JOp) => if o.thread == e.t && o.batch.isNone && o.kind.batched then { o with batch := some n } else o
    ∃ u p w, p.writes = e.uniWrites n ∧ p.ready = some (e.now + 1) ∧ w.kind = .batch n ∧ w.flag = e.flag ∧
      Ends e (s.updCore e.t.die e.t.core fun k => { k with jq := k.jq.map close }) (.next u) e.next
        { e.b with batchNext := (n + 1) % 16, batchPend := e.b.batchPend.set n true,
                   batchSt := (e.b.batchSt.set n (e.b.batchSt.get 0 16)).set 16 0, waits := e.b.waits ++ [w] } [p] ∧
      exec (.jbatch c) s = .next (if u.batchOver e.t n then u.batchDone e.t n else u)) ∧
  (∀ c s e, Issues 0xF4 c s e → e.b.batchPend.get false (e.srcA 0 64 % 16) = false → Goes e s (exec (.jwait c) s) e.next e.b)

/-- R423 to R426, R444 and R449: `JCFG`, `JCLR`, `JQRY` and `JDRAIN` enter their operation; `JCFG` reads its descriptor at issue and plans its
table, unless the table is stopped with the same shape, when it is configured at once; `JDRAIN` waits for the commit and opens a region at itself.
What stands at the front of the queue and needs no engine is then performed. -/
def Obligations.InfuserControl : Prop :=
  (∀ c s e cw, CrewAt e s cw → (s.coreOf e.t.die e.t.core).jq.length < 32 →
    let ts : List Touch := [⟨lowestLane e.lanes, (e.srcA 0 32 : Nat), 64⟩]
    let desc := s.getScr e.t.crew cw .core 0 (e.srcA 0 32) 64
    let d := JTable.parse desc
    let plan := fun (w : Crew) => { w with planned := w.planned.set (Code.tbl c) d }
    (Issues 0xF6 c s e → e.b.memHeld = false → e.check s cw .core 1 .load attrR ts = .ok → e.uninits s cw .core ts = [] →
      descBad cw (Code.tbl c) desc = false →
      (((cw.table (Code.tbl c)).stopped = true ∧ (cw.table (Code.tbl c)).shape = d.shape) →
        Goes e ((s.configure e.t.crew (Code.tbl c) d).updCrew e.t.crew plan) (exec (.jcfg c) s) e.next e.b) ∧
      (¬((cw.table (Code.tbl c)).stopped = true ∧ (cw.table (Code.tbl c)).shape = d.shape) →
        ∃ u o, o.kind = JOpKind.cfg ∧ o.tbl = Code.tbl c ∧ o.desc = desc ∧ Queues e s (.next u) e.b .infuser [o] ∧
          exec (.jcfg c) s = .next ((u.updCrew e.t.crew plan).jSettle e.t.die e.t.core))) ∧
    (Issues 0xF6 c s e → ∃ u o, o.kind = .clr (c.mods.getLsbD 6) ∧ o.tbl = Code.tbl c ∧ Queues e s (.next u) e.b .infuser [o] ∧
      exec (.jclr c) s = .next (u.jSettle e.t.die e.t.core)) ∧
    (Issues 0xF6 c s e → ∀ n, c.srcb = .imm n → ∃ u o, o.kind = .qry (immVal n).toNat ∧ o.tbl = Code.tbl c ∧
      o.dst = uniOf false c.dst ∧ Queues e s (.next u) e.b (.query ((uniOf false c.dst).toList.map uniKey)) [o] ∧ exec (.jqry c) s = .next (u.jSettle e.t.die e.t.core)) ∧
    (Issues 0xF5 c s e → e.b.committed = true →
      let tbl := field c.payload.toNat 60 4
      let o := { e.jOp .drain tbl (e.jUnis 4) with readDone := true }
      (cw.plan tbl).mode ≠ 0 → coordsOk (o.u 1) = true → s.drainAddrs e.t.crew cw o = none →
      ∃ r, (e.b.trapPriv = false → r.restart = e.b.x.pc ∧ r.tag = e.b.region.tag + 1) ∧
        Queues e s (exec (.jdrain c) s) { e.b with region := r } .drain [o]))

/-- R453 and R454: `JSAVE` writes the crew's tables, operations and Caddy share to its area, and the crew's operations leave the queue;
`JLOAD` reads an area whose bytes may be read, gives the crew the tables that it holds, and queues the operations that it holds. -/
def Obligations.InfuserSaveAndLoad : Prop :=
  (∀ c s e0 cw s1, Issues 0xF7 c s e0 → CrewAt e0 s cw → e0.b.committed = true →
    let e := e0.ownRegion true
    let va := e0.srcA 0 64
    let ops := (s.crewOps e.t.crew).map fun o => { o with st := if o.halted && !o.stopped then .queued else o.st }
    va + (8 * cw.cfg.caddy + 4096) ≤ 2 ^ 56 → va % 64 = 0 → (∀ t, t < 16 → (cw.table t).noRoom = false) →
    (∀ o ∈ s.crewOps e0.t.crew, o.refused = none) →
    s.globWrites e.eng cw (s.saveWrites e.t.crew cw va ops) = (none, s1) →
    Answers e ((s1.engDone e.eng).jDetach e.t.crew ops) (exec (.jsave c) s) (e.varied [] none 0) ∧
      ∃ t, exec (.jsave c) s = .next t ∧ ∀ o ∈ (t.coreOf e.t.die e.t.core).jq, o.slot ≠ e.t.slot) ∧
  (∀ c s e0 cw a s1 counts s2 ts s3, Issues 0xF7 c s e0 → CrewAt e0 s cw → e0.b.committed = true →
    let e := e0.ownRegion true
    let va := e0.srcA 0 64
    let r := e.t.crew
    let g := e.eng
    let n := 8 * cw.cfg.caddy + 4096
    va + n ≤ 2 ^ 56 → va % 64 = 0 → s.crewOps r = [] → (∀ t, t < 16 → (cw.plan t).mode = 0) →
    s.engRead g cw .glob attrR va n = (.ok a, s1) → s1.tailCounts g cw a.bytes 16 = (.ok counts, s2) →
    s2.savedTables g cw a.bytes counts 16 = (.ok ts, s3) →
    let ops := openLast a.bytes (quartersOf (restoredOps s1 r cw cw.ctl.jsaved a.bytes))
    (s1.coreOf r.die r.core).jq.length + ops.length ≤ 32 →
    ∃ u, Answers e (s3.engDone g) (.next u) (e.varied [] none 0) ∧
      exec (.jload c) s = .next ((((((u.jInstall r ts).updCrew r fun w => { planOps ops w with ctl := { w.ctl with jsaved := [] } }).bandWords
        r a.bytes).jAppend r.die r.core ops)).jSettle r.die r.core))

/-! ## Control registers and traps -/

/-- R183 and R350: `CSRR` writes `NEST` in every lane that has not exited, at TRAP privilege; `LANEID` in the acting lanes; and any other
register's value to its uniform register. -/
def Obligations.ControlReads : Prop :=
  ∀ c s e cw, Issues 0xF8 c s e → CrewAt e s cw →
    let n := Code.csr c
    (n = 1 → e.b.trapPriv = true → Answers e s (exec (.csrr c) s)
      (e.varied (e.laneWrites 1 (e.b.alive.map fun l => (l, e.b.count l))) none 0)) ∧
    (n = 2 → Answers e s (exec (.csrr c) s) (e.varied (e.laneWrites 1 (e.ls.map fun l => (l, l))) none 0)) ∧
    (n ≠ 1 → n ≠ 2 → ∃ v : W64, Answers e s (exec (.csrr c) s) (e.varied (e.uniWrites v.toNat) none 0) ∧
      (n = 0 → v = e.b.exec) ∧ (n = 3 → ∀ k, e.t.band = some k → v = BitVec.ofNat 64 k) ∧ (n = 0x040 → v.toNat = e.b.r.status.toNat) ∧
      (∀ g, 0x040 < n → n ≠ 0x093 → n ≠ 0x100 → n ≠ 0x101 → csrReg e.t.crew (handleCtx cw.cfg.handle).toNat n = some g →
        v = s.regValue g))

/-- R180, R183 and R351: `CSRW` of `EXEC` acts on lanes whose counter is 0 or 1; of `NEST`, at TRAP privilege, on every lane that has not
exited; a write of a register marked "none" changes nothing but `TRAP_RSVDW`, where it sets a reserved bit; of a trap register or of `ARITH_STATUS` it takes effect at once; of a crew
register when it reaches the register, with the result on its way. R183, R351 and R354, in the privilege they ask: `NEST`, the trap registers and `TRET` raise the
permission violation, with code 5, at USER privilege; a write of a register that no band may write raises it at any. -/
def Obligations.ControlWrites : Prop :=
  (∀ c s e, Issues 0xF9 c s e → ∃ b1, Goes e s (exec (.execWrite c) s) e.next b1 ∧ { b1 with r := { b1.r with nest := e.b.r.nest } } = e.b ∧
    ∀ l, b1.count l = if l ∈ e.b.alive ∧ e.b.count l ≤ 1 then (if (e.srcA 0 64).testBit l then 0 else 1) else e.b.count l) ∧
  (∀ c s e, Issues 0xF9 c s e → e.b.trapPriv = true → ∃ b1, Goes e s (exec (.nestWrite c) s) e.next b1 ∧
    { b1 with r := { b1.r with nest := e.b.r.nest } } = e.b.rsvdWrite (e.b.alive.any fun l => e.srcA l 32 / 2 ^ 9 != 0) ∧
    ∀ l, b1.count l = if l ∈ e.b.alive then e.srcA l 32 % 256 else e.b.count l) ∧
  (∀ c s e, Issues 0xF9 c s e →
    let v := BitVec.ofNat 64 (e.srcA 0 64)
    Ends e s (exec (.crewMergeWrite c) s) e.next (e.b.rsvdWrite ((Reg.crewMerge e.t.crew).rsvdHit v))
      [{ e.varied [] none 0 with csr := some (Code.csr c, v) }]) ∧
  (∀ (s : State) (r : CrewRef) (v : W64),
    let p := v.toNat % 128
    s.performCsr r (0x060, v) = s.updCrew r (fun w => { w with ctl := { w.ctl with
      mergePct := if p = 0 then 25 else if 100 < p then 100 else p } }) ∧
    s.performCsr r (0x061, v) = s.writeScrchk r v ∧ s.performCsr r (0x088, v) = s.writeCpyCtl r v) ∧
  (∀ c s e, Issues 0xF9 c s e →
    let n := Code.csr c
    let v := BitVec.ofNat 64 (e.srcA 0 64)
    (csrNone n = true → Goes e s (exec (.csrw c) s) e.next (e.b.rsvdWrite (v.toNat &&& csrNoneRsvd e.t.crew n != 0))) ∧
    (0x019 ≤ n → n ≤ 0x020 ∨ n = 0x040 → (n ≤ 0x01F → e.b.trapPriv = true) →
      ∃ b1, e.b.writeCsr e.now n v = some b1 ∧ Goes e s (exec (.csrw c) s) e.next b1) ∧
    (n = 0x061 → Ends e s (exec (.csrw c) s) e.next (e.b.rsvdWrite ((Reg.crewScrchk e.t.crew).rsvdHit v))
      [{ e.varied [] none 0 with csr := some (n, v) }]) ∧
    (n = 0x088 → Ends e s (exec (.csrw c) s) e.next (e.b.rsvdWrite (v.toNat % 2 ^ 32 / 2 ^ 8 != 0))
      [{ e.varied [] none 0 with csr := some (n, v) }])) ∧
  (∀ c s e cw, CrewAt e s cw →
     let refused := fun (o : Host.Outcome State Fault Refusal) => o = .next (e.raise 7 (BitVec.ofNat 64 (5 * 2 ^ 60)) e.lanes s)
     (Issues 0xF9 c s e → csrNone (Code.csr c) = false → (Code.csr c < 0x019 ∨ 0x020 < Code.csr c) → Code.csr c ≠ 0x040 →
       Code.csr c ≠ 0x061 → Code.csr c ≠ 0x088 → refused (exec (.csrw c) s)) ∧
     (e.b.trapPriv = false →
     (Issues 0xF8 c s e → Code.csr c = 1 → refused (exec (.csrr c) s)) ∧
     (Issues 0xF9 c s e → refused (exec (.nestWrite c) s)) ∧
     (Issues 0xF9 c s e → 0x019 ≤ Code.csr c → Code.csr c ≤ 0x01F → refused (exec (.csrw c) s)) ∧
     (Issues 0xFC c s e → refused (exec (.tretResume c) s) ∧ refused (exec (.tretSkip c) s) ∧ refused (exec (.tretWriteSkip c) s) ∧
       refused (exec (.tretRetryRegion c) s) ∧ refused (exec (.tretKillLanes c) s) ∧ refused (exec (.tretKillBand c) s))))

/-- R268, R269, R352 and R353: `STRAP` and, where it has a handler, `BKPT` enter their handler in their active lanes, with the code of
`STRAP` in `TRAP_INFO`; with no active lane they do nothing. -/
def Obligations.SoftwareTraps : Prop :=
  (∀ c s e cw pc, CrewAt e s cw → s.MemCanonical → e.front = false → e.b.trapPriv = false → e.b.writersOut = false → e.lanes ≠ 0 →
    (Issues 0xFB c s e → s.vector (handleCtx cw.cfg.handle) cw.cfg.trapVec 14 = .handler pc →
      EntersHandler e s cw (exec (.strap c) s) 14 (BitVec.ofNat 64 (c.srca.bits.toNat % 256)) e.lanes pc) ∧
    (Issues 0xFA c s e → s.vector (handleCtx cw.cfg.handle) cw.cfg.trapVec 13 = .handler pc →
      EntersHandler e s cw (exec (.bkpt c) s) 13 0 e.lanes pc)) ∧
  (∀ c s e, e.lanes = 0 → (Issues 0xFB c s e → Goes e s (exec (.strap c) s) e.next e.b) ∧
    (Issues 0xFA c s e → Goes e s (exec (.bkpt c) s) e.next e.b)) ∧
  (∀ c s e cw, CrewAt e s cw → Issues 0xFA c s e → s.vector (handleCtx cw.cfg.handle) cw.cfg.trapVec 13 = .none →
    Goes e s (exec (.bkpt c) s) e.next e.b)

/-- R272, R273 and R354: `TRET`, at TRAP privilege and with every flag clear, leaves the handler: RESUME goes to `TRAP_PC`, SKIP and
WRITE_SKIP to the instruction after the one that trapped, RETRY_REGION to the region's restart point; counters and exited bits return from
the save areas of the lanes that had not exited at entry. KILL_LANES also ends the lanes that trapped; KILL_BAND ends the band. -/
def Obligations.TrapReturns : Prop :=
  ∀ (c : Code) (s : State) (e : Env) (cw : Crew), Issues 0xFC c s e → CrewAt e s cw → e.b.trapPriv = true →
    e.b.cancelTrap = false → (∀ f ∈ e.b.flags, f.2 = 0) →
    let left := fun (t : State) (b : Band) (pc : PCW) => t.thread e.t = some b ∧ b.trapPriv = false ∧ b.x.pc = pc
    let restored := fun (b : Band) => ∀ l, l < e.b.width → e.b.handlerSnap.exited.getLsbD l = false →
      [BitVec.ofNat 8 (b.count l)] = s.readKey (cw.sliceKey e.t l 176) 1
    (∃ t b, exec (.tretResume c) s = .next t ∧ left t b e.b.trap.pc ∧ restored b ∧ t.mem = s.mem) ∧
    (e.b.trap.cause ≠ 5 → ∃ t b, exec (.tretSkip c) s = .next t ∧ left t b e.b.trap.after ∧ restored b ∧ t.mem = s.mem) ∧
    (e.b.trap.cause ≠ 5 → ∃ t b, exec (.tretWriteSkip c) s = .next t ∧ left t b e.b.trap.after ∧ restored b ∧ t.mem = s.mem ∧
      b.r.status = e.b.r.status ||| e.b.trap.wstat) ∧
    (∃ t b, exec (.tretRetryRegion c) s = .next t ∧ left t b e.b.region.restart ∧ b.r.nest = e.b.region.snap.nest ∧
      b.r.exited = e.b.region.snap.exited ∧ t.mem = s.mem) ∧
    (∃ t b, exec (.tretKillLanes c) s = .next t ∧ left t b e.b.trap.pc ∧ restored b ∧ b.r.exited &&& e.b.trap.lanes = e.b.trap.lanes) ∧
    (∃ t b, exec (.tretKillBand c) s = .next t ∧ t.thread e.t = some b ∧ b.r.exited = BitVec.allOnes 64 ∧
      (e.b.requeue = 0 → b.running = false))

/-! ## What masters and the package's own agents do -/

/-- R55, R62 and R66: who may write a register, and what each write that the opcode table names does to its register: the claims and the
requests for a report are open to every candidate, a report buffer to the candidate it serves, every other register to the owner. R53 and R62:
a store of the host complex reaches its partition, but the event queue only while candidate 0 is the owner. -/
def Obligations.OwnerWrites : Prop :=
  (∀ (s : State) (cand : BitVec 2) (r : Reg), s.mayWrite cand r = true ↔ match r with
    | .mailbox c _ => c = cand.toNat
    | .bootAttnonce c _ => c = cand.toNat
    | .bootAttst k => (s.host.boot.att.getD k AttBuf.reset).cand = cand
    | .ownSubmit => True
    | .bootAttreq => True
    | _ => s.host.own.owned = true ∧ s.host.own.owner = cand) ∧
  (∀ (s : State) (rest : List Turn) (peripheral : Bool) (pa : W64) (bs : List Byte),
    let s0 := { s with agenda := rest }
    let inQueue := ∃ i, i < bs.length ∧ s.inEvq (pa.toNat + i) = true
    s.agenda = .host peripheral pa bs :: rest → s.inSafeMode = false → pa.toNat < windowBase → pa.toNat < s.host.boot.hostPlaced * 2 ^ 30 →
      (s.owns 0 = true ∨ ¬ inQueue → step s = .next (s0.hostWrite pa.toNat bs)) ∧ (s.owns 0 = false → inQueue → step s = .next s0.denied)) ∧
  (∀ (cand k : BitVec 2) (die : BitVec 3) (sock : BitVec 5) (ctx : B6) (lk : LinkId) (c : CrewRef) (off val : W64),
    let w := fun (i : Instr) (sock : Nat) (r : Reg) (v : W64) => Writes i cand sock r fun _ => v
    (∀ r, decodeReg sock.toNat off.toNat = some r → w (.controlRegisterWrite cand sock off val) sock.toNat r val) ∧
    w (.bootCtlCold cand) 24 .bootCtl 2 ∧ w (.bootCtlWarm cand) 24 .bootCtl 1 ∧ w (.claim cand) 24 .ownSubmit 1 ∧
    w (.handoverRelease cand) 24 .ownSubmit 1 ∧ w (.handoverAccept cand) 24 .ownSubmit 1 ∧
    w (.attestationRequest cand) 24 .bootAttreq 1 ∧ w (.attestationDoneWrite cand k) 24 (.bootAttst k.toNat) 2 ∧
    w (.create cand ctx val) 24 (.ctxCfg ctx.toNat) (val ||| 1) ∧ w (.destroy cand ctx val) 24 (.ctxCfg ctx.toNat) (val ||| 2) ∧
    w (.ctxUnparkAll cand ctx) 24 (.ctxUnpark ctx.toNat) 1 ∧ w (.ctxPreemptWrite cand ctx val) 24 (.ctxPreempt ctx.toNat) val ∧
    w (.ctxResumeWrite cand ctx val) 24 (.ctxResume ctx.toNat) val ∧ w (.dispCancelWrite cand ctx val) 24 (.dispCancel ctx.toNat) val ∧
    w (.ctxDiescrWrite cand die ctx val) die.toNat (.ctxDiescr die.toNat ctx.toNat) val ∧
    w (.opcapWrite cand die val) die.toNat (.pwrCtl die.toNat) val ∧ w (.pwrPkgcapWrite cand val) 24 .pwrPkgcap val ∧
    w (.evqHeadWrite cand val) 24 .evqHead val ∧
    (sock.toNat < 26 → w (.evqLogackWrite cand sock val) 24 (.evqLogack sock.toNat) val) ∧
    (sock.toNat < 8 ∨ sock = 24 ∨ sock = 25 → w (.timeCtlApply cand sock) sock.toNat (.timeCtl sock.toNat) 1) ∧
    (lk.sock < 26 → lk.idx < (if lk.port then (if lk.sock < 24 then 0 else 9) else moduleCount lk.sock) →
      w (.linkCtlRetrain cand lk) lk.sock (.linkCtl lk) 2 ∧ w (.linkCtlClrcnt cand lk) lk.sock (.linkCtl lk) 1) ∧
    (c.die < 8 → c.core < 256 → c.slot < 8 → Writes (.crewScrchkClrlog cand c) cand c.die (.crewScrchk c) fun s =>
      BitVec.ofNat 64 (2 + s.crewReg c fun cw => bit cw.ctl.scrchkLog 0)))

/-- R20 to R29, R45, R68, R72, R73, R80, R103, R193, R196 and R279: what a write that takes effect leaves in the registers and does. -/
def Obligations.RegisterEffects : Prop :=
  ∀ (s : State) (cand : BitVec 2) (v : W64),
    let put := fun (r : Reg) => s.store cand r v
    (∀ k, v.getLsbD 0 = true → (put (.timeCtl k)).regValue (.timeRef k) =
      (s.convOf k).offset + BitVec.ofNat 64 ((s.convOf k).rate.toNat * (s.time % 2 ^ 64) / 2 ^ 30)) ∧
    ((put .pwrPkgcap).regValue .pwrPkgcap = BitVec.ofNat 64 (max 1200 (min (v.toNat % 65536) 3000)) ∧
      ∀ q, q ≠ .pwrPkgcap → (put .pwrPkgcap).regValue q = s.regValue q) ∧
    (∀ d, let p := ((put (.pwrCtl d)).dieOf d).pwr
      p.opcap = v.extractLsb' 0 3 ∧ p.target.toNat = min (min (s.hintOf d) (v.extractLsb' 0 3).toNat) (min p.ceilTherm.toNat p.ceilPkg.toNat)) ∧
    (∀ lk, v.getLsbD 1 = false → v.getLsbD 0 = true →
      let r := (s.linkOf lk).regs
      let r' := ((put (.linkCtl lk)).linkOf lk).regs
      (r.errAt ≠ s.time → (put (.linkCtl lk)).regValue (.linkErrcnt lk) = 0) ∧
      (r.errAt = s.time → r'.retrains = 0 ∧ r'.protErr = r.protNow ∧ r'.crcErr = r.crcNow)) ∧
    (∀ lk, v.getLsbD 1 = true → v.getLsbD 0 = false →
      let l := s.linkOf lk
      let l' := (put (.linkCtl lk)).linkOf lk
      (l.rx.st = .hold ∨ l.rx.st = .down ∨ l.tx.st = .hold → l' = l) ∧
      (l.rx.st ≠ .hold → l.rx.st ≠ .down → l.tx.st ≠ .hold →
        l'.tx.st = .hold ∧ l'.rx.st = .hold ∧ l'.regs.retrains = satInc l.regs.retrains ∧ l'.tx.buf = l.tx.buf)) ∧
    (put .evqHead).regValue .evqHead = (let e := s.host.evq
      let h : W16 := v.extractLsb' 0 16
      (if (h - e.head).toNat ≤ (e.tail - e.head).toNat then h else e.tail).setWidth 64) ∧
    (∀ k, (put (.evqLogack k)).regValue (.evqLogack k) = (v.extractLsb' 0 32).setWidth 64 ∧
      ((put (.evqLogack k)).sockEv k).log = (s.sockEv k).log.map fun x =>
        { x with acked := x.acked || decide (leNat (x.record.take 4) ≤ v.toNat % 2 ^ 32) }) ∧
    (∀ c x, s.ctxOf c = x → x.st = .free → v.getLsbD 0 = true →
      let place := (v.extractLsb' 23 3).toNat
      (match (v.extractLsb' 26 2).toNat with
        | 0 => place = 0
        | 1 => place ≤ 1 ∧ ∃ i, i < 4 ∧ s.healthy (4 * place + i) = true
        | 2 => s.healthy place = true
        | _ => False) →
      (put (.ctxCfg c)).ctxOf c = { x with st := .active, destroy := .none, mode := v.extractLsb' 26 2, place := v.extractLsb' 23 3,
                                           gwin := v.getLsbD 22 } ∧
      ∀ k, k ≠ c → (put (.ctxCfg c)).ctxOf k = s.ctxOf k) ∧
    (∀ c, (s.ctxOf c).st = .active → v.getLsbD 1 = true → c ≠ 0 →
      let s1 := s.updCtx c fun x => { x with st := .destroying, destroy := .cancelling }
      let open_ := s.disp.grids.filter fun g => (handleCtx g.2.handle).toNat == c && !g.2.own.isEnded
      put (.ctxCfg c) = (open_.foldl (fun (s : State) g => s.cancelAt 24 g.2.handle) s1).destroyStep c) ∧
    (∀ c, v.getLsbD 0 = true →
      let told := (s.healthyDies s.pkg).map fun d => Packet.mk (s.hdr (BitVec.ofNat 6 c) 0 24 d) .unpark
      put (.ctxUnpark c) = { s with net := s.net ++ told }) ∧
    (∀ c, (v.extractLsb' 0 6).toNat = c → put (.dispCancel c) = s.cancelAt 24 (v.extractLsb' 0 48)) ∧
    (∀ d c, s.MemCanonical →
      let base := (v.extractLsb' 16 9).toNat
      let size := (v.extractLsb' 0 10).toNat
      let x := s.ctxDie d c
      let meets := ∃ k, k < 64 ∧ k ≠ c ∧ (s.ctxOf k).st = .active ∧ size ≠ 0 ∧ (s.ctxDie d k).scrSize.toNat ≠ 0 ∧
        base < (s.ctxDie d k).scrBase.toNat + (s.ctxDie d k).scrSize.toNat ∧ (s.ctxDie d k).scrBase.toNat < base + size
      let t := put (.ctxDiescr d c)
      (meets ∨ 512 < base + size → t = s) ∧
      (¬ meets → base + size ≤ 512 → x.scrBase.toNat ≠ base ∨ x.scrSize.toNat ≠ size →
        (t.ctxDie d c).scrBase.toNat = base ∧ (t.ctxDie d c).scrSize.toNat = size ∧
        ∀ k, Memory.read t.mem k = if dieKey d (65536 * base) ≤ k ∧ k < dieKey d (65536 * base) + 65536 * size then 0
          else Memory.read s.mem k)) ∧
    (∀ c g, s.gridOf (v.extractLsb' 0 48) = some g → v.getLsbD 57 = false → (s.ctxOf c).preBusy = false →
      (v.extractLsb' 0 6).toNat = c → g.own.isEnded = false →
      put (.ctxPreempt c) = (((List.range 8).filter fun d => v.getLsbD (48 + d)).foldl (fun (s : State) d => s.preemptDie (v.extractLsb' 0 48) d)
        (s.updCtx c fun x => { x with preBusy := true })).preSettle c) ∧
    (∀ h d, ((s.preemptDie h d).gridDie d h).halted = true ∧ ∀ r cw, r.die = d → s.crewOf r = some cw → cw.cfg.handle = h →
      (s.preemptDie h d).crewOf r = some (if cw.ctl.cancelled then cw else cw.mark (s.cyc d))) ∧
    (∀ c g, s.gridOf (v.extractLsb' 0 48) = some g → (v.extractLsb' 0 6).toNat = c →
      put (.ctxResume c) = (List.range 8).foldl (fun (s : State) d => s.resumeDie g d) s) ∧
    (∀ k a, v.getLsbD 0 = true → k < 4 → s.host.boot.att[k]? = some a → a.run = false → a.done = false →
      (∀ j b, j < k → s.host.boot.att[j]? = some b → b.run = true ∨ b.done = true) →
      (put .bootAttreq).host.boot.att[k]? = some { a with run := true, cand := cand, nonce := s.host.boot.attNonce.getD cand.toNat 0 } ∧
      (put .bootAttreq).host.boot.attQueue = s.host.boot.attQueue ++ [k]) ∧
    (v.getLsbD 0 = true → (∀ j b, j < 4 → s.host.boot.att[j]? = some b → b.run = true ∨ b.done = true) →
      (put .bootAttreq).host.boot.attBusy = true ∧ (put .bootAttreq).host.boot.att = s.host.boot.att) ∧
    (∀ k a, v.getLsbD 1 = true → s.host.boot.att[k]? = some a →
      (put (.bootAttst k)).host.boot.att[k]? = some { a with done := false }) ∧
    (∀ r cw, s.crewOf r = some cw → (put (.crewScrchk r)).crewOf r = some { cw with ctl := { cw.ctl with
      scrchkLog := v.getLsbD 0, wlogCnt := if v.getLsbD 1 then 0 else cw.ctl.wlogCnt } })

/-- R70 and R71: a management request is done by its operation byte, and the reply that carries its tag, status and value goes to
the address and port that it came from: a read answers the register's value; a write and a block of writes act as candidate 1; staged bytes enter the staging buffer of
their class; a commit checks the image and starts the flash write. The end of that write leaves the image in the flash.
R39, R55 and R73: the pod leader's agent reads and writes registers by packets, and every request is answered by a packet to its
source; only the pod leader's package may write. An event record enters the ring at `TAIL`, or the fatal slot of its socket; one that
finds no room is counted as lost. -/
def Obligations.ManagementAndPodPorts : Prop :=
  (∀ (mk : MgmtMsg → Instr) (req : MgmtMsg) (s : State),
    mk = .mgmtRegisterRead ∨ mk = .mgmtRegisterWrite ∨ mk = .mgmtBlockWrite ∨ mk = .firmwareStage ∨ mk = .firmwareCommit →
    let msg := req.bytes
    let replies := fun (u : State) (status : Nat) (val : W64) =>
      let bytes : List Byte := leBytes 4 0x524D4B56 ++ [1, msg.getD 5 0] ++ leBytes 2 (fld msg 6 2) ++ [BitVec.ofNat 8 status] ++
        List.replicate 7 0 ++ leBytes 8 val.toNat
      let r : MgmtReply := { addr := req.addr, port := req.port, bytes := bytes }
      exec (mk req) s = .next { u with host := { u.host with mgmtOut := u.host.mgmtOut ++ [r] } }
    let op := fld msg 5 1
    let k := fld msg 8 1
    let off := fld msg 16 8
    let n := fld msg 24 8
    (mgmtBad msg = true → replies s 3 0) ∧
    (mgmtBad msg = false →
      (op = 1 → (∀ r, s.reach 1 k off = some r → replies s 0 (s.regValue r)) ∧ (s.reach 1 k off = none → replies s 2 0)) ∧
      (op = 2 → (∀ r, s.reach 1 k off = some r →
          (s.mayWrite 1 r = true → ∀ v, v = BitVec.ofNat 64 n → r.rsvdHit v = false → replies (s.store 1 r v) 0 0) ∧
          (s.mayWrite 1 r = false → replies s.denied 1 0)) ∧ (s.reach 1 k off = none → replies s 2 0)) ∧
      (op = 3 → replies (s.blockWrite k off (n / 8) (msg.drop 32)).2 (s.blockWrite k off (n / 8) (msg.drop 32)).1 0) ∧
      (op = 4 → k ≤ 2 → off + n ≤ 2 ^ 26 → s.owns 1 = true → s.host.fw.staging.length = 3 → ∃ u, replies u 0 0 ∧ u.mem = s.mem ∧
        ∀ i, (u.host.fw.staging.getD k []).get 0 i =
          if off ≤ i ∧ i < off + (msg.length - 32) then msg.getD (32 + (i - off)) 0 else (s.host.fw.staging.getD k []).get 0 i) ∧
      (op = 5 → k ≤ 2 → s.owns 1 = true →
        (s.host.fw.flashBusy = true → replies s 4 0) ∧
        (s.host.fw.flashBusy = false → s.host.fuses.imageOk k (s.stagedImage k) = false → replies s 5 0) ∧
        (s.host.fw.flashBusy = false → s.host.fuses.imageOk k (s.stagedImage k) = true →
          replies (s.updFw fun w => { w with flashBusy := true, writing := some (k, s.stagedImage k) }) 0 0)) ∧
      (op = 4 ∨ op = 5 → k ≤ 2 → (op = 4 → off + n ≤ 2 ^ 26) → s.owns 1 = false → replies s.denied 1 0))) ∧
  (∀ (s : State) (off : Nat) (bs : List Byte) (k n : Nat),
    s.blockWrite k off 0 bs = (0, s) ∧
    (let r := s.regWrite 1 k off (BitVec.ofNat 64 (leNat (bs.take 8)))
     let q := r.2.blockWrite k (off + 8) n (bs.drop 8)
     s.blockWrite k off (n + 1) bs = (if r.1 = 0 then q.1 else r.1, q.2))) ∧
  (∀ (s : State) (k : Nat) (img : List Byte), s.host.fw.writing = some (k, img) → exec .flashWriteDone s =
    .next { s with host := { s.host with fw := { s.host.fw with
      flash := s.host.fw.flash.set k img, flashBusy := false, writing := none } } }) ∧
  (∀ (h : PktHdr) (off val : W64) (st : Byte) (s : State),
    let answer := fun (u : State) (code : Byte) (v : W64) => Host.Outcome.next (u.send (PktHdr.reply h) (.crreply code v))
    let k := h.dstSock.toNat
    (∀ r, s.reach 2 k off.toNat = some r → exec (.crread h off) s = answer s 0 (s.regValue r)) ∧
    (s.reach 2 k off.toNat = none → exec (.crread h off) s = answer s 2 0) ∧
    (h.srcPkg = s.disp.podldr → ∀ r, s.reach 2 k off.toNat = some r → r.rsvdHit val = false →
      (s.mayWrite 2 r = true → exec (.crwrite h off val) s = answer (s.store 2 r val) 0 0) ∧
      (s.mayWrite 2 r = false → exec (.crwrite h off val) s = answer s.denied 1 0)) ∧
    (h.srcPkg ≠ s.disp.podldr → exec (.crwrite h off val) s = answer s.denied 1 0) ∧
    exec (.crreply h st val) s =
      .next { s with host := { s.host with crReplies := s.host.crReplies ++ [⟨h, .crreply st val⟩] } } ∧
    ((PktHdr.reply h).tag = h.tag ∧ (PktHdr.reply h).ctx = h.ctx ∧ (PktHdr.reply h).dstPkg = h.srcPkg ∧
      (PktHdr.reply h).dstSock = h.srcSock ∧ (PktHdr.reply h).srcPkg = h.dstPkg ∧ (PktHdr.reply h).srcSock = h.dstSock)) ∧
  (∀ (h : PktHdr) (r : List Byte) (s : State), r.length = 64 →
    let e := s.host.evq
    let sock := (r.getD 4 0).toNat
    let lost := Host.Outcome.next (s.evLost sock)
    (r.getD 6 0).getLsbD 0 = false →
      (e.tail - e.head = 256 → exec (.event h r) s = lost) ∧
      (e.tail - e.head ≠ 256 → exec (.event h r) s = .next
        ((s.hostWrite (e.base.toNat + 64 * (e.tail.toNat % 256)) r).updEvq fun q => { q with tail := q.tail + 1 }))) ∧
  (∀ (h : PktHdr) (r : List Byte) (s : State), r.length = 64 → (r.getD 6 0).getLsbD 0 = true →
    let sock := (r.getD 4 0).toNat
    let slot := s.host.evq.base.toNat + 0x4000 + 64 * sock
    (((s.hostRead (slot + 6) 1).headD 0).getLsbD 7 = true → exec (.event h r) s = .next (s.evLost sock)) ∧
    (((s.hostRead (slot + 6) 1).headD 0).getLsbD 7 = false → exec (.event h r) s = .next
      (((s.hostWrite slot (r.take 6)).hostWrite (slot + 7) (r.drop 7)).hostWrite (slot + 6) [r.getD 6 0 ||| 0x80]))) ∧
  (∀ (s : State) (sock : Nat), let t := s.evLost sock
    (t.sockEv sock).lost = satInc (s.sockEv sock).lost ∧ t.host.evq.overflow = true ∧ t.mem = s.mem ∧ t.host.evq.tail = s.host.evq.tail)

/-- R58 to R69: power-on begins a cold start; a start goes step by step, a failed warm start is tried again and then cold, a failed cold start
once again, and then only safe mode is left; a candidate with a valid claim becomes owner, at the close of the window the lowest; a valid
release and an accept of its target within a second hand the package over under a new nonce; reports are signed in order. -/
def Obligations.StartAndOwnership : Prop :=
  (∀ s, ∃ t, exec .powerOn s = .next t ∧ t.host.start.step = 1 ∧ t.host.start.kind = .cold ∧ t.host.start.st = .running ∧ t.time = 0 ∧
    t.host.boot.present = s.host.fuses.present ∧ t.host.boot.healthy = 0 ∧ t.host.own.owned = false ∧ t.host.own.drawn = false ∧ t.mem = [] ∧ t.net = [] ∧
    t.host.fuses = s.host.fuses ∧ t.host.fw.flash = s.host.fw.flash) ∧
  (∀ s, let x := s.host.start
    x.st = .running → x.step ≠ 0 →
    let k := x.step.toNat
    let failed := fun (o : Host.Outcome State Fault Refusal) => ∃ t, o = .next t ∧ let y := t.host.start
      (x.kind = .warm → x.wfail.toNat < 2 → y.kind = .warm ∧ y.st = .running ∧ y.step = 4 ∧ y.wfail = x.wfail + 1 ∧ t.mem = s.mem) ∧
      (x.kind = .warm → 2 ≤ x.wfail.toNat → y.kind = .cold ∧ y.st = .running ∧ y.step = 1 ∧ y.wfail = 3) ∧
      (x.kind ≠ .warm → x.cfail = 0 → y.kind = .cold ∧ y.st = .running ∧ y.step = 1 ∧ y.cfail = 1) ∧
      (x.kind ≠ .warm → x.cfail ≠ 0 → y.kind = .safe ∧ y.st = .failed ∧ y.cfail = 2)
    (∀ ok, x.stepAt + stepLimit k < s.time ∨ s.stepFails k ok = true → failed (exec (.startStepComplete ok) s)) ∧
    (x.stepAt + stepLimit k < s.time → failed (exec .startStepTimeout s)) ∧
    (∀ ok, s.time ≤ x.stepAt + stepLimit k → s.stepFails k ok = false → ∃ t, exec (.startStepComplete ok) s = .next t ∧
      let y := t.host.start
      (k ≠ 7 → y.step = x.step + 1 ∧ y.st = .running ∧ y.kind = x.kind ∧ y.stepAt = s.time ∧
        y.okSoFar = if k = 1 then s.host.fuses.present else x.okSoFar &&& ok) ∧
      (k = 4 → t.host.boot.nonce = Config.entropy s.host.boot.draws ∧ t.host.own.windowOpen = true ∧ t.host.own.windowOpenedAt = s.time) ∧
      (k = 7 → y.st = .done ∧ y.wfail = 0 ∧ y.cfail = 0 ∧ t.host.boot.healthy =
        x.okSoFar &&& ok &&& if x.kind = .warm then x.healthyAtStart else BitVec.allOnes 26))) ∧
  (∀ s, let o := s.host.own
    (o.windowOpen = true → o.windowOpenedAt + 2000000000 ≤ s.time → ∃ t, exec .claimWindowClose s = .next t ∧
      t.host.own.windowOpen = false ∧ (t.host.own.owned = true ↔ o.valid ≠ []) ∧
      (o.valid ≠ [] → t.host.own.owner ∈ o.valid ∧ ∀ c ∈ o.valid, t.host.own.owner.toNat ≤ c.toNat)) ∧
    (o.hopend = true → o.hoAt + 1000000000 ≤ s.time → exec .handoverTimeout s =
      .next { s with host := { s.host with own := { o with hopend := false } } })) ∧
  (∀ s cand, cand ≠ 3 → (s.host.start.kind = .safe → cand = 1) →
    let o := s.host.own
    let b := s.mailboxBytes cand.toNat
    let kind := fld b 5 1
    let tgt := fld b 6 1
    let own := fun (p : Own) => Host.Outcome.next { s with host := { s.host with own := p } }
    (∀ i, i = .claim cand ∨ i = .handoverRelease cand ∨ i = .handoverAccept cand → s.recordValid cand.toNat b = false →
      exec i s = .next s.denied) ∧
    (s.recordValid cand.toNat b = true →
      (kind = 0 → o.drawn = true → o.owned = false →
        (o.windowOpen = true → s.time < o.windowOpenedAt + 2000000000 →
          exec (.claim cand) s = own { o with valid := o.valid ++ [cand] }) ∧
        (o.windowOpen = true → o.windowOpenedAt + 2000000000 ≤ s.time → o.valid = [] → ∃ t, exec (.claim cand) s = .next t ∧
          t.host.own = { o with windowOpen := false, owned := true, owner := cand, claimedAt := some s.time }) ∧
        (o.windowOpen = false → exec (.claim cand) s = own { o with owned := true, owner := cand, claimedAt := some s.time })) ∧
      (kind = 1 → o.owned = true → o.owner = cand → o.hopend = false → tgt ≤ 2 →
        exec (.handoverRelease cand) s = own { o with hopend := true, hoto := BitVec.ofNat 2 tgt, hoAt := s.time }) ∧
      (kind = 2 → o.hopend = true → o.hoto = cand → tgt = cand.toNat → s.time ≤ o.hoAt + 1000000000 →
        ∃ t, exec (.handoverAccept cand) s = .next t ∧ t.host.own = { o with owner := cand, hopend := false, claimedAt := none } ∧
          t.host.boot.nonce = Config.entropy s.host.boot.draws ∧ t.host.boot.draws = s.host.boot.draws + 1))) ∧
  (∀ s k rest a, s.host.boot.attQueue = k :: rest → s.host.boot.att[k]? = some a → ∃ t a', exec .attestationReportDone s = .next t ∧
    t.host.boot.att[k]? = some a' ∧ t.host.boot.attQueue = rest ∧ a'.run = false ∧ a'.done = true ∧ a'.serial = s.host.boot.serial + 1 ∧
    (let body := s.reportBody a (s.host.boot.serial + 1).toNat
     body.length = 384 ∧ a'.bytes = body ++ (Config.edSign body).toList ++ (Config.mlSign body).toList ++ [0, 0, 0] ∧
       a'.bytes.length = 3760))

/-- R20 to R23: a change of operating point ends at the point it went to, and another begins at once where the target has moved; a window
above the cap lowers the package ceiling of every die, the eighth in a row below 95 % raises it; a sample moves the thermal ceiling; a die at
110 degrees, and a passenger with a fatal error, lose their health (the cause and detail of the thermal record are the model's, log 14). -/
def Obligations.PowerAndHealth : Prop :=
  (∀ s, ∃ t, exec .opPointChangeDone s = .next t ∧ t.mem = s.mem ∧ t.host = s.host ∧
    let p := (s.dieOf s.cur.die).pwr
    let q := (t.dieOf s.cur.die).pwr
    (∀ d, d ≠ s.cur.die → t.dieOf d = s.dieOf d) ∧ (p.trans = false → q = p) ∧
    (p.trans = true → q.target = p.target ∧ (p.target = p.going → q.cur = p.going ∧ q.trans = false) ∧
      (p.target ≠ p.going → q.trans = true ∧ q.going = p.target ∧
        q.cur = if p.target.toNat < p.going.toNat then p.target else p.going))) ∧
  (∀ s avg, ∃ t, exec (.powerWindow avg) s = .next t ∧ t.mem = s.mem ∧
    let p := s.host.pwr
    let cap := p.capW.toNat
    let ceil := fun (f : Nat → Nat) => ∀ d, d < 8 → ((t.dieOf d).pwr.ceilPkg).toNat = f ((s.dieOf d).pwr.ceilPkg).toNat
    (cap < avg → ceil (fun n => n - 1) ∧ t.host.pwr.lowWindows = 0) ∧
    (¬ cap < avg → avg * 100 < cap * 95 → p.lowWindows = 7 → ceil (fun n => min 7 (n + 1)) ∧ t.host.pwr.lowWindows = 0) ∧
    (¬ cap < avg → avg * 100 < cap * 95 → p.lowWindows ≠ 7 → ceil (fun n => n) ∧ t.host.pwr.lowWindows = p.lowWindows + 1) ∧
    (¬ cap < avg → ¬ avg * 100 < cap * 95 → ceil (fun n => n) ∧ t.host.pwr.lowWindows = 0)) ∧
  (∀ s die temp, s.present die.toNat = true → ∃ u, u.mem = s.mem ∧ u.host = s.host ∧
    let p := (s.dieOf die.toNat).pwr
    let q := (u.dieOf die.toNat).pwr
    q.temp = temp ∧
    q.ceilTherm.toNat = (if 100 ≤ temp.toNat then p.ceilTherm.toNat - 1 else if temp.toNat ≤ 90 then min 7 (p.ceilTherm.toNat + 1)
      else p.ceilTherm.toNat) ∧
    (temp.toNat < 110 → exec (.thermalSample die temp) s = .next u) ∧
    (110 ≤ temp.toNat → exec (.thermalSample die temp) s = .next ((u.hwEvent die.toNat 0 true).passengerFails die.toNat))) ∧
  (∀ s sock cause detail, s.present sock.toNat = true → exec (.passengerFatalError sock cause detail) s =
    .next ((s.report sock.toNat true none cause.toNat 0 detail).passengerFails sock.toNat))

/-- R37 to R46 and R52: an accepted data flit puts its packets into the receiver's buffer; a flit out of turn or broken delivers nothing; a
transmitter closes its flit, repeats from its replay buffer, acknowledges and asks again by the time-outs; a retrain ends with the lanes that
pass, or takes the module down, its traffic going other ways; a pod packet stays, goes on by its route, or is dropped and counted. -/
def Obligations.Links : Prop :=
  (∀ (s : State) (lk : LinkId) (flit : List Byte) (h : FlitHdr) (ps : List Packet),
    let x := (s.linkOf lk).rx
    readFlit flit = .good h ps → x.st = .accept ∨ x.st = .discard →
    (h.ctrl = false →
      ∃ t, exec (.dataFlitReceive lk flit) s = .next t ∧ t.mem = s.mem ∧ t.net = s.net ∧
        let y := (t.linkOf lk).rx
        y.freed = x.freed ∧
        (h.seq = x.exp → y.exp = x.exp + 1 ∧ y.st = .accept ∧ y.bufs = x.bufs.modify h.vc fun q => q ++ ps) ∧
        (h.seq ≠ x.exp → y.exp = x.exp ∧ y.bufs = x.bufs ∧
          y.st = if x.st = .discard ∨ (x.exp - h.seq).toNat ≤ 128 then x.st else .discard)) ∧
    (h.ctrl = true → exec (.controlFlitReceive lk flit) s = .next (s.updLink lk fun l => l.heed h s.time))) ∧
  (∀ (s : State) (lk : LinkId) (flit : List Byte),
    let x := (s.linkOf lk).rx
    readFlit flit = .crcBad ∨ readFlit flit = .wrong → x.st = .accept ∨ x.st = .discard →
    ∀ i, i = Instr.dataFlitReceive lk flit ∨ i = .controlFlitReceive lk flit →
      ∃ t, exec i s = .next t ∧ t.mem = s.mem ∧ t.net = s.net ∧ (t.linkOf lk).rx.bufs = x.bufs ∧ (t.linkOf lk).rx.exp = x.exp ∧
        (t.linkOf lk).regs.crcErr = satInc (s.linkOf lk).regs.crcErr) ∧
  (∀ (s : State) (lk : LinkId) (f : OpenFlit), (s.linkOf lk).tx.opened = some f → f.closed = false → f.slots ≠ [] →
    f.lastAt + 2 ≤ s.time → exec (.flitCloseTimeout lk) s = .next (s.updLink lk fun l =>
      ({ l with tx := { l.tx with opened := some { f with closed := true } } }).pump s.time)) ∧
  (∀ (s : State) (lk : LinkId), (s.linkOf lk).rx.reportedAt + 32 ≤ s.time →
    (s.linkOf lk).tx.st = .send ∨ (s.linkOf lk).tx.st = .replay →
    exec (.ackTimeout lk) s = .next (s.updLink lk fun l => l.control false s.time)) ∧
  (∀ (s : State) (lk : LinkId), (s.linkOf lk).tx.st = .hold ∨ (s.linkOf lk).tx.st = .down → ∃ t, exec (.ackTimeout lk) s = .next t ∧
    t.linkOf lk = s.linkOf lk) ∧
  (∀ (s : State) (lk : LinkId) (f : TxFlit) (fs : List TxFlit), (s.linkOf lk).tx.buf = f :: fs → (s.linkOf lk).tx.st = .send →
    f.sentAt + 256 ≤ s.time → exec (.replayTimeout lk) s = .next (s.updLink lk fun l =>
      { l with tx := { l.tx with st := .replay, resend := l.tx.buf.length } })) ∧
  (∀ (s : State) (lk : LinkId), (s.linkOf lk).rx.st = .discard → (s.linkOf lk).rx.nakAt + 64 ≤ s.time →
    exec (.nakRepeat lk) s = .next (s.updLink lk fun l => l.nak s.time)) ∧
  (∀ (l : Link) (now : Nat),
    (l.control false now).rx.unreported = 0 ∧ (l.control false now).rx.reportedAt = now ∧ (l.control false now).rx.exp = l.rx.exp ∧
    (l.control false now).tx.wire = l.tx.wire ++ [flitBytes (l.hdrNow false true 0 0 0) []] ∧
    (l.nak now).rx.nakAt = now ∧ (l.nak now).tx.wire = l.tx.wire ++ [flitBytes (l.hdrNow true true 0 0 0) []] ∧
    ∀ vc p ps, l.rx.bufs[vc]? = some (p :: ps) → ∃ m, l.unload vc = some (p, m) ∧ m.rx.bufs = l.rx.bufs.set vc ps ∧
      m.rx.freed = l.rx.freed.modify vc fun n => n + BitVec.ofNat 8 (Packet.slots p)) ∧
  (∀ (s : State) (lk : LinkId) (fail : W64), (s.linkOf lk).rx.st = .hold →
    let n := laneCount lk
    let lo := ∀ i, i < n / 2 → fail.getLsbD i = false
    let hi := ∀ i, i < n / 2 → fail.getLsbD (n / 2 + i) = false
    let trained := fun (w : BitVec 2) (half : Bool) => s.updLink lk fun l =>
      ({ l with regs := { l.regs with width := w, half := half, laneMap := fail }, rx := { l.rx with st := .discard } }).nak s.time
    ((s.linkOf lk).regs.retrainByCtl = true → lo → hi → exec (.retrainDone lk fail) s = .next (trained 0 false)) ∧
    (lo → ¬ ((s.linkOf lk).regs.retrainByCtl = true ∧ hi) → exec (.retrainDone lk fail) s = .next (trained 1 false)) ∧
    (¬ lo → hi → exec (.retrainDone lk fail) s = .next (trained 1 true)) ∧
    (¬ lo → ¬ hi → exec (.retrainDone lk fail) s = .next (s.retrainFails lk fail)) ∧
    exec (.retrainFailed lk fail) s = .next (s.retrainFails lk fail)) ∧
  (∀ (s : State) (lk : LinkId) (fail : W64), lk.port = false →
    let t := s.linkDown lk fail
    let l := t.linkOf lk
    t.net = (s.linkOf lk).tx.handOver ++ s.net ∧ l.regs.width = 2 ∧ l.regs.laneMap = fail ∧ l.tx.st = .down ∧ l.rx.st = .down ∧
      l.tx.buf = [] ∧ l.tx.opened = none ∧ l.tx.pending.flatten = [] ∧
      (t.noModule lk.sock = false ∨ s.present lk.sock = false → s.retrainFails lk fail = t)) ∧
  (∀ (s : State) (port : Nat) (p : Packet),
    let iod := (portLink port).sock
    (p.hdr.dstPkg.toNat = s.pkg → Packet.onRing p = false → exec (.podPacketArrival port p) s = .next { s with net := s.net ++ [p] }) ∧
    (p.hdr.dstPkg.toNat = s.pkg → Packet.onRing p = true → exec (.podPacketArrival port p) s =
      .next { s with ring := s.ring ++ [(s.ringJoin iod, p)] }) ∧
    (∀ n, p.hdr.dstPkg.toNat ≠ s.pkg → s.podPortFor iod p.hdr = some n → exec (.podPacketArrival port p) s =
      .next { s with host := { s.host with podOut := s.host.podOut ++ [(n, p)] } }) ∧
    (p.hdr.dstPkg.toNat ≠ s.pkg → s.podPortFor iod p.hdr = none → ∃ u : State, exec (.podPacketArrival port p) s =
        .next (u.hwEvent iod 2 false) ∧ (u.podOf iod).drop = satInc (s.podOf iod).drop ∧ u.net = s.net ∧ u.host = s.host))

/-! ## Translation and the homes -/

/-- R90 to R97 and R103: a command that its tests pass changes the controller's table and frees the command registers; an unmap waits for
its leases; a permission request is answered from the table and raises the horizon; a grant enters the lookaside, an expired entry leaves
it; a signal, and `UNPARK`, resume the threads parked at the page, or in the context, and no other. -/
def Obligations.Translation : Prop :=
  (∀ (s : State) (c : TrCmd),
    let n := s.unit
    let k := s.ctrlOf n
    let cx := BitVec.ofNat 6 c.ctx
    let page := fun (m : Mapping) => m.ctx = cx ∧ m.va = c.va
    let dies := if c.ctx = 0 then List.range 8 else (s.ctxOf c.ctx).placement
    let told := dies.map fun d => Packet.mk (s.hdr cx 0 (ctrlSock n) d) (.ready (BitVec.ofNat 56 c.va) (BitVec.ofNat 2 (attrSz c.attr)))
    let ends := fun (i : Instr) (maps : List Mapping) => ∃ t, exec i s = .next t ∧ t.mem = s.mem ∧
      t.ctrlOf n = { k with maps := maps, busy := false, result := 0, unmap := none } ∧
      t.net = s.net ++ if c.signal ∧ c.p then told else []
    k.busy = true → k.unmap = none → TrCmd.of k.run = c → s.trResult n c = 0 →
    (c.op = 1 → ends .map (k.maps ++ [{ ctx := cx, va := c.va, attr := c.attr, frame := c.frame, p := c.p, horizon := 0, unmapping := false }])) ∧
    (c.op = 3 → ends .setp (k.maps.map fun m => if page m then { m with p := c.p } else m)) ∧
    (c.op = 2 →
      let starts := fun (m : Mapping) =>
        if page m ∧ m.unmapping = false then { m with unmapping := true, horizon := max m.horizon s.time + 1000 } else m
      exec .unmap s = .next (s.updCtrl n fun x => { x with unmap := some { ctx := cx, va := c.va }, maps := k.maps.map starts }))) ∧
  (∀ (s : State) (c : TrCmd) (i : Instr), let k := s.ctrlOf s.unit
    k.busy = true → k.unmap = none → TrCmd.of k.run = c → (c.op = 1 ∧ i = .map) ∨ (c.op = 2 ∧ i = .unmap) ∨ (c.op = 3 ∧ i = .setp) →
    s.trResult s.unit c ≠ 0 → ∃ t, exec i s = .next t ∧
      t.ctrlOf s.unit = { k with busy := false, result := BitVec.ofNat 8 (s.trResult s.unit c), unmap := none }) ∧
  (∀ (s : State),
    let k := s.ctrlOf s.unit
    let due := fun (m : Mapping) => m.unmapping && decide (m.horizon ≤ s.time)
    (∀ m ∈ k.maps, due m = true → (s.ctxOf m.ctx.toNat).destroy ≠ .cancelling) →
    ∃ t, exec .unmapWaitExpiry s = .next t ∧ t.mem = s.mem ∧ (t.ctrlOf s.unit).maps = k.maps.filter (fun m => !due m) ∧
      ∀ u, k.unmap = some u → (∀ m ∈ k.maps, m.ctx = u.ctx → m.va = u.va → due m = true) →
        (t.ctrlOf s.unit).busy = false ∧ (t.ctrlOf s.unit).result = 0) ∧
  (∀ (s : State) (h : PktHdr) (va : VAddr) (ts : W64) (m : Mapping),
    let n := h.dstSock.toNat - 8
    let cx := effCtx h.ctx va.toNat
    let raise_ := fun (x : Mapping) => if x.ctx = m.ctx ∧ x.va = m.va then
      { x with horizon := max x.horizon (s.time + 1000 * (s.ctxOf cx.toNat).lease.toNat) } else x
    (inWindow va.toNat = true → windowPkg va.toNat = s.pkg) → (s.ctxOf cx.toNat).st ≠ .free →
    ((s.ctrlOf n).find cx va.toNat = some m → m.unmapping = false → exec (.permreq h va ts) s =
      .next ((s.updCtrl n fun k => { k with maps := k.maps.map raise_ }).send (PktHdr.reply h)
        (.permreply { page := BitVec.ofNat 56 m.va, attrs := m.attr, grant := (s.ctxOf cx.toNat).lease, notMapped := false }))) ∧
    ((s.ctrlOf n).find cx va.toNat = none ∨ ((s.ctrlOf n).find cx va.toNat = some m ∧ m.unmapping = true) →
      exec (.permreq h va ts) s = .next (s.send (PktHdr.reply h)
        (.permreply { page := BitVec.ofNat 56 (va.toNat / 65536 * 65536), attrs := 0, grant := 0, notMapped := true })))) ∧
  (∀ (s : State) (h : PktHdr) (b : PermReplyB) (c : Nat) (ctx : B6) (va ts : Nat),
    let d := h.dstSock.toNat
    let e : PalE := { ctx := ctx, page := b.page.toNat, attr := b.attrs, expiry := ts + 1000 * b.grant.toNat, used := s.time }
    (s.dieOf d).tags.find? h.tag.toNat = some (.perm c ctx va ts) → b.notMapped = false → s.time < e.expiry →
    (∀ x ∈ (s.coreOf d c).pal, x.ctx = ctx → x.page = b.page.toNat → x.expiry ≤ s.time) → (s.coreOf d c).pal.length < 512 →
    ∃ t, exec (.permreply h b) s = .next t ∧ t.mem = s.mem ∧ (t.coreOf d c).pal = (s.coreOf d c).pal ++ [e] ∧
      (t.dieOf d).tags = (s.dieOf d).tags.erase h.tag.toNat) ∧
  (∀ s, ∃ t, exec .palLeaseExpiry s = .next t ∧ t.mem = s.mem ∧ ∀ e, e ∈ (t.coreOf s.cur.die s.cur.core).pal ↔
    e ∈ (s.coreOf s.cur.die s.cur.core).pal ∧ s.time < e.expiry) ∧
  (∀ (s : State) (h : PktHdr) (page : VAddr) (sz : BitVec 2),
    let d := h.dstSock.toNat
    let wakes := fun (i : Instr) (hit : B6 → Nat → Prop) => ∃ u, exec i s = .next u ∧ u.mem = s.mem ∧ u.host = s.host ∧
      ∀ (t : ThreadRef) (b : Band) (cw : Crew) (p : ParkInfo), t.die = d → s.crewOf t.crew = some cw → s.thread t = some b →
        b.parked = some p →
        (hit (handleCtx cw.cfg.handle) p.va → u.thread t = some { b with parked := none, x := { b.x with phase := .fresh } }) ∧
        (¬ hit (handleCtx cw.cfg.handle) p.va → u.thread t = some b)
    wakes (.ready h page sz) (fun ctx va => effCtx ctx va = h.ctx ∧ page.toNat ≤ va ∧ va < page.toNat + pageSize sz.toNat) ∧
    wakes (.unpark h) (fun ctx _ => ctx = h.ctx))

/-- R39, R99 to R102, R200 and R201: a home answers a read with the bytes, performs a write and an atomic on exactly the bytes addressed, and
refuses what it does not serve; the answer marks the part of the access that its tag names; a refused part makes the thread go back to its
region's restart point and park. -/
def Obligations.Homes : Prop :=
  (∀ (s : State) (h : PktHdr) (b : ReadB) (st : Nat) (ks : List Nat),
    s.homeServe h.ctx b.va.toNat (b.cntM1.toNat + 1) h.dstSock.toNat = (st, ks) →
    (st = 0 → ∃ u : State, exec (.read h b) s = .next (u.send (PktHdr.reply h) (.data 0 (ks.map (Memory.read s.mem)))) ∧ u.mem = s.mem ∧
      u.net = s.net ∧ u.host = s.host) ∧
    (st ≠ 0 → exec (.read h b) s = .next (s.send (PktHdr.reply h) (.data (BitVec.ofNat 8 st) [])))) ∧
  (∀ (s : State) (h : PktHdr) (b : WriteB) (st : Nat) (ks : List Nat), b.bytes.length = b.cntM1.toNat + 1 → s.MemCanonical →
    s.homeServe h.ctx b.va.toNat b.bytes.length h.dstSock.toNat = (st, ks) →
    (st = 0 → ∃ u : State, exec (.write h b) s = .next (u.send (PktHdr.reply h) (.ack 0)) ∧ u.net = s.net ∧ u.host = s.host ∧ u.MemCanonical ∧
      (ks.Nodup → ks.map (Memory.read u.mem) = b.bytes) ∧ ∀ k, k ∉ ks → Memory.read u.mem k = Memory.read s.mem k) ∧
    (st ≠ 0 → exec (.write h b) s = .next (s.send (PktHdr.reply h) (.ack (BitVec.ofNat 8 st))))) ∧
  (∀ (s : State) (h : PktHdr) (b : AtomicB) (st : Nat) (ks : List Nat), b.width ≠ 3 →
    let w := 4 * 2 ^ b.width.toNat
    let old := leNat (ks.map (Memory.read s.mem))
    s.homeServe h.ctx b.va.toNat w h.dstSock.toNat = (st, ks) → b.op.toNat < 11 → b.va.toNat % w = 0 →
    (st = 0 → ∃ u : State, exec (.atomic h b) s = .next (u.send (PktHdr.reply h) (.old 0 (BitVec.ofNat 128 old))) ∧ u.net = s.net ∧
      u.mem = (ks.zip (atomBytes w (atomResult b.op.toNat w b.signed old b.operand.toNat b.expected.toNat).1)).foldl
        (fun m x => Memory.write m x.1 x.2) s.mem) ∧
    (st ≠ 0 → exec (.atomic h b) s = .next (s.send (PktHdr.reply h) (.old (BitVec.ofNat 8 st) 0)))) ∧
  (∀ (s : State) (h : PktHdr) (t : ThreadRef) (id i : Nat) (b : Band) (a : Acc) (p : Piece) (status : Byte) (bytes : List Byte) (val : W128),
    (s.dieOf h.dstSock.toNat).tags.find? h.tag.toNat = some (.piece t id i) → s.thread t = some b → b.findAcc id = some a →
    a.pieces[i]? = some p →
    let s1 := s.updDie h.dstSock.toNat fun x => { x with tags := x.tags.erase h.tag.toNat }
    let fill := if a.cacheable p = false then s1
      else if p.install = true then s1.updCore t.die t.core fun k => k.l1Install h.ctx p.va s.time (p.kind == .free) bytes
      else s1.l1Drop t.die t.core fun x l _ => x == h.ctx && l == p.va / 64
    (status = 0 →
      exec (.data h status bytes) s =
        .next (fill.pieceDone t id i ((if a.cacheable p then bytes.drop (p.va % 64) else bytes).take p.len) 0) ∧
      exec (.ack h status) s = .next (s1.pieceDone t id i [] 0) ∧
      exec (.old h status val) s = .next (s1.pieceDone t id i (leBytes a.width val.toNat) (atomResult (a.opFor p.lane) a.width a.signed
        val.toNat (a.operands.get 0 p.lane).toNat (a.expects.get 0 p.lane).toNat).2)) ∧
    (status ≠ 0 → ∀ j, j = Instr.data h status bytes ∨ j = .ack h status ∨ j = .old h status val →
      exec j s = .next (s1.updThread t fun b => b.updAcc id fun a => a.setPiece i fun p => { p with st := .refused }))) ∧
  (∀ (s : State) (t : ThreadRef) (id i : Nat) (bs : List Byte) (st : BitVec 6) (b : Band) (a : Acc) (p : Piece),
    s.thread t = some b → b.findAcc id = some a → a.pieces[i]? = some p →
    let a1 := { a.setPiece i fun p => { p with st := .done, bytes := bs } with status := a.status ||| st }
    (∀ j q, j ≠ i → a.pieces[j]? = some q → q.st = .done) → (b.accs.filter fun x => x.id == id).length = 1 →
    ∃ u : State, u.mem = s.mem ∧ u.thread t = some (b.updAcc id fun _ => a1) ∧ s.pieceDone t id i bs st = u.accDone t a1) ∧
  (∀ (s : State) (acc : Nat) (b : Band) (cw : Crew) (a : Acc) (p : Piece),
    let t := s.cur
    s.thread t = some b → s.crewOf t.crew = some cw → b.findAcc acc = some a → a.refusedPiece = some p → b.leaves = false →
    let cause := if a.kind = .store then 9 else 0x0101
    exec (.deferredFault acc) s = .next (s.memFault t ⟨p.va, a.pc, p.mask, a.index, cause, a.kind == .fetch⟩) ∧
    (t.band.isSome = true → a.kind ≠ .fetch → p.mask &&& b.tasks = 0 →
      ∃ u b', exec (.deferredFault acc) s = .next u ∧ u.thread t = some b' ∧ b'.parked = some (ParkInfo.of (handleCtx cw.cfg.handle) p.va) ∧
        b'.x.pc = (if b.trapPriv then b.handlerAt else b.region.restart) ∧ b'.r = (if b.trapPriv then b.handlerSnap else b.region.snap) ∧
        b'.accs = [] ∧ b'.pends = []))

/-! ## Collectives, launches and tasks between dies -/

/-- R394 to R399: a part of a contribution is kept at the collecting die, and sent on elsewhere; a reduction answers every member once every
contribution is whole, combined in the order of the members; a result is written once all its bytes are there, and the flag clears; an
arrival completes its barrier where everyone has arrived, a completion is recorded, a break breaks it. -/
def Obligations.CollectivePackets : Prop :=
  (∀ (s : State) (h : PktHdr) (b : CollB) (g : Grid) (first : Nat) (rest : List Nat), s.collGrid h = some g →
    let d := h.dstSock.toNat
    let roster := b.roster.toNat
    let gen := b.gen.toNat
    let tgt := s.collHome g roster
    let p : CollPart := { handle := g.handle, rred := b.rred, roster := roster, gen := gen, lin := b.lin.toNat, part := b.part.toNat, bytes := b.bytes }
    let s1 := s.updDie d fun x => { x with colls := x.colls ++ [p] }
    let whole := fun (m : Nat) => collBytes (((s1.dieOf d).colls).filter fun q => q.of g.handle b.rred roster gen) m
    g.rosters.getD roster [] = first :: rest →
    (tgt ≠ (s.pkg, d) → exec (.coll h b) s =
      .next (s.send { h with dstPkg := BitVec.ofNat 8 tgt.1, dstSock := BitVec.ofNat 5 tgt.2 } (.coll b))) ∧
    (tgt = (s.pkg, d) → (s.placeOf g first).isSome = true → p ∉ (s.dieOf d).colls →
      s.barBroken g.handle (if b.rred then 5 else 4) roster gen = false →
      ((∀ m ∈ first :: rest, whole m = none) → exec (.coll h b) s = .next s1) ∧
      (∀ i r rs, b.rred = true → s.colls.find? (fun c => c.handle == g.handle && c.rred && c.roster == roster && c.gen == gen) = some i →
        (first :: rest).map whole = (r :: rs).map some →
        let k := CollCmd.of true i.cmd.toNat
        let v := rs.foldl (redStep k) (redFirst k r)
        exec (.coll h b) s = .next ((first :: rest).foldl (fun (s : State) m => s.collAnswer d g v.2 true roster gen m v.1)
          (s1.updDie d fun x => { x with colls := x.colls.filter fun q => !q.of g.handle true roster gen }))))) ∧
  (∀ (s : State) (h : PktHdr) (b : CollB) (g : Grid) (i : CollIssue), s.collGrid h = some g →
    let isIt := fun (c : CollIssue) => c.handle == g.handle && c.rred == b.rred && c.roster == b.roster.toNat &&
      c.gen == b.gen.toNat && c.lin == b.lin.toNat
    s.colls.find? isIt = some i →
    let k := CollCmd.of b.rred i.cmd.toNat
    let got := i.got.set b.part.toNat b.bytes
    let all := (got.map fun x => x.2).flatten
    (all.length < k.len → exec (.collres h b) s =
      .next { s with colls := s.colls.map fun c => if isIt c then { c with got := got } else c }) ∧
    (k.len ≤ all.length → ∃ u : State, exec (.collres h b) s = .next (u.updWaiting i.thread i.waitId fun b =>
        (b.addStatus (s.cyc i.thread.die) (BitVec.ofNat 6 (h.tag.toNat / 2 ^ 14))).dropWait i.waitId) ∧
      u.mem = (s.putOwn h.dstSock.toNat g.handle i.lin k.doff (all.take k.len)).mem ∧ (∀ c, c ∈ u.colls ↔ c ∈ s.colls ∧ isIt c = false))) ∧
  (∀ (s : State) (h : PktHdr) (b : BarrierB) (g : Grid),
    let kind := b.kind.toNat
    let roster := b.roster.toNat
    let gen := b.gen.toNat
    let d := h.dstSock.toNat
    (b.completion = true → b.broken = false → ∃ t, exec (.barrier h b) s = .next t ∧ t.mem = s.mem ∧
      t.barReached b.handle (kind + 16 * (d + 1)) roster gen = true) ∧
    (b.completion = true → b.broken = true → ∃ t, exec (.barrier h b) s = .next t ∧ t.mem = s.mem ∧
      t.barBroken b.handle kind roster gen = true) ∧
    (b.completion = false → b.broken = true → s.gridOf b.handle = some g → ∃ t, exec (.barrier h b) s = .next t ∧ t.mem = s.mem ∧
      t.barBroken b.handle kind roster gen = true) ∧
    (b.completion = false → b.broken = false → s.gridOf b.handle = some g → h.srcPkg.toNat = s.pkg →
      s.barReached b.handle kind roster gen = false →
      (s.barComplete g kind roster gen = false → exec (.barrier h b) s = .next s) ∧
      (s.barComplete g kind roster gen = true → ∃ t, exec (.barrier h b) s = .next t ∧ t.barReached b.handle kind roster gen = true ∧
        t.mem = s.mem ∧ ∀ p ∈ s.barPlaces g kind, p.1 = s.pkg → ∃ q ∈ t.net, q.hdr.dstSock = BitVec.ofNat 5 p.2 ∧
          ∃ c, q.body = .barrier c ∧ c.completion = true ∧ c.handle = b.handle ∧ c.gen = BitVec.ofNat 32 gen)))

/-- R104 to R109 and R114: a token that is written whole to its place in the aperture joins its queue, or is counted as dropped; the leader takes
tokens in order, checks them and forwards them to the pod leader, again after 10 µs; the pod leader gives each launch the next sequence
number; a notice and its second part wait at a die, which acts on them in turn. -/
def Obligations.LaunchSequence : Prop :=
  (∀ (s : State) (addr : W64) (bytes : List Byte),
    let base := s.disp.apBase.toNat
    let n := (addr.toNat - base) / 4096
    let c := n / 64
    let q := n % 64
    let x := s.ctxOf c
    let k := s.queueOf c q
    let good := (addr.toNat - base) % 4096 = 0 ∧ bytes.length = 64 ∧ x.st ≠ .free ∧ c ≠ 0 ∧ q < modeQueues x.mode.toNat ∧ k.toks.length < 64 ∧
      tokMalformed bytes false = false
    base % 4096 = 0 → base ≤ addr.toNat → addr.toNat < base + 4096 * 4096 → ∃ t, exec (.launchTokenWrite addr bytes) s = .next t ∧ t.mem = s.mem ∧
      (good → t.queueOf c q = { k with toks := k.toks ++ [{ bytes := bytes, pos := k.nextPos, submitter := none }], nextPos := k.nextPos + 1 }) ∧
      (¬ good → t.queueOf c q = { k with drops := satInc k.drops })) ∧
  (∀ (s : State) (tok : Token) (rest : List Token),
    let c := s.unit / 64
    let q := s.unit % 64
    let v := s.checkLaunch c tok.bytes
    let f : Forwarded := { ctx := BitVec.ofNat 6 c, queue := q, pos := tok.pos, bytes := tok.bytes, reason := v.reason, faultVa := v.faultVa,
                           record := v.record, launch := v.launch, khdr := v.khdr, rosters := v.rosters, sentAt := s.time,
                           submitter := tok.submitter }
    let ldr := s.disp.podldr.toNat
    (s.queueOf c q).toks = tok :: rest → s.healthyDies s.pkg ≠ [] → ∃ u : State, exec .tokenTake s = .next (u.sendTo f.ctx 0 s.disp.leader.toNat
        (ldr, s.leaderOf ldr) (.token ⟨f.ctx, BitVec.ofNat 6 q, BitVec.ofNat 36 tok.pos⟩ tok.bytes)) ∧
      (u.queueOf c q).toks = rest ∧ u.disp.forwarded = s.disp.forwarded ++ [f] ∧ u.mem = s.mem ∧ u.net = s.net) ∧
  (∀ (s : State) (q : QueueWord) (f : Forwarded),
    s.disp.forwarded.find? (fun f => f.ctx == q.ctx && f.queue == q.queue.toNat && f.pos == q.pos.toNat) = some f →
    f.sentAt + 10000 ≤ s.time →
    let ldr := s.disp.podldr.toNat
    exec (.tokenForwardTimeout q) s = .next ({ s with disp := { s.disp with
      forwarded := s.disp.forwarded.map fun x => if x = f then { x with sentAt := s.time } else x } }.sendTo f.ctx 0
        s.disp.leader.toNat (ldr, s.leaderOf ldr) (.token q f.bytes))) ∧
  (∀ (s : State) (h : PktHdr) (q : QueueWord) (tok : List Byte) (f : Forwarded),
    let isIt := fun (a : Assigned) => a.srcPkg == s.pkg && a.ctx == q.ctx && a.queue == q.queue.toNat && a.pos == q.pos.toNat
    let seq := s.disp.nextSeq
    let a : Assigned := { srcPkg := s.pkg, ctx := q.ctx, queue := q.queue.toNat, pos := q.pos.toNat, seq := seq,
                          cw := if f.reason = 0 then 0 else completionWord 4 f.reason (mkHandle seq q.ctx.toNat), record := f.record }
    s.disp.podldr.toNat = s.pkg → h.dstSock.toNat = s.leaderOf s.pkg → s.disp.collect = [] → h.srcPkg.toNat = s.pkg →
    s.disp.assigned.find? isIt = none →
    s.disp.forwarded.find? (fun f => f.ctx == q.ctx && f.queue == q.queue.toNat && f.pos == q.pos.toNat) = some f →
    let s1 := ({ s with disp := { s.disp with nextSeq := seq + 1 } }).accept a
    exec (.token h q tok) s = .next ((s.podMembers.filter fun p => p != s.pkg).foldl
      (fun (s : State) p => s.sendNotice a (p, s.leaderOf p)) (s1.noticeDies a)) ∧
    (f.reason = 0 → f.submitter = none → f.launch.after = 0 → f.ctx = q.ctx → (s.ctxOf q.ctx.toNat).st = .active →
      (∀ x ∈ s.disp.assigned, x.seq ≠ seq) → f.queue = q.queue.toNat →
      s1.gridOf (mkHandle seq q.ctx.toNat) = some
        { handle := mkHandle seq q.ctx.toNat, seq := (mkHandle seq q.ctx.toNat).toNat / 256, srcPkg := s.pkg, queue := f.queue, pos := f.pos,
          utag := tokUtag f.bytes, doneVA := tokDone f.bytes, launch := f.launch, khdr := f.khdr, rosters := f.rosters, own := OwnerSt.reset,
          reason := 0, submitter := none })) ∧
  (∀ (s : State) (h : PktHdr) (g : Handle) (q : QueueWord) (cw : W64) (lo hi : List Byte),
    let d := h.dstSock.toNat
    let n : Notice := { handle := g, srcPkg := h.tag.toNat % 256, queue := q, cw := cw, lo := lo, hi := none }
    let full : Notice := { n with hi := some hi }
    (h.srcPkg.toNat = s.pkg → exec (.notice h g q cw lo) s = .next (s.updDisp d fun x => { x with notices := x.notices ++ [n] })) ∧
    (h.srcPkg.toNat ≠ s.pkg → s.gridOf g = none → exec (.notice h g q cw lo) s =
      .next { s with disp := { s.disp with inbox := s.disp.inbox ++ [n] } }) ∧
    (h.srcPkg.toNat = s.pkg → (s.dieOf d).disp.notices = [n] → (s.dieOf d).disp.nextSeq ≤ g.toNat / 256 →
      exec (.recpart h g hi) s = .next ((s.updDisp d fun x => { x with notices := [full] }).actNotice d full)) ∧
    ((s.actNotice d full).mem = s.mem ∧ ((s.actNotice d full).dieOf d).disp.nextSeq = g.toNat / 256 + 1 ∧
      full ∉ ((s.actNotice d full).dieOf d).disp.notices ∧
      ∀ x, s.gridOf g = some x → cw = 0 → x.own.isEnded = false → s.pkg ∈ x.launch.pkgs x.srcPkg → d ∈ s.placementIn (handleCtx g).toNat s.pkg →
        ((s.actNotice d full).gridDie d g).involved = true) ∧
    (h.srcPkg.toNat ≠ s.pkg → s.disp.inbox = [n] →
      let a : Assigned := { srcPkg := n.srcPkg, ctx := q.ctx, queue := q.queue.toNat, pos := q.pos.toNat, seq := g.toNat / 256, cw := cw,
                            record := lo ++ hi }
      exec (.recpart h g hi) s = .next (({ s with disp := { s.disp with inbox := [] } }.accept a).noticeDies a))) ∧
  (∀ (s : State) (h : PktHdr) (n : W64), exec (.podseq h n) s = .next { s with disp := { s.disp with
    podSeq := s.disp.podSeq.set h.srcPkg.toNat n.toNat, collect := s.disp.collect.filter (fun p => p != h.srcPkg.toNat),
    nextSeq := max s.disp.nextSeq (n.toNat + 1) } }) ∧
  (∀ (s : State) (h : PktHdr) (mask : W32), s.disp.grids = [] → (∃ d, d < 8 ∧ mask.getLsbD d = true) → h.srcPkg.toNat ≠ s.pkg →
    (∀ d, ∀ u ∈ (s.dieOf d).tags, ∀ t w g p e, u.2 ≠ .enq t w g p e) →
    ∃ t, exec (.health h mask) s = .next t ∧ t.mem = s.mem ∧ t.net = s.net ∧
      t.host = { s.host with peerHealth := s.host.peerHealth.set h.srcPkg.toNat mask } ∧
      t.disp.podldr = BitVec.ofNat 8 ((t.livePackages.min?).getD s.pkg))

/-- R116 to R122: the owner answers a request with the next indices, recorded at the deputy before they are sent; a die queues the clusters of
its range; retirements and sweeps lead to the end of a grid after two clean sweeps; a cancel stops dealing, and at a die discards what
has not run. -/
def Obligations.GridCounters : Prop :=
  (∀ (s : State) (h : PktHdr) (g : Handle) (x : Grid),
    let tgt := (h.srcPkg.toNat, h.srcSock.toNat)
    let o := x.own
    s.gridOf g = some x →
    (o.st = .waiting ∨ (o.st = .running ∧ o.stopDeal = false) → s.depReady x.launch = true → (∀ p ∈ o.pendMirror, p.copy = false) →
      (o.replay = [] → o.next < x.launch.crews → exec (.rangereq h g) s =
        .next ((s.grantRange g tgt o.next (min x.launch.deal (x.launch.crews - o.next)) false).sweepStart g)) ∧
      (∀ r rest, o.replay = r :: rest → exec (.rangereq h g) s = .next
        (((s.updOwner g fun o => { o with replay := rest }).grantRange g tgt r.first r.count true).sweepStart g)) ∧
      (o.replay = [] → x.launch.crews ≤ o.next → exec (.rangereq h g) s = .next ((s.reply0 g tgt).sweepStart g))) ∧
    (s.disp.depv = true → ∀ first count, ∃ x', (s.grantRange g tgt first count false).gridOf g = some x' ∧ x'.own.st = .running ∧
      x'.own.next = first + count ∧ (∃ r ∈ x'.own.ranges, r.first = first ∧ r.count = count ∧ (r.pkg, r.die) = tgt ∧ r.retired = false) ∧
      ∃ p, x'.own.pendMirror = o.pendMirror ++ [p] ∧ p.dest = some tgt ∧ p.body.first = BitVec.ofNat 64 first ∧
        p.body.count = BitVec.ofNat 32 count ∧ (s.grantRange g tgt first count false).net = s.net ++
          [⟨{ s.hdr (handleCtx g) (mirrorTag tgt.1 tgt.2) (s.leaderOf s.pkg) s.disp.deputy.toNat with dstPkg := BitVec.ofNat 8 s.pkg },
            .range p.body⟩]) ∧
    (∀ first p tgt, o.pendMirror.find? (fun p => p.body.first == first) = some p → p.dest = some tgt → exec (.mirrorack h g first) s =
      .next (((s.updOwner g fun o => { o with pendMirror := o.pendMirror.erase p }).sendTo (handleCtx g) 0 (s.leaderOf s.pkg) tgt
        (.range p.body)).serveAsked g)) ∧
    (∀ b : RangeB, b.handle = g → h.tag.toNat < 2 ^ 19 →
      let d := h.dstSock.toNat
      let y := s.gridDie d g
      exec (.range h b) s = .next (s.takeRange d b) ∧
      (b.count ≠ 0 → y.cancelled = false → (∀ r ∈ y.ranges, r.1 ≠ b.first.toNat) →
        ((s.takeRange d b).gridDie d g).unretired = y.unretired + b.count.toNat ∧
        ((s.takeRange d b).gridDie d g).ranges = y.ranges ++ [(b.first.toNat, b.count.toNat, 0)] ∧
        ((s.takeRange d b).gridDie d g).exhausted = b.exhausted ∧
        ∀ i, i < b.count.toNat / max 1 x.launch.csize → x.launch.prio < 4 → (s.dieOf d).disp.queues.length = 4 →
          ∃ c ∈ ((s.takeRange d b).dieOf d).disp.queues.flatten, c.handle = g ∧ c.cluster = b.first.toNat / max 1 x.launch.csize + i)) ∧
    (∀ b : RangeB, b.handle = g → h.tag.toNat < 2 ^ 19 →
      let mark := fun (r : RangeRec) => if r.first = b.first.toNat ∧ (r.pkg, r.die) = tgt then { r with retired := true } else r
      exec (.retire h b) s = .next ((s.updOwner g fun o => { o with ranges := o.ranges.map mark }).mirror g
        { body := b, dest := none, retirement := true, copy := false } tgt.1 tgt.2)) ∧
    (∀ b : SweepReplyB, b.handle = g → b.sweep.toNat = o.sweepNo → tgt ∈ o.sweepWait →
      let dirty := b.unretired != 0 || b.live != 0 || b.change
      let left := o.sweepWait.filter fun y => y != tgt
      let add := fun (t : Tbl Nat) => (List.range 32).foldl (fun (t : Tbl Nat) c =>
        if b.faults.getD c 0 = 0 then t else t.upd 0 c (· + (b.faults.getD c 0).toNat)) t
      let s1 := s.updOwner g fun o => { o with counts := add o.counts, sweepDirty := o.sweepDirty || dirty, sweepWait := left }
      (left ≠ [] → exec (.sweepreply h b) s = .next s1) ∧ (left = [] → exec (.sweepreply h b) s = .next (s1.sweepEnd g))) ∧
    (s.sweepEnd g =
      let n := if o.sweepDirty then 0 else o.clean + 1
      let s1 := s.updOwner g fun o => { o with clean := n }
      if 2 ≤ n then s1.finishGrid g (s.finalStatus x) else s1.sweepStart g) ∧
    (h.tag = 1 → o.st = .waiting → exec (.cancel h g) s =
      .next ((s.updOwner g fun o => { o with never := o.never + x.launch.crews }).finishGrid g 3)) ∧
    (h.tag = 1 → exec (.cancel h g) s = .next (s.cancelGrid g)) ∧
    (h.tag ≠ 1 → exec (.cancel h g) s = .next (s.cancelDie h.dstSock.toNat g)) ∧
    (∀ d, s.crewsOf d g = [] → ((s.cancelDie d g).gridDie d g).cancelled = true ∧ ((s.cancelDie d g).gridDie d g).live = 0 ∧
      ((s.cancelDie d g).gridDie d g).ring = [] ∧ (s.cancelDie d g).mem = s.mem ∧
      ∀ c ∈ ((s.cancelDie d g).dieOf d).disp.queues.flatten, c.handle ≠ g)) ∧
  (∀ (s : State) (h : PktHdr) (b : RangeB), 2 ^ 19 ≤ h.tag.toNat → ∀ i, i = Instr.range h b ∨ i = .retire h b →
    ∃ u : State, exec i s = .next (u.send (PktHdr.reply h) (.mirrorack b.handle b.first)) ∧ u.mem = s.mem ∧ u.net = s.net ∧
      (u.dieOf h.dstSock.toNat).disp.mirror.get [] b.handle.toNat =
        mirrorRange ((s.dieOf h.dstSock.toNat).disp.mirror.get [] b.handle.toNat) b h.tag.toNat (decide (i = .retire h b))) ∧
  (∀ (s : State) (h : PktHdr) (g : Handle) (n : W64),
    let d := h.dstSock.toNat
    let x := s.gridDie d g
    let faults := (List.range 32).map fun c => BitVec.ofNat 32 (x.counts.get 0 c)
    ∃ u : State, exec (.sweep h g n) s = .next (u.send (PktHdr.reply h) (.sweepreply
        ⟨g, n, BitVec.ofNat 32 x.unretired, BitVec.ofNat 32 x.live, x.change, faults⟩)) ∧
      u.gridDie d g = { x with change := false, counts := [] } ∧ u.mem = s.mem)

/-- R137 to R148 and R460: how records move: a die that is idle asks the others in turn; a grant carries half of what may be stolen, at most 32,
and leaves the victim's counter only at the acknowledgement; an enqueued record lands where a slot is free, is counted there, and goes back
where none is; a band forms of the records that the first row of Table 6.2 takes; an idle crew takes landed or spilled records. -/
def Obligations.TaskMovement : Prop :=
  (∀ (s : State) (d : Nat) (g : Handle),
    let x := s.gridDie d g
    let order := (s.ringOrder d).filter fun e => (s.placementIn (handleCtx g).toNat s.pkg).contains e
    (s.dieIdle d g = true → x.steal = .idle → exec (.stealRound d g) s = .next (s.stealNext d g order)) ∧
    (∀ rest, s.dieIdle d g = true → x.steal = .pending rest → exec (.stealRound d g) s = .next (s.stealNext d g rest)) ∧
    (∀ since, x.steal = .resting since → since + 1024 ≤ s.cyc d → exec (.stealRoundWaitExpiry d g) s =
      .next (if s.dieIdle d g then s.stealNext d g order else s.updGridDie d g fun y => { y with steal := .idle })) ∧
    (∀ rest, rest.filter s.healthy = [] →
      ((s.stealNext d g rest).gridDie d g).steal = .resting (s.cyc d) ∧ (((s.stealNext d g rest).gridDie d g).allRefused = true ↔ x.live = 0)) ∧
    (∀ rest v vs, rest.filter s.healthy = v :: vs → (s.pageFor d g (some .steal)).isSome = true →
      ((s.stealNext d g rest).gridDie d g).steal = .asking vs v ∧
      (s.stealNext d g rest).net = s.net ++ [⟨{ s.hdr (handleCtx g) 0 d v with dstPkg := BitVec.ofNat 8 s.pkg }, .stealreq g⟩]) ∧
    (∀ rest, rest.filter s.healthy ≠ [] → s.pageFor d g (some .steal) = none → ((s.stealNext d g rest).gridDie d g).steal = .pending rest)) ∧
  (∀ (s : State) (h : PktHdr) (g : Handle),
    let d := h.dstSock.toNat
    let x := s.stealable d g (s.gridDie d g).ring
    let k := min 32 ((x.2.length + 1) / 2)
    (k = 0 → exec (.stealreq h g) s = .next (x.1.send (PktHdr.reply h) (.refuse g))) ∧
    (k ≠ 0 → h.srcPkg.toNat = s.pkg → ∃ t, exec (.stealreq h g) s = .next t ∧
      (t.gridDie d g).granted = (x.1.gridDie d g).granted ++ [(h.srcSock.toNat, k)] ∧ (t.gridDie d g).live = (x.1.gridDie d g).live ∧
      t.net = x.1.net ++ [⟨PktHdr.reply h, .grant g (BitVec.ofNat 64 k)⟩] ++ ((List.range k).zip (x.2.take k)).map fun r =>
        ⟨PktHdr.reply h, .stealrec g (BitVec.ofNat 64 r.1) r.2.2⟩)) ∧
  (∀ (s : State) (h : PktHdr) (g : Handle) (n pos : W64) (record : List Byte),
    let d := h.dstSock.toNat
    let v := h.srcSock.toNat
    let x := s.gridDie d g
    (∀ rest, x.steal = .asking rest v →
      exec (.grant h g n) s = .next (s.updGridDie d g fun y => { y with steal := .receiving v n.toNat [] }) ∧
      exec (.refuse h g) s = .next ((s.updCtxDie d (handleCtx g).toNat fun c => { c with spillReserved := c.spillReserved - 1 }).stealNext d g rest)) ∧
    (∀ k got, x.steal = .receiving v k got → pos.toNat < k → (∀ y ∈ got, y.1 ≠ pos.toNat) →
      let all := got ++ [(pos.toNat, record)]
      let recs := (List.range k).filterMap fun i => (all.find? fun y => y.1 == i).map fun y => y.2
      (all.length < k → exec (.stealrec h g pos record) s = .next (s.updGridDie d g fun y => { y with steal := .receiving v k all })) ∧
      (k ≤ all.length → ∃ u : State, exec (.stealrec h g pos record) s =
          .next (u.send (PktHdr.reply h) (.stealack g (BitVec.ofNat 64 recs.length))) ∧ (u.gridDie d g).steal = .idle ∧
        (u.ctxDie d (handleCtx g).toNat).spillReserved = (s.ctxDie d (handleCtx g).toNat).spillReserved - 1)) ∧
    ((v, n.toNat) ∈ x.granted → ∃ t, exec (.stealack h g n) s = .next t ∧ t.mem = s.mem ∧ t.gridDie d g =
      { x with live := x.live - n.toNat, granted := x.granted.erase (v, n.toNat), change := true })) ∧
  (∀ (s : State) (h : PktHdr) (b : EnqB),
    let d := h.dstSock.toNat
    let g := b.handle
    let x := s.gridDie d g
    let base := x.enqBase + (h.srcPkg.toNat * 8 + h.srcSock.toNat) * x.enqRes * 64
    let slot := (List.range x.enqRes).find? fun j => !(s.landedAt d (handleCtx g).toNat).contains (base + 64 * j)
    let closed := x.exhausted = true ∧ s.crewPlaced d g = false ∧ s.crewQueued d g = false
    (x.cancelled = true → exec (.enqArrival h b) s =
      .next (((s.updGridDie d g fun y => { y with change := true }).send (PktHdr.reply h) (.credit b.route g)).send (PktHdr.reply h)
        (.enqack b.route g))) ∧
    (x.cancelled = false → closed ∨ slot = none → exec (.enqArrival h b) s =
      .next ((s.updDisp d fun y => { y with bounce := satInc y.bounce }).send (PktHdr.reply h) (.bounce b))) ∧
    (∀ j s1, x.cancelled = false → ¬ closed → slot = some j → s.devWrite (handleCtx g) (base + 64 * j) b.record = .ok s1 →
      x.landing.length = 4 → ∃ u : State, exec (.enqArrival h b) s = .next (u.send (PktHdr.reply h) (.enqack b.route g)) ∧
        u.mem = s1.mem ∧ u.net = s.net ∧ (u.gridDie d g).live = x.live + 1 ∧
        (u.gridDie d g).landing.getD b.route.queue.toNat [] = x.landing.getD b.route.queue.toNat [] ++
          [⟨h.srcPkg.toNat, h.srcSock.toNat, j, base + 64 * j, x.landed⟩])) ∧
  (∀ (s : State) (h : PktHdr) (r : Route) (b : EnqB) (g : Handle),
    let d := h.dstSock.toNat
    let c := (handleCtx g).toNat
    let p := h.srcPkg.toNat
    let k := h.srcSock.toNat
    (∀ t w h0 p0 k0, (s.dieOf d).tags.find? h.tag.toNat = some (.enq t w h0 p0 k0) →
      let rest := (s.dieOf d).tags.erase h.tag.toNat
      (∀ u ∈ rest, ∀ h1 p1 k1, u.2 ≠ .enq t w h1 p1 k1) → (∀ b m, s.thread t = some b → b.x.phase ≠ .sending m w) →
      ∃ u : State, exec (.enqack h r g) s = .next (u.waitDone t w) ∧ (u.dieOf d).tags = rest ∧ u.mem = s.mem ∧
        u.gridDie d g = { s.gridDie d g with live := (s.gridDie d g).live - 1, change := true }) ∧
    (∃ t, exec (.credit h r g) s = .next t ∧ t.mem = s.mem ∧ t.enqUsed d c p k = s.enqUsed d c p k - 1 ∧
      ∀ p' k', (p', k') ≠ (p, k) → t.enqUsed d c p' k' = s.enqUsed d c p' k') ∧
    (b.handle = g → ∀ u, u = (s.creditBack h g).enqAnswered d h.tag.toNat →
      let w := PageWait.returned b.record
      ((u.gridDie d g).cancelled = true → exec (.bounce h b) s = .next u) ∧
      ((u.gridDie d g).cancelled = false →
        (∀ s2, u.ringAppend d g (some w) b.record = some s2 → exec (.bounce h b) s = .next s2) ∧
        (u.ringAppend d g (some w) b.record = none → ∃ t, exec (.bounce h b) s = .next t ∧
          (t.dieOf d).disp.pageWait = (u.dieOf d).disp.pageWait ++ [(g, w)])))) ∧
  (∀ (s : State) (cw : Crew) (k : Nat) (i : Instr),
    let r := s.cur.crew
    let rs := cw.blocked (s.cyc r.die) (s.ctxOf (handleCtx cw.cfg.handle).toNat).flush.toNat
    let b := cw.formed ((cw.bands.find? k).getD Band.reset) rs (s.cyc r.die)
    i = .bandFormation ∨ i = .flushAgeExpiry → s.crewOf r = some cw → cw.freeSlot = some k → rs ≠ [] → cw.ctl.cancelled = false →
    cw.ctl.stopping = false → s.MemCanonical → rs.length ≤ 64 → cw.cfg.taskBase + 14 ≤ 256 →
    ∃ t w, exec i s = .next t ∧ t.crewOf r = some w ∧ w.window = (cw.window.filter fun w => !rs.contains w) ∧ w.bands.find? k = some b ∧
      (∀ j, j ≠ k → j < lateBand → w.bands.find? j = cw.bands.find? j) ∧ b.running = true ∧
      b.r.exited = maskOf 64 (fun l => decide (rs.length ≤ l)) ∧ b.tasks = maskOf 64 (fun l => decide (l < rs.length)) ∧ b.r.status = 0 ∧
      ∀ l w, rs[l]? = some w →
        t.readKey (cw.sliceKey (r.band k) l 192) 64 = pad 64 w.record ∧
        ∀ j, j < 14 → b.r.getKey (slotKey l (cw.cfg.taskBase + j)) = BitVec.ofNat 64 (leNat ((w.record.drop (8 + 4 * j)).take 4) % 2 ^ 32)) ∧
  (∀ (s : State) (cw : Crew), let r := s.cur.crew
    s.crewOf r = some cw → cw.idle = true →
    let h := cw.cfg.handle
    let n := min (cw.cfg.poolN / 2) 64
    let x := s.takeFrom r.die h n [] (s.sources r.die h)
    let fromRing := x.2.any fun y => match y.1 with | .ring _ => true | .land _ _ => false
    let u := if fromRing then x.1.updGridDie r.die h fun y => { y with takenAt := some (s.cyc r.die) } else x.1
    exec .take s = .next (u.updCrew r fun cw => (x.2.foldr byAge []).foldl (fun (cw : Crew) y => cw.push (s.cyc r.die) y.2) cw) ∧
    x.2.length ≤ n) ∧
  (∀ (s : State) (w : Handle × PageWait) (rest : List (Handle × PageWait)), s.waiters s.cur.die (mkHandle 0 s.unit) = w :: rest →
    exec .spillPageReturn s = .next (s.servePage s.cur.die w.1 w.2) ∧
    ∀ r s1, w.2 = .returned r → s.ringAppend s.cur.die w.1 (some w.2) r = some s1 →
      s.servePage s.cur.die w.1 w.2 = s1.updDisp s.cur.die fun x =>
        { x with pageWait := x.pageWait.erase w })

/-! ## What passes with time, and the engines -/

/-- R165 to R167: a band that can issue takes free room in the active set, or the place of the member that has been unable to issue longest, or,
once it has been able to for 64 cycles, that of the member that issued last; once per cycle. R185: a candidate for merging goes on alone after 256 cycles. R204: a window
closes at 64 cycles, or when every other core has joined. R269: an accepted trap is entered once nothing that writes a register is under way.
R280: an overdue band is stopped whole, with an event. R281: a halted and drained cluster is saved, or no room is reported. R119: a crew
that is over retires. R128 and R129: a cluster that fits starts, one that does not ages. -/
def Obligations.CoreEvents : Prop :=
  (∀ s : State,
    let d := s.cur.die
    let c := s.cur.core
    let u := s.trimSet d c
    let k := u.coreOf d c
    let now := u.cyc d
    let ref := fun (p : Nat × Nat) => (⟨d, c, p.1, some p.2⟩ : ThreadRef)
    let inside := k.sel.active.map ref
    let ready := ((k.runningBands.filter fun p => !k.sel.active.contains p).map ref).filter fun t => u.wasReady t true
    let idle := inside.filter fun t => u.wasReady t false
    let long := ready.filter fun t => decide (64 ≤ u.standing t)
    let best := fun (l : List ThreadRef) (f : ThreadRef → Nat) (t : ThreadRef) => t ∈ l ∧ ∀ v ∈ l, f v ≤ f t
    (∀ p, p ∈ k.sel.active ↔ p ∈ (s.coreOf d c).sel.active ∧ (s.coreOf d c).stillRuns p = true) ∧
    (k.sel.lastSetChange = some now → exec .activeSetReplacement s = .next u) ∧
    (k.sel.lastSetChange ≠ some now →
      (inside.length < 8 → ready ≠ [] → ∃ t, best ready u.key t ∧ exec .activeSetReplacement s = .next (u.enterSet t)) ∧
      (8 ≤ inside.length → idle ≠ [] → ready ≠ [] → ∃ o t, best idle u.standing o ∧ best ready u.key t ∧
        exec .activeSetReplacement s = .next ((u.leaveSet o).enterSet t)) ∧
      (8 ≤ inside.length → idle = [] → long ≠ [] → ∃ o t, best inside u.issuedAt o ∧ best long u.key t ∧
        exec .activeSetReplacement s = .next ((u.leaveSet o).enterSet t)) ∧
      (ready = [] ∨ (8 ≤ inside.length ∧ idle = [] ∧ long = []) → exec .activeSetReplacement s = .next u))) ∧
  (∀ (s : State) (b : Band) (since : Nat), s.thread s.cur = some b → b.x.phase = .merging since →
    (s.cyc s.cur.die < since + 256 → exec .mrgWaitExpiry s = .next s) ∧
    (since + 256 ≤ s.cyc s.cur.die → ∃ t b', exec .mrgWaitExpiry s = .next t ∧ t.thread s.cur = some b' ∧
      b' = { b with x := { b.x with pc := b.x.pc + BitVec.ofNat 48 b.x.lastLen, phase := .fresh }, region := b'.region } ∧
      (b.trapPriv = false → b'.region.restart = b'.x.pc ∧ b'.region.tag = b.region.tag + 1 ∧ b'.region.stores = 0) ∧
      SameOutside s t ∧ SameOthers s.cur s t)) ∧
  (∀ s : State,
    let d := s.cur.die
    let k := s.cur.core
    let ws := (s.coreOf d k).windows
    let due := fun (w : McWin) => w.data = none ∧ (w.openedAt + 64 ≤ s.cyc d ∨ ∀ c ∈ w.others, ∃ j ∈ w.joined, j.1 = c)
    ∃ t, exec .multicastWindowClose s = .next t ∧ t.mem = s.mem ∧ (t.coreOf d k).windows.length = ws.length ∧
      ∀ (i : Nat) (w : McWin), ws[i]? = some w →
        (due w → (t.coreOf d k).windows[i]? = some { w with data := some (s.blockBytes d k w.block) }) ∧
        (¬ due w → (t.coreOf d k).windows[i]? = some w)) ∧
  (∀ (s : State) (cw : Crew) (b : Band),
    let u := s.settle s.cur
    let h := cw.cfg.handle
    let d := s.cur.die
    u.crewOf s.cur.crew = some cw → u.thread s.cur = some b →
    (b.pending = none ∨ b.writersOut = true → exec .trapEntry s = .next u) ∧
    (∀ p pc, b.pending = some p → b.writersOut = false → u.vector (handleCtx h) cw.cfg.trapVec p.cause = .handler pc →
      ∃ t b', exec .trapEntry s = .next t ∧ t.thread s.cur = some b' ∧ b'.trapPriv = true ∧ b'.pending = none ∧
        b'.x.pc = BitVec.ofNat 48 pc ∧ b'.trap.cause = BitVec.ofNat 8 p.cause ∧ b'.trap.pc = p.restart ∧ b'.trap.fpc = p.fpc ∧
        b'.trap.insn0 = p.insn0 ∧ b'.trap.insn1 = p.insn1 ∧ b'.trap.annex = p.annex ∧ b'.trap.decode = p.decode ∧
        b'.trap.lanes = p.lanes ∧ b'.trap.exec = b.exec ∧ b'.trap.info = p.info ∧ b'.trap.wstat = 0 ∧
        (∀ l ∈ b.alive, b'.count l = if p.lanes.getLsbD l then 0 else 1) ∧ b'.r.exited = b.r.exited ∧ b'.r.slots = b.r.slots ∧
        b'.r.preds = b.r.preds ∧ b'.r.uni = b.r.uni ∧
        (t.gridDie d h).counts.get 0 p.cause = (u.gridDie d h).counts.get 0 p.cause + 1 ∧ SameOthers s.cur u t) ∧
    (∀ since, s.cur.band.isSome = true → d < 8 → b.stopReq = some since → since + u.spmaxOf cw ≤ u.cyc d → b.running = true →
      b.stopped = false → b.pending = none → b.x.chain = none → b.x.phase.mayOverrun = true → b.writersOut = false → b.committed = true →
      (cw.ctl.cancelled = true → b.cancelTrap = true → ∃ t, exec .spmaxOverrun s = .next t ∧
        ∀ b', t.thread s.cur = some b' → b'.r.exited = BitVec.allOnes 64) ∧
      (cw.ctl.cancelled = false ∨ b.cancelTrap = false → ∃ t, exec .spmaxOverrun s = .next t ∧ t.thread s.cur = some { b with stopped := true, full := true } ∧ t.mem = u.mem ∧
        (t.gridDie d h).counts.get 0 15 = (u.gridDie d h).counts.get 0 15 + 1 ∧
        ∃ q ∈ t.net, q.body = .event (u.mkRecord d false (some (handleCtx h)) 15 h
          (trapDetail b.x.pc.toNat 0 b.exec.toNat s.cur.core (s.cur.band.getD 0) 0 0 0))))) ∧
  (∀ (s : State) (cw : Crew),
    let r := s.cur.crew
    let h := cw.cfg.handle
    let ctx := handleCtx h
    let cs := s.clusterCrews r.die h (clusterOf cw.cfg)
    let region := s.ctxDie r.die ctx.toNat
    let place := carve region.saveUsed (region.saveBase.toNat * 65536) region.savePages.toNat (cs.map fun x => x.2.cfg.blockPages)
    s.crewOf r = some cw →
    ((∃ x ∈ cs, x.2.halted = false ∨ s.drained x.1 x.2 = false) → exec .crewSave s = .next s) ∧
    ((∀ x ∈ cs, x.2.halted = true ∧ s.drained x.1 x.2 = true) →
      (∀ vas, place = some vas → (∀ x ∈ cs, ∀ t, t < 16 → (x.2.table t).noRoom = false) →
        let images := fun (x : CrewRef × Crew) => (List.range 16).filterMap fun t =>
          if (x.2.table t).mode = 2 then some ((x.2.table t).chnext, s.keyImage x.1 x.2 (x.2.table t), false) else none
        let step := (cs.map fun x => lostAt x.2.cfg.blockBytes (x.2.cfg.bands + 1)).foldl max 0
        let saved := fun (n : Nat) (x : (CrewRef × Crew) × Nat) => s.toSaved x.1.1 x.1.2 x.2 (s.free + step * n)
        let crews := (List.range cs.length).zip (cs.zip vas)
        let blocks := crews.flatMap fun x => (x.2.2, (saved x.1 x.2).bytes (s.free + step * x.1), true) :: images x.2.1
        ∀ s1, s.saveBytes ctx blocks = (none, s1) →
        ∃ t, exec .crewSave s = .next t ∧ t.mem = s1.mem ∧
          (t.dieOf r.die).savedCrews = (s.dieOf r.die).savedCrews ++ crews.map fun x => saved x.1 x.2) ∧
      (place = none ∨ (∃ x ∈ cs, ∃ t, t < 16 ∧ (x.2.table t).noRoom = true) → r.die < 8 → ∃ t, exec .crewSave s = .next t ∧ (t.ctxOf ctx.toNat).preNospace = true ∧ t.mem = s.mem ∧
        (t.dieOf r.die).savedCrews = (s.dieOf r.die).savedCrews))) ∧
  (∀ (s : State) (cw : Crew),
    let r := s.cur.crew
    let h := cw.cfg.handle
    let lin := cw.cfg.lin
    s.crewOf r = some cw →
    (s.mayRetire r cw = false → exec .crewRetire s = .next s) ∧
    (s.mayRetire r cw = true → ∃ t, exec .crewRetire s = .next t ∧ t.mem = s.mem ∧
      (t.gridDie r.die h).unretired = (s.gridDie r.die h).unretired - 1 ∧
      (t.gridDie r.die h).ranges = (s.gridDie r.die h).ranges.map (fun x => if x.1 ≤ lin ∧ lin < x.1 + x.2.1 then (x.1, x.2.1, x.2.2 + 1) else x) ∧
      ∀ first n, (s.gridDie r.die h).ranges = [(first, n, n - 1)] → first ≤ lin → lin < first + n → (s.ownerAt h).1 = s.pkg →
        ∃ q ∈ t.net, q.body = .retire (rangeBody h first n))) ∧
  (∀ (s : State) (p : Nat) (c : QCluster) (g : Grid),
    let d := s.cur.die
    let round := s.cyc d / 128
    p < 4 → (s.dieOf d).disp.queues = (List.replicate 4 []).set p [c] → s.gridOf c.handle = some g → (s.dieOf d).stopped = false →
    (s.dieOf d).disp.lastRound < round → s.held d c = false → c.saved = none →
    (s.gridDie d c.handle).halted = false →
    (∀ x fits, s.firstSlot d g.launch c (s.drains d) = some (x, fits) → (fits.map fun f => f.core).Nodup →
      ∃ t, exec .placementRound s = .next t ∧ (t.dieOf d).disp.queues = List.replicate 4 [] ∧ (t.dieOf d).disp.lastRound = round ∧
        ∀ (i : Nat) (f : Fit), fits[i]? = some f →
          t.crewOf ⟨d, f.core, f.slot⟩ = some (g.startCrew (s.crewCfg d g c.cluster x.core0 i fits f) (s.cyc d))) ∧
    (s.firstSlot d g.launch c (s.drains d) = none →
      ∃ t, exec .placementRound s = .next t ∧ t.mem = s.mem ∧ (t.dieOf d).disp.lastRound = round ∧ (t.dieOf d).disp.queues =
        (List.replicate 4 []).set p [{ c with age := c.age + 1, drain := if c.age + 1 = 16 then s.chooseDrain d g.launch else c.drain }]))

/-- R205 to R211: a copy command's checks and start, and the delivery of its elements, in order, each counted; a fence in a channel passes.
R258, R418, R427, R436 and R441: an operation of the Infuser begins a pass, whose sums are those of its rows and columns, and places its keys; an
entry takes the sum, rounded; the last pass ends the operation. R445 to R451: a drain reads what it emits, writes it, and then empties its
table. R428: a batch whose operations are over completes. -/
def Obligations.EngineEvents : Prop :=
  (∀ (s : State) (cw : Crew) (k : CopyCmd) (rest : List CopyCmd),
    let d := s.cur.die
    let c := s.cur.core
    let r : CrewRef := ⟨d, c, k.slot⟩
    let g := k.eng r s.unit
    let ra := k.recAddr.toNat
    let run := fun (u : State) (t : TensorRec) (idx : List Nat) =>
      u.updHead d c s.unit fun x => { x with st := .running, rcd := some t, idx := idx }
    (s.coreOf d c).copy.getD s.unit [] = k :: rest →
    (∀ m, k.op = .qfence m →
      exec .copyCommandStart s = .next (if (s.coreOf d c).fencePassed k.seq m then s.copyEnd r s.unit k 0 else s)) ∧
    ((∀ m, k.op ≠ .qfence m) → s.crewOf r = some cw → k.rcd = none → k.st = .queued →
      (ra % 64 ≠ 0 → exec .copyCommandStart s = .next (s.copyError r s.unit k 2)) ∧
      (∀ rd s0, ra % 64 = 0 → s.engHeld g cw k.rsp [ra] = none → s.engRead g cw k.rsp attrR ra 64 = (.ok rd, s0) →
        let s1 := ((s0.engDone g).engLeaves g cw k.rsp [ra]).copyUninit r s.unit k.rsp rd.uninit
        let t := TensorRec.parse rd.bytes
        (tensorBad rd.bytes = true ∨ k.dense.toNat % t.bytes ≠ 0 → exec .copyCommandStart s = .next (s1.copyError r s.unit k 2)) ∧
        (tensorBad rd.bytes = false → k.dense.toNat % t.bytes = 0 → (k.acnt = true → s1.engScratch r cw k.asp k.acoff 8 = true) →
          (k.gathers = true → 4096 < k.icnt → exec .copyCommandStart s = .next (s1.copyError r s.unit k 4)) ∧
          (k.gathers = false → (k.op = .cpyAdd → ∃ x, addType t.dt = some x ∧ x.1 = t.bytes) →
            (t.pad = 0 ∧ k.anyOutside t [] = true → exec .copyCommandStart s = .next (s1.copyError r s.unit k 3)) ∧
            (¬(t.pad = 0 ∧ k.anyOutside t [] = true) → exec .copyCommandStart s = .next (run s1 t []))) ∧
          (k.gathers = true → k.icnt ≤ 4096 →
            let offs := (List.range k.icnt).map fun i => k.idxOff + 4 * i
            (∀ o ∈ offs, s1.engScratch r cw k.isp o 4 = true) → s1.engHeld g cw k.isp offs = none →
            let bs := if k.isp = .clus then s1.mcRead r cw g.reader k.idxOff (4 * k.icnt) else s1.getScr r cw .core 0 k.idxOff (4 * k.icnt)
            let idx := (List.range k.icnt).map fun i => fld bs (4 * i) 4
            let s2 := (s1.engLeaves g cw k.isp offs).copyUninit r s.unit k.isp (s1.uninit r cw k.isp k.idxOff (4 * k.icnt))
            (t.pad = 0 ∧ k.anyOutside t idx = true → exec .copyCommandStart s = .next (s2.copyError r s.unit k 3)) ∧
            (¬(t.pad = 0 ∧ k.anyOutside t idx = true) → exec .copyCommandStart s = .next (run s2 t idx))))))) ∧
  (∀ (s : State) (cw : Crew) (k : CopyCmd) (rest : List CopyCmd) (t : TensorRec),
    let d := s.cur.die
    let c := s.cur.core
    let r : CrewRef := ⟨d, c, k.slot⟩
    let g := k.eng r s.unit
    let cs := boxCoords t k.origin k.pos
    let outside := t.outside cs
    let src := t.addr cs
    let dst := k.denseAt t k.pos
    let held := k.pos + k.buf.length
    let todo := (List.range (min (k.total t) (k.pos / k.unit t * k.unit t + k.unit t) - held)).map fun i => held + i
    let offs := todo.flatMap fun p => k.clusSource t (k.coords t p) p
    (s.coreOf d c).copy.getD s.unit [] = k :: rest → s.crewOf r = some cw → k.rcd = some t → k.st = .running →
    (k.total t ≤ k.pos → exec .copyCommandComplete s = .next (s.copyEnd r s.unit k k.status)) ∧
    (∀ bs u s1 s3, k.pos < k.total t → (offs = [] ∨ s.mcHeld r cw g.reader offs = none) → s.copyReads g cw k t todo = (bs, u, none, s1) →
      let bufs := k.buf ++ bs
      let s2 := ((if offs.isEmpty then s1 else s1.mcLeaves r cw g.reader offs).copyUninit r s.unit (if k.dir then k.dsp else t.at_) u).updHead
        d c s.unit fun x => { x with buf := bufs }
      s2.copyDeliver r cw s.unit k t (((List.range bufs.length).zip bufs).map fun x => (k.pos + x.1, x.2)) = (none, s3) →
      let now := s3.copyHead r s.unit k
      exec .copyCommandComplete s = .next (if k.total t ≤ now.pos then s3.copyEnd r s.unit now now.status else s3)) ∧
    (k.op = .cpy → k.acnt = false → k.buf = [] → t.at_ = .core → k.dsp = .core → k.pos < k.total t →
      s.engScratch r cw .core dst t.bytes = true → s.uninit r cw .core dst t.bytes = none →
      (outside = false → s.engScratch r cw .core src t.bytes = true ∧ s.uninit r cw .core src t.bytes = none) →
      let bs := if k.dir then s.getScr r cw .core 0 dst t.bytes
        else if outside then List.replicate t.bytes (if t.pad = 2 then t.padb else 0) else s.getScr r cw .core 0 src t.bytes
      let k1 := { k with pos := k.pos + 1 }
      ∃ v : State, exec .copyCommandComplete s = .next (if k.total t ≤ k.pos + 1 then v.copyEnd r s.unit k1 k1.status else v) ∧
        v.mem = (if k.dir = true ∧ outside = true then s else s.putScr r cw .core 0 (if k.dir then src else dst) bs).mem ∧
        (v.coreOf d c).copy.getD s.unit [] = k1 :: rest ∧
        v.crewOf r = some { cw with ctl := { cw.ctl with cpy := cw.ctl.cpy.modify s.unit fun x =>
          { x with bytes := x.bytes + BitVec.ofNat 64 t.bytes } } })) ∧
  (∀ (s : State) (cw : Crew), let r := s.cur.crew
    s.crewOf r = some cw →
    ((s.coreOf r.die r.core).copyOf r.slot s.unit ≠ [] → exec .cpyCtlReset s = .next s) ∧
    ((s.coreOf r.die r.core).copyOf r.slot s.unit = [] → ∃ t, exec .cpyCtlReset s = .next t ∧ t.mem = s.mem ∧
      t.crewOf r = some { cw with ctl := { cw.ctl with cpy := cw.ctl.cpy.modify s.unit fun x => { x with bytes := 0 } } }) ∧
    (∃ t, exec .cpyCtlClrerr s = .next t ∧ t.mem = s.mem ∧
      t.crewOf r = some { cw with ctl := { cw.ctl with cpy := cw.ctl.cpy.modify s.unit fun x => { x with err := 0 } } })) ∧
  (∀ (s : State) (o : JOp) (cw : Crew),
    let d := s.cur.die
    let c := s.cur.core
    let u := s.jSettle d c
    let x := cw.table o.tbl
    let g := o.eng d c
    let read := fun (sp : Space) (off n : Nat) => u.jNat g cw sp off n
    let placed := fun (b : Begun) (s1 : State) =>
      let o1 := { o with sums := b.sums.drop (if o.kind = .stream then 0 else o.keyPos), status := o.status ||| b.st, written := b.last,
                         fails := b.fails, readDone := o.readDone || b.last }
      let s2 := s1.updOp d c o.seq fun y => { o1 with logged := y.logged }
      let o2 := { o1 with logged := (s2.coreOf d c).jq.any fun y => y.seq == o.seq && y.logged }
      (((if b.last then s2.jReads d c o1 else s2).opPlace d c o2 cw).engRest g).jSettle d c
    let steps := fun (i : Instr) (start : Except JStop Begun × State) =>
      (o.sums ≠ [] → exec i s = .next (((u.opPlace d c o cw).engRest g).jSettle d c)) ∧
      (∀ e s1, o.sums = [] → start = (.error e, s1) → exec i s = .next (((s1.opStop d c o e).engRest g).jSettle d c)) ∧
      (∀ b s1, o.sums = [] → start = (.ok b, s1) → exec i s = .next (placed b s1)) ∧
      (o.sums = [] → o.kind = .stream ∨ o.masked = false → o.asp = .core → o.bsp = .core → ∃ b s1, start = (.ok b, s1) ∧ exec i s = .next (placed b s1))
    u.nextOp d c = some o → u.crewOf (o.crew d c) = some cw →
    (o.kind = .pass → steps .quarterOperation (u.quarterBegin d c o cw)) ∧
    (o.kind = .bit → steps .bitmapStep (u.bitBegin d c o cw)) ∧
    (o.kind = .stream → steps .streamJoin (u.streamBegin d c o cw)) ∧
    (o.kind = .pass → o.masked = false → o.scaled = false → o.asp = .core → o.bsp = .core →
      let dp := passDepth cw.cfg.nbv.toNat o.afmt
      let ks := (List.range dp.1).map fun k => o.step * dp.1 + k
      let a := fun (off k : Nat) => (elemIvl x.fmt o.afmt o.ainf none (read .core (off + k * o.esz) o.esz)).1
      let b := fun (k col : Nat) => (elemIvl x.fmt o.bfmt o.binf none (read .core (o.ulo 0 + (16 * k + col) * o.esz) o.esz)).1
      ∃ bg s1, u.quarterBegin d c o cw = (.ok bg, s1) ∧ (bg.last = true ↔ 32 ≤ (o.step + 1) * dp.1) ∧ ∀ m, m ∈ bg.sums ↔
        ∃ l off col, (l, off) ∈ o.laneRows ∧ col < 16 ∧ m.key = jkey o.tbl (o.rowI l) (o.colJ col) ∧ m.a = 0 ∧ m.pos = 0 ∧
          (m.val, m.st) = (let v := passSum x.fmt dp.2 (ks.map fun k => ivMul (a off k) (b k col)); (ivlPair v.1, v.2))) ∧
    (o.kind = .stream → o.asp = .core → o.bsp = .core → o.uhi 0 = 1 → o.uhi 1 = 1 → o.step = 0 → o.keyPos = 0 → o.afmt ≠ 0x0A →
      let ca := read .core (o.ulo 0) 4
      let cb := read .core (o.ulo 1) 4
      let ka := read .core (o.ulo 0 + 4) 4
      let kb := read .core (o.ulo 1 + 4) 4
      let a := elemIvl x.fmt o.afmt false none (read .core (o.ulo 0 + 8) 8)
      let b := elemIvl x.fmt o.afmt false none (read .core (o.ulo 1 + 8) 8)
      ca < 2 ^ 22 → cb < 2 ^ 22 → ka < 2 ^ 22 → kb < 2 ^ 22 → ∃ s1, u.streamBegin d c o cw =
        (.ok { sums := if ka = kb then [{ key := jkey o.tbl ca cb, val := ivlPair (ivMul a.1 b.1), st := a.2 ||| b.2, a := 0, pos := 0 }] else [],
               st := 0, last := true, fails := 0 }, s1)) ∧
    (∀ st s1, u.placeKeys g cw o.tbl o.sums = ([], none, st, s1) →
      (o.written = true → o.fails = 0 → ∃ o2, o2.seq = o.seq ∧ o2.status = o.status ||| st ∧ o2.batch = o.batch ∧
        u.opPlace d c o cw = s1.opDone d c o2) ∧
      (o.written = false → u.opPlace d c o cw = s1.updOp d c o.seq fun _ =>
        { o with sums := [], status := o.status ||| st, st := .running, step := o.step + 1, keyPos := 0 })) ∧
    (∀ (m : JSum) (p : Nat), x.mode = 1 → x.direct m.key = some p →
      let place := x.slot cw p
      let old := (u.coreOf d c).caddy.find? place
      let res := x.added (old.map x.entryIvl) (ivlOf m.val)
      (∀ e, old = some e → e.key = m.key) → ∃ s1, u.placeKey g cw o.tbl m = (none, m.st ||| res.st, s1) ∧ s1.mem = u.mem ∧
        (s1.coreOf d c).caddy = (u.coreOf d c).caddy.set place (x.entry m.key res.bits)) ∧
    (o.kind = .drain → o.written = false →
      (∀ o1 s1, o.rcd = none → u.drainBegin d c o cw = (.ok o1, s1) →
        exec .drainOperation s = .next (((s1.updOp d c o.seq fun y => { o1 with logged := y.logged }).engRest g).jSettle d c)) ∧
      (∀ e s1, o.rcd = none → u.drainBegin d c o cw = (.error e, s1) →
        exec .drainOperation s = .next (((s1.drainStopped d c o e).engRest g).jSettle d c)) ∧
      (∀ t, o.rcd = some t → o.list = true → exec .drainOperation s = .next (((u.listStep d c o cw).engRest g).jSettle d c)) ∧
      (∀ t, o.rcd = some t → o.list = false → t.at_ = .core → isB8 o.ofmt = false →
        let c0 := o.keyPos % t.sizeOf 0
        let c1 := o.keyPos / t.sizeOf 0
        let v := valueAt o.sums (o.tileKey c0 c1)
        let m := drainElem x.fmt cw.cfg.nbv.toNat o.ofmt o.oinf none v.1
        let bs := leBytes t.bytes m.1
        u.engScratch (o.crew d c) cw .core (t.addr [c0, c1]) bs.length = true → o.keyPos + 1 < t.sizeOf 0 * t.sizeOf 1 →
        exec .drainOperation s = .next ((((u.putScr (o.crew d c) cw .core 0 (t.addr [c0, c1]) bs).updOp d c o.seq fun y =>
          { y with keyPos := o.keyPos + 1, status := o.status ||| v.2 ||| m.2, refused := o.refused }).engRest g).jSettle d c))) ∧
    (o.kind = .drain → o.written = true → (∀ y ∈ (u.dieOf o.thread.die).savedCrews, y.home ≠ o.thread.crew) → ∃ v : State, exec .drainComplete s = .next (v.jSettle d c) ∧ v.mem = u.mem ∧
      v.table (o.crew d c) o.tbl =
        { x with sphead := 0, sptail := 0, spcount := 0, spills := 0, outwin := min (2 ^ 32 - 1) (x.outwin + o.outside) } ∧
      (∀ e ∈ (v.coreOf d c).caddy, ¬(x.slot cw 0 ≤ e.1 ∧ e.1 < x.slot cw 0 + x.slots)) ∧ ∀ q ∈ (v.coreOf d c).jq, q.seq ≠ o.seq)) ∧
  (∀ (s : State) (b : Band), s.thread s.cur = some b →
    let n := s.unit
    (b.batchPend.get false n = false ∨ s.batchOver s.cur n = false → exec .batchComplete s = .next s) ∧
    (b.batchPend.get false n = true → s.batchOver s.cur n = true → ∃ t b', exec .batchComplete s = .next t ∧ t.thread s.cur = some b' ∧
      b'.batchPend = b.batchPend.set n false ∧ b'.r = { b.r with status := b.r.status ||| b.batchSt.get 0 n } ∧ b'.x.pc = b.x.pc ∧
      b'.x.phase = b.x.phase ∧
      (∀ w, b.waits.find? (fun w => w.kind == .batch n) = some w → b'.waits = b.waits.filter fun y => y.id != w.id) ∧
      SameOutside s t ∧ SameOthers s.cur s t))

/-! ## The machine as a whole -/

/-- R284 to R304: words written out from the encoding tables of chapter 12 decode to the instructions they stand for, one or two of each
group. A sanity statement on fixed words. -/
def Obligations.DecodeOfSpecWords : Prop :=
  let is := fun (front : Bool) (bs : List Byte) (p : Instr → Bool) (len : Nat) =>
    ∃ d, decode front bs = .ok d ∧ p d.instr = true ∧ d.len = len
  is false [0x21, 0x00, 0xD4, 0x02, 0x48, 0x00, 0x02, 0x05, 0x00, 0x1A, 0x02, 0x00] (fun i => match i with | .fadd _ => true | _ => false) 12 ∧
  is false [0x01, 0x00, 0x3C, 0xD0, 0x04, 0x40, 0x00, 0x00, 0x0B, 0x00, 0x00, 0x00] (fun i => match i with | .brk _ => true | _ => false) 12 ∧
  is false [0x09, 0x00, 0x3C, 0x00, 0x29, 0x80, 0x01, 0x06, 0x00, 0x1A, 0x00, 0x00] (fun i => match i with | .fcmp _ => true | _ => false) 12 ∧
  is false [0x09, 0x00, 0x0C, 0x00, 0x4B, 0x80, 0x00, 0xF8, 0x00, 0x04, 0x00, 0x51] (fun i => match i with | .ld _ => true | _ => false) 12 ∧
  is false [0x01, 0x00, 0x00, 0x20, 0x2B, 0x00, 0x65, 0xF0, 0xE1, 0x0D, 0x00, 0x00] (fun i => match i with | .atom _ => true | _ => false) 12 ∧
  is false [0x09, 0x00, 0x08, 0x10, 0x2E, 0x80, 0x00, 0x00, 0x00, 0x1A, 0x00, 0x00] (fun i => match i with | .split _ => true | _ => false) 12 ∧
  is false [0x8A, 0x00, 0x3C, 0x20, 0x0F, 0x00, 0x00, 0xCC, 0x00, 0x00, 0x00, 0x00, 0x00, 0x00, 0x80, 0x36]
    (fun i => match i with | .jstream _ => true | _ => false) 16 ∧
  is false [0x0A, 0x00, 0x08, 0x00, 0x0F, 0x80, 0x01, 0xCC, 0x00, 0x00, 0x00, 0x00, 0x00, 0x60, 0xD4, 0x3A]
    (fun i => match i with | .jpass _ => true | _ => false) 16

/-- Table 12.1 to Table 12.14: the decoder reads back, with every operand at every value that the encoding admits, each instruction that a
band or a front context can fetch, whatever bytes follow it, and its length. -/
def Obligations.EncodeDecodes : Prop :=
  ∀ (front : Bool) (i : Instr) (tail : List Byte), i.encodable front = true →
    decode front (encode i ++ tail) = .ok ⟨i, (encode i).length⟩ ∧
    ∀ opc c, i.code = some (opc, c) → (encode i).length = c.len

/-- Log 2: a step is the turn that the agenda has next. Where the turn is that of a thread whose bytes at the PC decode to an instruction,
and nothing keeps the thread from issuing it, the step is what the instruction does in that thread, at once or, R176, at the end of the cycles in
which its sources are collected. An event in the agenda is what the event does; a packet that is the first of its route is what it does where it
arrives, by the ring, R49, if it goes that way. The meanings say how the PC moves past the words. -/
def Obligations.StepRunsDecoded : Prop :=
  (∀ (s : State) (rest : List Turn) (t : ThreadRef) (cw : Crew) (b0 : Band) (bs more : List Byte) (d : Decoded) (opc : Nat) (c : Code),
    let s0 := { s with agenda := rest }
    let u := (s0.poll t).barPoll t
    let now := u.cyc t.die
    let b := b0.settle now u.free
    let ctx := handleCtx cw.cfg.handle
    let front := t.band.isNone
    let sel := (u.coreOf t.die t.core).sel
    let v := (u.keepFetched t).withCur t
    let i := d.instr
    s.agenda = .issue t :: rest → s.dieRuns t.die = true → s0.frontBlocked t = false → u.crewOf t.crew = some cw → u.thread t = some b0 →
    b.running = true → b.stopped = false → b.pending = none → cw.ctl.cancelled = false → b.stopReq = none → b.parked = none →
    b.x.phase.isOpen = true → b.asking u t ctx = false →
    (front = true → b.frontHeld = false ∧ sel.frontAt ≠ some now) →
    (front = false → u.barTrap t cw b = none ∧ b.bpHit = false ∧ (u.coreOf t.die t.core).inSet t = true ∧
      ∃ k, u.halfFor t b now = some k ∧ pipeBusy sel opc k now = false ∧ portTaken sel opc now = false) →
    u.codeAt t.die t.core ctx b.x.pc = (.bytes bs, more) → decode front bs = .ok d → i.code = some (opc, c) → b.mayIssue c now = true →
    ((v.collecting t i).1 = false → step s = exec i v) ∧
    (v.collecting t i = (true, none) → ∀ w, exec i v = .next w → step s = .next (if v.gotOn w t = true then v.collect t i else w)) ∧
    (∀ at_ w, v.collecting t i = (true, some at_) → exec i v = .next w →
      step s = .next (if now < at_ ∧ v.gotOn w t = true then v else w))) ∧
  (∀ (s : State) (rest : List Turn) (at_ : ThreadRef) (unit : Nat) (i : Instr),
    s.agenda = .event at_ unit i :: rest → i.code = none → (Instr.onDie i = true → s.dieRuns at_.die = true) →
    (s.inSafeMode = true → Instr.inSafe i = true) → step s = exec i { s with agenda := rest, cur := at_, unit := unit }) ∧
  (∀ (s : State) (rest : List Turn) (n : Nat) (p : Packet),
    let s1 := { s with agenda := rest, net := s.net.eraseIdx n }
    let from_ := s.ringJoin p.hdr.srcSock.toNat
    let end_ := s.ringEnd p
    s.agenda = .deliver n :: rest → s.net[n]? = some p → (∀ q ∈ s.net.take n, Packet.sameRoute q p = false) → s.tooLate p = false →
    (Packet.onRing p = true → from_ ≠ end_ → step s = .next { s1 with ring := s.ring ++ [(s.ringNext from_ end_, p)] }) ∧
    (Packet.onRing p = false ∨ (from_ = end_ ∧ ∀ x ∈ s.ring, Packet.sameRoute x.2 p = false) →
      s.takesPackets p.hdr.dstSock.toNat = true → step s = exec (Packet.instr p) s1)) ∧
  (∀ (s : State) (rest : List Turn) (n d : Nat) (p : Packet), s.agenda = .hop n :: rest → s.ring[n]? = some (d, p) →
    let older := (s.ring.take n).filter fun x => Packet.sameRoute x.2 p
    let end_ := s.ringEnd p
    (d ≠ end_ → (∀ x ∈ older, x.1 ≠ d) → step s = .next { s with agenda := rest, ring := s.ring.set n (s.ringNext d end_, p) }) ∧
    (d = end_ → older = [] → s.tooLate p = false → s.takesPackets p.hdr.dstSock.toNat = true →
      step s = exec (Packet.instr p) { s with agenda := rest, ring := s.ring.eraseIdx n }))

/-- Every step of the spec has its meaning: none is refused; every event of the opcode table ends in a next state, in every state; so does
every instruction that the running thread at `cur` can fetch, where the machine holds its crew and the grid of its crew. -/
def Obligations.NothingRefused : Prop :=
  (∀ (i : Instr) (s : State) (r : Refusal), exec i s ≠ .refused r) ∧
  (∀ (i : Instr) (s : State), i.code = none → ∃ t, exec i s = .next t) ∧
  (∀ (i : Instr) (s : State) (b : Band) (cw : Crew), i.encodable s.cur.band.isNone = true → s.thread s.cur = some b →
    s.crewOf s.cur.crew = some cw → b.running = true → (s.gridOf cw.cfg.handle).isSome = true → ∃ t, exec i s = .next t)

/-- The reset values of the register tables of chapters 1 to 11: what the machine's registers read right after reset; nothing is in flight, no
memory byte is listed, and the memories are in canonical form. What the fuses hold, which `BOOT_PRESENT` reads, is the model's choice, log 7. -/
def Obligations.ResetState : Prop :=
  let s := State.reset
  s.MemCanonical ∧ s.mem = [] ∧ s.net = [] ∧
  s.regValue .bootPresent = BitVec.ofNat 64 s.host.fuses.present.toNat ∧ s.regValue .bootHealthy = 0 ∧ s.regValue .bootStatus = 0 ∧
  s.regValue .bootHostmem = 64 ∧ s.regValue .bootPodcfg = 0 ∧ s.regValue .bootAttreq = 0 ∧ s.regValue .ownStatus = 0 ∧
  s.regValue .evqBase = 0 ∧ s.regValue .evqTail = 0 ∧ s.regValue .evqHead = 0 ∧ s.regValue .evqStatus = 0 ∧
  s.regValue .dispApbase = 0 ∧ s.regValue .dispLeader = 0 ∧ s.regValue .pwrPkgcap = 3000 ∧
  (∀ k, s.regValue (.evqLost k) = 0 ∧ s.regValue (.evqLogdrop k) = 0 ∧ s.regValue (.evqLogack k) = 0) ∧
  (∀ c, s.regValue (.ctxLeaseMax c) = 16 ∧ s.regValue (.ctxPreemptLimit c) = 1000000 ∧ s.regValue (.numNbv c) = 3 ∧
    s.regValue (.poolFlush c) = 2048 ∧ s.regValue (.poolEnqres c) = 2 ∧ ∀ q, s.regValue (.dispQstat c q) = 0) ∧
  (∀ d, s.regValue (.pwrStatus d) = 0x7700 ∧ s.regValue (.pwrCtl d) = 7) ∧
  (∀ lk, s.regValue (.linkStatus lk) = 0 ∧ s.regValue (.linkSeq lk) = 0 ∧ s.regValue (.linkErrthr lk) = 8 ∧ s.regValue (.linkErrcnt lk) = 0 ∧
    s.regValue (.linkLanemap lk) = 0) ∧
  (∀ k, s.regValue (.linkPodid k) = 0 ∧ s.regValue (.timeCount k) = 0 ∧ s.regValue (.timeOffset k) = 0 ∧ s.regValue (.timeRate k) = 0x40000000)

/-- Every step keeps the memories in canonical form, from every state that has them so: addresses rise and no listed byte is zero, so that equal
memories are equal data. The form is the model's own, log 10. -/
def Obligations.CanonicalMemoryKept : Prop := KeptByStep State.MemCanonical
end

