-- ==== Sys2Proof/Laws/Bytes.lean ====
section
/-! SUPPORT. The byte order of the links and the memories: a number written in n bytes reads back, and a flit carries the CRC that its receiver
computes, so that what the receiver makes of it depends on its header and slots only. -/
open Sys2Proof Sys2Proof.Machine

namespace Sys2Proof.Machine

@[simp] theorem leBytes_length : ∀ n v : Nat, (leBytes n v).length = n
  | 0, _ => rfl
  | n + 1, v => by simp [leBytes, leBytes_length n]

/-- A number written in n bytes reads as its low n bytes. -/
theorem leNat_leBytes : ∀ n v : Nat, leNat (leBytes n v) = v % 256 ^ n
  | 0, v => by simp [leBytes, leNat, Nat.mod_one]
  | n + 1, v => by
    have h : v % 256 ^ (n + 1) = v % 256 + 256 * (v / 256 % 256 ^ n) := by rw [Nat.pow_succ', Nat.mod_mul]
    rw [leBytes, leNat, leNat_leBytes n, BitVec.toNat_ofNat, h]

@[simp] theorem bytesAt_length (bs : List Byte) (off n : Nat) : (bytesAt bs off n).length = n := by simp [bytesAt]

/-- What a receiver makes of 248 bytes that are followed by their CRC, R34. -/
def readGood (b : List Byte) : FlitIn :=
  let w := natAt b 0 8
  let h := FlitHdr.ofNat w
  if !flitRsvdOk w || decide (6 ≤ h.vc) || decide (6 ≤ h.crvc) || (h.ctrl != (h.nslot == 0)) then .wrong
  else if h.ctrl then .good h []
  else match Packet.parseAll h.vc 15 ((cutSlots 15 (bytesAt b 8 240)).take h.nslot) with
    | some ps => .good h ps
    | none => .wrong

theorem readFlit_flitBytes (h : FlitHdr) (slots : List (List Byte)) :
    readFlit (flitBytes h slots) = readGood (leBytes 8 (FlitHdr.word h) ++ bytesAt slots.flatten 0 240) := by
  have len : (leBytes 8 (FlitHdr.word h) ++ bytesAt slots.flatten 0 240).length = 248 := by simp
  unfold flitBytes
  generalize leBytes 8 (FlitHdr.word h) ++ bytesAt slots.flatten 0 240 = b at len
  have tail : natAt (b ++ leBytes 8 (crc64 b).toNat) 248 8 = (crc64 b).toNat := by
    rw [natAt, ← len, List.drop_left, List.take_of_length_le (by simp), leNat_leBytes]
    exact Nat.mod_eq_of_lt (crc64 b).isLt
  have front : (b ++ leBytes 8 (crc64 b).toNat).take 248 = b := by rw [← len, List.take_left]
  have word : natAt (b ++ leBytes 8 (crc64 b).toNat) 0 8 = natAt b 0 8 := by
    simp only [natAt, List.drop_zero]
    rw [List.take_append_of_le_length (by omega)]
  have body : bytesAt (b ++ leBytes 8 (crc64 b).toNat) 8 240 = bytesAt b 8 240 := by
    simp only [bytesAt]
    have l : (b.drop 8).length = 240 := by simp [len]
    rw [List.drop_append_of_le_length (by omega), ← l, List.take_left, List.take_length]
  have total : (b ++ leBytes 8 (crc64 b).toNat).length = 256 := by simp [len]
  unfold readFlit readGood
  simp only [tail, front, word, body, total, ne_eq, not_true_eq_false, or_self, if_false] <;> rfl

end Sys2Proof.Machine
end

