-- ==== Sys2Proof/Laws/State.lean ====
section
/-! SUPPORT. What each update of the state leaves alone: one lemma for each field and update. -/
namespace Sys2Proof.Machine

@[simp] theorem State.setDie_time (s : State) (d : Nat) (x : Die) : (s.setDie d x).time = s.time := rfl
@[simp] theorem State.setDie_mem (s : State) (d : Nat) (x : Die) : (s.setDie d x).mem = s.mem := rfl
@[simp] theorem State.setDie_host (s : State) (d : Nat) (x : Die) : (s.setDie d x).host = s.host := rfl
@[simp] theorem State.setDie_links (s : State) (d : Nat) (x : Die) : (s.setDie d x).links = s.links := rfl
@[simp] theorem State.setDie_podrt (s : State) (d : Nat) (x : Die) : (s.setDie d x).podrt = s.podrt := rfl
@[simp] theorem State.setDie_timeConv (s : State) (d : Nat) (x : Die) : (s.setDie d x).timeConv = s.timeConv := rfl
@[simp] theorem State.setDie_ctxs (s : State) (d : Nat) (x : Die) : (s.setDie d x).ctxs = s.ctxs := rfl
@[simp] theorem State.setDie_ctrls (s : State) (d : Nat) (x : Die) : (s.setDie d x).ctrls = s.ctrls := rfl
@[simp] theorem State.setDie_disp (s : State) (d : Nat) (x : Die) : (s.setDie d x).disp = s.disp := rfl
@[simp] theorem State.setDie_barDone (s : State) (d : Nat) (x : Die) : (s.setDie d x).barDone = s.barDone := rfl
@[simp] theorem State.setDie_colls (s : State) (d : Nat) (x : Die) : (s.setDie d x).colls = s.colls := rfl
@[simp] theorem State.setDie_net (s : State) (d : Nat) (x : Die) : (s.setDie d x).net = s.net := rfl
@[simp] theorem State.setDie_ring (s : State) (d : Nat) (x : Die) : (s.setDie d x).ring = s.ring := rfl
@[simp] theorem State.setDie_cur (s : State) (d : Nat) (x : Die) : (s.setDie d x).cur = s.cur := rfl
@[simp] theorem State.setDie_unit (s : State) (d : Nat) (x : Die) : (s.setDie d x).unit = s.unit := rfl
@[simp] theorem State.setDie_free (s : State) (d : Nat) (x : Die) : (s.setDie d x).free = s.free := rfl
@[simp] theorem State.setDie_agenda (s : State) (d : Nat) (x : Die) : (s.setDie d x).agenda = s.agenda := rfl

@[simp] theorem State.updDie_time (s : State) (d : Nat) (f : Die → Die) : (s.updDie d f).time = s.time := rfl
@[simp] theorem State.updDie_mem (s : State) (d : Nat) (f : Die → Die) : (s.updDie d f).mem = s.mem := rfl
@[simp] theorem State.updDie_host (s : State) (d : Nat) (f : Die → Die) : (s.updDie d f).host = s.host := rfl
@[simp] theorem State.updDie_links (s : State) (d : Nat) (f : Die → Die) : (s.updDie d f).links = s.links := rfl
@[simp] theorem State.updDie_podrt (s : State) (d : Nat) (f : Die → Die) : (s.updDie d f).podrt = s.podrt := rfl
@[simp] theorem State.updDie_timeConv (s : State) (d : Nat) (f : Die → Die) : (s.updDie d f).timeConv = s.timeConv := rfl
@[simp] theorem State.updDie_ctxs (s : State) (d : Nat) (f : Die → Die) : (s.updDie d f).ctxs = s.ctxs := rfl
@[simp] theorem State.updDie_ctrls (s : State) (d : Nat) (f : Die → Die) : (s.updDie d f).ctrls = s.ctrls := rfl
@[simp] theorem State.updDie_disp (s : State) (d : Nat) (f : Die → Die) : (s.updDie d f).disp = s.disp := rfl
@[simp] theorem State.updDie_barDone (s : State) (d : Nat) (f : Die → Die) : (s.updDie d f).barDone = s.barDone := rfl
@[simp] theorem State.updDie_colls (s : State) (d : Nat) (f : Die → Die) : (s.updDie d f).colls = s.colls := rfl
@[simp] theorem State.updDie_net (s : State) (d : Nat) (f : Die → Die) : (s.updDie d f).net = s.net := rfl
@[simp] theorem State.updDie_ring (s : State) (d : Nat) (f : Die → Die) : (s.updDie d f).ring = s.ring := rfl
@[simp] theorem State.updDie_cur (s : State) (d : Nat) (f : Die → Die) : (s.updDie d f).cur = s.cur := rfl
@[simp] theorem State.updDie_unit (s : State) (d : Nat) (f : Die → Die) : (s.updDie d f).unit = s.unit := rfl
@[simp] theorem State.updDie_free (s : State) (d : Nat) (f : Die → Die) : (s.updDie d f).free = s.free := rfl
@[simp] theorem State.updDie_agenda (s : State) (d : Nat) (f : Die → Die) : (s.updDie d f).agenda = s.agenda := rfl

@[simp] theorem State.setCore_time (s : State) (d c : Nat) (x : Core) : (s.setCore d c x).time = s.time := rfl
@[simp] theorem State.setCore_mem (s : State) (d c : Nat) (x : Core) : (s.setCore d c x).mem = s.mem := rfl
@[simp] theorem State.setCore_host (s : State) (d c : Nat) (x : Core) : (s.setCore d c x).host = s.host := rfl
@[simp] theorem State.setCore_links (s : State) (d c : Nat) (x : Core) : (s.setCore d c x).links = s.links := rfl
@[simp] theorem State.setCore_podrt (s : State) (d c : Nat) (x : Core) : (s.setCore d c x).podrt = s.podrt := rfl
@[simp] theorem State.setCore_timeConv (s : State) (d c : Nat) (x : Core) : (s.setCore d c x).timeConv = s.timeConv := rfl
@[simp] theorem State.setCore_ctxs (s : State) (d c : Nat) (x : Core) : (s.setCore d c x).ctxs = s.ctxs := rfl
@[simp] theorem State.setCore_ctrls (s : State) (d c : Nat) (x : Core) : (s.setCore d c x).ctrls = s.ctrls := rfl
@[simp] theorem State.setCore_disp (s : State) (d c : Nat) (x : Core) : (s.setCore d c x).disp = s.disp := rfl
@[simp] theorem State.setCore_barDone (s : State) (d c : Nat) (x : Core) : (s.setCore d c x).barDone = s.barDone := rfl
@[simp] theorem State.setCore_colls (s : State) (d c : Nat) (x : Core) : (s.setCore d c x).colls = s.colls := rfl
@[simp] theorem State.setCore_net (s : State) (d c : Nat) (x : Core) : (s.setCore d c x).net = s.net := rfl
@[simp] theorem State.setCore_ring (s : State) (d c : Nat) (x : Core) : (s.setCore d c x).ring = s.ring := rfl
@[simp] theorem State.setCore_cur (s : State) (d c : Nat) (x : Core) : (s.setCore d c x).cur = s.cur := rfl
@[simp] theorem State.setCore_unit (s : State) (d c : Nat) (x : Core) : (s.setCore d c x).unit = s.unit := rfl
@[simp] theorem State.setCore_free (s : State) (d c : Nat) (x : Core) : (s.setCore d c x).free = s.free := rfl
@[simp] theorem State.setCore_agenda (s : State) (d c : Nat) (x : Core) : (s.setCore d c x).agenda = s.agenda := rfl

@[simp] theorem State.updCore_time (s : State) (d c : Nat) (f : Core → Core) : (s.updCore d c f).time = s.time := rfl
@[simp] theorem State.updCore_mem (s : State) (d c : Nat) (f : Core → Core) : (s.updCore d c f).mem = s.mem := rfl
@[simp] theorem State.updCore_host (s : State) (d c : Nat) (f : Core → Core) : (s.updCore d c f).host = s.host := rfl
@[simp] theorem State.updCore_links (s : State) (d c : Nat) (f : Core → Core) : (s.updCore d c f).links = s.links := rfl
@[simp] theorem State.updCore_podrt (s : State) (d c : Nat) (f : Core → Core) : (s.updCore d c f).podrt = s.podrt := rfl
@[simp] theorem State.updCore_timeConv (s : State) (d c : Nat) (f : Core → Core) : (s.updCore d c f).timeConv = s.timeConv := rfl
@[simp] theorem State.updCore_ctxs (s : State) (d c : Nat) (f : Core → Core) : (s.updCore d c f).ctxs = s.ctxs := rfl
@[simp] theorem State.updCore_ctrls (s : State) (d c : Nat) (f : Core → Core) : (s.updCore d c f).ctrls = s.ctrls := rfl
@[simp] theorem State.updCore_disp (s : State) (d c : Nat) (f : Core → Core) : (s.updCore d c f).disp = s.disp := rfl
@[simp] theorem State.updCore_barDone (s : State) (d c : Nat) (f : Core → Core) : (s.updCore d c f).barDone = s.barDone := rfl
@[simp] theorem State.updCore_colls (s : State) (d c : Nat) (f : Core → Core) : (s.updCore d c f).colls = s.colls := rfl
@[simp] theorem State.updCore_net (s : State) (d c : Nat) (f : Core → Core) : (s.updCore d c f).net = s.net := rfl
@[simp] theorem State.updCore_ring (s : State) (d c : Nat) (f : Core → Core) : (s.updCore d c f).ring = s.ring := rfl
@[simp] theorem State.updCore_cur (s : State) (d c : Nat) (f : Core → Core) : (s.updCore d c f).cur = s.cur := rfl
@[simp] theorem State.updCore_unit (s : State) (d c : Nat) (f : Core → Core) : (s.updCore d c f).unit = s.unit := rfl
@[simp] theorem State.updCore_free (s : State) (d c : Nat) (f : Core → Core) : (s.updCore d c f).free = s.free := rfl
@[simp] theorem State.updCore_agenda (s : State) (d c : Nat) (f : Core → Core) : (s.updCore d c f).agenda = s.agenda := rfl

@[simp] theorem State.setCrew_time (s : State) (r : CrewRef) (w : Crew) : (s.setCrew r w).time = s.time := rfl
@[simp] theorem State.setCrew_mem (s : State) (r : CrewRef) (w : Crew) : (s.setCrew r w).mem = s.mem := rfl
@[simp] theorem State.setCrew_host (s : State) (r : CrewRef) (w : Crew) : (s.setCrew r w).host = s.host := rfl
@[simp] theorem State.setCrew_links (s : State) (r : CrewRef) (w : Crew) : (s.setCrew r w).links = s.links := rfl
@[simp] theorem State.setCrew_podrt (s : State) (r : CrewRef) (w : Crew) : (s.setCrew r w).podrt = s.podrt := rfl
@[simp] theorem State.setCrew_timeConv (s : State) (r : CrewRef) (w : Crew) : (s.setCrew r w).timeConv = s.timeConv := rfl
@[simp] theorem State.setCrew_ctxs (s : State) (r : CrewRef) (w : Crew) : (s.setCrew r w).ctxs = s.ctxs := rfl
@[simp] theorem State.setCrew_ctrls (s : State) (r : CrewRef) (w : Crew) : (s.setCrew r w).ctrls = s.ctrls := rfl
@[simp] theorem State.setCrew_disp (s : State) (r : CrewRef) (w : Crew) : (s.setCrew r w).disp = s.disp := rfl
@[simp] theorem State.setCrew_barDone (s : State) (r : CrewRef) (w : Crew) : (s.setCrew r w).barDone = s.barDone := rfl
@[simp] theorem State.setCrew_colls (s : State) (r : CrewRef) (w : Crew) : (s.setCrew r w).colls = s.colls := rfl
@[simp] theorem State.setCrew_net (s : State) (r : CrewRef) (w : Crew) : (s.setCrew r w).net = s.net := rfl
@[simp] theorem State.setCrew_ring (s : State) (r : CrewRef) (w : Crew) : (s.setCrew r w).ring = s.ring := rfl
@[simp] theorem State.setCrew_cur (s : State) (r : CrewRef) (w : Crew) : (s.setCrew r w).cur = s.cur := rfl
@[simp] theorem State.setCrew_unit (s : State) (r : CrewRef) (w : Crew) : (s.setCrew r w).unit = s.unit := rfl
@[simp] theorem State.setCrew_free (s : State) (r : CrewRef) (w : Crew) : (s.setCrew r w).free = s.free := rfl
@[simp] theorem State.setCrew_agenda (s : State) (r : CrewRef) (w : Crew) : (s.setCrew r w).agenda = s.agenda := rfl

@[simp] theorem State.updCtx_time (s : State) (c : Nat) (f : Ctx → Ctx) : (s.updCtx c f).time = s.time := rfl
@[simp] theorem State.updCtx_mem (s : State) (c : Nat) (f : Ctx → Ctx) : (s.updCtx c f).mem = s.mem := rfl
@[simp] theorem State.updCtx_host (s : State) (c : Nat) (f : Ctx → Ctx) : (s.updCtx c f).host = s.host := rfl
@[simp] theorem State.updCtx_links (s : State) (c : Nat) (f : Ctx → Ctx) : (s.updCtx c f).links = s.links := rfl
@[simp] theorem State.updCtx_podrt (s : State) (c : Nat) (f : Ctx → Ctx) : (s.updCtx c f).podrt = s.podrt := rfl
@[simp] theorem State.updCtx_timeConv (s : State) (c : Nat) (f : Ctx → Ctx) : (s.updCtx c f).timeConv = s.timeConv := rfl
@[simp] theorem State.updCtx_ctrls (s : State) (c : Nat) (f : Ctx → Ctx) : (s.updCtx c f).ctrls = s.ctrls := rfl
@[simp] theorem State.updCtx_disp (s : State) (c : Nat) (f : Ctx → Ctx) : (s.updCtx c f).disp = s.disp := rfl
@[simp] theorem State.updCtx_dies (s : State) (c : Nat) (f : Ctx → Ctx) : (s.updCtx c f).dies = s.dies := rfl
@[simp] theorem State.updCtx_barDone (s : State) (c : Nat) (f : Ctx → Ctx) : (s.updCtx c f).barDone = s.barDone := rfl
@[simp] theorem State.updCtx_colls (s : State) (c : Nat) (f : Ctx → Ctx) : (s.updCtx c f).colls = s.colls := rfl
@[simp] theorem State.updCtx_net (s : State) (c : Nat) (f : Ctx → Ctx) : (s.updCtx c f).net = s.net := rfl
@[simp] theorem State.updCtx_ring (s : State) (c : Nat) (f : Ctx → Ctx) : (s.updCtx c f).ring = s.ring := rfl
@[simp] theorem State.updCtx_cur (s : State) (c : Nat) (f : Ctx → Ctx) : (s.updCtx c f).cur = s.cur := rfl
@[simp] theorem State.updCtx_unit (s : State) (c : Nat) (f : Ctx → Ctx) : (s.updCtx c f).unit = s.unit := rfl
@[simp] theorem State.updCtx_free (s : State) (c : Nat) (f : Ctx → Ctx) : (s.updCtx c f).free = s.free := rfl
@[simp] theorem State.updCtx_agenda (s : State) (c : Nat) (f : Ctx → Ctx) : (s.updCtx c f).agenda = s.agenda := rfl

@[simp] theorem State.updCtxDie_time (s : State) (d c : Nat) (f : CtxDie → CtxDie) : (s.updCtxDie d c f).time = s.time := rfl
@[simp] theorem State.updCtxDie_mem (s : State) (d c : Nat) (f : CtxDie → CtxDie) : (s.updCtxDie d c f).mem = s.mem := rfl
@[simp] theorem State.updCtxDie_host (s : State) (d c : Nat) (f : CtxDie → CtxDie) : (s.updCtxDie d c f).host = s.host := rfl
@[simp] theorem State.updCtxDie_links (s : State) (d c : Nat) (f : CtxDie → CtxDie) : (s.updCtxDie d c f).links = s.links := rfl
@[simp] theorem State.updCtxDie_podrt (s : State) (d c : Nat) (f : CtxDie → CtxDie) : (s.updCtxDie d c f).podrt = s.podrt := rfl
@[simp] theorem State.updCtxDie_timeConv (s : State) (d c : Nat) (f : CtxDie → CtxDie) : (s.updCtxDie d c f).timeConv = s.timeConv := rfl
@[simp] theorem State.updCtxDie_ctxs (s : State) (d c : Nat) (f : CtxDie → CtxDie) : (s.updCtxDie d c f).ctxs = s.ctxs := rfl
@[simp] theorem State.updCtxDie_ctrls (s : State) (d c : Nat) (f : CtxDie → CtxDie) : (s.updCtxDie d c f).ctrls = s.ctrls := rfl
@[simp] theorem State.updCtxDie_disp (s : State) (d c : Nat) (f : CtxDie → CtxDie) : (s.updCtxDie d c f).disp = s.disp := rfl
@[simp] theorem State.updCtxDie_barDone (s : State) (d c : Nat) (f : CtxDie → CtxDie) : (s.updCtxDie d c f).barDone = s.barDone := rfl
@[simp] theorem State.updCtxDie_colls (s : State) (d c : Nat) (f : CtxDie → CtxDie) : (s.updCtxDie d c f).colls = s.colls := rfl
@[simp] theorem State.updCtxDie_net (s : State) (d c : Nat) (f : CtxDie → CtxDie) : (s.updCtxDie d c f).net = s.net := rfl
@[simp] theorem State.updCtxDie_ring (s : State) (d c : Nat) (f : CtxDie → CtxDie) : (s.updCtxDie d c f).ring = s.ring := rfl
@[simp] theorem State.updCtxDie_cur (s : State) (d c : Nat) (f : CtxDie → CtxDie) : (s.updCtxDie d c f).cur = s.cur := rfl
@[simp] theorem State.updCtxDie_unit (s : State) (d c : Nat) (f : CtxDie → CtxDie) : (s.updCtxDie d c f).unit = s.unit := rfl
@[simp] theorem State.updCtxDie_free (s : State) (d c : Nat) (f : CtxDie → CtxDie) : (s.updCtxDie d c f).free = s.free := rfl
@[simp] theorem State.updCtxDie_agenda (s : State) (d c : Nat) (f : CtxDie → CtxDie) : (s.updCtxDie d c f).agenda = s.agenda := rfl

@[simp] theorem State.updCtrl_time (s : State) (n : Nat) (f : Ctrl → Ctrl) : (s.updCtrl n f).time = s.time := rfl
@[simp] theorem State.updCtrl_mem (s : State) (n : Nat) (f : Ctrl → Ctrl) : (s.updCtrl n f).mem = s.mem := rfl
@[simp] theorem State.updCtrl_host (s : State) (n : Nat) (f : Ctrl → Ctrl) : (s.updCtrl n f).host = s.host := rfl
@[simp] theorem State.updCtrl_links (s : State) (n : Nat) (f : Ctrl → Ctrl) : (s.updCtrl n f).links = s.links := rfl
@[simp] theorem State.updCtrl_podrt (s : State) (n : Nat) (f : Ctrl → Ctrl) : (s.updCtrl n f).podrt = s.podrt := rfl
@[simp] theorem State.updCtrl_timeConv (s : State) (n : Nat) (f : Ctrl → Ctrl) : (s.updCtrl n f).timeConv = s.timeConv := rfl
@[simp] theorem State.updCtrl_ctxs (s : State) (n : Nat) (f : Ctrl → Ctrl) : (s.updCtrl n f).ctxs = s.ctxs := rfl
@[simp] theorem State.updCtrl_disp (s : State) (n : Nat) (f : Ctrl → Ctrl) : (s.updCtrl n f).disp = s.disp := rfl
@[simp] theorem State.updCtrl_dies (s : State) (n : Nat) (f : Ctrl → Ctrl) : (s.updCtrl n f).dies = s.dies := rfl
@[simp] theorem State.updCtrl_barDone (s : State) (n : Nat) (f : Ctrl → Ctrl) : (s.updCtrl n f).barDone = s.barDone := rfl
@[simp] theorem State.updCtrl_colls (s : State) (n : Nat) (f : Ctrl → Ctrl) : (s.updCtrl n f).colls = s.colls := rfl
@[simp] theorem State.updCtrl_net (s : State) (n : Nat) (f : Ctrl → Ctrl) : (s.updCtrl n f).net = s.net := rfl
@[simp] theorem State.updCtrl_ring (s : State) (n : Nat) (f : Ctrl → Ctrl) : (s.updCtrl n f).ring = s.ring := rfl
@[simp] theorem State.updCtrl_cur (s : State) (n : Nat) (f : Ctrl → Ctrl) : (s.updCtrl n f).cur = s.cur := rfl
@[simp] theorem State.updCtrl_unit (s : State) (n : Nat) (f : Ctrl → Ctrl) : (s.updCtrl n f).unit = s.unit := rfl
@[simp] theorem State.updCtrl_free (s : State) (n : Nat) (f : Ctrl → Ctrl) : (s.updCtrl n f).free = s.free := rfl
@[simp] theorem State.updCtrl_agenda (s : State) (n : Nat) (f : Ctrl → Ctrl) : (s.updCtrl n f).agenda = s.agenda := rfl

@[simp] theorem State.updDisp_time (s : State) (d : Nat) (f : DieDisp → DieDisp) : (s.updDisp d f).time = s.time := rfl
@[simp] theorem State.updDisp_mem (s : State) (d : Nat) (f : DieDisp → DieDisp) : (s.updDisp d f).mem = s.mem := rfl
@[simp] theorem State.updDisp_host (s : State) (d : Nat) (f : DieDisp → DieDisp) : (s.updDisp d f).host = s.host := rfl
@[simp] theorem State.updDisp_links (s : State) (d : Nat) (f : DieDisp → DieDisp) : (s.updDisp d f).links = s.links := rfl
@[simp] theorem State.updDisp_podrt (s : State) (d : Nat) (f : DieDisp → DieDisp) : (s.updDisp d f).podrt = s.podrt := rfl
@[simp] theorem State.updDisp_timeConv (s : State) (d : Nat) (f : DieDisp → DieDisp) : (s.updDisp d f).timeConv = s.timeConv := rfl
@[simp] theorem State.updDisp_ctxs (s : State) (d : Nat) (f : DieDisp → DieDisp) : (s.updDisp d f).ctxs = s.ctxs := rfl
@[simp] theorem State.updDisp_ctrls (s : State) (d : Nat) (f : DieDisp → DieDisp) : (s.updDisp d f).ctrls = s.ctrls := rfl
@[simp] theorem State.updDisp_disp (s : State) (d : Nat) (f : DieDisp → DieDisp) : (s.updDisp d f).disp = s.disp := rfl
@[simp] theorem State.updDisp_barDone (s : State) (d : Nat) (f : DieDisp → DieDisp) : (s.updDisp d f).barDone = s.barDone := rfl
@[simp] theorem State.updDisp_colls (s : State) (d : Nat) (f : DieDisp → DieDisp) : (s.updDisp d f).colls = s.colls := rfl
@[simp] theorem State.updDisp_net (s : State) (d : Nat) (f : DieDisp → DieDisp) : (s.updDisp d f).net = s.net := rfl
@[simp] theorem State.updDisp_ring (s : State) (d : Nat) (f : DieDisp → DieDisp) : (s.updDisp d f).ring = s.ring := rfl
@[simp] theorem State.updDisp_cur (s : State) (d : Nat) (f : DieDisp → DieDisp) : (s.updDisp d f).cur = s.cur := rfl
@[simp] theorem State.updDisp_unit (s : State) (d : Nat) (f : DieDisp → DieDisp) : (s.updDisp d f).unit = s.unit := rfl
@[simp] theorem State.updDisp_free (s : State) (d : Nat) (f : DieDisp → DieDisp) : (s.updDisp d f).free = s.free := rfl
@[simp] theorem State.updDisp_agenda (s : State) (d : Nat) (f : DieDisp → DieDisp) : (s.updDisp d f).agenda = s.agenda := rfl

@[simp] theorem State.updGridDie_time (s : State) (d : Nat) (h : Handle) (f : GridDie → GridDie) : (s.updGridDie d h f).time = s.time := rfl
@[simp] theorem State.updGridDie_mem (s : State) (d : Nat) (h : Handle) (f : GridDie → GridDie) : (s.updGridDie d h f).mem = s.mem := rfl
@[simp] theorem State.updGridDie_host (s : State) (d : Nat) (h : Handle) (f : GridDie → GridDie) : (s.updGridDie d h f).host = s.host := rfl
@[simp] theorem State.updGridDie_links (s : State) (d : Nat) (h : Handle) (f : GridDie → GridDie) : (s.updGridDie d h f).links = s.links := rfl
@[simp] theorem State.updGridDie_podrt (s : State) (d : Nat) (h : Handle) (f : GridDie → GridDie) : (s.updGridDie d h f).podrt = s.podrt := rfl
@[simp] theorem State.updGridDie_timeConv (s : State) (d : Nat) (h : Handle) (f : GridDie → GridDie) : (s.updGridDie d h f).timeConv = s.timeConv := rfl
@[simp] theorem State.updGridDie_ctxs (s : State) (d : Nat) (h : Handle) (f : GridDie → GridDie) : (s.updGridDie d h f).ctxs = s.ctxs := rfl
@[simp] theorem State.updGridDie_ctrls (s : State) (d : Nat) (h : Handle) (f : GridDie → GridDie) : (s.updGridDie d h f).ctrls = s.ctrls := rfl
@[simp] theorem State.updGridDie_disp (s : State) (d : Nat) (h : Handle) (f : GridDie → GridDie) : (s.updGridDie d h f).disp = s.disp := rfl
@[simp] theorem State.updGridDie_barDone (s : State) (d : Nat) (h : Handle) (f : GridDie → GridDie) : (s.updGridDie d h f).barDone = s.barDone := rfl
@[simp] theorem State.updGridDie_colls (s : State) (d : Nat) (h : Handle) (f : GridDie → GridDie) : (s.updGridDie d h f).colls = s.colls := rfl
@[simp] theorem State.updGridDie_net (s : State) (d : Nat) (h : Handle) (f : GridDie → GridDie) : (s.updGridDie d h f).net = s.net := rfl
@[simp] theorem State.updGridDie_ring (s : State) (d : Nat) (h : Handle) (f : GridDie → GridDie) : (s.updGridDie d h f).ring = s.ring := rfl
@[simp] theorem State.updGridDie_cur (s : State) (d : Nat) (h : Handle) (f : GridDie → GridDie) : (s.updGridDie d h f).cur = s.cur := rfl
@[simp] theorem State.updGridDie_unit (s : State) (d : Nat) (h : Handle) (f : GridDie → GridDie) : (s.updGridDie d h f).unit = s.unit := rfl
@[simp] theorem State.updGridDie_free (s : State) (d : Nat) (h : Handle) (f : GridDie → GridDie) : (s.updGridDie d h f).free = s.free := rfl
@[simp] theorem State.updGridDie_agenda (s : State) (d : Nat) (h : Handle) (f : GridDie → GridDie) : (s.updGridDie d h f).agenda = s.agenda := rfl

@[simp] theorem State.setMem_time (s : State) (m : List Host.Cell) : (s.setMem m).time = s.time := rfl
@[simp] theorem State.setMem_host (s : State) (m : List Host.Cell) : (s.setMem m).host = s.host := rfl
@[simp] theorem State.setMem_links (s : State) (m : List Host.Cell) : (s.setMem m).links = s.links := rfl
@[simp] theorem State.setMem_podrt (s : State) (m : List Host.Cell) : (s.setMem m).podrt = s.podrt := rfl
@[simp] theorem State.setMem_timeConv (s : State) (m : List Host.Cell) : (s.setMem m).timeConv = s.timeConv := rfl
@[simp] theorem State.setMem_ctxs (s : State) (m : List Host.Cell) : (s.setMem m).ctxs = s.ctxs := rfl
@[simp] theorem State.setMem_ctrls (s : State) (m : List Host.Cell) : (s.setMem m).ctrls = s.ctrls := rfl
@[simp] theorem State.setMem_disp (s : State) (m : List Host.Cell) : (s.setMem m).disp = s.disp := rfl
@[simp] theorem State.setMem_dies (s : State) (m : List Host.Cell) : (s.setMem m).dies = s.dies := rfl
@[simp] theorem State.setMem_barDone (s : State) (m : List Host.Cell) : (s.setMem m).barDone = s.barDone := rfl
@[simp] theorem State.setMem_colls (s : State) (m : List Host.Cell) : (s.setMem m).colls = s.colls := rfl
@[simp] theorem State.setMem_net (s : State) (m : List Host.Cell) : (s.setMem m).net = s.net := rfl
@[simp] theorem State.setMem_ring (s : State) (m : List Host.Cell) : (s.setMem m).ring = s.ring := rfl
@[simp] theorem State.setMem_cur (s : State) (m : List Host.Cell) : (s.setMem m).cur = s.cur := rfl
@[simp] theorem State.setMem_unit (s : State) (m : List Host.Cell) : (s.setMem m).unit = s.unit := rfl
@[simp] theorem State.setMem_free (s : State) (m : List Host.Cell) : (s.setMem m).free = s.free := rfl
@[simp] theorem State.setMem_agenda (s : State) (m : List Host.Cell) : (s.setMem m).agenda = s.agenda := rfl

@[simp] theorem State.writeKey_time (s : State) (k : Nat) (bs : List Byte) : (s.writeKey k bs).time = s.time := rfl
@[simp] theorem State.writeKey_host (s : State) (k : Nat) (bs : List Byte) : (s.writeKey k bs).host = s.host := rfl
@[simp] theorem State.writeKey_links (s : State) (k : Nat) (bs : List Byte) : (s.writeKey k bs).links = s.links := rfl
@[simp] theorem State.writeKey_podrt (s : State) (k : Nat) (bs : List Byte) : (s.writeKey k bs).podrt = s.podrt := rfl
@[simp] theorem State.writeKey_timeConv (s : State) (k : Nat) (bs : List Byte) : (s.writeKey k bs).timeConv = s.timeConv := rfl
@[simp] theorem State.writeKey_ctxs (s : State) (k : Nat) (bs : List Byte) : (s.writeKey k bs).ctxs = s.ctxs := rfl
@[simp] theorem State.writeKey_ctrls (s : State) (k : Nat) (bs : List Byte) : (s.writeKey k bs).ctrls = s.ctrls := rfl
@[simp] theorem State.writeKey_disp (s : State) (k : Nat) (bs : List Byte) : (s.writeKey k bs).disp = s.disp := rfl
@[simp] theorem State.writeKey_dies (s : State) (k : Nat) (bs : List Byte) : (s.writeKey k bs).dies = s.dies := rfl
@[simp] theorem State.writeKey_barDone (s : State) (k : Nat) (bs : List Byte) : (s.writeKey k bs).barDone = s.barDone := rfl
@[simp] theorem State.writeKey_colls (s : State) (k : Nat) (bs : List Byte) : (s.writeKey k bs).colls = s.colls := rfl
@[simp] theorem State.writeKey_net (s : State) (k : Nat) (bs : List Byte) : (s.writeKey k bs).net = s.net := rfl
@[simp] theorem State.writeKey_ring (s : State) (k : Nat) (bs : List Byte) : (s.writeKey k bs).ring = s.ring := rfl
@[simp] theorem State.writeKey_cur (s : State) (k : Nat) (bs : List Byte) : (s.writeKey k bs).cur = s.cur := rfl
@[simp] theorem State.writeKey_unit (s : State) (k : Nat) (bs : List Byte) : (s.writeKey k bs).unit = s.unit := rfl
@[simp] theorem State.writeKey_free (s : State) (k : Nat) (bs : List Byte) : (s.writeKey k bs).free = s.free := rfl
@[simp] theorem State.writeKey_agenda (s : State) (k : Nat) (bs : List Byte) : (s.writeKey k bs).agenda = s.agenda := rfl

@[simp] theorem State.clearKey_time (s : State) (k n : Nat) : (s.clearKey k n).time = s.time := rfl
@[simp] theorem State.clearKey_host (s : State) (k n : Nat) : (s.clearKey k n).host = s.host := rfl
@[simp] theorem State.clearKey_links (s : State) (k n : Nat) : (s.clearKey k n).links = s.links := rfl
@[simp] theorem State.clearKey_podrt (s : State) (k n : Nat) : (s.clearKey k n).podrt = s.podrt := rfl
@[simp] theorem State.clearKey_timeConv (s : State) (k n : Nat) : (s.clearKey k n).timeConv = s.timeConv := rfl
@[simp] theorem State.clearKey_ctxs (s : State) (k n : Nat) : (s.clearKey k n).ctxs = s.ctxs := rfl
@[simp] theorem State.clearKey_ctrls (s : State) (k n : Nat) : (s.clearKey k n).ctrls = s.ctrls := rfl
@[simp] theorem State.clearKey_disp (s : State) (k n : Nat) : (s.clearKey k n).disp = s.disp := rfl
@[simp] theorem State.clearKey_dies (s : State) (k n : Nat) : (s.clearKey k n).dies = s.dies := rfl
@[simp] theorem State.clearKey_barDone (s : State) (k n : Nat) : (s.clearKey k n).barDone = s.barDone := rfl
@[simp] theorem State.clearKey_colls (s : State) (k n : Nat) : (s.clearKey k n).colls = s.colls := rfl
@[simp] theorem State.clearKey_net (s : State) (k n : Nat) : (s.clearKey k n).net = s.net := rfl
@[simp] theorem State.clearKey_ring (s : State) (k n : Nat) : (s.clearKey k n).ring = s.ring := rfl
@[simp] theorem State.clearKey_cur (s : State) (k n : Nat) : (s.clearKey k n).cur = s.cur := rfl
@[simp] theorem State.clearKey_unit (s : State) (k n : Nat) : (s.clearKey k n).unit = s.unit := rfl
@[simp] theorem State.clearKey_free (s : State) (k n : Nat) : (s.clearKey k n).free = s.free := rfl
@[simp] theorem State.clearKey_agenda (s : State) (k n : Nat) : (s.clearKey k n).agenda = s.agenda := rfl

@[simp] theorem State.updEvq_time (s : State) (f : Evq → Evq) : (s.updEvq f).time = s.time := rfl
@[simp] theorem State.updEvq_mem (s : State) (f : Evq → Evq) : (s.updEvq f).mem = s.mem := rfl
@[simp] theorem State.updEvq_links (s : State) (f : Evq → Evq) : (s.updEvq f).links = s.links := rfl
@[simp] theorem State.updEvq_podrt (s : State) (f : Evq → Evq) : (s.updEvq f).podrt = s.podrt := rfl
@[simp] theorem State.updEvq_timeConv (s : State) (f : Evq → Evq) : (s.updEvq f).timeConv = s.timeConv := rfl
@[simp] theorem State.updEvq_ctxs (s : State) (f : Evq → Evq) : (s.updEvq f).ctxs = s.ctxs := rfl
@[simp] theorem State.updEvq_ctrls (s : State) (f : Evq → Evq) : (s.updEvq f).ctrls = s.ctrls := rfl
@[simp] theorem State.updEvq_disp (s : State) (f : Evq → Evq) : (s.updEvq f).disp = s.disp := rfl
@[simp] theorem State.updEvq_dies (s : State) (f : Evq → Evq) : (s.updEvq f).dies = s.dies := rfl
@[simp] theorem State.updEvq_barDone (s : State) (f : Evq → Evq) : (s.updEvq f).barDone = s.barDone := rfl
@[simp] theorem State.updEvq_colls (s : State) (f : Evq → Evq) : (s.updEvq f).colls = s.colls := rfl
@[simp] theorem State.updEvq_net (s : State) (f : Evq → Evq) : (s.updEvq f).net = s.net := rfl
@[simp] theorem State.updEvq_ring (s : State) (f : Evq → Evq) : (s.updEvq f).ring = s.ring := rfl
@[simp] theorem State.updEvq_cur (s : State) (f : Evq → Evq) : (s.updEvq f).cur = s.cur := rfl
@[simp] theorem State.updEvq_unit (s : State) (f : Evq → Evq) : (s.updEvq f).unit = s.unit := rfl
@[simp] theorem State.updEvq_free (s : State) (f : Evq → Evq) : (s.updEvq f).free = s.free := rfl
@[simp] theorem State.updEvq_agenda (s : State) (f : Evq → Evq) : (s.updEvq f).agenda = s.agenda := rfl

@[simp] theorem State.setMem_mem (s : State) (m : List Host.Cell) : (s.setMem m).mem = m := rfl
@[simp] theorem State.writeKey_mem (s : State) (k : Nat) (bs : List Byte) : (s.writeKey k bs).mem = Memory.writeN s.mem k bs := rfl
@[simp] theorem State.clearKey_mem (s : State) (k n : Nat) : (s.clearKey k n).mem = Memory.clear s.mem k n := rfl

@[simp] theorem State.updCrew_time (s : State) (r : CrewRef) (g : Crew → Crew) : (s.updCrew r g).time = s.time := by
  unfold State.updCrew; split <;> rfl
@[simp] theorem State.setThread_time (s : State) (t : ThreadRef) (b : Band) : (s.setThread t b).time = s.time := State.updCrew_time ..
@[simp] theorem State.updThread_time (s : State) (t : ThreadRef) (g : Band → Band) : (s.updThread t g).time = s.time := by
  unfold State.updThread; split
  · exact State.setThread_time ..
  · rfl
@[simp] theorem State.updCrew_mem (s : State) (r : CrewRef) (g : Crew → Crew) : (s.updCrew r g).mem = s.mem := by
  unfold State.updCrew; split <;> rfl
@[simp] theorem State.setThread_mem (s : State) (t : ThreadRef) (b : Band) : (s.setThread t b).mem = s.mem := State.updCrew_mem ..
@[simp] theorem State.updThread_mem (s : State) (t : ThreadRef) (g : Band → Band) : (s.updThread t g).mem = s.mem := by
  unfold State.updThread; split
  · exact State.setThread_mem ..
  · rfl
@[simp] theorem State.updCrew_host (s : State) (r : CrewRef) (g : Crew → Crew) : (s.updCrew r g).host = s.host := by
  unfold State.updCrew; split <;> rfl
@[simp] theorem State.setThread_host (s : State) (t : ThreadRef) (b : Band) : (s.setThread t b).host = s.host := State.updCrew_host ..
@[simp] theorem State.updThread_host (s : State) (t : ThreadRef) (g : Band → Band) : (s.updThread t g).host = s.host := by
  unfold State.updThread; split
  · exact State.setThread_host ..
  · rfl
@[simp] theorem State.updCrew_links (s : State) (r : CrewRef) (g : Crew → Crew) : (s.updCrew r g).links = s.links := by
  unfold State.updCrew; split <;> rfl
@[simp] theorem State.setThread_links (s : State) (t : ThreadRef) (b : Band) : (s.setThread t b).links = s.links := State.updCrew_links ..
@[simp] theorem State.updThread_links (s : State) (t : ThreadRef) (g : Band → Band) : (s.updThread t g).links = s.links := by
  unfold State.updThread; split
  · exact State.setThread_links ..
  · rfl
@[simp] theorem State.updCrew_podrt (s : State) (r : CrewRef) (g : Crew → Crew) : (s.updCrew r g).podrt = s.podrt := by
  unfold State.updCrew; split <;> rfl
@[simp] theorem State.setThread_podrt (s : State) (t : ThreadRef) (b : Band) : (s.setThread t b).podrt = s.podrt := State.updCrew_podrt ..
@[simp] theorem State.updThread_podrt (s : State) (t : ThreadRef) (g : Band → Band) : (s.updThread t g).podrt = s.podrt := by
  unfold State.updThread; split
  · exact State.setThread_podrt ..
  · rfl
@[simp] theorem State.updCrew_timeConv (s : State) (r : CrewRef) (g : Crew → Crew) : (s.updCrew r g).timeConv = s.timeConv := by
  unfold State.updCrew; split <;> rfl
@[simp] theorem State.setThread_timeConv (s : State) (t : ThreadRef) (b : Band) : (s.setThread t b).timeConv = s.timeConv := State.updCrew_timeConv ..
@[simp] theorem State.updThread_timeConv (s : State) (t : ThreadRef) (g : Band → Band) : (s.updThread t g).timeConv = s.timeConv := by
  unfold State.updThread; split
  · exact State.setThread_timeConv ..
  · rfl
@[simp] theorem State.updCrew_ctxs (s : State) (r : CrewRef) (g : Crew → Crew) : (s.updCrew r g).ctxs = s.ctxs := by
  unfold State.updCrew; split <;> rfl
@[simp] theorem State.setThread_ctxs (s : State) (t : ThreadRef) (b : Band) : (s.setThread t b).ctxs = s.ctxs := State.updCrew_ctxs ..
@[simp] theorem State.updThread_ctxs (s : State) (t : ThreadRef) (g : Band → Band) : (s.updThread t g).ctxs = s.ctxs := by
  unfold State.updThread; split
  · exact State.setThread_ctxs ..
  · rfl
@[simp] theorem State.updCrew_ctrls (s : State) (r : CrewRef) (g : Crew → Crew) : (s.updCrew r g).ctrls = s.ctrls := by
  unfold State.updCrew; split <;> rfl
@[simp] theorem State.setThread_ctrls (s : State) (t : ThreadRef) (b : Band) : (s.setThread t b).ctrls = s.ctrls := State.updCrew_ctrls ..
@[simp] theorem State.updThread_ctrls (s : State) (t : ThreadRef) (g : Band → Band) : (s.updThread t g).ctrls = s.ctrls := by
  unfold State.updThread; split
  · exact State.setThread_ctrls ..
  · rfl
@[simp] theorem State.updCrew_disp (s : State) (r : CrewRef) (g : Crew → Crew) : (s.updCrew r g).disp = s.disp := by
  unfold State.updCrew; split <;> rfl
@[simp] theorem State.setThread_disp (s : State) (t : ThreadRef) (b : Band) : (s.setThread t b).disp = s.disp := State.updCrew_disp ..
@[simp] theorem State.updThread_disp (s : State) (t : ThreadRef) (g : Band → Band) : (s.updThread t g).disp = s.disp := by
  unfold State.updThread; split
  · exact State.setThread_disp ..
  · rfl
@[simp] theorem State.updCrew_barDone (s : State) (r : CrewRef) (g : Crew → Crew) : (s.updCrew r g).barDone = s.barDone := by
  unfold State.updCrew; split <;> rfl
@[simp] theorem State.setThread_barDone (s : State) (t : ThreadRef) (b : Band) : (s.setThread t b).barDone = s.barDone := State.updCrew_barDone ..
@[simp] theorem State.updThread_barDone (s : State) (t : ThreadRef) (g : Band → Band) : (s.updThread t g).barDone = s.barDone := by
  unfold State.updThread; split
  · exact State.setThread_barDone ..
  · rfl
@[simp] theorem State.updCrew_colls (s : State) (r : CrewRef) (g : Crew → Crew) : (s.updCrew r g).colls = s.colls := by
  unfold State.updCrew; split <;> rfl
@[simp] theorem State.setThread_colls (s : State) (t : ThreadRef) (b : Band) : (s.setThread t b).colls = s.colls := State.updCrew_colls ..
@[simp] theorem State.updThread_colls (s : State) (t : ThreadRef) (g : Band → Band) : (s.updThread t g).colls = s.colls := by
  unfold State.updThread; split
  · exact State.setThread_colls ..
  · rfl
@[simp] theorem State.updCrew_net (s : State) (r : CrewRef) (g : Crew → Crew) : (s.updCrew r g).net = s.net := by
  unfold State.updCrew; split <;> rfl
@[simp] theorem State.updCrew_ring (s : State) (r : CrewRef) (g : Crew → Crew) : (s.updCrew r g).ring = s.ring := by
  unfold State.updCrew; split <;> rfl
@[simp] theorem State.setThread_net (s : State) (t : ThreadRef) (b : Band) : (s.setThread t b).net = s.net := State.updCrew_net ..
@[simp] theorem State.setThread_ring (s : State) (t : ThreadRef) (b : Band) : (s.setThread t b).ring = s.ring := State.updCrew_ring ..
@[simp] theorem State.updThread_net (s : State) (t : ThreadRef) (g : Band → Band) : (s.updThread t g).net = s.net := by
  unfold State.updThread; split
  · exact State.setThread_net ..
  · rfl
@[simp] theorem State.updThread_ring (s : State) (t : ThreadRef) (g : Band → Band) : (s.updThread t g).ring = s.ring := by
  unfold State.updThread; split
  · exact State.setThread_ring ..
  · rfl
@[simp] theorem State.updCrew_cur (s : State) (r : CrewRef) (g : Crew → Crew) : (s.updCrew r g).cur = s.cur := by
  unfold State.updCrew; split <;> rfl
@[simp] theorem State.setThread_cur (s : State) (t : ThreadRef) (b : Band) : (s.setThread t b).cur = s.cur := State.updCrew_cur ..
@[simp] theorem State.updThread_cur (s : State) (t : ThreadRef) (g : Band → Band) : (s.updThread t g).cur = s.cur := by
  unfold State.updThread; split
  · exact State.setThread_cur ..
  · rfl
@[simp] theorem State.updCrew_unit (s : State) (r : CrewRef) (g : Crew → Crew) : (s.updCrew r g).unit = s.unit := by
  unfold State.updCrew; split <;> rfl
@[simp] theorem State.setThread_unit (s : State) (t : ThreadRef) (b : Band) : (s.setThread t b).unit = s.unit := State.updCrew_unit ..
@[simp] theorem State.updThread_unit (s : State) (t : ThreadRef) (g : Band → Band) : (s.updThread t g).unit = s.unit := by
  unfold State.updThread; split
  · exact State.setThread_unit ..
  · rfl
@[simp] theorem State.updCrew_free (s : State) (r : CrewRef) (g : Crew → Crew) : (s.updCrew r g).free = s.free := by
  unfold State.updCrew; split <;> rfl
@[simp] theorem State.setThread_free (s : State) (t : ThreadRef) (b : Band) : (s.setThread t b).free = s.free := State.updCrew_free ..
@[simp] theorem State.updThread_free (s : State) (t : ThreadRef) (g : Band → Band) : (s.updThread t g).free = s.free := by
  unfold State.updThread; split
  · exact State.setThread_free ..
  · rfl
@[simp] theorem State.updCrew_agenda (s : State) (r : CrewRef) (g : Crew → Crew) : (s.updCrew r g).agenda = s.agenda := by
  unfold State.updCrew; split <;> rfl
@[simp] theorem State.setThread_agenda (s : State) (t : ThreadRef) (b : Band) : (s.setThread t b).agenda = s.agenda := State.updCrew_agenda ..
@[simp] theorem State.updThread_agenda (s : State) (t : ThreadRef) (g : Band → Band) : (s.updThread t g).agenda = s.agenda := by
  unfold State.updThread; split
  · exact State.setThread_agenda ..
  · rfl
@[simp] theorem State.updGrid_time (s : State) (h : Handle) (g : Grid → Grid) : (s.updGrid h g).time = s.time := by
  unfold State.updGrid; split <;> rfl
@[simp] theorem State.updOwner_time (s : State) (h : Handle) (g : OwnerSt → OwnerSt) : (s.updOwner h g).time = s.time := State.updGrid_time ..
@[simp] theorem State.updGrid_mem (s : State) (h : Handle) (g : Grid → Grid) : (s.updGrid h g).mem = s.mem := by
  unfold State.updGrid; split <;> rfl
@[simp] theorem State.updOwner_mem (s : State) (h : Handle) (g : OwnerSt → OwnerSt) : (s.updOwner h g).mem = s.mem := State.updGrid_mem ..
@[simp] theorem State.updGrid_host (s : State) (h : Handle) (g : Grid → Grid) : (s.updGrid h g).host = s.host := by
  unfold State.updGrid; split <;> rfl
@[simp] theorem State.updOwner_host (s : State) (h : Handle) (g : OwnerSt → OwnerSt) : (s.updOwner h g).host = s.host := State.updGrid_host ..
@[simp] theorem State.updGrid_links (s : State) (h : Handle) (g : Grid → Grid) : (s.updGrid h g).links = s.links := by
  unfold State.updGrid; split <;> rfl
@[simp] theorem State.updOwner_links (s : State) (h : Handle) (g : OwnerSt → OwnerSt) : (s.updOwner h g).links = s.links := State.updGrid_links ..
@[simp] theorem State.updGrid_podrt (s : State) (h : Handle) (g : Grid → Grid) : (s.updGrid h g).podrt = s.podrt := by
  unfold State.updGrid; split <;> rfl
@[simp] theorem State.updOwner_podrt (s : State) (h : Handle) (g : OwnerSt → OwnerSt) : (s.updOwner h g).podrt = s.podrt := State.updGrid_podrt ..
@[simp] theorem State.updGrid_timeConv (s : State) (h : Handle) (g : Grid → Grid) : (s.updGrid h g).timeConv = s.timeConv := by
  unfold State.updGrid; split <;> rfl
@[simp] theorem State.updOwner_timeConv (s : State) (h : Handle) (g : OwnerSt → OwnerSt) : (s.updOwner h g).timeConv = s.timeConv := State.updGrid_timeConv ..
@[simp] theorem State.updGrid_ctxs (s : State) (h : Handle) (g : Grid → Grid) : (s.updGrid h g).ctxs = s.ctxs := by
  unfold State.updGrid; split <;> rfl
@[simp] theorem State.updOwner_ctxs (s : State) (h : Handle) (g : OwnerSt → OwnerSt) : (s.updOwner h g).ctxs = s.ctxs := State.updGrid_ctxs ..
@[simp] theorem State.updGrid_ctrls (s : State) (h : Handle) (g : Grid → Grid) : (s.updGrid h g).ctrls = s.ctrls := by
  unfold State.updGrid; split <;> rfl
@[simp] theorem State.updOwner_ctrls (s : State) (h : Handle) (g : OwnerSt → OwnerSt) : (s.updOwner h g).ctrls = s.ctrls := State.updGrid_ctrls ..
@[simp] theorem State.updGrid_dies (s : State) (h : Handle) (g : Grid → Grid) : (s.updGrid h g).dies = s.dies := by
  unfold State.updGrid; split <;> rfl
@[simp] theorem State.updOwner_dies (s : State) (h : Handle) (g : OwnerSt → OwnerSt) : (s.updOwner h g).dies = s.dies := State.updGrid_dies ..
@[simp] theorem State.updGrid_barDone (s : State) (h : Handle) (g : Grid → Grid) : (s.updGrid h g).barDone = s.barDone := by
  unfold State.updGrid; split <;> rfl
@[simp] theorem State.updOwner_barDone (s : State) (h : Handle) (g : OwnerSt → OwnerSt) : (s.updOwner h g).barDone = s.barDone := State.updGrid_barDone ..
@[simp] theorem State.updGrid_colls (s : State) (h : Handle) (g : Grid → Grid) : (s.updGrid h g).colls = s.colls := by
  unfold State.updGrid; split <;> rfl
@[simp] theorem State.updOwner_colls (s : State) (h : Handle) (g : OwnerSt → OwnerSt) : (s.updOwner h g).colls = s.colls := State.updGrid_colls ..
@[simp] theorem State.updGrid_net (s : State) (h : Handle) (g : Grid → Grid) : (s.updGrid h g).net = s.net := by
  unfold State.updGrid; split <;> rfl
@[simp] theorem State.updGrid_ring (s : State) (h : Handle) (g : Grid → Grid) : (s.updGrid h g).ring = s.ring := by
  unfold State.updGrid; split <;> rfl
@[simp] theorem State.updOwner_net (s : State) (h : Handle) (g : OwnerSt → OwnerSt) : (s.updOwner h g).net = s.net := State.updGrid_net ..
@[simp] theorem State.updOwner_ring (s : State) (h : Handle) (g : OwnerSt → OwnerSt) : (s.updOwner h g).ring = s.ring := State.updGrid_ring ..
@[simp] theorem State.updGrid_cur (s : State) (h : Handle) (g : Grid → Grid) : (s.updGrid h g).cur = s.cur := by
  unfold State.updGrid; split <;> rfl
@[simp] theorem State.updOwner_cur (s : State) (h : Handle) (g : OwnerSt → OwnerSt) : (s.updOwner h g).cur = s.cur := State.updGrid_cur ..
@[simp] theorem State.updGrid_unit (s : State) (h : Handle) (g : Grid → Grid) : (s.updGrid h g).unit = s.unit := by
  unfold State.updGrid; split <;> rfl
@[simp] theorem State.updOwner_unit (s : State) (h : Handle) (g : OwnerSt → OwnerSt) : (s.updOwner h g).unit = s.unit := State.updGrid_unit ..
@[simp] theorem State.updGrid_free (s : State) (h : Handle) (g : Grid → Grid) : (s.updGrid h g).free = s.free := by
  unfold State.updGrid; split <;> rfl
@[simp] theorem State.updOwner_free (s : State) (h : Handle) (g : OwnerSt → OwnerSt) : (s.updOwner h g).free = s.free := State.updGrid_free ..
@[simp] theorem State.updGrid_agenda (s : State) (h : Handle) (g : Grid → Grid) : (s.updGrid h g).agenda = s.agenda := by
  unfold State.updGrid; split <;> rfl
@[simp] theorem State.updOwner_agenda (s : State) (h : Handle) (g : OwnerSt → OwnerSt) : (s.updOwner h g).agenda = s.agenda := State.updGrid_agenda ..

end Sys2Proof.Machine
end

