-- ==== Sys2Proof/Laws/Tables.lean ====
section
/-! SUPPORT. Laws of tables: what a read gives after a write. They need no order of the keys. -/
namespace Sys2Proof

variable {α : Type}

@[simp] theorem Tbl.get_set_self (d : α) (t : Tbl α) (k : Nat) (x : α) : (t.set k x).get d k = x := by
  induction t with
  | nil => simp [Tbl.set, Tbl.get]
  | cons h t ih =>
    obtain ⟨a, v⟩ := h
    unfold Tbl.set
    split_ifs with h1 h2
    · simp [Tbl.get]
    · simp [Tbl.get, h2]
    · simp [Tbl.get, h1, h2, ih]

theorem Tbl.get_set_ne (d : α) (t : Tbl α) {j k : Nat} (x : α) (h : j ≠ k) : (t.set k x).get d j = t.get d j := by
  induction t with
  | nil => simp [Tbl.set, Tbl.get, h]
  | cons c t ih =>
    obtain ⟨a, v⟩ := c
    unfold Tbl.set
    split_ifs with h1 h2
    · by_cases hk : j < k
      · have h3 : j ≠ a := by omega
        have h4 : j < a := by omega
        simp [Tbl.get, h, hk, h3, h4]
      · simp [Tbl.get, h, hk]
    · subst h2; simp [Tbl.get, h]
    · simp [Tbl.get, ih]

@[simp] theorem Tbl.find?_set_self (t : Tbl α) (k : Nat) (x : α) : Tbl.find? (t.set k x) k = some x := by
  induction t with
  | nil => simp [Tbl.set, Tbl.find?]
  | cons h t ih =>
    obtain ⟨a, v⟩ := h
    unfold Tbl.set
    split_ifs with h1 h2
    · simp [Tbl.find?]
    · simp [Tbl.find?, h2]
    · simp [Tbl.find?, h1, h2, ih]

theorem Tbl.find?_set_ne (t : Tbl α) {j k : Nat} (x : α) (h : j ≠ k) : Tbl.find? (t.set k x) j = Tbl.find? t j := by
  induction t with
  | nil => simp [Tbl.set, Tbl.find?, h]
  | cons c t ih =>
    obtain ⟨a, v⟩ := c
    unfold Tbl.set
    split_ifs with h1 h2
    · by_cases hk : j < k
      · have h3 : j ≠ a := by omega
        have h4 : j < a := by omega
        simp [Tbl.find?, h, hk, h3, h4]
      · simp [Tbl.find?, h, hk]
    · subst h2; simp [Tbl.find?, h]
    · simp [Tbl.find?, ih]

end Sys2Proof
end

