-- ==== Sys2Proof/Laws/Threads.lean ====
section
/-! SUPPORT. What the places of the state read as after a write, and everything that the end of an instruction can do to them. -/
namespace Sys2Proof.Machine

/-! ## Dies, cores, crews and threads -/

@[simp] theorem State.dieOf_setDie (s : State) (d : Nat) (x : Die) : (s.setDie d x).dieOf d = x := by
  simp [State.dieOf, State.setDie]

theorem State.dieOf_setDie_ne (s : State) {d k : Nat} (x : Die) (h : k ≠ d) : (s.setDie d x).dieOf k = s.dieOf k := by
  simp [State.dieOf, State.setDie, Tbl.get_set_ne _ _ _ h]

@[simp] theorem State.coreOf_setCore (s : State) (d c : Nat) (x : Core) : (s.setCore d c x).coreOf d c = x := by
  simp [State.coreOf, State.setCore, State.updDie]

theorem State.coreOf_setCore_ne (s : State) {d c d' c' : Nat} (x : Core) (h : ¬(d' = d ∧ c' = c)) :
    (s.setCore d c x).coreOf d' c' = s.coreOf d' c' := by
  by_cases hd : d' = d
  · subst hd
    have hc : c' ≠ c := fun hc => h ⟨rfl, hc⟩
    simp [State.coreOf, State.setCore, State.updDie, Tbl.get_set_ne _ _ _ hc]
  · simp [State.coreOf, State.setCore, State.updDie, State.dieOf_setDie_ne _ _ hd]

/-- A change of a core that keeps its crews changes no crew. -/
theorem State.crewOf_updCore (s : State) (d c : Nat) (f : Core → Core) (hf : ∀ x, (f x).crews = x.crews) (r : CrewRef) :
    (s.updCore d c f).crewOf r = s.crewOf r := by
  unfold State.crewOf State.updCore
  by_cases h : r.die = d ∧ r.core = c
  · obtain ⟨rfl, rfl⟩ := h; simp [hf]
  · rw [State.coreOf_setCore_ne _ _ h]

theorem State.thread_updCore (s : State) (d c : Nat) (f : Core → Core) (hf : ∀ x, (f x).crews = x.crews) (t : ThreadRef) :
    (s.updCore d c f).thread t = s.thread t := by
  unfold State.thread; rw [State.crewOf_updCore _ _ _ _ hf]

@[simp] theorem State.crewOf_setCrew (s : State) (r : CrewRef) (w : Crew) : (s.setCrew r w).crewOf r = some w := by
  simp [State.crewOf, State.setCrew, State.updCore]

theorem State.crewOf_setCrew_ne (s : State) {r q : CrewRef} (w : Crew) (h : q ≠ r) : (s.setCrew r w).crewOf q = s.crewOf q := by
  unfold State.crewOf State.setCrew State.updCore
  by_cases hc : q.die = r.die ∧ q.core = r.core
  · have hs : q.slot ≠ r.slot := by
      intro hs; apply h; cases q; cases r; simp_all
    rw [hc.1, hc.2]
    simp [Tbl.find?_set_ne _ _ hs]
  · rw [State.coreOf_setCore_ne _ _ hc]

theorem State.crewOf_updCrew (s : State) (r : CrewRef) (f : Crew → Crew) (q : CrewRef) :
    (s.updCrew r f).crewOf q = if q = r then (s.crewOf r).map f else s.crewOf q := by
  unfold State.updCrew
  split_ifs with h
  · subst h
    split
    · next w hw => simp [hw]
    · next hw => simp [hw]
  · split
    · exact State.crewOf_setCrew_ne _ _ h
    · rfl

theorem Crew.thread_setThread (w : Crew) (n m : Option Nat) (b : Band) (hn : (w.thread n).isSome) :
    (w.setThread n b).thread m = if m = n then some b else w.thread m := by
  cases n with
  | some k =>
    cases m with
    | some j =>
      by_cases h : j = k
      · subst h; simp [Crew.setThread, Crew.thread]
      · simp [Crew.setThread, Crew.thread, h, Tbl.find?_set_ne _ _ h]
    | none => simp [Crew.setThread, Crew.thread]
  | none =>
    cases m with
    | some j => simp [Crew.setThread, Crew.thread]
    | none =>
      unfold Crew.thread at hn
      cases hf : w.front with
      | none => simp [hf] at hn
      | some f =>
        simp only [hf] at hn
        split_ifs at hn with he
        · simp at hn
        · simp [Crew.setThread, Crew.thread, hf, he]

theorem State.thread_setThread (s : State) (t u : ThreadRef) (b : Band) (ht : (s.thread t).isSome) :
    (s.setThread t b).thread u = if u = t then some b else s.thread u := by
  unfold State.thread at ht
  cases hc : s.crewOf t.crew with
  | none => simp [hc] at ht
  | some w =>
    simp only [hc] at ht
    unfold State.thread State.setThread
    rw [State.crewOf_updCrew]
    by_cases hu : u.crew = t.crew
    · have hiff : u = t ↔ u.band = t.band := by
        cases u; cases t; simp_all [ThreadRef.crew]
      rw [if_pos hu, hc, hu, hc]
      simp only [Option.map_some]
      rw [Crew.thread_setThread _ _ _ _ ht]
      by_cases hb : u.band = t.band
      · rw [if_pos hb, if_pos (hiff.2 hb)]
      · rw [if_neg hb, if_neg (fun h => hb (hiff.1 h))]
    · rw [if_neg hu]
      have : u ≠ t := by rintro rfl; exact hu rfl
      rw [if_neg this]

end Sys2Proof.Machine
end

