-- ==== Sys2Proof/Laws/Issue.lean ====
section
/-! SUPPORT. Everything that the end of an instruction does to the state, once: where its thread stands, and what stays as it was. -/
namespace Sys2Proof.Machine

/-! ## Nothing outside the threads changes -/

theorem SameOutside.refl (s : State) : SameOutside s s :=
  ⟨rfl, rfl, rfl, rfl, rfl, rfl, rfl, rfl, rfl, rfl, rfl, rfl, rfl, fun _ => rfl, fun _ _ => rfl, fun _ => rfl⟩

theorem SameOutside.trans {s t u : State} (h : SameOutside s t) (k : SameOutside t u) : SameOutside s u :=
  ⟨k.time.trans h.time, k.mem.trans h.mem, k.host.trans h.host, k.links.trans h.links, k.podrt.trans h.podrt,
   k.timeConv.trans h.timeConv, k.ctxs.trans h.ctxs, k.ctrls.trans h.ctrls, k.disp.trans h.disp, k.barDone.trans h.barDone,
   k.colls.trans h.colls, k.net.trans h.net, k.ring.trans h.ring, fun d => (k.die d).trans (h.die d), fun d c => (k.core d c).trans (h.core d c),
   fun r => (k.crew r).trans (h.crew r)⟩

theorem State.rest_setCore (s : State) (d c : Nat) (x : Core) (k : Nat) : ((s.setCore d c x).dieOf k).rest = (s.dieOf k).rest := by
  unfold State.setCore State.updDie
  by_cases h : k = d
  · subst h; simp [Die.rest]
  · rw [State.dieOf_setDie_ne _ _ h]

/-- A change of a core that changes no more than crews, selector and instruction count, and of a crew no more than its threads. -/
theorem SameOutside.updCore (s : State) (d c : Nat) (f : Core → Core) (h : ∀ x, (f x).rest = x.rest)
    (hc : ∀ x n, ((f x).crews.find? n).map Crew.rest = (x.crews.find? n).map Crew.rest) : SameOutside s (s.updCore d c f) := by
  refine ⟨rfl, rfl, rfl, rfl, rfl, rfl, rfl, rfl, rfl, rfl, rfl, rfl, rfl, State.rest_setCore s d c _, ?_, ?_⟩
  · intro d' c'
    by_cases hd : d' = d ∧ c' = c
    · obtain ⟨rfl, rfl⟩ := hd; simp [State.updCore, h]
    · rw [State.updCore, State.coreOf_setCore_ne _ _ hd]
  · intro r
    unfold State.crewOf
    by_cases hd : r.die = d ∧ r.core = c
    · rw [hd.1, hd.2]; simp [State.updCore, hc]
    · rw [State.updCore, State.coreOf_setCore_ne _ _ hd]

theorem SameOutside.setCrew (s : State) (r : CrewRef) (w : Crew) (h : (s.crewOf r).map Crew.rest = some w.rest) :
    SameOutside s (s.setCrew r w) := by
  have hout : ∀ q, ((s.setCrew r w).crewOf q).map Crew.rest = (s.crewOf q).map Crew.rest := by
    intro q
    by_cases hq : q = r
    · subst hq; simp [h]
    · rw [State.crewOf_setCrew_ne _ _ hq]
  refine ⟨rfl, rfl, rfl, rfl, rfl, rfl, rfl, rfl, rfl, rfl, rfl, rfl, rfl, State.rest_setCore s _ _ _, ?_, hout⟩
  intro d' c'
  by_cases hd : d' = r.die ∧ c' = r.core
  · obtain ⟨rfl, rfl⟩ := hd; simp [State.setCrew, State.updCore, Core.rest]
  · rw [State.setCrew, State.updCore, State.coreOf_setCore_ne _ _ hd]

theorem SameOutside.updCrew (s : State) (r : CrewRef) (f : Crew → Crew) (h : ∀ w, (f w).rest = w.rest) :
    SameOutside s (s.updCrew r f) := by
  unfold State.updCrew
  cases hc : s.crewOf r with
  | none => exact .refl s
  | some w => exact .setCrew s r _ (by rw [hc]; simp [h])

@[simp] theorem Crew.rest_setThread (w : Crew) (n : Option Nat) (b : Band) : (w.setThread n b).rest = w.rest := by
  cases n <;> rfl

theorem SameOutside.setThread (s : State) (t : ThreadRef) (b : Band) : SameOutside s (s.setThread t b) :=
  SameOutside.updCrew _ _ _ fun w => Crew.rest_setThread w _ b

theorem SameOutside.updThread (s : State) (t : ThreadRef) (f : Band → Band) : SameOutside s (s.updThread t f) := by
  unfold State.updThread
  split
  · exact .setThread ..
  · exact .refl s

theorem SameOutside.setSel (s : State) (d c : Nat) (g : Core → Sel) : SameOutside s (s.updCore d c fun x => { x with sel := g x }) :=
  .updCore _ _ _ _ (fun _ => rfl) (fun _ _ => rfl)

theorem SameOutside.setNextId (s : State) (d c n : Nat) : SameOutside s (s.updCore d c fun x => { x with nextId := n }) :=
  .updCore _ _ _ _ (fun _ => rfl) (fun _ _ => rfl)

theorem SameOutside.free (s : State) (n : Nat) : SameOutside s { s with free := n } :=
  ⟨rfl, rfl, rfl, rfl, rfl, rfl, rfl, rfl, rfl, rfl, rfl, rfl, rfl, fun _ => rfl, fun _ _ => rfl, fun _ => rfl⟩

/-! ## Threads after each part of the end of an instruction -/

theorem State.thread_updThread (s : State) (t u : ThreadRef) (f : Band → Band) :
    (s.updThread t f).thread u = if u = t then (s.thread t).map f else s.thread u := by
  unfold State.updThread
  cases h : s.thread t with
  | none => by_cases hu : u = t
            · subst hu; simp [h]
            · simp [hu]
  | some b => simp [State.thread_setThread s t u (f b) (by simp [h])]

@[simp] theorem Band.rest_loseLatches (b : Band) : b.loseLatches.rest = b.rest := by
  simp [Band.rest, Band.loseLatches, Function.comp_def]

theorem State.claimHalf_outside (s : State) (t : ThreadRef) (me : Nat × Nat) (k : Nat) : SameOutside s (s.claimHalf t me k) := by
  unfold State.claimHalf
  simp only
  generalize (if k = 0 then (s.coreOf t.die t.core).sel.half0 else (s.coreOf t.die t.core).sel.half1) = old
  split
  · exact .refl s
  · split
    · split
      · exact SameOutside.setSel ..
      · exact (SameOutside.setSel ..).trans (SameOutside.updThread ..)
    · exact SameOutside.setSel ..

theorem State.thread_setSel (s : State) (d c : Nat) (g : Core → Sel) (t : ThreadRef) :
    (s.updCore d c fun x => { x with sel := g x }).thread t = s.thread t := by
  apply State.thread_updCore; intro x; rfl

theorem State.claimHalf_own (s : State) (t : ThreadRef) (n k : Nat) (ht : t.band = some n) :
    (s.claimHalf t (t.slot, n) k).thread t = s.thread t := by
  unfold State.claimHalf
  simp only
  generalize (if k = 0 then (s.coreOf t.die t.core).sel.half0 else (s.coreOf t.die t.core).sel.half1) = old
  split
  · rfl
  · split
    · next _ p _ =>
      split
      · rw [State.thread_setSel]
      · next h =>
        rw [State.thread_updThread, State.thread_setSel, if_neg, State.thread_setSel]
        rintro heq
        apply h
        have h1 : t.slot = p.1 := by rw [heq]
        have h2 : some n = some p.2 := by rw [← ht, heq]
        exact Prod.ext h1.symm (Option.some.inj h2).symm
    · rw [State.thread_setSel]

theorem State.claimHalf_seen (s : State) (t : ThreadRef) (me : Nat × Nat) (k : Nat) (u : ThreadRef) :
    ((s.claimHalf t me k).thread u).map Band.rest = (s.thread u).map Band.rest := by
  unfold State.claimHalf
  simp only
  generalize (if k = 0 then (s.coreOf t.die t.core).sel.half0 else (s.coreOf t.die t.core).sel.half1) = old
  split
  · rfl
  · split
    · next p _ =>
      split
      · rw [State.thread_setSel]
      rw [State.thread_updThread]
      by_cases h : u = { t with slot := p.1, band := some p.2 }
      · rw [if_pos h, State.thread_setSel, Option.map_map, ← h]
        congr 1
        funext b
        simp only [Function.comp]
        split_ifs <;> simp
      · rw [if_neg h, State.thread_setSel]
    · rw [State.thread_setSel]

theorem State.takePort_outside (s : State) (t : ThreadRef) (opc now : Nat) : SameOutside s (s.takePort t opc now) :=
  SameOutside.setSel s t.die t.core fun c => { c.sel with portAt := if usesPort opc then some now else c.sel.portAt }

@[simp] theorem State.thread_takePort (s : State) (t u : ThreadRef) (opc now : Nat) :
    (s.takePort t opc now).thread u = s.thread u :=
  State.thread_setSel s t.die t.core (fun c => { c.sel with portAt := if usesPort opc then some now else c.sel.portAt }) u

theorem Env.claim_outside (e : Env) (s : State) : SameOutside s (e.claim s) := by
  unfold Env.claim
  split
  · exact SameOutside.setSel ..
  · simp only
    split_ifs
    · exact (State.takePort_outside ..).trans ((State.claimHalf_outside ..).trans (State.claimHalf_outside ..))
    · exact (State.takePort_outside ..).trans (State.claimHalf_outside ..)

theorem Env.claim_own (e : Env) (s : State) : (e.claim s).thread e.t = s.thread e.t := by
  unfold Env.claim
  split
  · exact State.thread_setSel ..
  · next n hn =>
    simp only
    split_ifs
    · rw [State.claimHalf_own _ _ _ _ hn, State.claimHalf_own _ _ _ _ hn, State.thread_takePort]
    · rw [State.claimHalf_own _ _ _ _ hn, State.thread_takePort]

theorem Env.claim_seen (e : Env) (s : State) (u : ThreadRef) :
    ((e.claim s).thread u).map Band.rest = (s.thread u).map Band.rest := by
  unfold Env.claim
  split
  · rw [State.thread_setSel]
  · simp only
    split_ifs
    · rw [State.claimHalf_seen, State.claimHalf_seen, State.thread_takePort]
    · rw [State.claimHalf_seen, State.thread_takePort]

/-! ## What an instruction sees -/

/-- What `mkEnv` answers is of the running thread that `cur` names, with its due results landed, on its half. -/
theorem mkEnv_spec {opc : Nat} {c : Code} {s : State} {e : Env} (h : mkEnv opc c s = some e) :
    ∃ b0 cw, s.crewOf s.cur.crew = some cw ∧ s.thread s.cur = some b0 ∧ b0.running = true ∧ e.t = s.cur ∧ e.opc = opc ∧ e.c = c ∧
      e.b = s.issuing s.cur b0 ∧ e.front = s.cur.band.isNone ∧ e.regs = cw.cfg.regs ∧ e.now = s.cyc s.cur.die := by
  unfold mkEnv at h
  split at h
  · next cw b0 hc ht =>
    split at h
    · cases h
    · next hr =>
      cases h
      exact ⟨b0, cw, hc, ht, by simpa using hr, rfl, rfl, rfl, rfl, rfl, rfl, rfl⟩
  · cases h

theorem mkEnv_thread {opc : Nat} {c : Code} {s : State} {e : Env} (h : mkEnv opc c s = some e) : (s.thread e.t).isSome := by
  obtain ⟨b0, cw, _, ht, _, he, _⟩ := mkEnv_spec h
  rw [he, ht]; rfl

theorem mkEnv_crew {opc : Nat} {c : Code} {s : State} {e : Env} (h : mkEnv opc c s = some e) : ∃ cw, s.crewOf e.t.crew = some cw := by
  obtain ⟨b0, cw, hc, _, _, he, _⟩ := mkEnv_spec h
  exact ⟨cw, by rw [he, hc]⟩

theorem mkEnv_front {opc : Nat} {c : Code} {s : State} {e : Env} (h : mkEnv opc c s = some e) : e.front = e.t.band.isNone := by
  obtain ⟨b0, cw, _, _, _, he, _, _, _, hf, _⟩ := mkEnv_spec h
  rw [hf, he]

/-- Two states with the same crews, as far as the end of an instruction goes. -/
structure SameCrews (s t : State) : Prop where
  crew : ∀ r, t.crewOf r = s.crewOf r
  out : SameOutside s t

theorem SameCrews.refl (s : State) : SameCrews s s := ⟨fun _ => rfl, .refl s⟩

theorem SameCrews.thread {s t : State} (h : SameCrews s t) (u : ThreadRef) : t.thread u = s.thread u := by
  unfold State.thread; rw [h.crew]

theorem SameCrews.setSel (s : State) (d c : Nat) (g : Core → Sel) : SameCrews s (s.updCore d c fun x => { x with sel := g x }) :=
  ⟨State.crewOf_updCore s d c _ fun _ => rfl, SameOutside.setSel ..⟩

theorem Env.occupy_same (e : Env) (trans : Bool) (n : Nat) (s : State) : SameCrews s (e.occupy trans n s) := by
  unfold Env.occupy
  exact SameCrews.setSel ..

/-! ## The end of an instruction -/

theorem Env.loops_spec (e : Env) (b : Band) (s : State) (hs : (s.thread e.t).isSome) (hf : e.front = e.t.band.isNone) :
    (e.loops b s).thread e.t = some { b with x := { b.x with pc := e.lands s b.x.pc } } ∧
    (∀ u, u ≠ e.t → (e.loops b s).thread u = s.thread u) ∧ SameOutside s (e.loops b s) := by
  unfold Env.loops Env.lands
  split_ifs with h
  · refine ⟨?_, ?_, SameOutside.setThread ..⟩
    · rw [State.thread_setThread s e.t e.t b hs, if_pos rfl]
    · intro u hu
      rw [State.thread_setThread s e.t u b hs, if_neg hu]
  · simp only [Bool.or_eq_true, not_or, Bool.not_eq_true'] at h
    have hb : e.t.band = none := by
      have : e.front = true := by simpa using h.1
      rw [hf] at this; exact Option.isNone_iff_eq_none.1 this
    unfold State.thread at hs
    cases hc : s.crewOf e.t.crew with
    | none => simp [hc] at hs
    | some cw =>
      simp only [hc, hb, Crew.thread] at hs
      cases hfr : cw.front with
      | none => simp [hfr] at hs
      | some f =>
        simp only [hfr] at hs
        have hen : f.ended = false := by
          cases hE : f.ended with
          | false => rfl
          | true => simp [hE] at hs
        refine ⟨?_, ?_, SameOutside.updCrew _ _ _ fun _ => rfl⟩
        · unfold State.thread
          rw [State.crewOf_updCrew, if_pos rfl, hc]
          simp [Crew.thread, hb, hfr, hen]
        · intro u hu
          unfold State.thread
          rw [State.crewOf_updCrew]
          split_ifs with hr
          · rw [hr, hc]
            simp only [Option.map_some]
            cases hub : u.band with
            | some j => rfl
            | none =>
              exfalso; apply hu
              cases u; cases ht : e.t; simp_all [ThreadRef.crew]
          · rfl

theorem Env.commit_spec (e : Env) (b : Band) (s : State) (hs : (s.thread e.t).isSome) (hf : e.front = e.t.band.isNone) :
    (e.commit b s).thread e.t = some { b with x := { b.x with pc := e.lands s b.x.pc } } ∧
    SameOthers e.t s (e.commit b s) ∧ SameOutside s (e.commit b s) := by
  obtain ⟨h1, h2, h3⟩ := e.loops_spec b s hs hf
  unfold Env.commit
  have hth : ∀ (x : State) (n : Nat) (u : ThreadRef), State.thread { x with free := n } u = x.thread u := fun _ _ _ => rfl
  have hcore : ∀ u, ((e.loops b s).updCore e.t.die e.t.core fun c => { c with nextId := e.id + 1 }).thread u = (e.loops b s).thread u :=
    State.thread_updCore _ _ _ _ (fun _ => rfl)
  refine ⟨?_, ?_, ?_⟩
  · simp only [hth]
    rw [Env.claim_own, hcore, h1]
  · intro u hu
    have := Env.claim_seen e ((e.loops b s).updCore e.t.die e.t.core fun c => { c with nextId := e.id + 1 }) u
    simp only [hth]
    rw [this, hcore, h2 u hu]
  · exact ((h3.trans (SameOutside.setNextId ..)).trans (Env.claim_outside ..)).trans (SameOutside.free ..)

theorem SameOthers.of_same {me : ThreadRef} {s s' t : State} (h : SameCrews s s') (k : SameOthers me s' t) : SameOthers me s t := by
  intro u hu; rw [k u hu, h.thread]

theorem Env.lands_of_same {e : Env} {s s' : State} (h : SameCrews s s') (pc : PCW) : e.lands s' pc = e.lands s pc := by
  unfold Env.lands; rw [h.crew]

/-- Putting a result on its way changes no more than flags, results and noted writers. -/
theorem Band.pend_eq (b : Band) (p : Pend) :
    b.pend p = { b with flags := (b.flagUp p.flag).flags, pends := b.pends ++ [p], clob := (b.pend p).clob } := by
  unfold Band.pend Band.flagUp Band.noteClob; cases p.flag <;> rfl

/-- The end of an instruction whose thread differs from `b1` in issue state, flags and results only. -/
theorem Env.commit_ends {opc : Nat} {c : Code} {s s' : State} {e : Env} (h : mkEnv opc c s = some e) (hs : SameCrews s s')
    (pc : PCW) (b1 b : Band) (ps : List Pend) (hpc : b.x.pc = pc) (hp : b.pends = b1.pends ++ ps)
    (hf : b.flags = (b1.flagUp e.flag).flags) (hb : SameThread b1 b) : Ends e s (.next (e.commit b s')) pc b1 ps := by
  have ht : (s'.thread e.t).isSome := by rw [hs.thread]; exact mkEnv_thread h
  obtain ⟨h1, h2, h3⟩ := e.commit_spec b s' ht (mkEnv_front h)
  exact ⟨_, _, rfl, h1, by rw [hpc, Env.lands_of_same hs], hp, hf, hb, hs.out.trans h3, SameOthers.of_same hs h2⟩

theorem Env.pend_ends {opc : Nat} {c : Code} {s s' : State} {e : Env} (h : mkEnv opc c s = some e) (hs : SameCrews s s')
    (pc : PCW) (b1 : Band) (p : Pend) (hf : p.flag = e.flag) :
    Ends e s (.next (e.commit ((e.advance pc b1).pend p) s')) pc b1 [p] := by
  apply Env.commit_ends h hs <;> rw [Band.pend_eq]
  · rfl
  · rfl
  · simp only [hf]; cases e.flag <;> rfl
  · simp only [hf]; cases e.flag <;> rfl

/-- A result on its way: what every instruction that ends in one answers. -/
theorem Env.result_answers {opc : Nat} {c : Code} {s s' : State} {e : Env} (h : mkEnv opc c s = some e) (hs : SameCrews s s')
    (p : Pend) (hf : p.flag = e.flag) : Answers e s (e.result p s') p := Env.pend_ends h hs e.next e.b p hf

/-- An instruction that ends without a result. -/
theorem Env.finish_goes {opc : Nat} {c : Code} {s s' : State} {e : Env} (h : mkEnv opc c s = some e) (hs : SameCrews s s')
    (pc : PCW) (b1 : Band) : Goes e s (e.finish pc b1 s') pc b1 := by
  unfold Goes Env.flagOnly Env.finish Env.done
  cases hf : e.flag with
  | none =>
    apply Env.commit_ends h hs
    · rfl
    · simp [Env.advance]
    · simp [hf, Band.flagUp, Env.advance]
    · rfl
  | some f => exact Env.pend_ends h hs pc b1 _ rfl

theorem Band.openRegion_same (b : Band) (free : Nat) (pc : PCW) :
    b.openRegion free pc = { b with region := (b.openRegion free pc).region } := by
  unfold Band.openRegion; split <;> rfl

theorem SameOthers.trans {me : ThreadRef} {s t u : State} (h : SameOthers me s t) (k : SameOthers me t u) : SameOthers me s u :=
  fun v hv => (k v hv).trans (h v hv)

theorem SameOthers.updThread (s : State) (t : ThreadRef) (f : Band → Band) : SameOthers t s (s.updThread t f) := by
  intro u hu; rw [State.thread_updThread, if_neg hu]

/-- The end of a committing instruction. -/
theorem Env.commitNew_ends {opc : Nat} {c : Code} {s s' : State} {e : Env} (h : mkEnv opc c s = some e) (hs : SameCrews s s')
    (free : Nat) (pc : PCW) (b1 b : Band) (ps : List Pend) (hpc : b.x.pc = pc) (hp : b.pends = b1.pends ++ ps)
    (hf : b.flags = (b1.flagUp e.flag).flags) (hb : SameThread b1 b) :
    EndsNew e s (.next (e.commitNew free b s')) pc b1 ps := by
  have ht : (s'.thread e.t).isSome := by rw [hs.thread]; exact mkEnv_thread h
  obtain ⟨h1, h2, h3⟩ := e.commit_spec b s' ht (mkEnv_front h)
  have hth : ∀ (x : State) (n : Nat) (u : ThreadRef), State.thread { x with free := n } u = x.thread u := fun _ _ _ => rfl
  generalize hb' : ({ b with x := { b.x with pc := e.lands s' b.x.pc } } : Band) = b' at h1
  refine ⟨_, b'.openRegion free b'.x.pc, rfl, ?_, ?_, ?_, ?_, ?_, ?_, ?_, ?_⟩
  · unfold Env.commitNew
    rw [hth, State.thread_updThread, if_pos rfl, h1]; rfl
  · rw [Band.openRegion_same]; subst hb'; simp only [hpc, Env.lands_of_same hs]
  · rw [Band.openRegion_same]; subst hb'; exact hp
  · rw [Band.openRegion_same]; subst hb'; exact hf
  · rw [Band.openRegion_same]; subst hb'; subst_vars
    unfold SameThread at hb ⊢; rw [← hb]
  · have hr : b1.trapPriv = b'.trapPriv ∧ b1.region = b'.region := by
      subst hb'; unfold SameThread at hb; rw [← hb]; exact ⟨rfl, rfl⟩
    rw [hr.1, hr.2]
    unfold Band.openRegion
    by_cases hv : b'.trapPriv <;> simp [hv]
  · exact (hs.out.trans h3).trans ((SameOutside.updThread ..).trans (SameOutside.free ..))
  · exact SameOthers.of_same hs (h2.trans (SameOthers.updThread _ _ _))

/-- A committing instruction that needs no acknowledgement. -/
theorem Env.committedEnd_goes {opc : Nat} {c : Code} {s s' : State} {e : Env} (h : mkEnv opc c s = some e) (hs : SameCrews s s')
    (b1 : Band) : GoesNew e s (e.committedEnd b1 s') e.next b1 := by
  unfold GoesNew Env.flagOnly Env.committedEnd
  cases hf : e.flag with
  | none =>
    apply Env.commitNew_ends h hs
    · rfl
    · simp [Env.advance]
    · simp [hf, Band.flagUp, Env.advance]
    · rfl
  | some f =>
    apply Env.commitNew_ends h hs <;> dsimp only <;> rw [Band.pend_eq]
    · rfl
    · rfl
    · have : (e.fixed 1 [] none 0).flag = e.flag := rfl
      rw [this]; simp only [hf]; rfl
    · rfl

/-- An instruction whose decode tests pass runs its meaning. -/
theorem runInstr_of {opc : Nat} {c : Code} {s : State} {e : Env} (h : Issues opc c s e) (k : Env → Out) :
    runInstr opc c s k = k e := by
  unfold runInstr; rw [h.1]; simp [h.2]

end Sys2Proof.Machine
end

