-- ==== Sys2Proof/Laws/Memory.lean ====
section
/-! SUPPORT. Laws of the memory list: its operations keep the canonical form, and a read after a write gives the value written, or
what was there before. -/
namespace Sys2Proof.Machine

/-! ## The canonical form is kept -/

theorem Memory.wfFrom_cons {lo : Option Nat} {k : Nat} {v : Byte} {t : List Host.Cell} :
    Memory.wfFrom lo ((k, v) :: t) = true ↔ (∀ l, lo = some l → l < k) ∧ v ≠ 0 ∧ Memory.wfFrom (some k) t = true := by
  cases lo <;> simp [Memory.wfFrom, bne_iff_ne, and_assoc]

theorem Memory.wfFrom_mono {lo lo' : Option Nat} {m : List Host.Cell} (h : Memory.wfFrom lo m = true)
    (hle : ∀ l, lo' = some l → ∃ k, lo = some k ∧ l ≤ k) : Memory.wfFrom lo' m = true := by
  cases m with
  | nil => rfl
  | cons c t =>
    obtain ⟨a, v⟩ := c
    rw [Memory.wfFrom_cons] at h ⊢
    refine ⟨fun l hl => ?_, h.2⟩
    obtain ⟨k, hk, hle⟩ := hle l hl
    have := h.1 k hk
    omega

theorem Memory.wfFrom_write (m : List Host.Cell) : ∀ (lo : Option Nat) (a : Nat) (b : Byte), Memory.wfFrom lo m = true →
    (∀ l, lo = some l → l < a) → Memory.wfFrom lo (Memory.write m a b) = true := by
  induction m with
  | nil =>
    intro lo a b _ hlo
    unfold Memory.write
    split_ifs with hb
    · rfl
    · exact Memory.wfFrom_cons.2 ⟨hlo, hb, rfl⟩
  | cons c t ih =>
    intro lo a b h hlo
    obtain ⟨k, v⟩ := c
    have h0 := h
    rw [Memory.wfFrom_cons] at h
    unfold Memory.write
    split_ifs with h1 h2 h3 h4
    · exact h0
    · exact Memory.wfFrom_cons.2 ⟨hlo, h2, Memory.wfFrom_cons.2 ⟨by rintro l ⟨⟩; exact h1, h.2⟩⟩
    · exact Memory.wfFrom_mono h.2.2 fun l hl => ⟨k, rfl, (h.1 l hl).le⟩
    · exact Memory.wfFrom_cons.2 ⟨h.1, h4, h.2.2⟩
    · exact Memory.wfFrom_cons.2 ⟨h.1, h.2.1, ih (some k) a b h.2.2 (by rintro l ⟨⟩; omega)⟩

/-- A write keeps the canonical form. -/
theorem Memory.wf_write {m : List Host.Cell} (h : Memory.wf m = true) (a : Nat) (b : Byte) : Memory.wf (Memory.write m a b) = true :=
  Memory.wfFrom_write m none a b h (by simp)

/-- A write of several bytes keeps the canonical form. -/
theorem Memory.wf_writeN {bs : List Byte} : ∀ {m : List Host.Cell} (_ : Memory.wf m = true) (a : Nat),
    Memory.wf (Memory.writeN m a bs) = true := by
  induction bs with
  | nil => intro m h a; exact h
  | cons b bs ih => intro m h a; exact ih (Memory.wf_write h a b) (a + 1)

theorem Memory.wfFrom_filter (p : Host.Cell → Bool) (m : List Host.Cell) : ∀ lo, Memory.wfFrom lo m = true →
    Memory.wfFrom lo (m.filter p) = true := by
  induction m with
  | nil => intro lo _; rfl
  | cons c t ih =>
    intro lo h
    obtain ⟨k, v⟩ := c
    rw [Memory.wfFrom_cons] at h
    rw [List.filter_cons]
    split_ifs
    · exact Memory.wfFrom_cons.2 ⟨h.1, h.2.1, ih _ h.2.2⟩
    · exact Memory.wfFrom_mono (ih _ h.2.2) fun l hl => ⟨k, rfl, (h.1 l hl).le⟩

/-- Clearing keeps the canonical form. -/
theorem Memory.wf_clear {m : List Host.Cell} (h : Memory.wf m = true) (a n : Nat) : Memory.wf (Memory.clear m a n) = true :=
  Memory.wfFrom_filter _ m none h

/-! ## Reading after writing -/

theorem Memory.read_below {m : List Host.Cell} : ∀ {lo a : Nat}, Memory.wfFrom (some lo) m = true → a ≤ lo → Memory.read m a = 0 := by
  induction m with
  | nil => intro lo a _ _; rfl
  | cons c t ih =>
    intro lo a h ha
    obtain ⟨k, v⟩ := c
    rw [Memory.wfFrom_cons] at h
    have hk : lo < k := h.1 lo rfl
    have h1 : a ≠ k := by omega
    have h2 : a < k := by omega
    simp [Memory.read, h1, h2]

theorem Memory.read_write_from {b : Byte} {a : Nat} (m : List Host.Cell) : ∀ {lo : Option Nat}, Memory.wfFrom lo m = true →
    Memory.read (Memory.write m a b) a = b := by
  induction m with
  | nil =>
    intro lo _
    unfold Memory.write
    split_ifs with hb
    · simp [Memory.read, hb]
    · simp [Memory.read]
  | cons c t ih =>
    intro lo h
    obtain ⟨k, v⟩ := c
    rw [Memory.wfFrom_cons] at h
    unfold Memory.write
    split_ifs with h1 h2 h3 h4
    · have h5 : a ≠ k := by omega
      simp [Memory.read, h1, h5, h2]
    · simp [Memory.read]
    · rw [Memory.read_below h.2.2 (by omega), h4]
    · simp [Memory.read, h3]
    · simp [Memory.read, h1, h3, ih h.2.2]

/-- A read after a write to the same place gives the byte written. -/
theorem Memory.read_write_self {m : List Host.Cell} (h : Memory.wf m = true) (a : Nat) (b : Byte) :
    Memory.read (Memory.write m a b) a = b := Memory.read_write_from m h

theorem Memory.read_write_ne_from {b : Byte} {a j : Nat} (hj : j ≠ a) (m : List Host.Cell) : ∀ {lo : Option Nat},
    Memory.wfFrom lo m = true → Memory.read (Memory.write m a b) j = Memory.read m j := by
  induction m with
  | nil =>
    intro lo _
    unfold Memory.write
    split_ifs with hb
    · rfl
    · simp [Memory.read, hj]
  | cons c t ih =>
    intro lo h
    obtain ⟨k, v⟩ := c
    rw [Memory.wfFrom_cons] at h
    unfold Memory.write
    split_ifs with h1 h2 h3 h4
    · rfl
    · by_cases hja : j < a
      · have h5 : j ≠ k := by omega
        have h6 : j < k := by omega
        simp [Memory.read, hj, hja, h5, h6]
      · simp [Memory.read, hj, hja]
    · subst h3
      by_cases hja : j < a
      · rw [Memory.read_below h.2.2 (by omega)]; simp [Memory.read, hj, hja]
      · simp [Memory.read, hj, hja]
    · subst h3; simp [Memory.read, hj]
    · simp [Memory.read, ih h.2.2]

/-- A write leaves every other place alone. -/
theorem Memory.read_write_ne {m : List Host.Cell} (h : Memory.wf m = true) {a j : Nat} (b : Byte) (hj : j ≠ a) :
    Memory.read (Memory.write m a b) j = Memory.read m j := Memory.read_write_ne_from hj m h

/-- A write of several bytes leaves every place outside them alone. -/
theorem Memory.read_writeN_out {bs : List Byte} : ∀ {m : List Host.Cell} (_ : Memory.wf m = true) {a j : Nat},
    (j < a ∨ a + bs.length ≤ j) → Memory.read (Memory.writeN m a bs) j = Memory.read m j := by
  induction bs with
  | nil => intro m _ a j _; rfl
  | cons b bs ih =>
    intro m h a j hj
    simp only [List.length_cons] at hj
    show Memory.read (Memory.writeN (Memory.write m a b) (a + 1) bs) j = _
    rw [ih (Memory.wf_write h a b) (by omega), Memory.read_write_ne h b (by omega)]

/-- A read after a write of several bytes gives them back. -/
theorem Memory.readN_writeN {bs : List Byte} : ∀ {m : List Host.Cell} (_ : Memory.wf m = true) (a : Nat),
    Memory.readN (Memory.writeN m a bs) a bs.length = bs := by
  induction bs with
  | nil => intro m _ a; rfl
  | cons b bs ih =>
    intro m h a
    show Memory.read (Memory.writeN (Memory.write m a b) (a + 1) bs) a ::
      Memory.readN (Memory.writeN (Memory.write m a b) (a + 1) bs) (a + 1) bs.length = _
    rw [ih (Memory.wf_write h a b), Memory.read_writeN_out (Memory.wf_write h a b) (by omega), Memory.read_write_self h]

/-! ## The memory of a state -/

theorem State.writeKey_wf {s : State} (h : Memory.wf s.mem = true) (k : Nat) (bs : List Byte) :
    Memory.wf (s.writeKey k bs).mem = true := Memory.wf_writeN h k

theorem State.clearKey_wf {s : State} (h : Memory.wf s.mem = true) (k n : Nat) : Memory.wf (s.clearKey k n).mem = true :=
  Memory.wf_clear h k n

end Sys2Proof.Machine
end

