-- ==== Sys2Proof/Laws/PerInstr.lean ====
section
/-!
SUPPORT. One lemma per constructor of the syntax, by family.
-/
namespace Sys2Proof.Laws.Coded

/-- An instruction has one opcode of eight bits, which the opcode map assigns in some form, Tables 12.8 to 12.13; an event has none. -/
def Statement (i : Instr) : Prop :=
  match i.code with
  | some (opc, _) => opc < 256 ∧ (formsOf opc).isSome = true
  | none => encode i = []

theorem bootCtlCold (cand : BitVec 2) : Statement (.bootCtlCold cand) := rfl
theorem bootCtlWarm (cand : BitVec 2) : Statement (.bootCtlWarm cand) := rfl
theorem claim (cand : BitVec 2) : Statement (.claim cand) := rfl
theorem handoverRelease (cand : BitVec 2) : Statement (.handoverRelease cand) := rfl
theorem handoverAccept (cand : BitVec 2) : Statement (.handoverAccept cand) := rfl
theorem attestationRequest (cand : BitVec 2) : Statement (.attestationRequest cand) := rfl
theorem attestationDoneWrite (cand : BitVec 2) (k : BitVec 2) : Statement (.attestationDoneWrite cand k) := rfl
theorem mgmtRegisterRead (msg : MgmtMsg) : Statement (.mgmtRegisterRead msg) := rfl
theorem mgmtRegisterWrite (msg : MgmtMsg) : Statement (.mgmtRegisterWrite msg) := rfl
theorem mgmtBlockWrite (msg : MgmtMsg) : Statement (.mgmtBlockWrite msg) := rfl
theorem firmwareStage (msg : MgmtMsg) : Statement (.firmwareStage msg) := rfl
theorem firmwareCommit (msg : MgmtMsg) : Statement (.firmwareCommit msg) := rfl
theorem crread (h : PktHdr) (off : W64) : Statement (.crread h off) := rfl
theorem crwrite (h : PktHdr) (off val : W64) : Statement (.crwrite h off val) := rfl
theorem crreply (h : PktHdr) (status : Byte) (val : W64) : Statement (.crreply h status val) := rfl
theorem controlRegisterWrite (cand : BitVec 2) (sock : BitVec 5) (off val : W64) : Statement (.controlRegisterWrite cand sock off val) := rfl
theorem create (cand : BitVec 2) (ctx : B6) (val : W64) : Statement (.create cand ctx val) := rfl
theorem destroy (cand : BitVec 2) (ctx : B6) (val : W64) : Statement (.destroy cand ctx val) := rfl
theorem ctxUnparkAll (cand : BitVec 2) (ctx : B6) : Statement (.ctxUnparkAll cand ctx) := rfl
theorem ctxPreemptWrite (cand : BitVec 2) (ctx : B6) (val : W64) : Statement (.ctxPreemptWrite cand ctx val) := rfl
theorem ctxResumeWrite (cand : BitVec 2) (ctx : B6) (val : W64) : Statement (.ctxResumeWrite cand ctx val) := rfl
theorem dispCancelWrite (cand : BitVec 2) (ctx : B6) (val : W64) : Statement (.dispCancelWrite cand ctx val) := rfl
theorem ctxDiescrWrite (cand : BitVec 2) (die : BitVec 3) (ctx : B6) (val : W64) : Statement (.ctxDiescrWrite cand die ctx val) := rfl
theorem linkCtlRetrain (cand : BitVec 2) (lk : LinkId) : Statement (.linkCtlRetrain cand lk) := rfl
theorem linkCtlClrcnt (cand : BitVec 2) (lk : LinkId) : Statement (.linkCtlClrcnt cand lk) := rfl
theorem timeCtlApply (cand : BitVec 2) (sock : BitVec 5) : Statement (.timeCtlApply cand sock) := rfl
theorem opcapWrite (cand : BitVec 2) (die : BitVec 3) (val : W64) : Statement (.opcapWrite cand die val) := rfl
theorem pwrPkgcapWrite (cand : BitVec 2) (val : W64) : Statement (.pwrPkgcapWrite cand val) := rfl
theorem powerWindow (avgW : Nat) : Statement (.powerWindow avgW) := rfl
theorem thermalSample (die : BitVec 3) (temp : Byte) : Statement (.thermalSample die temp) := rfl
theorem passengerFatalError (sock : BitVec 5) (cause : W16) (detail : List Byte) : Statement (.passengerFatalError sock cause detail) := rfl
theorem evqHeadWrite (cand : BitVec 2) (val : W64) : Statement (.evqHeadWrite cand val) := rfl
theorem evqLogackWrite (cand : BitVec 2) (sock : BitVec 5) (val : W64) : Statement (.evqLogackWrite cand sock val) := rfl
theorem flitCloseTimeout (lk : LinkId) : Statement (.flitCloseTimeout lk) := rfl
theorem dataFlitReceive (lk : LinkId) (flit : List Byte) : Statement (.dataFlitReceive lk flit) := rfl
theorem controlFlitReceive (lk : LinkId) (flit : List Byte) : Statement (.controlFlitReceive lk flit) := rfl
theorem ackTimeout (lk : LinkId) : Statement (.ackTimeout lk) := rfl
theorem replayTimeout (lk : LinkId) : Statement (.replayTimeout lk) := rfl
theorem nakRepeat (lk : LinkId) : Statement (.nakRepeat lk) := rfl
theorem retrainDone (lk : LinkId) (fail : W64) : Statement (.retrainDone lk fail) := rfl
theorem retrainFailed (lk : LinkId) (fail : W64) : Statement (.retrainFailed lk fail) := rfl
theorem podPacketArrival (port : Nat) (p : Packet) : Statement (.podPacketArrival port p) := rfl
theorem read (h : PktHdr) (b : ReadB) : Statement (.read h b) := rfl
theorem write (h : PktHdr) (b : WriteB) : Statement (.write h b) := rfl
theorem atomic (h : PktHdr) (b : AtomicB) : Statement (.atomic h b) := rfl
theorem coll (h : PktHdr) (b : CollB) : Statement (.coll h b) := rfl
theorem collres (h : PktHdr) (b : CollB) : Statement (.collres h b) := rfl
theorem data (h : PktHdr) (status : Byte) (bytes : List Byte) : Statement (.data h status bytes) := rfl
theorem ack (h : PktHdr) (status : Byte) : Statement (.ack h status) := rfl
theorem old (h : PktHdr) (status : Byte) (val : W128) : Statement (.old h status val) := rfl
theorem deferredFault (acc : Nat) : Statement (.deferredFault acc) := rfl
theorem permreq (h : PktHdr) (va : VAddr) (ts : W64) : Statement (.permreq h va ts) := rfl
theorem permreply (h : PktHdr) (b : PermReplyB) : Statement (.permreply h b) := rfl
theorem ready (h : PktHdr) (page : VAddr) (sz : BitVec 2) : Statement (.ready h page sz) := rfl
theorem unpark (h : PktHdr) : Statement (.unpark h) := rfl
theorem launchTokenWrite (addr : W64) (bytes : List Byte) : Statement (.launchTokenWrite addr bytes) := rfl
theorem token (h : PktHdr) (q : QueueWord) (tok : List Byte) : Statement (.token h q tok) := rfl
theorem tokenForwardTimeout (q : QueueWord) : Statement (.tokenForwardTimeout q) := rfl
theorem notice (h : PktHdr) (g : Handle) (q : QueueWord) (cw : W64) (lo : List Byte) : Statement (.notice h g q cw lo) := rfl
theorem recpart (h : PktHdr) (g : Handle) (hi : List Byte) : Statement (.recpart h g hi) := rfl
theorem podseq (h : PktHdr) (n : W64) : Statement (.podseq h n) := rfl
theorem health (h : PktHdr) (mask : W32) : Statement (.health h mask) := rfl
theorem rangereq (h : PktHdr) (g : Handle) : Statement (.rangereq h g) := rfl
theorem mirrorack (h : PktHdr) (g : Handle) (first : W64) : Statement (.mirrorack h g first) := rfl
theorem range (h : PktHdr) (b : RangeB) : Statement (.range h b) := rfl
theorem retire (h : PktHdr) (b : RangeB) : Statement (.retire h b) := rfl
theorem sweep (h : PktHdr) (g : Handle) (n : W64) : Statement (.sweep h g n) := rfl
theorem sweepreply (h : PktHdr) (b : SweepReplyB) : Statement (.sweepreply h b) := rfl
theorem cancel (h : PktHdr) (g : Handle) : Statement (.cancel h g) := rfl
theorem barrier (h : PktHdr) (b : BarrierB) : Statement (.barrier h b) := rfl
theorem stealRound (die : Nat) (g : Handle) : Statement (.stealRound die g) := rfl
theorem stealRoundWaitExpiry (die : Nat) (g : Handle) : Statement (.stealRoundWaitExpiry die g) := rfl
theorem stealreq (h : PktHdr) (g : Handle) : Statement (.stealreq h g) := rfl
theorem grant (h : PktHdr) (g : Handle) (k : W64) : Statement (.grant h g k) := rfl
theorem stealrec (h : PktHdr) (g : Handle) (pos : W64) (record : List Byte) : Statement (.stealrec h g pos record) := rfl
theorem refuse (h : PktHdr) (g : Handle) : Statement (.refuse h g) := rfl
theorem stealack (h : PktHdr) (g : Handle) (k : W64) : Statement (.stealack h g k) := rfl
theorem enqArrival (h : PktHdr) (b : EnqB) : Statement (.enqArrival h b) := rfl
theorem enqack (h : PktHdr) (r : Route) (g : Handle) : Statement (.enqack h r g) := rfl
theorem credit (h : PktHdr) (r : Route) (g : Handle) : Statement (.credit h r g) := rfl
theorem bounce (h : PktHdr) (b : EnqB) : Statement (.bounce h b) := rfl
theorem execWrite (c : Code) : Statement (.execWrite c) := ⟨by decide, rfl⟩
theorem nestWrite (c : Code) : Statement (.nestWrite c) := ⟨by decide, rfl⟩
theorem crewMergeWrite (c : Code) : Statement (.crewMergeWrite c) := ⟨by decide, rfl⟩
theorem crewScrchkClrlog (cand : BitVec 2) (c : CrewRef) : Statement (.crewScrchkClrlog cand c) := rfl
theorem nop (c : Code) : Statement (.nop c) := ⟨by decide, rfl⟩
theorem iadd (c : Code) : Statement (.iadd c) := ⟨by decide, rfl⟩
theorem isub (c : Code) : Statement (.isub c) := ⟨by decide, rfl⟩
theorem iadds (c : Code) : Statement (.iadds c) := ⟨by decide, rfl⟩
theorem isubs (c : Code) : Statement (.isubs c) := ⟨by decide, rfl⟩
theorem imul (c : Code) : Statement (.imul c) := ⟨by decide, rfl⟩
theorem imulh (c : Code) : Statement (.imulh c) := ⟨by decide, rfl⟩
theorem imad (c : Code) : Statement (.imad c) := ⟨by decide, rfl⟩
theorem imulq (c : Code) : Statement (.imulq c) := ⟨by decide, rfl⟩
theorem iabs (c : Code) : Statement (.iabs c) := ⟨by decide, rfl⟩
theorem imin (c : Code) : Statement (.imin c) := ⟨by decide, rfl⟩
theorem imax (c : Code) : Statement (.imax c) := ⟨by decide, rfl⟩
theorem ineg (c : Code) : Statement (.ineg c) := ⟨by decide, rfl⟩
theorem ishl (c : Code) : Statement (.ishl c) := ⟨by decide, rfl⟩
theorem ishr (c : Code) : Statement (.ishr c) := ⟨by decide, rfl⟩
theorem ishra (c : Code) : Statement (.ishra c) := ⟨by decide, rfl⟩
theorem andb (c : Code) : Statement (.andb c) := ⟨by decide, rfl⟩
theorem orb (c : Code) : Statement (.orb c) := ⟨by decide, rfl⟩
theorem xorb (c : Code) : Statement (.xorb c) := ⟨by decide, rfl⟩
theorem notb (c : Code) : Statement (.notb c) := ⟨by decide, rfl⟩
theorem andn (c : Code) : Statement (.andn c) := ⟨by decide, rfl⟩
theorem bsel (c : Code) : Statement (.bsel c) := ⟨by decide, rfl⟩
theorem popc (c : Code) : Statement (.popc c) := ⟨by decide, rfl⟩
theorem clz (c : Code) : Statement (.clz c) := ⟨by decide, rfl⟩
theorem ctz (c : Code) : Statement (.ctz c) := ⟨by decide, rfl⟩
theorem brev (c : Code) : Statement (.brev c) := ⟨by decide, rfl⟩
theorem bfx (c : Code) : Statement (.bfx c) := ⟨by decide, rfl⟩
theorem bfi (c : Code) : Statement (.bfi c) := ⟨by decide, rfl⟩
theorem isetp (c : Code) : Statement (.isetp c) := ⟨by decide, rfl⟩
theorem mov (c : Code) : Statement (.mov c) := ⟨by decide, rfl⟩
theorem movi (c : Code) : Statement (.movi c) := ⟨by decide, rfl⟩
theorem sel (c : Code) : Statement (.sel c) := ⟨by decide, rfl⟩
theorem cvti (c : Code) : Statement (.cvti c) := ⟨by decide, rfl⟩
theorem lea (c : Code) : Statement (.lea c) := ⟨by decide, rfl⟩
theorem setix (c : Code) : Statement (.setix c) := ⟨by decide, rfl⟩
theorem bra (c : Code) : Statement (.bra c) := ⟨by decide, rfl⟩
theorem brx (c : Code) : Statement (.brx c) := ⟨by decide, rfl⟩
theorem call (c : Code) : Statement (.call c) := ⟨by decide, rfl⟩
theorem ret (c : Code) : Statement (.ret c) := ⟨by decide, rfl⟩
theorem exit (c : Code) : Statement (.exit c) := ⟨by decide, rfl⟩
theorem ifb (c : Code) : Statement (.ifb c) := ⟨by decide, rfl⟩
theorem elseb (c : Code) : Statement (.elseb c) := ⟨by decide, rfl⟩
theorem endif (c : Code) : Statement (.endif c) := ⟨by decide, rfl⟩
theorem if3 (c : Code) : Statement (.if3 c) := ⟨by decide, rfl⟩
theorem elsef (c : Code) : Statement (.elsef c) := ⟨by decide, rfl⟩
theorem elseu (c : Code) : Statement (.elseu c) := ⟨by decide, rfl⟩
theorem endif3 (c : Code) : Statement (.endif3 c) := ⟨by decide, rfl⟩
theorem loopb (c : Code) : Statement (.loopb c) := ⟨by decide, rfl⟩
theorem brk (c : Code) : Statement (.brk c) := ⟨by decide, rfl⟩
theorem cont (c : Code) : Statement (.cont c) := ⟨by decide, rfl⟩
theorem endloop (c : Code) : Statement (.endloop c) := ⟨by decide, rfl⟩
theorem mrg (c : Code) : Statement (.mrg c) := ⟨by decide, rfl⟩
theorem rgn (c : Code) : Statement (.rgn c) := ⟨by decide, rfl⟩
theorem pand (c : Code) : Statement (.pand c) := ⟨by decide, rfl⟩
theorem por (c : Code) : Statement (.por c) := ⟨by decide, rfl⟩
theorem pxor (c : Code) : Statement (.pxor c) := ⟨by decide, rfl⟩
theorem pnot (c : Code) : Statement (.pnot c) := ⟨by decide, rfl⟩
theorem pdec (c : Code) : Statement (.pdec c) := ⟨by decide, rfl⟩
theorem pmov (c : Code) : Statement (.pmov c) := ⟨by decide, rfl⟩
theorem dqpop (c : Code) : Statement (.dqpop c) := ⟨by decide, rfl⟩
theorem dqbr (c : Code) : Statement (.dqbr c) := ⟨by decide, rfl⟩
theorem shfl (c : Code) : Statement (.shfl c) := ⟨by decide, rfl⟩
theorem vote (c : Code) : Statement (.vote c) := ⟨by decide, rfl⟩
theorem redi (c : Code) : Statement (.redi c) := ⟨by decide, rfl⟩
theorem scani (c : Code) : Statement (.scani c) := ⟨by decide, rfl⟩
theorem rdlane (c : Code) : Statement (.rdlane c) := ⟨by decide, rfl⟩
theorem wrlane (c : Code) : Statement (.wrlane c) := ⟨by decide, rfl⟩
theorem sop (c : Code) : Statement (.sop c) := ⟨by decide, rfl⟩
theorem smovi (c : Code) : Statement (.smovi c) := ⟨by decide, rfl⟩
theorem sbr (c : Code) : Statement (.sbr c) := ⟨by decide, rfl⟩
theorem floop (c : Code) : Statement (.floop c) := ⟨by decide, rfl⟩
theorem dqpush (c : Code) : Statement (.dqpush c) := ⟨by decide, rfl⟩
theorem fend (c : Code) : Statement (.fend c) := ⟨by decide, rfl⟩
theorem fadd (c : Code) : Statement (.fadd c) := ⟨by decide, rfl⟩
theorem fsub (c : Code) : Statement (.fsub c) := ⟨by decide, rfl⟩
theorem fmul (c : Code) : Statement (.fmul c) := ⟨by decide, rfl⟩
theorem ffma (c : Code) : Statement (.ffma c) := ⟨by decide, rfl⟩
theorem fsqr (c : Code) : Statement (.fsqr c) := ⟨by decide, rfl⟩
theorem fhull (c : Code) : Statement (.fhull c) := ⟨by decide, rfl⟩
theorem fisect (c : Code) : Statement (.fisect c) := ⟨by decide, rfl⟩
theorem flb (c : Code) : Statement (.flb c) := ⟨by decide, rfl⟩
theorem fub (c : Code) : Statement (.fub c) := ⟨by decide, rfl⟩
theorem fmid (c : Code) : Statement (.fmid c) := ⟨by decide, rfl⟩
theorem frad (c : Code) : Statement (.frad c) := ⟨by decide, rfl⟩
theorem fwid (c : Code) : Statement (.fwid c) := ⟨by decide, rfl⟩
theorem fmag (c : Code) : Statement (.fmag c) := ⟨by decide, rfl⟩
theorem fmig (c : Code) : Statement (.fmig c) := ⟨by decide, rfl⟩
theorem fmk (c : Code) : Statement (.fmk c) := ⟨by decide, rfl⟩
theorem fbis (c : Code) : Statement (.fbis c) := ⟨by decide, rfl⟩
theorem fcmp (c : Code) : Statement (.fcmp c) := ⟨by decide, rfl⟩
theorem fneg (c : Code) : Statement (.fneg c) := ⟨by decide, rfl⟩
theorem fabs (c : Code) : Statement (.fabs c) := ⟨by decide, rfl⟩
theorem fmin (c : Code) : Statement (.fmin c) := ⟨by decide, rfl⟩
theorem fmax (c : Code) : Statement (.fmax c) := ⟨by decide, rfl⟩
theorem fdiv (c : Code) : Statement (.fdiv c) := ⟨by decide, rfl⟩
theorem fdivp (c : Code) : Statement (.fdivp c) := ⟨by decide, rfl⟩
theorem fsqrt (c : Code) : Statement (.fsqrt c) := ⟨by decide, rfl⟩
theorem frcp (c : Code) : Statement (.frcp c) := ⟨by decide, rfl⟩
theorem frsqrt (c : Code) : Statement (.frsqrt c) := ⟨by decide, rfl⟩
theorem fexp2 (c : Code) : Statement (.fexp2 c) := ⟨by decide, rfl⟩
theorem flog2 (c : Code) : Statement (.flog2 c) := ⟨by decide, rfl⟩
theorem fsinpi (c : Code) : Statement (.fsinpi c) := ⟨by decide, rfl⟩
theorem fcospi (c : Code) : Statement (.fcospi c) := ⟨by decide, rfl⟩
theorem ftanh (c : Code) : Statement (.ftanh c) := ⟨by decide, rfl⟩
theorem fpown (c : Code) : Statement (.fpown c) := ⟨by decide, rfl⟩
theorem fcvt (c : Code) : Statement (.fcvt c) := ⟨by decide, rfl⟩
theorem fcoll (c : Code) : Statement (.fcoll c) := ⟨by decide, rfl⟩
theorem fq8 (c : Code) : Statement (.fq8 c) := ⟨by decide, rfl⟩
theorem ld (c : Code) : Statement (.ld c) := ⟨by decide, rfl⟩
theorem st (c : Code) : Statement (.st c) := ⟨by decide, rfl⟩
theorem atom (c : Code) : Statement (.atom c) := ⟨by decide, rfl⟩
theorem cas (c : Code) : Statement (.cas c) := ⟨by decide, rfl⟩
theorem atomFadd (c : Code) : Statement (.atomFadd c) := ⟨by decide, rfl⟩
theorem atomFmaxa (c : Code) : Statement (.atomFmaxa c) := ⟨by decide, rfl⟩
theorem amaxswap (c : Code) : Statement (.amaxswap c) := ⟨by decide, rfl⟩
theorem fence (c : Code) : Statement (.fence c) := ⟨by decide, rfl⟩
theorem fenceDrain (c : Code) : Statement (.fenceDrain c) := ⟨by decide, rfl⟩
theorem bar (c : Code) : Statement (.bar c) := ⟨by decide, rfl⟩
theorem arrive (c : Code) : Statement (.arrive c) := ⟨by decide, rfl⟩
theorem await (c : Code) : Statement (.await c) := ⟨by decide, rfl⟩
theorem rmcast (c : Code) : Statement (.rmcast c) := ⟨by decide, rfl⟩
theorem rred (c : Code) : Statement (.rred c) := ⟨by decide, rfl⟩
theorem cpy (c : Code) : Statement (.cpy c) := ⟨by decide, rfl⟩
theorem cpyg (c : Code) : Statement (.cpyg c) := ⟨by decide, rfl⟩
theorem cpys (c : Code) : Statement (.cpys c) := ⟨by decide, rfl⟩
theorem cpyAdd (c : Code) : Statement (.cpyAdd c) := ⟨by decide, rfl⟩
theorem qfence (c : Code) : Statement (.qfence c) := ⟨by decide, rfl⟩
theorem emit (c : Code) : Statement (.emit c) := ⟨by decide, rfl⟩
theorem split (c : Code) : Statement (.split c) := ⟨by decide, rfl⟩
theorem tend (c : Code) : Statement (.tend c) := ⟨by decide, rfl⟩
theorem enq (c : Code) : Statement (.enq c) := ⟨by decide, rfl⟩
theorem enqA (c : Code) : Statement (.enqA c) := ⟨by decide, rfl⟩
theorem launch (c : Code) : Statement (.launch c) := ⟨by decide, rfl⟩
theorem gcancel (c : Code) : Statement (.gcancel c) := ⟨by decide, rfl⟩
theorem gstatus (c : Code) : Statement (.gstatus c) := ⟨by decide, rfl⟩
theorem jpass (c : Code) : Statement (.jpass c) := ⟨by decide, rfl⟩
theorem jbit (c : Code) : Statement (.jbit c) := ⟨by decide, rfl⟩
theorem jstream (c : Code) : Statement (.jstream c) := ⟨by decide, rfl⟩
theorem jbatch (c : Code) : Statement (.jbatch c) := ⟨by decide, rfl⟩
theorem jwait (c : Code) : Statement (.jwait c) := ⟨by decide, rfl⟩
theorem jdrain (c : Code) : Statement (.jdrain c) := ⟨by decide, rfl⟩
theorem jcfg (c : Code) : Statement (.jcfg c) := ⟨by decide, rfl⟩
theorem jclr (c : Code) : Statement (.jclr c) := ⟨by decide, rfl⟩
theorem jqry (c : Code) : Statement (.jqry c) := ⟨by decide, rfl⟩
theorem jsave (c : Code) : Statement (.jsave c) := ⟨by decide, rfl⟩
theorem jload (c : Code) : Statement (.jload c) := ⟨by decide, rfl⟩
theorem csrr (c : Code) : Statement (.csrr c) := ⟨by decide, rfl⟩
theorem csrw (c : Code) : Statement (.csrw c) := ⟨by decide, rfl⟩
theorem bkpt (c : Code) : Statement (.bkpt c) := ⟨by decide, rfl⟩
theorem strap (c : Code) : Statement (.strap c) := ⟨by decide, rfl⟩
theorem tretResume (c : Code) : Statement (.tretResume c) := ⟨by decide, rfl⟩
theorem tretSkip (c : Code) : Statement (.tretSkip c) := ⟨by decide, rfl⟩
theorem tretWriteSkip (c : Code) : Statement (.tretWriteSkip c) := ⟨by decide, rfl⟩
theorem tretRetryRegion (c : Code) : Statement (.tretRetryRegion c) := ⟨by decide, rfl⟩
theorem tretKillLanes (c : Code) : Statement (.tretKillLanes c) := ⟨by decide, rfl⟩
theorem tretKillBand (c : Code) : Statement (.tretKillBand c) := ⟨by decide, rfl⟩
theorem event (h : PktHdr) (record : List Byte) : Statement (.event h record) := rfl
theorem startStepComplete (ok : BitVec 26) : Statement (.startStepComplete ok) := rfl
theorem powerOn : Statement (.powerOn) := rfl
theorem startStepTimeout : Statement (.startStepTimeout) := rfl
theorem claimWindowClose : Statement (.claimWindowClose) := rfl
theorem handoverTimeout : Statement (.handoverTimeout) := rfl
theorem attestationReportDone : Statement (.attestationReportDone) := rfl
theorem tokenTake : Statement (.tokenTake) := rfl
theorem flashWriteDone : Statement (.flashWriteDone) := rfl
theorem palLeaseExpiry : Statement (.palLeaseExpiry) := rfl
theorem crewRetire : Statement (.crewRetire) := rfl
theorem bandFormation : Statement (.bandFormation) := rfl
theorem flushAgeExpiry : Statement (.flushAgeExpiry) := rfl
theorem take : Statement (.take) := rfl
theorem activeSetReplacement : Statement (.activeSetReplacement) := rfl
theorem mrgWaitExpiry : Statement (.mrgWaitExpiry) := rfl
theorem multicastWindowClose : Statement (.multicastWindowClose) := rfl
theorem trapEntry : Statement (.trapEntry) := rfl
theorem spmaxOverrun : Statement (.spmaxOverrun) := rfl
theorem crewSave : Statement (.crewSave) := rfl
theorem quarterOperation : Statement (.quarterOperation) := rfl
theorem bitmapStep : Statement (.bitmapStep) := rfl
theorem streamJoin : Statement (.streamJoin) := rfl
theorem drainOperation : Statement (.drainOperation) := rfl
theorem drainComplete : Statement (.drainComplete) := rfl
theorem placementRound : Statement (.placementRound) := rfl
theorem spillPageReturn : Statement (.spillPageReturn) := rfl
theorem opPointChangeDone : Statement (.opPointChangeDone) := rfl
theorem map : Statement (.map) := rfl
theorem unmap : Statement (.unmap) := rfl
theorem unmapWaitExpiry : Statement (.unmapWaitExpiry) := rfl
theorem setp : Statement (.setp) := rfl
theorem copyCommandStart : Statement (.copyCommandStart) := rfl
theorem copyCommandComplete : Statement (.copyCommandComplete) := rfl
theorem batchComplete : Statement (.batchComplete) := rfl
theorem cpyCtlReset : Statement (.cpyCtlReset) := rfl
theorem cpyCtlClrerr : Statement (.cpyCtlClrerr) := rfl

end Sys2Proof.Laws.Coded
end

