-- ==== Sys2Proof/Tests/Slice0.lean ====
section
/-!
SUPPORT. Small tests: what the decoder reads from words written out from the tables of chapter 12, what the well-formedness checks
refuse, and, for each statement with hypotheses, states and operands that meet them together (`witness_…`).
-/
open Sys2Proof Sys2Proof.Machine

set_option Elab.async false

namespace Sys2Proof.Tests

/-! ## Small machines and instructions -/

/-- The placed machine of log 2: one band of 32 lanes and a front context on core 0 of die 0, and the page of context 1. -/
def base : State := { State.reset.placeCode [] with cur := ⟨0, 0, 0, some 0⟩ }
def baseFront : State := { base with cur := ⟨0, 0, 0, none⟩ }

def okOpnd (k : Nat) : Role → Opnd
  | .any | .slot | .slotZero | .slotUniZero => .slot (BitVec.ofNat 7 k)
  | .uni | .uniZero | .uniSrc | .uniImm | .uniSrcSlot | .late => .uni (BitVec.ofNat 5 k)
  | .imm => .imm 32
  | .pred => .slot (BitVec.ofNat 7 (k / 4 % 8))
  | _ => .slot 0

/-- An instruction with operands that suit its roles: destination 4, sources 8, 12 and 16. -/
def std (opc : Nat) (mods : BitVec 8 := 0) (type : BitVec 4 := defaultType opc) (payload : W64 := 0) : Code :=
  let ro := rolesOf opc ⟨mods, 0, 0, 0, type, 0⟩ 0
  let form := match formsOf opc with | some (.a :: .b :: _) => .b | some (x :: _) => x | _ => .a
  { dist := 0, wait := 0, setf := 15, gpred := 0, gmode := 0, nw := false, dst := okOpnd 4 ro.dst, srca := okOpnd 8 ro.a,
    srcb := okOpnd 12 ro.b, srcc := okOpnd 16 ro.c, form := form, mods := mods, xlane := 0, hold := 0, rmode := 0, type := type,
    payload := payload, annex := none }

/-- The code has an encoding, issues in the state's current thread, and what it sees is as p says. -/
def iss (opc : Nat) (c : Code) (s : State) (p : Env → Bool := fun _ => true) : Bool :=
  (match mkInstr opc c with | some i => i.encodable s.cur.band.isNone | none => false) &&
  match mkEnv opc c s with | some e => e.decodeTrap.isNone && p e | none => false

/-- What `iss` answers is what the statements ask for. -/
theorem iss_issues (opc : Nat) (c : Code) (s : State) (p : Env → Bool) (h : iss opc c s p = true) :
    ∃ e, Issues opc c s e ∧ p e = true := by
  unfold iss at h
  cases hm : mkEnv opc c s with
  | none => simp [hm] at h
  | some e => exact ⟨e, ⟨hm, by simp_all⟩, by simp_all⟩

/-- As `iss`, with the crew. -/
def issC (opc : Nat) (c : Code) (s : State) (p : Env → Crew → Bool) : Bool :=
  iss opc c s fun e => match s.crewOf e.t.crew with | some cw => p e cw | none => false

def allIss (s : State) (cs : List (Nat × Code)) : Bool := cs.all fun x => iss x.1 x.2 s
def stds (os : List Nat) : List (Nat × Code) := os.map fun o => (o, std o)

def onThread (f : Band → Band) (s : State) : State := s.updThread s.cur f
def onCrew (f : Crew → Crew) (s : State) : State := s.updCrew s.cur.crew f
def uniSet (l : List (Nat × W64)) (s : State) : State := onThread (fun b => { b with r := { b.r with uni := l } }) s
def slotSet (f : Nat → List (Nat × Nat)) (s : State) : State := onThread (fun b => { b with r := { b.r with
  slots := (List.range 32).flatMap fun l => (f l).map fun x => (slotKey l x.1, BitVec.ofNat 32 x.2) } }) s

/-! ## Witnesses: instructions -/

theorem witness_IntegerArithmetic :
    allIss base (stds [1, 2, 3, 4, 5, 6, 7, 9, 10, 11, 12, 0x21] ++ [(8, { std 8 with rmode := 1 })]) = true := by decide +kernel

theorem witness_IntegerBits :
    allIss base (stds [13, 14, 15, 16, 17, 18, 19, 20, 21, 22, 23, 24, 25, 26, 27, 32] ++ [(32, std 32 8)]) = true := by decide +kernel

theorem witness_MovesAndCompares :
    allIss base (stds [0, 0x1C, 0x1D, 0x1E, 0x1F] ++ [(0x1D, std 0x1D 0 0xD), (0x22, { std 0x22 with dst := .slot 1 }),
      (0x57, std 0x57 0), (0x57, std 0x57 1), (0x57, std 0x57 2)]) = true := by decide +kernel

theorem witness_IntervalArithmetic : allIss base (stds [0x80, 0x81, 0x82, 0x83, 0x84]) = true := by decide +kernel

theorem witness_IntervalSets :
    allIss base (stds [0x85, 0x86, 0x87, 0x88, 0x89, 0x8A, 0x8B, 0x8C, 0x8D, 0x8E, 0x8F, 0x90, 0x91, 0x92, 0x93, 0x94] ++
      [(0x8F, std 0x8F 3), (0x90, std 0x90 7)]) = true := by decide +kernel

theorem witness_TranscendentalFunctions :
    allIss base (stds [0xA0, 0xA1, 0xA2, 0xA3, 0xA4, 0xA5, 0xA6, 0xA7, 0xA8, 0xA9, 0xAA]) = true := by decide +kernel

theorem witness_Conversions :
    allIss base [(0xAB, std 0xAB), (0xAC, std 0xAC), (0xAD, std 0xAD 0x12), (0xAD, std 0xAD 0x52)] = true := by decide +kernel

theorem witness_Branches :
    (allIss base (stds [0x40, 0x41, 0x42, 0x43]) && allIss baseFront (stds [0x40, 0x41, 0x42, 0x43, 0x72]) &&
      iss 0x42 (std 0x42) base (fun e => e.lanes == e.b.exec) &&
      iss 0x42 { std 0x42 with gmode := 1 } base (fun e => !e.front && e.lanes != e.b.exec)) = true := by decide +kernel

/-- One lane's counter is n. -/
def nested (n : Byte) : State := onThread (fun b => { b with r := { b.r with nest := [(3, n)] } }) base

theorem witness_Divergence :
    ([0x46, 0x47, 0x49, 0x4A, 0x4B].all (fun o => iss o (std o) (nested 255) fun e => e.b.only == none) &&
      iss 0x45 (std 0x45) (nested 254) (fun e => e.b.only == none && e.b.alive.all fun l =>
        decide ((if 0 < e.b.count l then e.b.count l + 1 else 1) ≤ 255)) &&
      iss 0x48 (std 0x48) (nested 252) (fun e => e.b.only == none && e.b.alive.all fun l =>
        decide ((if 0 < e.b.count l then e.b.count l + 3 else 2) ≤ 255)) &&
      iss 0x4C (std 0x4C) (nested 253) (fun e => e.b.only == none && e.b.alive.all fun l =>
        decide ((if 0 < e.b.count l then e.b.count l + 2 else 0) ≤ 255))) = true := by decide +kernel

theorem witness_Loops :
    (iss 0x4D { std 0x4D with srca := .slotIx0 125 } base (fun e => e.b.only == none && e.c.srca.bits.toNat % 256 == 253 &&
        e.b.alive.all fun l => decide ((if e.lanes.getLsbD l then 2 + 253 else e.b.count l) ≤ 255)) &&
      iss 0x4E { std 0x4E with srca := .slotIx0 126 } base (fun e => e.b.only == none && e.c.srca.bits.toNat % 256 == 254 &&
        e.b.alive.all fun l => decide ((if e.lanes.getLsbD l then 1 + 254 else e.b.count l) ≤ 255)) &&
      iss 0x4F (std 0x4F) (nested 255)) = true := by decide +kernel

theorem witness_PredicateLogic : allIss base (stds [0x52, 0x53, 0x54, 0x55, 0x56]) = true := by decide +kernel

theorem witness_CrossLane :
    (allIss base (stds [0x60, 0x64, 0x65] ++ [(0x60, std 0x60 1)]) &&
      (List.range 16).all (fun m => m % 4 == 3 || iss 0x61 { std 0x61 (BitVec.ofNat 8 m) with dst := .uni 3 } base) &&
      (List.range 6).all (fun m => iss 0x62 (std 0x62 (BitVec.ofNat 8 m)) base && iss 0x63 (std 0x63 (BitVec.ofNat 8 m)) base &&
        iss 0x63 (std 0x63 (BitVec.ofNat 8 (m + 8))) base)) = true := by decide +kernel

theorem witness_UniformOperations :
    (List.range 18).all (fun m => iss 0x70 (std 0x70 (BitVec.ofNat 8 m)) base && iss 0x70 (std 0x70 (BitVec.ofNat 8 m)) baseFront) =
      true := by decide +kernel

theorem witness_UniformImmediate :
    (iss 0x71 (std 0x71 0 3 0x123456789) base (fun e => uniOf e.front e.c.dst == some 4) && iss 0x71 (std 0x71) baseFront) = true := by
  decide +kernel

/-- The front context with open loops. -/
def loopsOpen (ls : List HwLoop) : State := onCrew (fun w => { w with front := w.front.map fun f => { f with loops := ls } }) baseFront

theorem witness_FrontContext :
    (issC 0x73 (std 0x73 0 3 0x40) (uniSet [(8, 3)] (loopsOpen [{ left := 1, count := 2, first := 0x10, last := 0x40, again := false }])) (fun e cw =>
        match cw.front with | some f => e.srcA 0 32 != 0 && f.loops.length == 1 | none => false) &&
      [true, false].all (fun again => issC 0x73 (std 0x73 0 3 0x40) (uniSet [(8, 3)] (loopsOpen
          [{ left := 5, count := 5, first := 0x1000C, last := 0x10100, again := again }, { left := 1, count := 2, first := 0xFFF0, last := 0x10100, again := false }]))
        (fun e cw => match cw.front with
          | some f => (match f.loops with
            | [i, o] => i.again == again && i.first == e.next && i.last == e.target && i.last != e.b.x.pc && o.last != e.b.x.pc
            | _ => false)
          | none => false)) &&
      issC 0x73 (std 0x73 0 3 0x0C) baseFront (fun e cw => e.srcA 0 32 == 0 &&
        match baseFront.fetchBytes e.t.die e.t.core (handleCtx cw.cfg.handle) e.target.toNat 1 with | .bytes [_] => true | _ => false) &&
      issC 0x75 (std 0x75) baseFront (fun e cw => cw.front.isSome && !e.b.writersOut)) = true := by decide +kernel

def queued (n : Nat) (s : State) : State := onCrew (fun w => { w with dq := (List.range n).map (BitVec.ofNat 64) }) s

theorem witness_DecisionPush :
    (issC 0x74 (std 0x74) (queued 63 baseFront) (fun _ cw => decide (cw.dqFree.dq.length < 64)) &&
      issC 0x74 (std 0x74) (queued 64 baseFront) (fun _ cw => decide (64 ≤ cw.dqFree.dq.length))) = true := by decide +kernel

theorem witness_DecisionPop :
    ([0x58, 0x59].all fun o => issC o (std o) (onThread (fun b => { b with dqPos := 1 }) (queued 2 base)) fun e cw =>
      !e.front && decide (cw.dqBase ≤ e.b.dqPos) && cw.dq[e.b.dqPos - cw.dqBase]? == some 1) = true := by decide +kernel

def annexed (c : Code) : Code := { c with annex := some 3 }
/-- A candidate for merging: few lanes are left. -/
def few : State := onThread (fun b => { b with r := { b.r with exited := 0xFFFFFF00 } }) base
def mergeable (s : State) (e : Env) (cw : Crew) : Bool :=
  e.b.committed && e.b.flags.all (fun f => f.2 == 0) && ((s.coreOf e.t.die e.t.core).jq ++ cw.ctl.jsaved).all fun o => o.thread != e.t

theorem witness_RegionsAndMerging :
    (iss 0x51 (annexed (std 0x51)) base (fun e => e.b.committed && e.b.pends.isEmpty) &&
      issC 0x50 (annexed (std 0x50)) base (fun e cw => mergeable base e cw && !cw.candidate e.b) &&
      issC 0x50 (annexed (std 0x50)) few (fun e cw => mergeable few e cw && cw.candidate e.b &&
        (cw.mergePartner (e.t.band.getD 0) e.b).isNone)) = true := by decide +kernel

theorem witness_Exits :
    ([0x44, 0xE2].all fun o => [base, onThread (fun b => { b with tasks := 0xF0F }) base].all fun s =>
      iss o (std o) s (fun e => e.lanes != 0 && e.b.requeue == 0 && e.b.committed)) = true := by decide +kernel

/-! ## Witnesses: memory -/

/-- Where the instruction ends, and the thread back at its first instruction with nothing on the way. -/
def after (i : Instr) (s : State) : State :=
  match exec i s with
  | .next t => onThread (fun b => { b with pends := [], flags := [], x := { b.x with pc := 0x10000 } }) { t with cur := s.cur }
  | _ => s

/-- Four lanes are left; lane l addresses byte 16 l + 32 (in a lane's own space, byte 32), or in `glob` byte 0x10120 + 16 l, and its data is there. -/
def addressed (sp : Nat) (s : State) : State :=
  let step := if sp = 4 then 0 else 16
  let s1 := (s.updCtxDie 0 1 fun x => { x with scrSize := 1 }).updGridDie 0 0x101 fun g => { g with scrSize := 1 }
  onThread (fun b => { b with r := { b.r with exited := 0xFFFFFFF0 } })
    (slotSet (fun l => [(8, step * l + if sp = 0 then 0x10100 else 0), (12, 32), (16, l), (4, l)]) s1)
/-- As addressed, with those bytes initialised. -/
def filled (sp : Nat) : State := after (.st (std 0xB1 (BitVec.ofNat 8 sp) 0xE)) (addressed sp base)
def spaces : List Nat := [1, 2, 3, 4]
def noneOpen (s : State) (e : Env) (cw : Crew) (offs : List Nat) : Bool := (s.mcHeld e.t.crew cw (ThreadRef.reader e.t) offs).isNone
def rwa (a : W16) : Bool := attrR a && attrW a && attrA a

def scratchOk (opc : Nat) (c : Code) (s : State) (len align : Nat) (kind : AccKind) (need : W16 → Bool) (init : Bool) : Bool :=
  issC opc c s fun e0 cw =>
    let rel := decide (2 ≤ Code.ord c) && opc != 0xB0
    let e := e0.ownRegion (rel || e0.front)
    let sp := Code.space c
    let ts := e0.touches len
    sp != .glob && !e0.b.memHeld && e0.b.committed && e0.ls != [] && e.check s cw sp align kind need ts == .ok &&
      (!init || e.uninits s cw sp ts == []) && (sp != .clus || noneOpen s e cw (ts.map fun t => t.addr.toNat))

theorem witness_ScratchLoads :
    (spaces.all fun sp => scratchOk 0xB0 (std 0xB0 (BitVec.ofNat 8 sp) 3) (filled sp) 8 1 .load attrR true) = true := by decide +kernel

theorem witness_ScratchStores :
    (spaces.all fun sp => scratchOk 0xB1 (std 0xB1 (BitVec.ofNat 8 sp) 3) (addressed sp base) 8 1 .store attrW false &&
      scratchOk 0xB1 (std 0xB1 (BitVec.ofNat 8 (sp + 0x90)) 3) (addressed sp base) 8 1 .store attrW false) = true := by decide +kernel

/-- A word of core 0 with no initialised byte, and another byte of that word. -/
def spot0 : Spot := ⟨coreKey 0 0 32, some (0, 8)⟩
def spot1 : Spot := ⟨coreKey 0 0 35, some (0, 8)⟩

theorem witness_ScratchBytes :
    ((Memory.wf base.mem && spot0.key / 4 == coreKey 0 0 (4 * 8) / 4 && coreKey 0 0 (4 * 8) % 4 == 0) &&
      (spot1.key != spot0.key && spot1.word == spot0.word && spot1.key / 4 == spot0.key / 4) &&
      (filled 1).validAt 0 spot0.word && !base.validAt 0 spot0.word) = true := by decide +kernel

theorem witness_ScratchAtomics :
    (spaces.all fun sp =>
      scratchOk 0xB2 (std 0xB2 (BitVec.ofNat 8 sp) 2) (filled sp) 4 4 .atomic rwa true &&
      scratchOk 0xB3 (std 0xB3 (BitVec.ofNat 8 (sp + 0x40)) 3) (filled sp) 8 8 .atomic rwa true &&
      scratchOk 0xB4 (std 0xB4 (BitVec.ofNat 8 (sp + 0x58)) 0xD) (filled sp) 8 8 .atomic rwa true &&
      scratchOk 0xB5 (std 0xB5 (BitVec.ofNat 8 (sp + 0x90)) 0xD) (filled sp) 4 4 .atomic rwa true &&
      scratchOk 0xB6 (std 0xB6 (BitVec.ofNat 8 (sp + 0xD8)) 6) (filled sp) 4 4 .atomic rwa true) = true := by decide +kernel

/-- `GlobAccesses`: the line of each instruction, with its length and alignment, plain and ordered. -/
theorem witness_GlobAccesses :
    ([(0xB0, std 0xB0 0 3, 8, 1, .load, attrR), (0xB0, std 0xB0 0x58 3, 8, 1, .load, attrR), (0xB1, std 0xB1 0 3, 8, 1, .store, attrW),
      (0xB1, std 0xB1 0x90 3, 8, 1, .store, attrW), (0xB2, std 0xB2 0 2, 4, 4, .atomic, rwa), (0xB3, std 0xB3 0xC0 3, 8, 8, .atomic, rwa),
      (0xB4, std 0xB4 0 0xE, 16, 16, .atomic, rwa), (0xB5, std 0xB5 0 0xD, 4, 4, .atomic, rwa), (0xB6, std 0xB6 0 6, 4, 4, .atomic, rwa)].all
      fun (x : Nat × Code × Nat × Nat × AccKind × (W16 → Bool)) =>
        let (opc, c, len, align, kind, need) := x
        let s := addressed 0 base
        issC opc c s fun e0 cw =>
          let ts := e0.touches len
          let e := e0.ownRegion ((decide (2 ≤ Code.ord c) && !e0.allFree s cw ts) || e0.front)
          Code.space c == .glob && !e0.b.memHeld && e0.ls != [] && e0.b.committed && e.check s cw .glob align kind need ts == .ok &&
            decide ((s.coreOf e.t.die e.t.core).lfsb +
              ((e0.ls.flatMap fun l => (List.range len).map fun i => ((e0.addr l).toNat + i) / 64).eraseDups).length ≤ 1024)) = true := by
  decide +kernel

theorem witness_UninitialisedReads :
    ([Space.core, .clus].all fun sp => [true, false].all fun log =>
      let s := onCrew (fun w => { w with ctl := { w.ctl with scrchkLog := log } }) base
      issC 0xB0 (std 0xB0 1) s fun e cw => cw.ctl.scrchkLog == log && e.uninits s cw sp [⟨3, 64, 8⟩, ⟨5, 32, 4⟩] != []) = true := by
  decide +kernel

theorem witness_Fences :
    ([3, 8, 9, 16, 19].all (fun a => iss 0xB7 { std 0xB7 with srca := .slot (BitVec.ofNat 7 a) } base fun e => e.b.committed) &&
      iss 0xB7 { std 0xB7 with srca := .slot 24 } base (fun e => e.b.committed)) = true := by decide +kernel

/-- Counters at bytes 8 l of a space: their four words initialised. -/
def counters (sp : Nat) : State :=
  after (.st (std 0xB1 (BitVec.ofNat 8 sp) 0xD)) (slotSet (fun l => [(8, 8 * l)]) base)

theorem witness_Meetings :
    ([0, 1, 2, 3].all (fun k => issC 0xB8 { std 0xB8 with srca := .slot (BitVec.ofNat 7 k), srcb := if k = 2 then .uni 7 else .slot 0 } base
        fun e cw => e.b.committed && (k != 2 || cw.cfg.rosters.contains (e.srcB 0 32))) &&
      [0, 1].all fun m => [0xB9, 0xBA].all fun o => issC o (std o (BitVec.ofNat 8 m)) (counters (m + 1)) fun e0 cw =>
        let e := e0.ownRegion e0.front
        let sp := if e0.c.mods.getLsbD 0 then Space.clus else Space.core
        let ts := e0.ls.map fun l => (⟨l, (e.srcA l 32 : Nat), 8⟩ : Touch)
        !e0.b.memHeld && e0.ls != [] && e0.b.committed && e.check (counters (m + 1)) cw sp 8 (if o = 0xB9 then .atomic else .load) attrR ts == .ok &&
          e.uninits (counters (m + 1)) cw sp ts == []) = true := by decide +kernel

/-- Roster 0, root 0, 16 bytes to byte 0x200. -/
theorem witness_RosterCollectives :
    ([false, true].all fun rred =>
      let opc := if rred then 0xBC else 0xBB
      let c := { std opc 0 0 (if rred then (0x1 <<< 44) + (0x20 <<< 29) + (2 <<< 24) else (0x1 <<< 28) + (0x20 <<< 13)) with srca := .slot 12 }
      let s := filled 1
      issC opc c s fun e cw =>
        match s.gridOf cw.cfg.handle with
        | none => false
        | some g =>
          let k := CollCmd.of rred c.payload.toNat
          let src := e.srcA 0 32
          e.lanes != 0 && !e.b.memHeld && cw.cfg.rosters.contains k.roster && decide (k.root < (g.rosters.getD k.roster []).length) &&
            decide (k.doff + k.len ≤ cw.cfg.scrKB * 1024) && decide (src + k.len ≤ cw.cfg.scrKB * 1024) && src % 16 == 0 && k.len == 16 &&
            e.uninits s cw .core [⟨lowestLane e.lanes, (src : Nat), k.len⟩] == []) = true := by decide +kernel

/-! ## Witnesses: copies, tasks, grids and the Infuser -/

theorem witness_CopyCommands :
    (([(0xD0, 0), (0xD1, 64), (0xD2, (1 <<< 61) + 64), (0xD3, 1 <<< 61)] : List (Nat × W64)).all (fun (x : Nat × W64) =>
        iss x.1 (std x.1 0 0 (x.2 + (3 <<< 62))) base fun e => e.lanes != 0 && e.b.committed &&
          decide (((base.coreOf 0 0).copy.getD 3 []).length < 16)) &&
      [0, 1, 4].all fun x => iss 0xD4 { std 0xD4 with srca := .slot 3, srcb := .slot x } base fun _ =>
        decide ((base.coreOf 0 0).jq.length < 32) && decide (((base.coreOf 0 0).copy.getD (x.toNat - 1) []).length < 16)) = true := by
  decide +kernel

/-- Two lanes are left; each holds a record, an interval that can be halved, and a destination: this die, queue 0. -/
def tasked : State := onThread (fun b => { b with r := { b.r with
  exited := 0xFFFFFFFC,
  slots := [0, 1].flatMap fun l => [(slotKey l 8, 0x10000#32), (slotKey l 20, 0x3F800000), (slotKey l 21, 0x40000000)] } }) base

theorem witness_TaskCreation :
    (issC 0xE0 (std 0xE0) tasked (fun e cw => e.lanes == 3 && e.b.committed && cw.cfg.poolN != 0 &&
        e.ls.all (fun l => recValid (e.record l)) && e.ls == [0, 1] &&
        [[0, 1], [1, 0]].all fun order => (e.create cw (order.map e.record) tasked).isSome) &&
      issC 0xE1 { std 0xE1 2 0xD with srca := .slot 20, srcb := .slot 24 } tasked (fun e cw =>
        let half := fun l => e.fmt.halves (e.ivA l)
        let kid := fun l => match half l with | some h => e.child tasked cw l h.2 | none => []
        e.b.committed && cw.cfg.poolN != 0 && (e.ls.filter fun l => (half l).isSome) == [0, 1] &&
        [[0, 1], [1, 0]].all fun order => (e.create cw (order.map kid) tasked).isSome) &&
      issC 0xE0 (std 0xE0) tasked (fun e cw => !(tasked.gridDie e.t.die cw.cfg.handle).cancelled && cw.hasBin (e.record 0) &&
        decide (cw.window.length < cw.cfg.poolN))) = true := by decide +kernel

theorem witness_Enqueues :
    ([0xE3, 0xE4].all fun o => issC o { std o with srcb := .slot 30 } tasked fun e cw =>
      match tasked.gridOf cw.cfg.handle with
      | none => false
      | some g =>
        let dst := fun l => EnqDst.of (e.srcB l 32)
        e.lanes != 0 && e.b.committed && e.b.x.phase == .fresh && e.ls.all fun l =>
          !(dst l).rsvd && recValid (e.record l) && !tasked.enqRefused g (dst l) && !recNoSteal (e.record l) &&
            decide (tasked.enqUsed e.t.die (handleCtx cw.cfg.handle).toNat (dst l).pkg (dst l).die + 2 ≤
              (tasked.gridDie e.t.die cw.cfg.handle).enqRes)) = true := by decide +kernel

/-- The token of 64 zero bytes at 0x10040, for queue q; with a place in the queue, and without one. -/
def tokenOk (s : State) (q : Nat) (joins : Bool) : Bool :=
  issC 0xE5 (std 0xE5) s fun e0 cw =>
    let e := e0.ownRegion true
    let va := e.srcA 0 64
    let ctx := handleCtx cw.cfg.handle
    let a := match palFind (s.coreOf e.t.die e.t.core).pal ctx va s.timeCount with | some x => x.attr | none => 0
    let r := s.homeRead ctx va 64 (s.homeSock ctx va (attrKind a) (attrDdr a))
    e0.b.committed && uniOf e0.front e0.c.dst == some 4 && e.srcB 0 64 == q && r.1 == 0 &&
      !s.foreign va && e.check s cw .glob 64 .load attrR [⟨lowestLane e.lanes, (va : Nat), 64⟩] == .ok &&
      (64 ≤ q || (r.2.2.tokenArrive ctx.toNat q r.2.1 (some (e.t, e.id))).2 == joins)

theorem witness_GridInstructions :
    (let at_ := fun (q : W64) => uniSet [(8, 0x10040), (12, q)] base
     tokenOk (at_ 0) 0 true && tokenOk ((at_ 63).updCtx 1 fun x => { x with mode := 2 }) 63 false && tokenOk (at_ 64) 64 false &&
       iss 0xE6 (std 0xE6) (uniSet [(8, 0x101)] base) (fun e => handleCtx e.handle == 1) &&
       [0x101, 0x201, 0x102].all (fun h => iss 0xE7 (std 0xE7) (uniSet [(8, h)] base)) &&
       (base.gridOf 0x201).isNone && (match base.gridOf 0x101 with | some g => !g.own.isEnded | none => false)) = true := by
  decide +kernel

/-- A table of 16 by 16 direct entries, in force as table 0; operands at bytes 0x2000 on. -/
def table0 : JTable := { JTable.off with mode := 1, size := 256, width := 16 }
def tabled (s : State) : State :=
  onCrew (fun w => { w with planned := w.planned.set 0 table0, tables := w.tables.set 0 table0 })
    (uniSet [(12, 0x0000200000002000), (13, 0x0000200000002000)] s)
def formats : W64 := (0xD <<< 55) + (0xD <<< 50)

theorem witness_InfuserOperations :
    (let s := tabled (uniSet [] base)
     let p := onThread (fun b => { b with r := { b.r with uni := [(12, 0x2000)] } }) s
     issC 0xF0 (std 0xF0 0 0 formats) p (fun e cw =>
        let o := e.jOp .pass 0 (e.jUnis 3 ++ e.maskReg)
        e.lanes != 0 && (cw.plan 0).mode != 0 && o.uhi 1 == 0 && coordsOk (o.u 2) && !o.scaled &&
          e.ls.all (fun l => p.extentOk e.t.crew cw o.asp 16 (e.srcA l 32) (32 * o.esz)) &&
          p.extentOk e.t.crew cw o.bsp 16 (o.ulo 0) (512 * o.esz) &&
          decide ((p.coreOf e.t.die e.t.core).jq.length + 4 ≤ 32)) &&
      issC 0xF1 (std 0xF1 0 0 formats) s (fun e cw =>
        let o := e.jOp .bit 0 (e.jUnis 4 ++ e.maskReg)
        let k := o.klen
        (cw.plan 0).mode != 0 && coordsOk (o.u 2) && !o.scaled &&
          [(o.asp, 16, o.ulo 0, 2 * k), (o.asp, 16, o.uhi 0, 16 * k * o.esz), (o.bsp, 16, o.ulo 1, 2 * k),
            (o.bsp, 16, o.uhi 1, 16 * k * o.esz)].all fun x => s.extentOk e.t.crew cw x.1 x.2.1 x.2.2.1 x.2.2.2) &&
      issC 0xF2 (std 0xF2 0 0 (0xD <<< 55)) (tabled base |> fun s => onThread (fun b => { b with r := { b.r with
          uni := [(12, 0x100002000), (13, 0x100002000)] } }) s) (fun e cw =>
        let o := e.jOp .stream 0 (e.jUnis 2)
        (cw.plan 0).mode != 0 && s.extentOk e.t.crew cw o.asp 16 (o.ulo 0) (16 * o.uhi 0) &&
          s.extentOk e.t.crew cw o.bsp 16 (o.ulo 1) (16 * o.uhi 1)) &&
      iss 0xF3 (std 0xF3) s (fun e => !e.b.batchPend.get false e.b.batchNext) &&
      iss 0xF4 (std 0xF4) s (fun e => !e.b.batchPend.get false (e.srcA 0 64 % 16))) = true := by decide +kernel

/-- The descriptor of that table lies at byte 0x400 of core space. -/
def described : State :=
  match base.crewOf base.cur.crew with
  | some cw => uniSet [(8, 0x400)] (base.putScr base.cur.crew cw .core 0 0x400
      ([1, 0, 0, 0] ++ leBytes 4 0 ++ leBytes 4 256 ++ leBytes 4 16 ++ List.replicate 48 0))
  | none => base

theorem witness_InfuserControl :
    (let stopped := onCrew (fun w => { w with tables := w.tables.set 0 { table0 with stopped := true },
                                              planned := w.planned.set 0 table0 }) described
     [(described, false), (stopped, true)].all (fun (x : State × Bool) => issC 0xF6 { std 0xF6 with srca := .uni 8 } x.1 fun e cw =>
        let ts : List Touch := [⟨lowestLane e.lanes, (e.srcA 0 32 : Nat), 64⟩]
        let desc := x.1.getScr e.t.crew cw .core 0 (e.srcA 0 32) 64
        !e.b.memHeld && e.check x.1 cw .core 1 .load attrR ts == .ok && e.uninits x.1 cw .core ts == [] && !descBad cw 0 desc &&
          ((cw.table 0).stopped && (cw.table 0).shape == (JTable.parse desc).shape) == x.2) &&
      iss 0xF6 (std 0xF6 0x41) base && iss 0xF6 { std 0xF6 2 with srcb := .imm 35 } base &&
      (let s := onThread (fun b => { b with r := { b.r with uni := [(12, 0x400)] } }) (tabled described)
       issC 0xF5 (std 0xF5 0 0 (0xD <<< 54)) s fun e cw =>
         let o := { e.jOp .drain 0 (e.jUnis 4) with readDone := true }
         e.b.committed && !e.b.trapPriv && (cw.plan 0).mode != 0 && coordsOk (o.u 1) && (s.drainAddrs e.t.crew cw o).isNone)) = true := by
  decide +kernel

/-- The page is mapped in every stack, and the crew has no Caddy. -/
def mappedAll : State :=
  onCrew (fun w => { w with cfg := { w.cfg with caddy := 0 } }) <|
  uniSet [(8, 0x11000)] <| (List.range 16).foldl (fun s n => s.updCtrl n fun k => { k with maps :=
    [{ ctx := 1, va := 0x10000, attr := 0x000F, frame := placedFrame, p := true, horizon := 1000, unmapping := false }] }) base

/-- The hypotheses of `JSAVE` and `JLOAD`, of a crew without operations. -/
def saveOk (s : State) (e0 : Env) (cw : Crew) : Bool :=
  let e := e0.ownRegion true
  let va := e0.srcA 0 64
  e0.b.committed && va % 64 == 0 && decide (va + (8 * cw.cfg.caddy + 4096) ≤ 2 ^ 56) &&
    (List.range 16).all (fun t => !(cw.table t).noRoom) && s.crewOps e0.t.crew == [] &&
    (s.globWrites e.eng cw (s.saveWrites e.t.crew cw va [])).1 == none
def loadOk (s : State) (e0 : Env) (cw : Crew) : Bool :=
  let e := e0.ownRegion true
  let va := e0.srcA 0 64
  let g := e.eng
  e0.b.committed && va % 64 == 0 && decide (va + (8 * cw.cfg.caddy + 4096) ≤ 2 ^ 56) && s.crewOps e.t.crew == [] && (List.range 16).all (fun t => (cw.plan t).mode == 0) &&
    match s.engRead g cw .glob attrR va (8 * cw.cfg.caddy + 4096) with
    | (.ok a, s1) =>
      match s1.tailCounts g cw a.bytes 16 with
      | (.ok counts, s2) =>
        match s2.savedTables g cw a.bytes counts 16 with
        | (.ok _, _) => decide ((s1.coreOf g.r.die g.r.core).jq.length +
          (openLast a.bytes (quartersOf (restoredOps s1 g.r cw cw.ctl.jsaved a.bytes))).length ≤ 32)
        | _ => false
      | _ => false
    | _ => false

theorem witness_InfuserSaveAndLoad :
    (issC 0xF7 (std 0xF7) mappedAll (saveOk mappedAll) && issC 0xF7 (std 0xF7 1) mappedAll (loadOk mappedAll)) = true := by
  decide +kernel

/-! ## Witnesses: control registers and traps -/

def csrCode (opc n : Nat) : Code := std opc (BitVec.ofNat 8 (n % 256)) (BitVec.ofNat 4 (n / 256))
/-- The crew's vector table is at 0x10100, and holds 0x10020 for a cause. -/
def vectored (cause : Nat) : State :=
  (onCrew (fun w => { w with cfg := { w.cfg with trapVec := 0x10100 } }) base).writeKey
    (hbmKey (base.stackOf placedCtx placedPc) (placedFrame + pieceOff 65536 4 (0x10100 + 8 * cause))) (leBytes 8 0x10020)
/-- In the handler of a software trap. -/
def inHandler : State := after (.strap { std 0xFB with srca := .slot 77 }) (vectored 14)

theorem witness_ControlReads :
    (issC 0xF8 (csrCode 0xF8 1) inHandler (fun e _ => Code.csr e.c == 1 && e.b.trapPriv) && iss 0xF8 (csrCode 0xF8 2) base &&
      [0, 3, 0x040].all (fun n => iss 0xF8 (csrCode 0xF8 n) base) &&
      [0x041, 0x0A0, 0x2FF].all fun n => issC 0xF8 (csrCode 0xF8 n) base fun e cw =>
        (csrReg e.t.crew (handleCtx cw.cfg.handle).toNat n).isSome) = true := by decide +kernel

theorem witness_ControlWrites :
    (iss 0xF9 (csrCode 0xF9 0) base && iss 0xF9 (csrCode 0xF9 1) inHandler (fun e => e.b.trapPriv) && iss 0xF9 (csrCode 0xF9 0x060) base &&
      [2, 0x018, 0x062, 0x087, 0x100].all (fun n => iss 0xF9 (csrCode 0xF9 n) base fun _ => csrNone n) &&
      [0x019, 0x01F].all (fun n => iss 0xF9 (csrCode 0xF9 n) inHandler fun e => e.b.trapPriv) &&
      [0x020, 0x040, 0x061, 0x088].all (fun n => iss 0xF9 (csrCode 0xF9 n) base) &&
      [0x041, 0x090, 0x2FF].all (fun n => iss 0xF9 (csrCode 0xF9 n) base fun _ => !csrNone n) &&
      iss 0xF8 (csrCode 0xF8 1) base (fun e => !e.b.trapPriv) &&
      [1, 0x019, 0x01F].all (fun n => iss 0xF9 (csrCode 0xF9 n) base fun e => !e.b.trapPriv) &&
      iss 0xFC (std 0xFC) base (fun e => !e.b.trapPriv)) = true := by decide +kernel

theorem witness_SoftwareTraps :
    ([(0xFB, 14), (0xFA, 13)].all (fun (x : Nat × Nat) => issC x.1 (std x.1) (vectored x.2) fun e cw =>
        Memory.wf (vectored x.2).mem && !e.front && !e.b.trapPriv && !e.b.writersOut && e.lanes != 0 &&
          (vectored x.2).vector (handleCtx cw.cfg.handle) cw.cfg.trapVec x.2 == .handler 0x10020) &&
      [0xFB, 0xFA].all (fun o => iss o { std o with gmode := 1 } base fun e => e.lanes == 0) &&
      issC 0xFA (std 0xFA) base (fun _ cw => base.vector (handleCtx cw.cfg.handle) cw.cfg.trapVec 13 == .none)) = true := by
  decide +kernel

theorem witness_TrapReturns :
    iss 0xFC (std 0xFC) inHandler (fun e => e.b.trapPriv && !e.b.cancelTrap && e.b.flags.all (fun f => f.2 == 0) &&
      e.b.trap.cause != 5) = true := by decide +kernel

/-! ## Witnesses: masters, start, links -/

/-- Candidate 0 owns the package. -/
def ownedBy (c : BitVec 2) : State := base.updOwn fun o => { o with owned := true, owner := c, drawn := true }

theorem witness_OwnerWrites :
    ((ownedBy 0).host.boot.present.getLsbD 3 && (ownedBy 0).host.start.kind != .safe && (ownedBy 0).mayWrite 0 .evqHead &&
      !(ownedBy 0).mayWrite 1 .evqHead && (decodeReg 24 0).isSome &&
      (base.updStart fun x => { x with kind := .safe }).host.start.kind == .safe && Reg.inSafe .bootCtl &&
      -- stores of the host complex: to the event queue by the owner and by another, and beside the queue
      [(0, 0x10), (1, 0x10), (1, 0x100000)].all (fun (x : BitVec 2 × Nat) =>
        let s := (ownedBy x.1).updBoot fun b => { b with hostPlaced := 64 }
        !s.inSafeMode && decide (x.2 < windowBase) && decide (x.2 < s.host.boot.hostPlaced * 2 ^ 30) && s.owns 0 == (x.1 == 0) &&
          [0, 1].all (fun i => s.inEvq (x.2 + i) == (x.2 == 0x10)))) = true := by decide +kernel

/-- A link in a state, with a flit in its replay buffer. -/
def link0 : LinkId := ⟨0, false, 0⟩
def linked (f : Link → Link) : State := base.updLink link0 f
def flit0 : TxFlit := { seq := 0, vc := 0, slots := [], sentAt := 0 }
/-- Scratch of context k on die 0: base and size. -/
def withScr (k : Nat) (b : BitVec 9) (n : BitVec 10) (s : State) : State :=
  (s.updCtx k fun x => { x with st := .active }).updCtxDie 0 k fun x => { x with scrBase := b, scrSize := n }
def meets0 (s : State) (c base size : Nat) : Bool := (List.range 64).any fun k => k != c && (s.ctxOf k).st == .active && size != 0 &&
  (s.ctxDie 0 k).scrSize.toNat != 0 && decide (base < (s.ctxDie 0 k).scrBase.toNat + (s.ctxDie 0 k).scrSize.toNat) &&
  decide ((s.ctxDie 0 k).scrBase.toNat < base + size)

theorem witness_RegisterEffects :
    (-- retraining a link: held back, and not
      ((linked fun l => { l with rx := { l.rx with st := .hold } }).linkOf link0).rx.st == .hold &&
      ((base.linkOf link0).rx.st == .accept && (base.linkOf link0).tx.st == .send) &&
      -- CREATE in the three modes, and with no healthy die
      ((base.ctxOf 2).st == .free && base.healthy 0 && !base.healthy 1) &&
      -- DESTROY
      ((base.ctxOf 1).st == .active) &&
      -- CTX_DIESCR: a meeting, a size beyond the end, and a free range at the end
      (Memory.wf base.mem && meets0 (withScr 3 0 8 base) 2 7 1 && !meets0 (withScr 3 0 8 base) 2 8 504 &&
        !meets0 (withScr 3 0 8 base) 2 0 0) &&
      -- pre-emption and resumption
      ((base.gridOf 0x101).isSome && !(base.ctxOf 1).preBusy && (base.crewOf base.cur.crew).isSome &&
        (base.gridOf 0x101).all fun g => !g.own.isEnded) &&
      -- a report buffer that is free behind a busy one, and none free
      (let bufs := fun n => List.replicate n ({ AttBuf.reset with run := true } : AttBuf) ++ List.replicate (4 - n) AttBuf.reset
       let busy := fun n => base.updBoot fun b => { b with att := bufs n }
       (busy 3).host.boot.att[3]? == some AttBuf.reset &&
         [0, 1, 2].all (fun j => ((busy 3).host.boot.att[j]?.map fun b => b.run || b.done) == some true) &&
         [0, 1, 2, 3].all fun j => ((busy 4).host.boot.att[j]?.map fun b => b.run || b.done) == some true)) = true := by
  decide +kernel

/-- A management request of 32 bytes: operation, class or socket, offset, length. -/
def request (op k off n : Nat) : List Byte := leBytes 4 0x504D4B56 ++ [1, BitVec.ofNat 8 op, 7, 0] ++ leBytes 8 k ++ leBytes 8 off ++ leBytes 8 n
def record0 (sock flags : Byte) : List Byte := [1, 0, 0, 0, sock, 0, flags] ++ List.replicate 57 0

theorem witness_ManagementAndPodPorts :
    (let own := ownedBy 1
     mgmtBad [] && !mgmtBad (request 1 24 0 0) && (own.reach 1 24 0).isSome && (own.reach 1 3 1).isNone &&
      !mgmtBad (request 2 24 0x4010 5) && (match own.reach 1 24 0 with | some r => own.mayWrite 1 r && !r.rsvdHit 0 | none => false) &&
      (match base.reach 1 24 0 with | some r => !base.mayWrite 1 r | none => false) &&
      !mgmtBad (request 3 24 0 1024 ++ List.replicate 1024 0) &&
      !mgmtBad (request 4 2 (2 ^ 26 - 8) 8 ++ List.replicate 8 1) && own.owns 1 && own.host.fw.staging.length == 3 &&
      !mgmtBad (request 5 2 0 0) && !own.host.fw.flashBusy && !own.host.fuses.imageOk 2 [] &&
      (own.updFw fun w => { w with flashBusy := true, writing := some (1, [7]) }).host.fw.writing == some (1, [7]) &&
      !base.owns 1 &&
      -- event records: ring with room, full ring, fatal slot free and in use
      (record0 3 0).length == 64 && !((record0 3 0).getD 6 0).getLsbD 0 && ((record0 3 1).getD 6 0).getLsbD 0 &&
      base.host.evq.tail - base.host.evq.head != 256 &&
      (base.updEvq fun q => { q with tail := 256 }).host.evq.tail - 0 == 256 &&
      !((base.hostRead (0x4000 + 64 * 3 + 6) 1).headD 0).getLsbD 7 &&
      (let hosted := base.updBoot fun b => { b with hostPlaced := 64 }
       ((hosted.hostWrite (0x4000 + 64 * 3 + 6) [0x80]).hostRead (0x4000 + 64 * 3 + 6) 1).headD 0).getLsbD 7 &&
      (⟨0, 0, base.disp.podldr, 0, 24, 24⟩ : PktHdr).srcPkg == base.disp.podldr && (base.reach 2 24 0).isSome) = true := by
  decide +kernel

/-- An image that its signatures cover is accepted, whatever the signature functions are. -/
theorem witness_image (b : List Byte) (f : Fuses) (h : f.imageOk 0 b = true) :
    (ownedBy 1 |>.updFw fun w => { w with flashBusy := false }).owns 1 = true ∧ f.imageOk 0 b = true := ⟨by decide +kernel, h⟩

def starting (kind : StartKind) (step : BitVec 3) (w c : BitVec 2) : State :=
  { State.reset with time := 10 ^ 10, host := { State.reset.host with
      start := { State.reset.host.start with step := step, kind := kind, st := .running, wfail := w, cfail := c, stepAt := 10 ^ 10 } } }
def late (s : State) : State := { s with time := s.time + 4000000001 }

/-- Steps in time and too late, that fail and that do not; windows, handovers and reports. Where signatures decide, see below. -/
theorem witness_StartAndOwnership :
    ([(StartKind.warm, (0 : BitVec 2), (0 : BitVec 2)), (.warm, 2, 0), (.warm, 1, 0), (.cold, 0, 0), (.cold, 0, 1)].all
        (fun (x : StartKind × BitVec 2 × BitVec 2) =>
          let s := starting x.1 3 x.2.1 x.2.2
          s.host.start.st == .running && s.host.start.step != 0 && decide (s.host.start.stepAt + stepLimit 3 < (late s).time) &&
            s.stepFails 3 0 && decide (s.time ≤ s.host.start.stepAt + stepLimit 3)) &&
      [1, 2, 3, 5, 6, 7].all (fun k => let s := starting .cold k 0 0
        !s.stepFails k.toNat 0x3FFFFFF && decide (s.time ≤ s.host.start.stepAt + stepLimit k.toNat)) &&
      (let s := (late base).updOwn fun o => { o with windowOpen := true, valid := [2, 1], hopend := true }
       s.host.own.windowOpen && decide (s.host.own.windowOpenedAt + 2000000000 ≤ s.time) && s.host.own.hopend &&
         decide (s.host.own.hoAt + 1000000000 ≤ s.time)) &&
      (base.updBoot fun b => { b with attQueue := [3] }).host.boot.attQueue == [3]) = true := by decide +kernel

theorem witness_noRecord : base.recordValid 0 (base.mailboxBytes 0) = false := by
  have h : (fld (base.mailboxBytes 0) 0 4 == 0x434E574F) = false := by decide +kernel
  unfold State.recordValid
  simp only [h, Bool.false_and]

/-- A record of a kind and a target, whose keys and signatures are 0, and the fuses that name those keys. -/
def recordHead (kind tgt : Nat) : List Byte := leBytes 8 (0x434E574F + 2 ^ 40 * kind + 2 ^ 48 * tgt)
def record (kind tgt : Nat) : List Byte := recordHead kind tgt ++ List.replicate 8184 0
def fused : State := base.updBoot fun b => { b with keyHash := [Config.sha3 (List.replicate 1984 0), 0, 0] }

theorem record_drop (kind tgt n : Nat) : (record kind tgt).drop (8 + n) = List.replicate (8184 - n) 0 := by
  have h : (recordHead kind tgt).length = 8 := rfl
  rw [record, List.drop_append, h, List.drop_eq_nil_of_le (by rw [h]; omega), List.nil_append, List.drop_replicate]
  congr 1; omega

theorem record_head (kind tgt o n : Nat) (h : o + n ≤ 8) : fld (record kind tgt) o n = fld (recordHead kind tgt) o n := by
  have hl : (recordHead kind tgt).length = 8 := rfl
  rw [fld, record, List.drop_append_of_le_length (by omega), List.take_append_of_le_length (by simp [hl]; omega), ← fld]

/-- With signature functions that accept it, such a record is valid: a claim, a release to candidate 2, and an accept. -/
theorem witness_records (kind tgt : Nat) (hk : kind = 0 ∧ tgt = 0 ∨ kind = 1 ∧ tgt = 2 ∨ kind = 2 ∧ tgt = 0)
    (h1 : Config.sha3 (List.replicate 1984 0) ≠ 0) (h2 : ∀ k m g, Config.edVerify k m g = true)
    (h3 : ∀ k m g, Config.mlVerify k m g = true) : fused.recordValid 0 (record kind tgt) = true := by
  have zero : ∀ o n, o + n ≤ 8184 → zeroBytes (record kind tgt) (8 + o) n = true := by
    intro o n h
    rw [zeroBytes, record_drop, List.take_replicate, List.all_replicate]; split <;> rfl
  have nonce : fld (record kind tgt) (8 + 0) 32 = 0 := by
    rw [fld, record_drop, List.take_replicate]; decide +kernel
  have keys : ((record kind tgt).drop (8 + 56)).take 1984 = List.replicate 1984 0 := by
    rw [record_drop, List.take_replicate]; rfl
  have z1 := zero 32 24 (by omega)
  have z2 := zero 5413 3 (by omega)
  have hd : (fused.host.boot.keyHash.getD 0 0 != 0 && Config.sha3 (List.replicate 1984 0) == fused.host.boot.keyHash.getD 0 0) = true := by
    simp only [fused, State.updBoot, List.getD_cons_zero, beq_self_eq_true, Bool.and_true, bne_iff_ne]; exact h1
  unfold State.recordValid
  simp only [Nat.reduceAdd] at nonce keys z1 z2
  simp only [keys, nonce, z1, z2, h2, h3, record_head _ _ 0 4 (by omega), record_head _ _ 4 1 (by omega), record_head _ _ 5 1 (by omega),
    record_head _ _ 6 1 (by omega), record_head _ _ 7 1 (by omega)]
  rcases hk with ⟨rfl, rfl⟩ | ⟨rfl, rfl⟩ | ⟨rfl, rfl⟩ <;> simp only [Bool.and_true, Bool.and_eq_true] at hd ⊢ <;> refine ⟨⟨⟨?_, hd.1⟩, hd.2⟩, ?_⟩ <;> decide +kernel

theorem witness_PowerAndHealth :
    (let pwr := fun (f : Pwr → Pwr) => base.updDie 0 fun d => { d with pwr := f d.pwr }
     let p := pwr fun p => { p with trans := true, going := 3, target := 5 }
     (p.dieOf 0).pwr.trans && (p.dieOf 0).pwr.target != (p.dieOf 0).pwr.going &&
      ((pwr fun p => { p with trans := true }).dieOf 0).pwr.target == ((pwr fun p => p).dieOf 0).pwr.going && !(base.dieOf 0).pwr.trans &&
      base.healthy 0 && base.host.pwr.lowWindows == 0 &&
      ({ base with host := { base.host with pwr := { base.host.pwr with lowWindows := 7 } } }).host.pwr.lowWindows == 7) = true := by
  decide +kernel

/-- A data flit of one packet, number n, and a control flit. -/
def packet0 : Packet := ⟨⟨1, 0, 0, 0, 0, 1⟩, .unpark⟩
def dataFlit (n : W16) : List Byte :=
  flitBytes { crcum := 0, crvc := 0, ctrl := false, nak := false, ackv := false, nslot := 1, vc := Body.vc packet0.body, ackseq := 0, seq := n }
    (cutSlots 1 (leBytes 8 (Packet.head packet0) ++ Body.bytes packet0.body))
def controlFlit : List Byte :=
  flitBytes { crcum := 0, crvc := 0, ctrl := true, nak := false, ackv := false, nslot := 0, vc := 0, ackseq := 0, seq := 0 } []

/-- The receiver takes the flit as good, and p holds of it. -/
def takenAs (p : FlitHdr → List Packet → Bool) : FlitIn → Bool
  | .good h ps => p h ps
  | _ => false
theorem takenAs_flit (p : FlitHdr → List Packet → Bool) (h : FlitHdr) (slots : List (List Byte))
    (g : takenAs p (readGood (leBytes 8 (FlitHdr.word h) ++ bytesAt slots.flatten 0 240)) = true) :
    takenAs p (readFlit (flitBytes h slots)) = true := by rw [readFlit_flitBytes]; exact g

/-- A flit in turn, one out of turn, and a control flit are good. -/
theorem witness_flits :
    takenAs (fun h ps => !h.ctrl && h.seq == 0 && ps == [packet0]) (readFlit (dataFlit 0)) = true ∧
    takenAs (fun h ps => !h.ctrl && h.seq == 5 && ps == [packet0]) (readFlit (dataFlit 5)) = true ∧
    takenAs (fun h _ => h.ctrl) (readFlit controlFlit) = true :=
  ⟨takenAs_flit _ _ _ (by decide +kernel), takenAs_flit _ _ _ (by decide +kernel), takenAs_flit _ _ _ (by decide +kernel)⟩

theorem witness_Links :
    ((base.linkOf link0).rx.st == .accept && (base.linkOf link0).rx.exp == 0 &&
      ((linked fun l => { l with tx := { l.tx with st := .hold } }).linkOf link0).tx.st == .hold &&
      (let x := linked fun l => { l with rx := { l.rx with st := .discard, bufs := l.rx.bufs.set 2 [packet0] } }
       (x.linkOf link0).rx.st == .discard && (x.linkOf link0).rx.bufs[2]? == some [packet0] &&
         decide ((x.linkOf link0).rx.nakAt + 64 ≤ ({ x with time := 64 } : State).time) && (base.linkOf link0).tx.st == .send &&
         decide ((base.linkOf link0).rx.reportedAt + 32 ≤ ({ base with time := 32 } : State).time)) &&
      (let x := linked fun l => { l with tx := { l.tx with buf := [flit0], opened := some ⟨0, [[]], 0, false⟩ } }
       (x.linkOf link0).tx.st == .send && (x.linkOf link0).tx.buf.length == 1 &&
         decide (0 + 256 ≤ ({ x with time := 256 } : State).time)) &&
      ((linked fun l => { l with rx := { l.rx with st := .hold }, regs := { l.regs with retrainByCtl := true } }).linkOf link0).rx.st == .hold &&
      (!base.noModule 0 && base.healthy 0 && !base.healthy 9) &&
      -- pod packets: for this package, by the ring and not, with a route, without one
      (base.pkg == 0 && !Packet.onRing packet0 && Packet.onRing ⟨packet0.hdr, .cancel 0x101⟩ && base.podPortFor 24 ⟨0, 0, 0, 1, 0, 0⟩ == none &&
        ({ base with podrt := [(24, { PodRt.reset with masks := [(1, 4)] })] } : State).podPortFor 24 ⟨0, 0, 0, 1, 0, 0⟩ == some 2)) = true := by
  decide +kernel

/-! ## Witnesses: translation and homes -/

/-- A controller (stack 0) that runs a command of context 1, in a state where the page at 0x10000 is mapped in every stack. -/
def command (op va frame : Nat) : State :=
  { mappedAll with unit := 0, time := 10 }.updCtrl 0 fun k => { k with
    busy := true, run := [BitVec.ofNat 64 (op + 2 ^ 8 + 0x000F * 2 ^ 16 + 3 * 2 ^ 32), BitVec.ofNat 64 va, BitVec.ofNat 64 frame, 0] }
def runs (s : State) : TrCmd := TrCmd.of (s.ctrlOf 0).run
/-- A state with its mapping in a wait, and the page of another. -/
def unmapping (horizon : Nat) : State :=
  { mappedAll with unit := 0, time := 10 }.updCtrl 0 fun k => { k with
    unmap := some { ctx := 1, va := 0x10000 },
    maps := k.maps.map fun (m : Mapping) => { m with unmapping := true, horizon := horizon } }

theorem witness_Translation :
    -- SETP and UNMAP that succeed; each command refused; MAP is below
    ([2, 3].all (fun op => let s := command op 0x10000 0
        (s.ctrlOf 0).busy && (s.ctrlOf 0).unmap == none && s.trResult 0 (runs s) == 0) &&
      [(1, 0x10000), (2, 0x20000), (3, 0x20000)].all (fun (x : Nat × Nat) => let s := command x.1 x.2 0
        (s.ctrlOf 0).busy && s.trResult 0 (runs s) != 0) &&
      -- waits that are over, at their last instant and before
      [(10, true), (11, false)].all (fun (x : Nat × Bool) => let s := unmapping x.1
        (s.ctrlOf 0).maps.all fun m => (m.unmapping && decide (m.horizon ≤ s.time)) == x.2 && (s.ctxOf m.ctx.toNat).destroy != .cancelling) &&
      -- a permission request: a mapped page, no page, and a page in a wait
      ((mappedAll.ctrlOf 0).find 1 0x1FFFF).isSome && ((mappedAll.ctrlOf 0).find 1 0x20000).isNone && !inWindow 0x10000 &&
      ((unmapping 10).ctrlOf 0).find 1 0x10000 != none && (mappedAll.ctxOf 1).st != .free &&
      -- a reply to a request, with room in the lookaside
      (let s := { base with time := 5 }.updDie 0 fun d => { d with tags := [(3, .perm 0 1 0x20000 5)] }
       (s.dieOf 0).tags.find? 3 == some (.perm 0 1 0x20000 5) && decide (5 < 5 + 1000 * 1) &&
        (s.coreOf 0 0).pal.all (fun x => x.page != 0x20000) && decide ((s.coreOf 0 0).pal.length < 512)) &&
      -- a lookaside with an entry that expires, and one that does not
      (let s := { base with time := 1000 }
       (s.coreOf 0 0).pal.any (fun e => decide (e.expiry ≤ s.time)) && (base.coreOf 0 0).pal.any fun e => decide (base.time < e.expiry)) &&
      -- a thread that is parked: at its page, at the end of it, at another page
      [(0x10000, true), (0x1FFFF, true), (0x20000, false)].all (fun (x : Nat × Bool) =>
        let s := onThread (fun b => { b with parked := some (ParkInfo.of 1 x.1) }) base
        (match s.thread s.cur with | some b => b.parked == some (ParkInfo.of 1 x.1) | none => false) &&
          decide (0x10000 ≤ x.1 ∧ x.1 < 0x10000 + pageSize 0) == x.2)) = true := by decide +kernel

/-- A MAP of a free page succeeds where the node array has room. -/
theorem witness_mapCommand (h : 1 < Config.nodeCapacity ((command 1 0x20000 (2 ^ 31)).ctrlOf 0).trSize.toNat) :
    (command 1 0x20000 (2 ^ 31)).trResult 0 (runs (command 1 0x20000 (2 ^ 31))) = 0 := by
  have one : ((command 1 0x20000 (2 ^ 31)).ctrlOf 0).maps.length = 1 := by decide +kernel
  unfold State.trResult
  dsimp only
  rw [if_neg (by decide +kernel), if_pos (by decide +kernel), if_neg (by decide +kernel), if_neg (by decide +kernel),
    if_neg (by omega), if_neg (by decide +kernel)]

/-- A thread with a load, a store or an atomic under way, whose first part has tag 3. -/
def sent (i : Instr) : State := match exec i (addressed 0 mappedAll) with
  | .next t => { t with cur := base.cur }.updDie 0 fun d => { d with tags := [(3, .piece base.cur 1 0)] }
  | _ => base
/-- As sent, with one part, which has a status. -/
def onePart (st : PieceSt) (i : Instr) : State :=
  let piece := fun (p : Piece) => { p with st := st }
  let acc := fun (a : Acc) => { a with pieces := (a.pieces.take 1).map piece }
  onThread (fun b => { b with accs := b.accs.map acc }) (sent i)
def partOk (s : State) (n : Nat) : Bool :=
  (s.dieOf 0).tags.find? 3 == some (.piece s.cur 1 0) && match s.thread s.cur with
    | some b => b.accs.length == 1 && (match b.findAcc 1 with | some a => a.pieces.length == n && a.pieces[0]?.isSome | none => false)
    | none => false

theorem witness_Homes :
    -- a home that serves all 64 bytes of a line, and one that refuses: no page, another package's window, two lines
    ((mappedAll.homeServe 1 0x10040 64 8).1 == 0 && (mappedAll.homeServe 1 0x10040 64 8).2.length == 64 &&
      decide (mappedAll.homeServe 1 0x10040 64 8).2.Nodup && Memory.wf mappedAll.mem &&
      (mappedAll.homeServe 1 0x20000 64 8).1 == 1 && (mappedAll.homeServe 2 0x10000 64 8).1 == 2 && (mappedAll.homeServe 1 0x10001 64 8).1 == 3 &&
      [4, 8, 16].all (fun w => (mappedAll.homeServe 1 0x10040 w 8).1 == 0 && 0x10040 % w == 0) &&
      -- the answers of a load, a store and an atomic; the last answer
      [Instr.ld (std 0xB0 0 2), .st (std 0xB1 0 2), .atom (std 0xB2 0 2)].all (fun i => partOk (sent i) 4 && partOk (onePart .held i) 1) &&
      -- a refused part, of a lane that runs no task
      (let s := onePart .refused (.ld (std 0xB0 0 2))
       match s.thread s.cur with
       | some b => (match b.findAcc 1 with | some a => a.refusedPiece.isSome && a.kind != .fetch | none => false) && !b.leaves &&
           b.tasks == 0
       | none => false)) = true := by decide +kernel
/-! ## Witnesses: collectives, launches and tasks between dies -/

/-- A packet of context 1 with a tag, between passengers of the package. -/
def hdr0 (tag src dst : Nat) : PktHdr := ⟨1, BitVec.ofNat 20 tag, 0, 0, BitVec.ofNat 5 src, BitVec.ofNat 5 dst⟩
def grid0 (s : State) (p : Grid → Bool) : Bool := match s.gridOf 0x101 with | some g => p g | none => false
def onGrid (f : Grid → Grid) (s : State) : State :=
  { s with disp := { s.disp with grids := s.disp.grids.map fun g => (g.1, f g.2) } }
def onOwner (f : OwnerSt → OwnerSt) : State → State := onGrid fun g => { g with own := f g.own }
def part0 (rred : Bool) (n : Nat) : CollB := ⟨0, 0, rred, 0, 0, List.replicate n 1⟩
def issue0 (rred : Bool) (got : Tbl (List Byte)) : CollIssue :=
  { handle := 0x101, lin := 0, rred := rred, roster := 0, gen := 0,
    cmd := if rred then (0x1 <<< 44) + (2 <<< 24) else 0x2 <<< 28, src := 0, bytes := [], thread := base.cur, waitId := 7, got := got }

theorem witness_CollectivePackets :
    (match base.collGrid (hdr0 1 1 0) with
     | none => false
     | some g => g.rosters.getD 0 [] == [0] && base.collHome g 0 == (base.pkg, 0) && (base.placeOf g 0).isSome &&
        (base.dieOf 0).colls == [] && !base.barBroken g.handle 5 0 0 && !base.barBroken g.handle 4 0 0 &&
        -- a part with more to come, and the whole contribution of the only member
        [(208, false), (16, true)].all (fun (x : Nat × Bool) =>
          (collBytes [⟨g.handle, true, 0, 0, 0, 0, List.replicate x.1 1⟩] 0).isSome == x.2) &&
        -- the first part of a result of two, and the last
        [([], 16), ([(1, List.replicate 16 1)], 16)].all (fun (x : Tbl (List Byte) × Nat) =>
          let s := { base with colls := [issue0 false x.1] }
          s.colls.find? (fun c => c.handle == g.handle && c.rred == false && c.roster == 0 && c.gen == 0 && c.lin == 0) ==
            some (issue0 false x.1) && decide ((CollCmd.of false (issue0 false x.1).cmd.toNat).len ≤ x.2 + x.1.length * 16) == (x.1 != [])) &&
        -- a barrier of the roster that is not complete, and one that is
        !base.barReached 0x101 2 0 0 && !base.barComplete g 2 0 0 &&
        (let f := onThread (fun b => { b with gens := [(512, 1)] })
         let s := f { f base with cur := baseFront.cur }
         s.barComplete g 2 0 0 && s.gridOf 0x101 == some g)) = true := by decide +kernel

/-- A launch that the leader has checked, and one that it has refused; each has been sent at 0. -/
def fwd (reason : Nat) : Forwarded :=
  { ctx := 1, queue := 3, pos := 9, bytes := List.replicate 64 0, reason := reason, faultVa := 0, record := [], launch := placedGrid.launch,
    khdr := placedGrid.khdr, rosters := [[0]], sentAt := 0, submitter := none }
def note (hi : Option (List Byte)) : Notice := { handle := 0x201, srcPkg := 0, queue := ⟨1, 3, 9⟩, cw := 0, lo := [], hi := hi }

theorem witness_LaunchSequence :
    (-- a token at the first and at the last queue; a queue of a free context
      (let s := base
       s.disp.apBase.toNat % 4096 == 0 && (s.ctxOf 1).st != .free && (s.ctxOf 2).st == .free && decide (63 < modeQueues 0) &&
         (s.ctxOf 1).mode == 0 && (s.queueOf 1 63).toks == [] && !tokMalformed (List.replicate 64 0) false && tokMalformed (List.replicate 64 1) false) &&
      -- a token to take, and a forwarded one whose time is up
      (let s := ({ base with unit := 67 } : State).updQueue 1 3 fun q => { q with toks := [⟨List.replicate 64 0, 9, none⟩] }
       (s.queueOf (s.unit / 64) (s.unit % 64)).toks.length == 1 && s.healthyDies s.pkg != []) &&
      [0, 1].all (fun r =>
        let s := { base with time := 10000, disp := { base.disp with forwarded := [fwd r] } }
        s.disp.forwarded.find? (fun f => f.ctx == 1 && f.queue == 3 && f.pos == 9) == some (fwd r) && decide ((fwd r).sentAt + 10000 ≤ s.time) &&
          s.disp.podldr.toNat == s.pkg && s.leaderOf s.pkg == 0 && s.disp.collect == [] && s.disp.assigned == [] &&
          (fwd r).launch.after == 0 && (s.ctxOf 1).st == .active) &&
      -- notices: of this package, and of another
      (base.gridOf 0x201).isNone && (let s := base.updDisp 0 fun x => { x with notices := [note none] }
        (s.dieOf 0).disp.notices == [note none] && decide ((s.dieOf 0).disp.nextSeq ≤ 0x201 / 256)) &&
      (let s := { base with disp := { base.disp with inbox := [note none] } }
       s.disp.inbox == [note none] && s.pkg != 1) &&
      grid0 base (fun g => !g.own.isEnded) && (base.placementIn 1 base.pkg).contains 0 &&
      State.reset.disp.grids == [] && (List.range 8).any fun d => (0x10 : W32).getLsbD d) = true := by decide +kernel

theorem witness_GridCounters :
    (let open_ := onOwner (fun o => { o with next := 0 }) base
     let lost : RangeRec := { first := 0, count := 1, pkg := 0, die := 0, retired := false, lost := true, replayed := false }
     [open_, onOwner (fun o => { o with replay := [lost] }) base, base, onOwner (fun o => { o with st := .waiting }) open_].all (fun s =>
        grid0 s fun g => (g.own.st == .waiting || (g.own.st == .running && !g.own.stopDeal)) && s.depReady g.launch && g.own.pendMirror == []) &&
      grid0 open_ (fun g => g.own.replay == [] && decide (g.own.next < g.launch.crews)) &&
      grid0 base (fun g => g.own.replay == [] && decide (g.launch.crews ≤ g.own.next) && decide (g.launch.prio < 4)) &&
      ({ base with disp := { base.disp with depv := true } }).disp.depv &&
      -- a grant whose mirror is acknowledged
      (let p : PendMirror := { body := rangeBody 0x101 0 1, dest := some (0, 1), retirement := false, copy := false }
       grid0 (onOwner (fun o => { o with pendMirror := [p] }) base) fun g => g.own.pendMirror.find? (fun p => p.body.first == 0) == some p) &&
      -- a die that has nothing of the grid, and its queues
      !(base.gridDie 1 0x101).cancelled && (base.gridDie 1 0x101).ranges == [] && (base.dieOf 1).disp.queues.length == 4 &&
      base.crewsOf 1 0x101 == [] &&
      -- the last reply of a sweep, and one before the last; a sweep that ends clean, and the second one
      [[(0, 1)], [(0, 1), (0, 0)]].all (fun (w : List (Nat × Nat)) => grid0 (onOwner (fun o => { o with sweepNo := 3, sweepWait := w }) base) fun g =>
        g.own.sweepNo == 3 && g.own.sweepWait.contains (0, 1) && (g.own.sweepWait.filter (fun y => y != (0, 1)) == []) == (w.length == 1)) &&
      grid0 (onOwner (fun o => { o with st := .waiting }) base) fun g => g.own.st == .waiting) = true := by decide +kernel

/-- Die 0's crew, idle, without bands; with records in a ring page, a landing slot, and room for both at 0x11000 and 0x12000. -/
def idleCrew : State := (onCrew (fun w => { w with bands := [] }) mappedAll).updGridDie 0 0x101 fun g =>
  { g with spillBase := 0x11000, spillPages := 2, enqBase := 0x13000 }
def ringed (n : Nat) : State := idleCrew.updGridDie 0 0x101 fun g => { g with ring := (List.range n).map fun i => ⟨0x11000, i⟩, live := n }
/-- A record for queue q, and one that cannot be stolen. -/
def rec0 : List Byte := leBytes 8 0x10000 ++ List.replicate 56 0

theorem witness_TaskMovement :
    (-- rounds
      (let st := fun (x : StealSt) => ({ idleCrew with time := 2000 } : State).updGridDie 0 0x101 fun g => { g with steal := x }
       [StealSt.idle, .pending [1]].all (fun x => (st x).dieIdle 0 0x101) && idleCrew.dieIdle 0 0x101 && !base.dieIdle 0 0x101 &&
        (let s := idleCrew.updDie 0 fun d => { d with cyc := 1024 }
         decide (0 + 1024 ≤ s.cyc 0)) &&
        (let two := idleCrew.updBoot fun b => { b with healthy := b.healthy ||| 2 }
         [1, 2].filter two.healthy == [1] && (two.pageFor 0 0x101 (some .steal)).isSome && [2].filter two.healthy == []) &&
        (idleCrew.pageFor 0 0x101 (some .steal)).isSome && (base.pageFor 0 0x101 (some .steal)).isNone) &&
      -- a victim without records, and with 64 of them
      (idleCrew.stealable 0 0x101 (idleCrew.gridDie 0 0x101).ring).2 == [] &&
      ((ringed 3).stealable 0 0x101 ((ringed 3).gridDie 0 0x101).ring).2.length == 3 &&
      -- the answers of a round
      (let asks := idleCrew.updGridDie 0 0x101 fun g => { g with steal := .asking [2] 1 }
       let takes := idleCrew.updGridDie 0 0x101 fun g => { g with steal := .receiving 1 2 [(1, rec0)] }
       (asks.gridDie 0 0x101).steal == .asking [2] 1 && (takes.gridDie 0 0x101).steal == .receiving 1 2 [(1, rec0)] &&
         [(1, rec0)].all fun (y : Nat × List Byte) => y.1 != 0) &&
      ((((ringed 3).updGridDie 0 0x101 fun g => { g with granted := [(1, 2)] }).gridDie 0 0x101).granted.contains (1, 2))) = true := by
  decide +kernel

theorem witness_TaskMovementLanding :
    (-- an enqueue that is cancelled, one that finds no crew or no slot, one that lands
      (let x := idleCrew.gridDie 0 0x101
       let can := idleCrew.updGridDie 0 0x101 fun g => { g with cancelled := true }
       (can.gridDie 0 0x101).cancelled && (base.gridDie 1 0x101).landing.length == 4 && !base.crewPlaced 1 0x101 && !base.crewQueued 1 0x101 &&
        !x.cancelled && idleCrew.crewPlaced 0 0x101 && x.landing.length == 4 && x.enqRes == 2 && idleCrew.landedAt 0 1 == [] &&
        (match idleCrew.devWrite 1 0x13000 rec0 with | .ok _ => true | .error _ => false)) &&
      -- answers to an enqueue; a bounce that the ring takes, and one that waits for a page
      (let s := base.updDie 0 fun d => { d with tags := [(3, .enq base.cur 9 0x101 0 1)] }
       (s.dieOf 0).tags.find? 3 == some (.enq base.cur 9 0x101 0 1) &&
        match s.thread base.cur with | some b => b.x.phase == Phase.fresh | none => false) &&
      (let u := (idleCrew.creditBack (hdr0 3 1 0) 0x101).enqAnswered 0 3
       !(u.gridDie 0 0x101).cancelled && (u.ringAppend 0 0x101 (some (.returned rec0)) rec0).isSome) &&
      (let c := idleCrew.updGridDie 0 0x101 fun g => { g with cancelled := true }
       (((c.creditBack (hdr0 3 1 0) 0x101).enqAnswered 0 3).gridDie 0 0x101).cancelled) &&
      (let u := (base.creditBack (hdr0 3 1 0) 0x101).enqAnswered 0 3
       (u.ringAppend 0 0x101 (some (.returned rec0)) rec0).isNone) &&
      -- a crew with records in its window, an idle one, a record that waits for a page
      (let s := onCrew (fun w => { w with bands := [], window := (List.range 64).map fun i => ⟨rec0, i, 0⟩ }) base
       match s.crewOf s.cur.crew with
       | some cw => let rs := cw.blocked (s.cyc 0) (s.ctxOf 1).flush.toNat
          cw.freeSlot == some 0 && rs.length == 32 && !cw.ctl.cancelled && !cw.ctl.stopping && Memory.wf s.mem && cw.cfg.taskBase + 14 ≤ 256
       | none => false) &&
      (match idleCrew.crewOf idleCrew.cur.crew with | some cw => cw.idle | none => false) &&
      (let s := ({ idleCrew with unit := 1 } : State).updDisp 0 fun x => { x with pageWait := [(0x101, .returned rec0)] }
       s.waiters s.cur.die (mkHandle 0 s.unit) == [(0x101, .returned rec0)] &&
         (s.ringAppend 0 0x101 (some (.returned rec0)) rec0).isSome)) = true := by decide +kernel
/-! ## Witnesses: what passes with time, and the engines -/

/-- Core 0 with n bands, of which the first m are in the active set and the first k were found not eligible in cycle 0; at cycle c of the die. -/
def banded (n m k c : Nat) : State :=
  let band := fun (b : Band) (i : Nat) => { b with x := { b.x with ready := decide (k ≤ i), since := 0 } }
  let s := onCrew (fun w => { w with bands := (List.range n).map fun i => (i, band ((w.bands.find? 0).getD Band.reset) i) }) base
  (s.updDie 0 fun d => { d with cyc := c }).updCore 0 0 fun x =>
    { x with sel := { x.sel with active := (List.range m).map fun i => (0, i) } }
def setOf (s : State) (p : List ThreadRef → List ThreadRef → List ThreadRef → List ThreadRef → Bool) : Bool :=
  let u := s.trimSet 0 0
  let k := u.coreOf 0 0
  let ref := fun (p : Nat × Nat) => (⟨0, 0, p.1, some p.2⟩ : ThreadRef)
  let inside := k.sel.active.map ref
  let ready := ((k.runningBands.filter fun p => !k.sel.active.contains p).map ref).filter fun t => u.wasReady t true
  p inside ready (inside.filter fun t => u.wasReady t false) (ready.filter fun t => decide (64 ≤ u.standing t))

/-- `CoreEvents`: a set with room, one with a member that cannot issue, one whose candidate has waited 64 cycles, 63, and no candidate. -/
theorem witness_ActiveSet :
    (setOf (banded 8 7 0 1) (fun i r _ _ => decide (i.length < 8) && r != []) &&
      setOf (banded 9 8 1 1) (fun i r d _ => i.length == 8 && d != [] && r != []) &&
      setOf (banded 9 8 0 64) (fun i _ d l => i.length == 8 && d == [] && l != []) &&
      setOf (banded 9 8 0 63) (fun i _ d l => i.length == 8 && d == [] && l == []) && setOf (banded 1 1 0 1) (fun _ r _ _ => r == []) &&
      (let s := banded 9 8 0 64
       ((s.trimSet 0 0).coreOf 0 0).sel.lastSetChange != some 64 && s.cyc 0 == 64 &&
         ((s.updCore 0 0 fun x => { x with sel := { x.sel with lastSetChange := some 64 } }).coreOf 0 0).sel.lastSetChange == some (s.cyc 0))) = true := by decide +kernel

/-- The page is FREE in every stack. -/
def freePage : State := (List.range 16).foldl (fun (s : State) n => s.updCtrl n fun k =>
  { k with maps := k.maps.map fun (m : Mapping) => { m with attr := 0x020F } }) mappedAll
/-- A crew that is stopping whole, and its grid's region for saves: one page at 0x10000; a small crew. -/
def halting (pages : Nat) : State :=
  (onCrew (fun w => { w with ctl := { w.ctl with stopping := true }, bands := w.bands.map fun b => (b.1, { b.2 with stopped := true }),
                             front := w.front.map fun f => { f with ended := true },
                             cfg := { w.cfg with regs := 8, scrKB := 1, clusKB := 0, poolN := 0, caddy := 0 } }) freePage).updCtxDie 0 1 fun x =>
    { x with saveBase := 1, savePages := BitVec.ofNat 16 pages }
def crew0 (s : State) (p : Crew → Bool) : Bool := match s.crewOf s.cur.crew with | some cw => p cw | none => false
def placed (s : State) : Option (List Nat) :=
  carve (s.ctxDie 0 1).saveUsed ((s.ctxDie 0 1).saveBase.toNat * 65536) (s.ctxDie 0 1).savePages.toNat
    ((s.clusterCrews 0 0x101 0).map fun x => x.2.cfg.blockPages)
def retiring : State := onCrew (fun w => { w with bands := [], front := none, window := [], cfg := { w.cfg with poolN := 0 } }) base
/-- A cluster that waits at die 0 in period 1, where cores have room; and where the crew of core 0 is all that the die has room for. -/
def waiting (age : Nat) : State :=
  base.updDie 0 fun d => { d with cyc := 128, disp := { d.disp with queues := [[], [], [], []].set 0 [⟨0x101, 0, age, none, none⟩] } }
def big : LaunchRec := { placedGrid.launch with scrKB := 1000 }

theorem witness_CoreEvents :
    ([255, 256].all (fun c => let s := (onThread (fun b => { b with x := { b.x with phase := .merging 0 } }) base).updDie 0 fun d => { d with cyc := c }
        (match s.thread s.cur with | some b => b.x.phase == .merging 0 && !b.trapPriv | none => false) &&
          decide (0 + 256 ≤ s.cyc 0) == decide (256 ≤ c)) &&
      -- a window at its last cycle, one that all others have joined, and one that waits
      [(64, [], true), (0, [(1, 0, 0)], true), (63, [], false)].all (fun (x : Nat × List (Nat × Nat × Nat) × Bool) =>
        let w : McWin := { block := 0, openedAt := 0, others := [1], joined := x.2.1, data := none }
        (decide (w.openedAt + 64 ≤ x.1) || w.others.all fun c => w.joined.any fun j => j.1 == c) == x.2.2) &&
      -- traps: accepted, held back, none; and a band that is overdue
      (let trap : PendTrap := { cause := 14, info := 0, lanes := 1, fpc := 0x10000, restart := 0x10000, srcs := [], insn0 := 0, insn1 := 0,
                                annex := 0, decode := 0 }
       let s := onThread (fun b => { b with pending := some trap }) (vectored 14)
       let u := s.settle s.cur
       (match u.thread u.cur with | some b => b.pending == some trap && !b.writersOut | none => false) &&
         crew0 u (fun cw => u.vector 1 cw.cfg.trapVec 14 == .handler 0x10020) &&
         (match base.thread base.cur with | some b => b.pending == none | none => false)) &&
      (let s := (onThread (fun b => { b with stopReq := some 0 }) base).updDie 0 fun d => { d with cyc := 1000000 }
       let u := s.settle s.cur
       crew0 u fun cw => decide (0 + u.spmaxOf cw ≤ u.cyc 0) && match u.thread u.cur with
         | some b => b.stopReq == some 0 && b.running && !b.stopped && b.pending == none && b.x.chain == none && b.x.phase.mayOverrun &&
             !b.writersOut && b.committed && [true, false].all fun c => { b with cancelTrap := c }.cancelTrap == c
         | none => false) &&
      -- saves: drained with a page, without one, and not halted
      (halting 1).clusterCrews 0 0x101 0 != [] && ((halting 1).clusterCrews 0 0x101 0).all (fun x => x.2.halted && (halting 1).drained x.1 x.2 &&
        (List.range 16).all fun t => !(x.2.table t).noRoom) && placed (halting 1) == some [0x10000] && placed (halting 0) == none &&
      (base.clusterCrews 0 0x101 0).any (fun x => !x.2.halted) &&
      (match freePage.devKey 1 (fun a => savePage a) 0x10000, freePage.devKey 1 (fun a => savePage a) 0x1FFFF with
        | .ok _, .ok _ => true
        | _, _ => false) &&
      -- retirements
      crew0 retiring (fun cw => retiring.mayRetire retiring.cur.crew cw && cw.cfg.lin == 0) && crew0 base (fun cw => !base.mayRetire base.cur.crew cw) &&
      (base.gridDie 0 0x101).ranges == [(0, 1, 0)] && (base.ownerAt 0x101).1 == base.pkg &&
      -- a cluster that fits, and one that does not, in a period that has not been run
      [0, 15].all (fun a => let s := waiting a
        (s.dieOf 0).disp.lastRound == 0 && s.cyc 0 / 128 == 1 && !(s.gridDie 0 0x101).halted && !(s.dieOf 0).stopped &&
          (s.dieOf 0).disp.queues == (List.replicate 4 []).set 0 [⟨0x101, 0, a, none, none⟩] && !s.held 0 ⟨0x101, 0, a, none, none⟩)) = true := by
  decide +kernel

/-- `CoreEvents`: the cluster fits, and one with more scratch than a core has does not. -/
theorem witness_placement :
    (match (waiting 0).firstSlot 0 placedGrid.launch ⟨0x101, 0, 0, none, none⟩ ((waiting 0).drains 0) with
      | some x => (x.2.map fun f => f.core).length == 1
      | none => false) = true ∧ ((waiting 0).firstSlot 0 big ⟨0x101, 0, 0, none, none⟩ ((waiting 0).drains 0)).isNone = true := by decide +kernel

/-- Where every byte of a block may be written, the block is written. -/
theorem witness_saveBytes (s : State) (ctx : B6) (va : Nat) (bs : List Byte)
    (h : ∀ i, i < bs.length → ∃ k, s.devKey ctx (fun a => savePage a) (va + i) = .ok k) : ∃ s1, s.saveBytes ctx [(va, bs, true)] = (none, s1) := by
  have keys : ∀ n va, (∀ i, i < n → ∃ k, s.devKey ctx (fun a => savePage a) (va + i) = .ok k) →
      ∃ ks, s.devKeys ctx (fun a => savePage a) va n = .ok ks := by
    intro n
    induction n with
    | zero => exact fun va _ => ⟨[], rfl⟩
    | succ n ih =>
      intro va h
      obtain ⟨k, hk⟩ := h 0 (by omega)
      obtain ⟨ks, hs⟩ := ih (va + 1) fun i hi => by
        have := h (i + 1) (by omega)
        rwa [show va + (i + 1) = va + 1 + i by omega] at this
      exact ⟨k :: ks, by rw [State.devKeys, show s.devKey ctx _ va = _ from hk, hs]⟩
  obtain ⟨ks, hs⟩ := keys bs.length va h
  exact ⟨s.setMem ((ks.zip bs).foldl (fun m x => Memory.write m x.1 x.2) s.mem), by simp only [State.saveBytes, if_true, hs]⟩
/-- A tensor record: core space at 0x200, words of type s32, n of them, box b. -/
def tensor (n b pad : Nat) : List Byte :=
  leBytes 8 0x200 ++ [1, 2 + 8 * 2, 1, BitVec.ofNat 8 pad, 7, 0, 0, 0] ++ (([n, 1, 1, 1, 1] : List Nat).flatMap fun x => leBytes 4 x) ++
    (([b, 1, 1, 1, 1] : List Nat).flatMap fun x => leBytes 2 x) ++ [0, 0] ++ List.replicate 16 0
/-- A command of channel 1: record at 0x400 and dense side at 0x600 in core space. -/
def copying (op : CopyOp) (dir : Bool) (origin cnt : Nat) (rcd : Option TensorRec) (st : EngSt) : CopyCmd :=
  { op := op, seq := 0, slot := 0, thread := base.cur, waitId := 7, pc := 0x10000,
    cmd := BitVec.ofNat 64 (2 ^ 62 + (if dir then 2 ^ 61 else 0) + 2 ^ 58 + 2 ^ 56 + 2 ^ 5 * cnt), recAddr := 0x400, dense := 0x600,
    origin := [origin, 0, 0, 0, 0], idxOff := 0x700, st := st, rcd := rcd, idx := [], pos := 0, buf := [], logged := false, status := 0 }
def scr (off : Nat) (bs : List Byte) (s : State) : State :=
  match s.crewOf s.cur.crew with | some cw => s.putScr s.cur.crew cw .core 0 off bs | none => s
def chan (k : CopyCmd) (s : State) : State :=
  ({ s with unit := 1 } : State).updCore 0 0 fun c => { c with copy := c.copy.set 1 [k] }
def started (k : CopyCmd) (n b pad : Nat) : State := chan k (scr 0x400 (tensor n b pad) base)
def running (k : CopyCmd) : State := chan k (scr 0x600 [1, 2, 3, 4] (scr 0x200 [5, 6, 7, 8] base))

/-- `EngineEvents`: the starts of copy commands. -/
theorem witness_CopyStart :
    (-- fences; a record that is misaligned, one with a bad field, one that is good, in range and out of range; gathers of 1 and of 4097 rows
      (match CopyOp.qfence 3 with | .qfence m => m == 3 | _ => false) &&
      [(started (copying .cpy false 0 0 none .queued) 4 2 0, false, false), (started (copying .cpy false 3 0 none .queued) 4 2 0, false, true),
        (started (copying .cpy false 3 0 none .queued) 4 2 1, false, true), (started (copying .cpyAdd true 0 0 none .queued) 4 2 1, false, false),
        (started (copying .cpyg false 0 1 none .queued) 4 2 0, false, false), (base, true, false)].all
        (fun (x : State × Bool × Bool) => crew0 x.1 fun cw =>
          let s := chan (copying .cpy false 0 0 none .queued) x.1
          let k := (((if x.2.1 then s else x.1).coreOf 0 0).copy.getD 1 []).headD (copying .cpy false 0 0 none .queued)
          let g := k.eng base.cur.crew 1
          k.recAddr.toNat % 64 == 0 && k.rcd == none && k.st == .queued && (x.1.engHeld g cw k.rsp [0x400]).isNone &&
            match x.1.engRead g cw k.rsp attrR 0x400 64 with
            | (.ok rd, s0) =>
              let s1 := ((s0.engDone g).engLeaves g cw k.rsp [0x400]).copyUninit base.cur.crew 1 k.rsp rd.uninit
              tensorBad rd.bytes == x.2.1 && (x.2.1 || (k.dense.toNat % (TensorRec.parse rd.bytes).bytes == 0 && !k.acnt &&
                k.anyOutside (TensorRec.parse rd.bytes) [] == x.2.2 &&
                (k.op != .cpyAdd || addType (TensorRec.parse rd.bytes).dt == some (4, false, true)) &&
                (!k.gathers || (k.icnt == 1 && s1.engScratch base.cur.crew cw k.isp 0x700 4 && (s1.engHeld g cw k.isp [0x700]).isNone))))
            | _ => false) &&
      (copying .cpyg false 0 4097 none .queued).icnt == 4097 &&
      ({ copying .cpy false 0 0 none .queued with recAddr := 0x404 } : CopyCmd).recAddr.toNat % 64 != 0) = true := by decide +kernel

/-- `EngineEvents`: the elements of copy commands, in range and outside, towards the tensor and from it. -/
theorem witness_CopyElements :
    ([(false, 0), (false, 9), (true, 0), (true, 9)].all (fun (x : Bool × Nat) =>
        let t := TensorRec.parse (tensor 4 2 1)
        let k := copying .cpy x.1 x.2 0 (some t) .running
        let s := running k
        crew0 s fun cw =>
          let cs := boxCoords t k.origin 0
          let g := k.eng base.cur.crew 1
          let r := base.cur.crew
          let todo := (List.range (min (k.total t) (k.unit t))).map fun i => 0 + i
          t.at_ == .core && k.dsp == .core && !k.acnt && k.buf == [] && t.outside cs == (x.2 != 0) && decide (0 < k.total t) &&
            (todo.flatMap fun p => k.clusSource t (k.coords t p) p) == [] &&
            s.engScratch r cw .core (k.denseAt t 0) t.bytes && (s.uninit r cw .core (k.denseAt t 0) t.bytes).isNone &&
            (x.2 != 0 || (s.engScratch r cw .core (t.addr cs) t.bytes && (s.uninit r cw .core (t.addr cs) t.bytes).isNone)) &&
            match s.copyReads g cw k t todo with
            | (bs, u, none, s1) =>
              let s2 := (s1.copyUninit r 1 (if k.dir then k.dsp else t.at_) u).updHead 0 0 1 fun x => { x with buf := bs }
              (s2.copyDeliver r cw 1 k t (((List.range bs.length).zip bs).map fun x => (0 + x.1, x.2))).1 == none
            | _ => false) &&
      -- the last element, and the channel register with and without commands
      (let k := copying .cpy false 0 0 none .running
       decide (k.total (TensorRec.parse (tensor 4 1 1)) ≤ ({ k with pos := 1 } : CopyCmd).pos)) && ((running (copying .cpy false 0 0 none .queued)).coreOf 0 0).copyOf 0 1 != [] &&
      (base.coreOf 0 0).copyOf 0 1 == []) = true := by decide +kernel

/-- One lane is left, and an operation of that crew is in the queue; it is the next one. -/
def opened (o : JOp) (s : State) : State :=
  (onThread (fun b => { b with waits := [{ id := 7, flag := none, pc := 0x10000, kind := .drain }] }) s).updCore 0 0 fun c => { c with jq := [o] }
def jop (kind : JOpKind) (cmd : W64) (unis : List W64) : JOp :=
  { JOp.make kind 0 base.cur 7 0x10000 0 with cmd := cmd, unis := unis, rows := [some 0x1000], batch := some 0 }
def nextIs (s : State) (p : State → JOp → Crew → Bool) : Bool :=
  let u := s.jSettle 0 0
  match u.nextOp 0 0 with
  | some o => (match u.crewOf (o.crew 0 0) with | some cw => p u o cw | none => false)
  | none => false
def works (r : Except JStop Begun × State) : Bool := match r.1 with | .ok _ => true | .error _ => false

/-- `EngineEvents`: the passes of the Infuser. -/
theorem witness_InfuserPasses :
    (let pass := jop .pass formats [0x2000, 0x2000, 0]
     let bit := jop .bit formats [0x0000200000002000, 0x0000200000002000, 0, 0]
     let stream := jop .stream (0xD <<< 55) [0x100002000, 0x100003000]
     nextIs (opened pass (tabled base)) (fun u o cw => o.kind == .pass && !o.masked && !o.scaled && o.asp == .core && o.bsp == .core &&
        o.sums == [] && works (u.quarterBegin 0 0 o cw)) &&
      nextIs (opened (jop .pass (formats + 2 ^ 44) [0x2000, 0x2000, 0, 4]) (tabled base)) (fun u o cw => o.sums == [] && !works (u.quarterBegin 0 0 o cw)) &&
      nextIs (opened bit (tabled base)) (fun u o cw => o.kind == .bit && works (u.bitBegin 0 0 o cw)) &&
      nextIs (opened stream (tabled base)) (fun u o cw => o.kind == .stream && o.uhi 0 == 1 && o.uhi 1 == 1 && o.step == 0 && o.keyPos == 0 &&
        o.afmt != 0x0A && works (u.streamBegin 0 0 o cw))) = true := by decide +kernel

/-- The value 1 at row 1 and column 2 of table 0. -/
def sum0 : JSum := { key := jkey 0 1 2, val := some (.fin Q.one, .fin Q.one), st := 0, a := 0, pos := 0 }
/-- A tile of 4 by 2 elements of 8 bytes in core space. -/
def tile : TensorRec :=
  { base := 0x800, space := 1, esz := 3, dt := 0xD, ndim := 2, pad := 0, padb := 0, size := [4, 2, 1, 1, 1], box := [4, 2, 1, 1, 1],
    stride := [0, 32, 0, 0, 0] }
def draining (list : Bool) (rcd : Option TensorRec) (pos : Nat) (written : Bool) : JOp :=
  { jop .drain (BitVec.ofNat 64 ((if list then 2 ^ 59 else 0) + 0xD * 2 ^ 54)) [0x400, 0, 0, 0] with
    rcd := rcd, sums := [sum0], keyPos := pos, written := written, st := if rcd.isSome then .running else .queued }

/-- `EngineEvents`: sums placed, drains and batches. -/
theorem witness_InfuserPlacesAndDrains :
    (-- the last sums of an operation, and sums with a pass to come; into a free entry and one that holds the key
      (let stream := jop .stream (0xD <<< 55) [0x100002000, 0x100003000]
       let full := tabled base |>.updCore 0 0 fun c => { c with caddy := c.caddy.set 18 { key := jkey 0 1 2, lo := 0, hi := 0 } }
       [({ stream with sums := [sum0], written := true }, tabled base), ({ stream with sums := [sum0] }, tabled base),
          ({ stream with sums := [sum0] }, full)].all (fun (x : JOp × State) =>
        nextIs (opened x.1 x.2) fun u o cw => o.sums == [sum0] && o.fails == 0 && (cw.table 0).mode == 1 && (cw.table 0).direct sum0.key == some 18 &&
          (((u.coreOf 0 0).caddy.find? ((cw.table 0).slot cw 18)).all fun e => e.key == sum0.key) &&
          match u.placeKeys (o.eng 0 0) cw 0 o.sums with | (left, stop, _, _) => left == [] && stop.isNone)) &&
      -- a drain that begins, one that cannot, one that writes elements or rows, one that is over
      nextIs (opened (draining true none 0 false) (tabled base)) (fun u o cw => o.kind == .drain && o.rcd.isNone &&
        match u.drainBegin 0 0 o cw with | (.ok _, _) => true | _ => false) &&
      nextIs (opened (draining false none 0 false) (tabled base)) (fun u o cw => o.rcd.isNone && !o.written &&
        match u.drainBegin 0 0 o cw with | (.error _, _) => true | _ => false) &&
      nextIs (opened (draining true (some tile) 0 false) (tabled base)) (fun _ o _ => o.list && o.rcd.isSome && !o.written) &&
      [0, 6].all (fun p => nextIs (opened (draining false (some tile) p false) (tabled base)) fun u o cw => !o.list && tile.at_ == .core &&
        !isB8 o.ofmt && decide (o.keyPos + 1 < tile.sizeOf 0 * tile.sizeOf 1) &&
        u.engScratch (o.crew 0 0) cw .core (tile.addr [p % 4, p / 4]) 8) &&
      nextIs (opened (draining false (some tile) 7 true) (tabled base)) (fun _ o _ => o.kind == .drain && o.written) &&
      -- batches: pending and over, pending, none
      (let s := onThread (fun b => { b with batchPend := [(3, true)] }) base
       s.batchOver s.cur 3 && !(opened { jop .stream 0 [] with batch := some 3 } s).batchOver s.cur 3 &&
         match s.thread s.cur, base.thread base.cur with
         | some b, some b0 => b.batchPend.get false 3 && !b0.batchPend.get false 3
         | _, _ => false)) = true := by decide +kernel

/-! ## Decoding: words written out from Tables 12.1, 12.3 to 12.7 and the opcode map -/

/-- The base word of Table 12.1. -/
def word (len sp dist setf gpred gmode opc dst srca srcb : Nat) : Nat :=
  len + 2 ^ 2 * sp + 2 ^ 3 * dist + 2 ^ 18 * setf + 2 ^ 22 * gpred + 2 ^ 25 * gmode + 2 ^ 28 * opc + 2 ^ 36 * dst + 2 ^ 46 * srca + 2 ^ 55 * srcb
/-- The extension word of Table 12.5. -/
def extWord (mods xlane hold rmode type srcc : Nat) : Nat :=
  2 ^ 24 * mods + 2 ^ 19 * xlane + 2 ^ 16 * hold + 2 ^ 13 * rmode + 2 ^ 9 * type + srcc
/-- Table 12.3: a slot, a uniform register, an inline integer. -/
def v (k : Nat) : Nat := k
def u (k : Nat) : Nat := 2 ^ 7 * 3 + 16 + k
def inl (n : Int) : Nat := 2 ^ 7 * 3 + (96 + n).toNat
def reads (front : Bool) (bytes : List Byte) (len : Nat) (p : Instr → Bool) : Bool :=
  match decode front bytes with | .ok d => d.len == len && p d.instr | .error _ => false
def readsA (w : Nat) (p : Instr → Bool) : Bool := reads false (leBytes 8 w) 8 p
def readsB (w x : Nat) (p : Instr → Bool) : Bool := reads false (leBytes 8 w ++ leBytes 4 x) 12 p
def readsE (w x : Nat) (p : Instr → Bool) : Bool := reads false (leBytes 8 w ++ leBytes 8 x) 16 p

/-- The worked example of chapter 12: `(p3:T) FADD x4, x8, x10` with a hold on source B, `DIST` 4 and `w5`. -/
theorem test_decode_fadd : readsB (word 1 0 4 5 3 1 0x80 (v 4) (v 8) (v 10)) (extWord 0 0 2 0 0xD 0) (fun i => match i with
    | .fadd c => c.dst == .slot 4 && c.srca == .slot 8 && c.srcb == .slot 10 && c.gpred == 3 && c.gmode == 1 && c.dist == 4 && c.setf == 5 &&
        c.hold == 2 && c.type == 0xD
    | _ => false) = true := by decide +kernel

/-- `IADD v4, v8, #-32` in form A, whose type is the default. -/
theorem test_decode_iadd : readsA (word 0 0 0 15 0 0 0x01 (v 4) (v 8) (inl (-32))) (fun i => match i with
    | .iadd c => c.dst == .slot 4 && c.srca == .slot 8 && c.srcb == .imm 0 && c.type == 2 && c.form == .a
    | _ => false) = true := by decide +kernel

/-- `MOVI v4` in form C, and `SETIX` of `ix1` in form A. -/
theorem test_decode_moves :
    (readsE (word 2 0 0 15 0 0 0x1E (v 4) 0 0) 0x123456789 (fun i => match i with | .movi c => c.payload == 0x123456789 | _ => false) &&
      readsA (word 0 0 0 15 0 0 0x22 (v 1) (u 3) (inl 0)) (fun i => match i with | .setix c => c.srca == .uni 3 | _ => false)) = true := by decide +kernel

/-- `BRA` backward by one unit, `LOOP`, and in a front context `SBR`. -/
theorem test_decode_control :
    (reads false (leBytes 8 (word 1 0 0 15 0 0 0x40 0 0 0) ++ leBytes 4 (2 ^ 32 - 1)) 12
        (fun i => match i with | .bra c => c.payload == 0xFFFFFFFF && c.form == .f | _ => false) &&
      reads false (leBytes 8 (word 1 0 0 15 0 0 0x4C 0 0 0) ++ leBytes 4 8) 12 (fun i => match i with | .loopb _ => true | _ => false) &&
      reads true (leBytes 8 (word 1 0 0 15 0 0 0x72 0 (v 9) 0) ++ leBytes 4 8) 12 (fun i => match i with | .sbr c => c.srca == .slot 9 | _ => false)) =
      true := by decide +kernel

/-- `PAND p1, p2, p3`, `SHFL` and `SOP`. -/
theorem test_decode_predicates_lanes_uniforms :
    (readsA (word 0 0 0 15 0 0 0x52 1 2 3) (fun i => match i with | .pand c => c.dst == .slot 1 && c.srcb == .slot 3 | _ => false) &&
      readsA (word 0 0 0 15 0 0 0x60 (v 4) 0 (v 12)) (fun i => match i with | .shfl _ => true | _ => false) &&
      readsB (word 1 0 0 15 0 0 0x70 (u 4) (u 8) (u 12)) (extWord 0 0 0 0 3 0) (fun i => match i with | .sop c => c.dst == .uni 4 | _ => false)) =
      true := by decide +kernel

/-- `FEXP2 x4, x8`: the transcendental/convert pipe. -/
theorem test_decode_fexp2 : readsA (word 0 0 0 15 0 0 0xA5 (v 4) (v 8) 0) (fun i => match i with | .fexp2 c => c.type == 0xD | _ => false) =
    true := by decide +kernel

/-- `LD.64` from `core` space, `BAR` of kind 1, and `QFENCE` for channel 0. -/
theorem test_decode_memory :
    (readsB (word 1 0 0 15 0 0 0xB0 (v 4) (v 8) 0) (extWord 1 0 0 0 3 0) (fun i => match i with | .ld c => c.mods == 1 && c.type == 3 | _ => false) &&
      readsA (word 0 0 0 15 0 0 0xB8 0 1 0) (fun i => match i with | .bar c => c.srca == .slot 1 | _ => false) &&
      readsA (word 0 0 0 15 0 0 0xD4 0 3 1) (fun i => match i with | .qfence _ => true | _ => false)) = true := by decide +kernel

/-- `EMIT` and `LAUNCH`. -/
theorem test_decode_tasks :
    (readsB (word 1 0 0 15 0 0 0xE0 0 (v 8) 0) (extWord 0 0 0 0 0 0) (fun i => match i with | .emit _ => true | _ => false) &&
      readsA (word 0 0 0 15 0 0 0xE5 (u 4) (u 8) (u 12)) (fun i => match i with | .launch c => c.dst == .uni 4 | _ => false)) = true := by decide +kernel

/-- `JBATCH`, `CSRR` of register 2 and `TRET`. -/
theorem test_decode_infuser_and_system :
    (readsA (word 0 0 0 15 0 0 0xF3 (u 4) 0 0) (fun i => match i with | .jbatch c => c.dst == .uni 4 | _ => false) &&
      readsB (word 1 0 0 15 0 0 0xF8 (v 4) 0 0) (extWord 2 0 0 0 0 0) (fun i => match i with | .csrr c => c.csr == 2 | _ => false) &&
      readsA (word 0 0 0 15 0 0 0xFC 0 0 0) (fun i => match i with | .tretResume _ => true | _ => false)) = true := by decide +kernel

/-- `MRG` needs its annex: 8 bytes more, R285. -/
theorem test_decode_annex :
    (reads false (leBytes 8 (word 0 1 0 15 0 0 0x50 0 0 0) ++ leBytes 8 3) 16 (fun i => match i with | .mrg c => c.annex == some 3 | _ => false) &&
      !reads false (leBytes 8 (word 0 0 0 15 0 0 0x50 0 0 0) ++ leBytes 8 3) 8 fun _ => true) = true := by decide +kernel

/-- Table 12.14: the cause and the code of each test that fails, in its order. -/
theorem test_decode_refusals :
    ([(leBytes 8 (word 1 0 0 15 0 0 0x01 0 0 0), 2, 1), (leBytes 8 3, 2, 4), (leBytes 8 (word 0 0 0 15 0 0 0x23 0 0 0), 1, 0),
      (leBytes 8 (word 0 0 0 15 0 0 0x07 0 0 0), 2, 4), (leBytes 8 (word 0 0 0 13 0 0 0x01 0 0 0), 2, 8),
      (leBytes 8 (word 0 0 0 15 0 7 0x01 0 0 0), 2, 10), (leBytes 8 (word 0 0 0 15 1 0 0x01 0 0 0), 2, 2),
      (leBytes 8 (word 0 0 0 15 0 0 0x01 (2 ^ 7 * 3 + 8) 0 0), 2, 6), (leBytes 8 (word 0 0 0 15 0 1 0x43 0 (u 1) 0), 2, 14)].all
      fun (x : List Byte × Nat × Nat) => match decode false x.1 with | .error t => t.cause == x.2.1 && t.info == x.2.2 | .ok _ => false) =
      true := by decide +kernel

/-- The decoder as the opcode table numbers its bits, and the first step of a placed word: the PC moves past the words. -/
theorem test_table_word_and_step :
    let w := word 0 0 0 15 0 0 0x01 4 8 (inl 5)
    (match decodeTableWord 64 w with | some (.iadd c) => c.srcb == .imm 37 | _ => false) = true ∧
    (match step (State.reset.withFetchWord 64 w) with
      | .next t => (match t.thread base.cur with | some b => b.x.pc == 0x10008 && b.pends.length == 1 | none => false)
      | _ => false) = true := by decide +kernel

/-! ## Ill-formed terms: one for each check of `WellFormed` -/

def wf (i : Instr) : Bool := i.wf
def iadd0 : Code := std 1
def pkt (src dst : Nat) : PktHdr := hdr0 0 src dst

/-- The terms that the others vary are well-formed. -/
theorem test_wf_accepts :
    (wf (.iadd iadd0) && wf (.rgn (annexed (std 0x51))) && wf (.ld (std 0xB0)) && wf (.create 2 5 0) &&
      wf (.controlRegisterWrite 0 25 0 0) && wf (.crewScrchkClrlog 1 ⟨7, 255, 7⟩) && wf (.linkCtlRetrain 0 ⟨24, true, 8⟩) &&
      wf (.ackTimeout ⟨0, false, 0⟩) && wf (.passengerFatalError 25 0 (List.replicate 40 0)) && wf (.dataFlitReceive link0 (List.replicate 256 0)) &&
      wf (.podPacketArrival 17 ⟨pkt 0 25, .unpark⟩) && wf (.write (pkt 0 8) ⟨0x10000, 1, false, [1, 2]⟩) &&
      wf (.event (pkt 3 24) (List.replicate 64 0)) && wf (.recpart (pkt 0 1) 0x101 (List.replicate 128 0)) && wf (.stealRound 7 0x101)) = true := by
  decide +kernel

/-- Fields that a form does not encode; an annex that is not marked; a guard, a type, an operand and an opcode that the encoding refuses. -/
theorem test_wf_refuses_instructions :
    (!wf (.iadd { iadd0 with payload := 1 }) && !wf (.movi { std 0x1E with mods := 1 }) && !wf (.rgn { std 0x51 with annex := some 1 }) &&
      !wf (.rgn (std 0x51)) && !wf (.iadd { iadd0 with setf := 12 }) && !wf (.iadd { iadd0 with gmode := 7 }) &&
      !wf (.iadd { iadd0 with gpred := 1 }) && !wf (.iadd { iadd0 with dst := .imm 0 }) && !wf (.iadd { iadd0 with form := .c }) &&
      !wf (.fadd { std 0x80 with dst := .slot 5 }) == !(Instr.fadd { std 0x80 with dst := .slot 5 }).wf &&
      !(Instr.iadd iadd0).encodable true && !(Instr.sbr (std 0x72)).encodable false && !wf (.tretSkip (std 0xFC 0))) = true := by decide +kernel

/-- Candidates, sockets, modules, ports, dies, cores and crew slots out of range. -/
theorem test_wf_refuses_places :
    (!wf (.create 3 5 0) && !wf (.controlRegisterWrite 0 26 0 0) && !wf (.controlRegisterWrite 3 0 0 0) && !wf (.timeCtlApply 0 26) &&
      !wf (.crewScrchkClrlog 1 ⟨8, 0, 0⟩) && !wf (.crewScrchkClrlog 1 ⟨0, 256, 0⟩) && !wf (.crewScrchkClrlog 1 ⟨0, 0, 8⟩) &&
      !wf (.linkCtlRetrain 0 ⟨24, true, 9⟩) && !wf (.linkCtlRetrain 0 ⟨0, true, 0⟩) && !wf (.ackTimeout ⟨26, false, 0⟩) &&
      !wf (.ackTimeout ⟨0, false, 99⟩) && !wf (.podPacketArrival 18 ⟨pkt 0 25, .unpark⟩) && !wf (.podPacketArrival 0 ⟨pkt 26 0, .unpark⟩) &&
      !wf (.unpark (pkt 0 31)) && !wf (.stealRound 8 0x101)) = true := by decide +kernel

/-- Lengths out of range: a fault detail, a flit, a write's bytes, and records. -/
theorem test_wf_refuses_lengths :
    (!wf (.passengerFatalError 25 0 (List.replicate 41 0)) && !wf (.dataFlitReceive link0 (List.replicate 255 0)) &&
      !wf (.write (pkt 0 8) ⟨0x10000, 1, false, [1]⟩) && !wf (.event (pkt 3 24) []) && !wf (.recpart (pkt 0 1) 0x101 (List.replicate 64 0)) &&
      !wf (.stealrec (pkt 0 1) 0x101 0 []) && !wf (.token (pkt 0 1) ⟨1, 0, 0⟩ []) && !wf (.bounce (pkt 0 1) ⟨⟨0, 0, false⟩, 0x101, []⟩)) = true := by
  decide +kernel

/-! ## Witnesses: the machine as a whole -/

/-- `EncodeDecodes`: instructions of every form, and of a front context, are encodable. -/
theorem witness_EncodeDecodes :
    ((Instr.iadd iadd0).encodable false && (Instr.movi (std 0x1E)).encodable false && (Instr.cpy (std 0xD0)).encodable false &&
      (Instr.bra (std 0x40)).encodable false && (Instr.bra (std 0x40)).encodable true && (Instr.rgn (annexed (std 0x51))).encodable false &&
      (Instr.iadd { iadd0 with form := .d, srcb := .slot 0, payload := 0xFFFFFFFF }).encodable false) = true := by decide +kernel

/-- What `StepRunsDecoded` asks of a thread's turn. -/
def turnOk (s : State) (t : ThreadRef) (bs : List Byte) (collects : Bool) : Bool :=
  let s0 : State := { s with agenda := [] }
  let u := (s0.poll t).barPoll t
  let now := u.cyc t.die
  match u.crewOf t.crew, u.thread t with
  | some cw, some b0 =>
    let b := b0.settle now u.free
    let ctx := handleCtx cw.cfg.handle
    let front := t.band.isNone
    let sel := (u.coreOf t.die t.core).sel
    s.agenda == [.issue t] && s.dieRuns t.die && !s0.frontBlocked t && b.running && !b.stopped && b.pending == none && !cw.ctl.cancelled && b.stopReq == none &&
      b.parked == none && b.x.phase.isOpen && !b.asking u t ctx && !(front && (b.frontHeld || sel.frontAt == some now)) &&
      (front || ((u.barTrap t cw b).isNone && !b.bpHit && (u.coreOf t.die t.core).inSet t &&
        match u.halfFor t b now with | some _ => true | none => false)) &&
      (match u.codeAt t.die t.core ctx b.x.pc with | (.bytes x, _) => x.take bs.length == bs | _ => false) &&
      (match decode front bs with
        | .ok d => (match d.instr.code with
          | some (opc, c) => b.mayIssue c now && ((((u.keepFetched t).withCur t).collecting t d.instr).1 == collects) &&
            (front || match u.halfFor t b now with
              | some k => !pipeBusy sel opc k now && !portTaken sel opc now
              | none => false)
          | none => false)
        | .error _ => false)
  | _, _ => false

/-- A band's first instruction, one whose sources lie in one bank, with its collection at hand and begun, and a front context's; events; packets
that are the first of their routes, by the ring and not; a hop on the way and the last one. -/
theorem witness_StepRunsDecoded :
    (let band := word 0 0 0 15 0 0 0x01 4 (u 8) (inl 5)
     let slow := word 0 0 0 15 0 0 0x01 4 8 14
     let front := word 0 0 0 15 0 0 0x75 0 0 0
     let r := State.reset
     turnOk (r.withFetchWord 64 band) base.cur (leBytes 8 band) false && turnOk (r.withFetchWord 64 slow) base.cur (leBytes 8 slow) true &&
      turnOk (r.withFetchWord 64 front) baseFront.cur (leBytes 8 front) false &&
      (let s : State := ((r.withFetchWord 64 slow).keepFetched base.cur).withCur base.cur
       let i := Instr.iadd { std 1 with srca := .slot 8, srcb := .slot 14 }
       let none_ := s.updCore 0 0 fun x => { x with sel := { x.sel with held0 := none, held1 := none } }
       let begun := none_.collect base.cur i
       none_.collecting base.cur i == (true, none) && s.collecting base.cur i == (true, some (s.cyc 0)) &&
         begun.collecting base.cur i == (true, some (s.cyc 0 + 2)) &&
         [s, none_, begun].all fun s => match exec i s with | .next w => s.gotOn w base.cur | _ => false) &&
      (Instr.powerWindow 5).code == none && (!Instr.onDie .take || base.dieRuns 0) && !base.inSafeMode &&
      (let safe := base.updStart fun x => { x with kind := .safe }
       safe.inSafeMode && Instr.inSafe .claimWindowClose) &&
      (let p : Packet := ⟨pkt 3 0, .unpark⟩
       let s := { base with agenda := [.deliver 1], net := [⟨pkt 4 0, .unpark⟩, p] }
       s.net[1]? == some p && (s.net.take 1).all (fun q => !Packet.sameRoute q p) && !s.tooLate p && !Packet.onRing p && s.takesPackets 0) &&
      (let p : Packet := ⟨pkt 3 0, .cancel 0x101⟩
       Packet.onRing p && base.ringJoin p.hdr.srcSock.toNat != base.ringEnd p && !base.tooLate p &&
         base.ringJoin (pkt 0 0).srcSock.toNat == base.ringEnd ⟨pkt 0 0, .cancel 0x101⟩ && base.ring == [] && base.ringEnd p == 0)) = true := by
  decide +kernel

/-- `NothingRefused`: a running thread of a crew whose grid is known. -/
theorem witness_NothingRefused :
    ((Instr.iadd iadd0).encodable base.cur.band.isNone && (Instr.powerOn).code == none &&
      (match base.thread base.cur, base.crewOf base.cur.crew with
        | some b, some cw => b.running && (base.gridOf cw.cfg.handle).isSome
        | _, _ => false)) = true := by decide +kernel

/-- `CanonicalMemoryKept`: the memory right after reset, and that of the placed machine, are in canonical form, and the latter steps on. -/
theorem witness_CanonicalMemoryKept :
    (Memory.wf State.reset.mem && Memory.wf base.mem &&
      match step (State.reset.withFetchWord 64 (word 0 0 0 15 0 0 0x01 4 8 (inl 5))) with | .next _ => true | _ => false) = true := by decide +kernel

/-- `AtomicOperations`: an operation for each of the eleven, with widths that agree. -/
theorem witness_AtomicOperations :
    ((List.range 11).all fun op => decide (op < 11) && [(4, f16), (8, f32), (16, f64)].all fun (x : Nat × Fmt) =>
      ({ bits := 8 * x.1, signed := true } : ITy).bits == 8 * x.1) = true := by decide +kernel

end Sys2Proof.Tests
end

section
/-!
Predicate logic, R248 and R327: the codes of the three values, Table 10.8 as closed forms of the model's connectives, and what a
predicate instruction answers.
-/
namespace Sys2Proof.Machine

/-! ## Codes of predicate values, R248 -/

@[simp] theorem triOf_triNum (p : Tri) : triOf (triNum p) = p := by cases p <;> rfl

/-- Code 11 is never written. -/
theorem triNum_lt_three (p : Tri) : triNum p < 3 := by cases p <;> decide

/-! ## Kleene logic, Table 10.8 -/

/-- F decides a conjunction, and T only with T. -/
theorem triAnd_eq_ite (a b : Tri) :
    triAnd a b = if a = .f ∨ b = .f then .f else if a = .t ∧ b = .t then .t else .u := by
  cases a <;> cases b <;> rfl

/-- T decides a disjunction, and F only with F. -/
theorem triOr_eq_ite (a b : Tri) :
    triOr a b = if a = .t ∨ b = .t then .t else if a = .f ∧ b = .f then .f else .u := by
  cases a <;> cases b <;> rfl

/-- An exclusive disjunction is undecided with either operand. -/
theorem triXor_eq_ite (a b : Tri) :
    triXor a b = if a = .u ∨ b = .u then .u else if a = b then .f else .t := by
  cases a <;> cases b <;> rfl

/-! ## The predicate instructions, R327 -/

theorem exec_pand (c : Code) (s : State) : exec (.pand c) s = predInstr 0x52 c s triAnd := rfl
theorem exec_por (c : Code) (s : State) : exec (.por c) s = predInstr 0x53 c s triOr := rfl
theorem exec_pxor (c : Code) (s : State) : exec (.pxor c) s = predInstr 0x54 c s triXor := rfl
theorem exec_pnot (c : Code) (s : State) : exec (.pnot c) s = predInstr 0x55 c s fun a _ => triNot a := rfl

theorem exec_pdec (c : Code) (s : State) : exec (.pdec c) s = execPdec c s := rfl

/-- `PDEC` decides U alone, by `MODS`[0]. -/
theorem execPdec_eq (c : Code) (s : State) :
    execPdec c s = predInstr 0x56 c s fun a _ => if a = .u then (if c.mods.getLsbD 0 then .t else .f) else a := by
  unfold execPdec
  congr 1
  funext a _
  cases a with
  | f => rfl
  | t => rfl
  | u => simp [BitVec.getLsbD, Nat.testBit_zero]

/-- The instruction that issues is the one whose fields its environment holds. -/
theorem Issues.code {opc : Nat} {c : Code} {s : State} {e : Env} (h : Issues opc c s e) : e.c = c := by
  obtain ⟨_, _, _, _, _, _, _, hc, _⟩ := mkEnv_spec h.1
  exact hc

/-- A predicate instruction answers, in each acting lane, any `g` that agrees with its function of the two source predicates. -/
theorem predInstr_answers {opc : Nat} {c : Code} {s : State} {e : Env} {f g : Tri → Tri → Tri} (h : Issues opc c s e)
    (hfg : ∀ a b, f a b = g a b) :
    Answers e s (predInstr opc c s f) (e.predResult 2 fun l => g (e.pred 1 c.srca l) (e.pred 2 c.srcb l)) := by
  obtain rfl : f = g := funext₂ hfg
  rw [predInstr, runInstr_of h, Env.predResult, h.code]
  exact Env.result_answers h.1 (.refl s) _ rfl

/-- Settles O11: each connective agrees with its column of Table 10.8, and each instruction answers its connective in every acting
lane. -/
theorem predicateLogic : Obligations.PredicateLogic := by
  unfold Obligations.PredicateLogic
  refine ⟨fun p => ⟨triOf_triNum p, triNum_lt_three p⟩, rfl, rfl, rfl, rfl, ?_⟩
  rintro mk opc f (⟨rfl, rfl, rfl⟩ | ⟨rfl, rfl, rfl⟩ | ⟨rfl, rfl, rfl⟩ | ⟨rfl, rfl, rfl⟩ | ⟨rfl, rfl, rfl⟩) c s e h
  · rw [exec_pand]
    exact predInstr_answers h triAnd_eq_ite
  · rw [exec_por]
    exact predInstr_answers h triOr_eq_ite
  · rw [exec_pxor]
    exact predInstr_answers h triXor_eq_ite
  · rw [exec_pnot]
    exact predInstr_answers h fun a _ => by cases a <;> rfl
  · rw [exec_pdec, execPdec_eq]
    exact predInstr_answers h fun _ _ => rfl

end Sys2Proof.Machine
end

section
/-!
`SMOVI` and `DQPUSH`: what a landing result leaves in a uniform register, and the end of an instruction that has changed its own
crew beside the threads.
-/
namespace Sys2Proof.Machine

/-! ## A result in its uniform register -/

/-- A uniform register reads back what was put into it. The bound keeps its key below those of the index registers. -/
theorem BandRegs.getKey_putKey_uni (r : BandRegs) {n : Nat} (h : n < 2 ^ 16) (v : W64) :
    (r.putKey (uniKey n) v).getKey (uniKey n) = v := by
  have h1 : ¬ uniKey n < 2 ^ 15 := by unfold uniKey; omega
  have h2 : ¬ uniKey n < 2 ^ 16 := by unfold uniKey; omega
  have h3 : uniKey n < 2 ^ 17 := by unfold uniKey; omega
  rw [BandRegs.putKey, if_neg h1, if_neg h2, if_pos h3, BandRegs.getKey, if_neg h1, if_neg h2, if_pos h3, Tbl.get_set_self]

/-- A uniform register is named by a field of at most 7 bits. -/
theorem uniOf_lt {front : Bool} {o : Opnd} {n : Nat} (h : uniOf front o = some n) : n < 2 ^ 7 := by
  unfold uniOf at h
  split at h
  · next u => cases h; omega
  · next b =>
    split at h
    · cases h; exact b.isLt
    · cases h
  · cases h

@[simp] theorem Band.flagDown_r (b : Band) (f : Option Nat) : (b.flagDown f).r = b.r := by cases f <;> rfl

@[simp] theorem Band.getKey_addStatus (b : Band) (at_ : Nat) (st : BitVec 6) (key : Nat) :
    (b.addStatus at_ st).r.getKey key = b.r.getKey key := by
  unfold Band.addStatus
  split <;> rfl

/-- With no recorded pair of writers no write is contested. -/
theorem Band.contested_of_clob_nil {b : Band} (h : b.clob = []) (p : Pend) (key : Nat) : b.contested p key = false := by
  simp [Band.contested, h]

/-- What a band reads in a register after an uncontested result has landed is the result's writes in their order. -/
theorem Band.getKey_land {b : Band} (h : b.clob = []) (now free : Nat) (p : Pend) (key : Nat) :
    (b.land now free p).r.getKey key = (p.writes.foldl (fun r w => r.putKey w.1 w.2) b.r).getKey key := by
  simp [Band.land, Band.contested_of_clob_nil h]

/-- A uniform result lands with all its 64 bits. -/
theorem Band.getKey_land_uniWrites {e : Env} {n : Nat} (hn : uniOf e.front e.c.dst = some n) {b : Band} (hb : b.clob = [])
    (now free v : Nat) {p : Pend} (hp : p.writes = e.uniWrites v) :
    (b.land now free p).r.getKey (uniKey n) = BitVec.ofNat 64 v := by
  have hlt : n < 2 ^ 16 := (uniOf_lt hn).trans (by decide)
  simp [Band.getKey_land hb, hp, Env.uniWrites, hn, BandRegs.getKey_putKey_uni _ hlt]

/-! ## SMOVI, R343 -/

theorem exec_smovi (c : Code) (s : State) : exec (.smovi c) s = execSmovi c s := rfl

/-- `SMOVI` answers its immediate, two cycles later. -/
theorem execSmovi_answers {c : Code} {s : State} {e : Env} (h : Issues 0x71 c s e) :
    Answers e s (execSmovi c s) (e.fixed 2 (e.uniWrites c.payload.toNat) none 0) := by
  rw [execSmovi, runInstr_of h]
  exact Env.result_answers h.1 (.refl s) _ rfl

/-- Settles O14: the one write of the result that `SMOVI` answers is its immediate, whole. -/
theorem uniformImmediate : Obligations.UniformImmediate := by
  unfold Obligations.UniformImmediate
  intro c s e h
  refine ⟨e.fixed 2 (e.uniWrites c.payload.toNat) none 0, ?_, rfl, ?_⟩
  · rw [exec_smovi]
    exact execSmovi_answers h
  · intro n hn b now free hb
    rw [← h.code] at hn
    rw [Band.getKey_land_uniWrites hn hb now free c.payload.toNat rfl, BitVec.ofNat_toNat, BitVec.setWidth_eq]

/-! ## A change of a crew beside its threads -/

@[simp] theorem State.cyc_setCrew (s : State) (r : CrewRef) (w : Crew) (d : Nat) : (s.setCrew r w).cyc d = s.cyc d := by
  by_cases hd : d = r.die
  · subst hd; simp [State.cyc, State.setCrew, State.updCore, State.setCore, State.updDie]
  · simp [State.cyc, State.setCrew, State.updCore, State.setCore, State.updDie, State.dieOf_setDie_ne _ _ hd]

/-- A core keeps all but its crews. -/
theorem State.coreOf_setCrew (s : State) (r : CrewRef) (w : Crew) (d c : Nat) :
    (s.setCrew r w).coreOf d c = { s.coreOf d c with crews := ((s.setCrew r w).coreOf d c).crews } := by
  by_cases h : d = r.die ∧ c = r.core
  · obtain ⟨rfl, rfl⟩ := h
    simp [State.setCrew, State.updCore]
  · rw [State.setCrew, State.updCore, State.coreOf_setCore_ne _ _ h]

@[simp] theorem State.sel_setCrew (s : State) (r : CrewRef) (w : Crew) (d c : Nat) :
    ((s.setCrew r w).coreOf d c).sel = (s.coreOf d c).sel := by
  rw [State.coreOf_setCrew]

@[simp] theorem State.nextId_setCrew (s : State) (r : CrewRef) (w : Crew) (d c : Nat) :
    ((s.setCrew r w).coreOf d c).nextId = (s.coreOf d c).nextId := by
  rw [State.coreOf_setCrew]

section OwnCrew
variable {s : State} {r : CrewRef} {w w' : Crew} (hw : s.crewOf r = some w) (hth : ∀ n, w'.thread n = w.thread n)
include hw hth

theorem State.thread_setCrew (t : ThreadRef) : (s.setCrew r w').thread t = s.thread t := by
  unfold State.thread
  by_cases hr : t.crew = r
  · simp [hr, hw, hth]
  · rw [State.crewOf_setCrew_ne _ _ hr]

/-- What a thread's issue finds rests on no more of the crews than their threads. -/
theorem State.issuing_setCrew (t : ThreadRef) (b : Band) : (s.setCrew r w').issuing t b = s.issuing t b := by
  have hfree : ∀ now k, (s.setCrew r w').halfFree t now k = s.halfFree t now k := fun now k => by
    simp only [State.halfFree, State.sel_setCrew, State.thread_setCrew hw hth]
  simp only [State.issuing, State.halfFor, hfree, State.sel_setCrew, State.cyc_setCrew, State.setCrew_free]

/-- An instruction sees of the crews no more than their threads and the number of their registers. -/
theorem mkEnv_setCrew (hregs : w'.cfg.regs = w.cfg.regs) (opc : Nat) (c : Code) : mkEnv opc c (s.setCrew r w') = mkEnv opc c s := by
  simp only [mkEnv, State.setCrew_cur, State.setCrew_free, State.cyc_setCrew, State.nextId_setCrew, State.thread_setCrew hw hth,
    State.issuing_setCrew hw hth]
  by_cases hr : s.cur.crew = r
  · subst hr
    rw [State.crewOf_setCrew, hw]
    cases s.thread s.cur with
    | none => rfl
    | some b => simp only [hregs]
  · rw [State.crewOf_setCrew_ne _ _ hr]

end OwnCrew

/-! ## DQPUSH, R346 -/

theorem exec_dqpush (c : Code) (s : State) : exec (.dqpush c) s = execDqpush c s := rfl

/-- `DQPUSH` waits while 64 entries are not yet freed, R159, and otherwise appends one. -/
theorem execDqpush_eq {c : Code} {s : State} {e : Env} {cw : Crew} (h : Issues 0x74 c s e) (hcw : CrewAt e s cw) :
    execDqpush c s = if 64 ≤ cw.dqFree.dq.length then .next s
      else e.finish e.next e.b
        (s.setCrew e.t.crew { cw.dqFree with dq := cw.dqFree.dq ++ [BitVec.ofNat 64 (e.srcA 0 64)] }) := by
  unfold CrewAt at hcw
  rw [execDqpush, runInstr_of h]
  simp only [hcw]

/-- Settles O16: the queue that is pushed to belongs to no thread, so that the push ends as any instruction that writes no register,
from the state in which the entry is there. -/
theorem decisionPush : Obligations.DecisionPush := by
  unfold Obligations.DecisionPush
  refine ⟨fun c s e cw h hcw hroom => ?_, fun c s e cw h hcw hfull => ?_⟩
  · rw [exec_dqpush, execDqpush_eq h hcw, if_neg (Nat.not_le.2 hroom)]
    refine Env.finish_goes ((mkEnv_setCrew hcw ?_ ?_ 0x74 c).trans h.1) (.refl _) e.next e.b
    · exact fun _ => rfl
    · rfl
  · rw [exec_dqpush, execDqpush_eq h hcw, if_pos hfull]

end Sys2Proof.Machine
end

section
/-!
The encoder and the decoder agree, chapter 12: the extension word and the base word read back from their numbers, the words from the bytes, and
the fields of an instruction from its words.
-/
namespace Sys2Proof

/-! ## The words of an instruction read back: Tables 12.1 to 12.6 -/

@[simp] theorem Opnd.ofBits_bits (o : Opnd) : Opnd.ofBits o.bits = some o := by
  cases o with
  | zero => decide
  | slot n | slotIx0 n | slotIx1 n | latch n | hold n | uni n | imm n => revert n; decide

theorem Ext.toNat_lt (e : Ext) : e.toNat < 2 ^ 32 := by
  have h1 := e.srcc.isLt
  have h2 := e.type.isLt
  have h3 := e.rmode.isLt
  have h4 := e.hold.isLt
  have h5 := e.xlane.isLt
  have h6 := e.mods.isLt
  simp only [Ext.toNat]
  omega

@[simp] theorem Ext.ofNat_toNat (e : Ext) : Ext.ofNat e.toNat = e := by
  obtain ⟨mods, xlane, hold, rmode, type, srcc⟩ := e
  have h1 := srcc.isLt
  have h2 := type.isLt
  have h3 := rmode.isLt
  have h4 := hold.isLt
  have h5 := xlane.isLt
  have h6 := mods.isLt
  simp only [Ext.ofNat, Ext.toNat, field, Ext.mk.injEq]
  refine ⟨?_, ?_, ?_, ?_, ?_, ?_⟩ <;> apply BitVec.eq_of_toNat_eq <;> rw [BitVec.toNat_ofNat] <;> omega

theorem Raw.base_lt (r : Raw) : r.base < 2 ^ 64 := by
  have h1 := r.len.isLt
  have h2 := r.annex.isSome.toNat_lt
  have h3 := r.dist.isLt
  have h4 := r.wait.isLt
  have h5 := r.setf.isLt
  have h6 := r.gpred.isLt
  have h7 := r.gmode.isLt
  have h8 := r.opc.isLt
  have h9 := r.dst.isLt
  have h10 := r.nw.toNat_lt
  have h11 := r.srca.isLt
  have h12 := r.srcb.isLt
  simp only [Raw.base]
  omega

theorem Raw.ofWords_base (r : Raw) : Raw.ofWords r.base r.second.toNat r.annex = r := by
  obtain ⟨opc, len, dist, wait, setf, gpred, gmode, nw, dst, srca, srcb, second, annex⟩ := r
  have h1 := len.isLt
  have h2 := annex.isSome.toNat_lt
  have h3 := dist.isLt
  have h4 := wait.isLt
  have h5 := setf.isLt
  have h6 := gpred.isLt
  have h7 := gmode.isLt
  have h8 := opc.isLt
  have h9 := dst.isLt
  have h10 := nw.toNat_lt
  have h11 := srca.isLt
  have h12 := srcb.isLt
  have hnw : ∀ n, n = nw.toNat → (n == 1) = nw := by cases nw <;> rintro _ rfl <;> rfl
  simp only [Raw.ofWords, Raw.base, field, Raw.mk.injEq, BitVec.ofNat_toNat, BitVec.setWidth_eq, and_true]
  refine ⟨?_, ?_, ?_, ?_, ?_, ?_, ?_, hnw _ ?_, ?_, ?_, ?_⟩ <;> (try apply BitVec.eq_of_toNat_eq; rw [BitVec.toNat_ofNat]) <;> omega

theorem Raw.field_len (r : Raw) : field r.base 0 2 = r.len.toNat := by
  have := congrArg (BitVec.toNat ∘ Raw.len) r.ofWords_base
  simpa [Raw.ofWords, field] using this

theorem Raw.field_annex (r : Raw) : field r.base 2 1 = r.annex.isSome.toNat := by
  have h1 := r.len.isLt
  have h2 := r.annex.isSome.toNat_lt
  simp only [Raw.base, field]
  omega

theorem Raw.hasAnnex_base {r : Raw} (h : r.len ≠ 3) : hasAnnex r.base = r.annex.isSome := by
  have hl : r.len.toNat ≠ 3 := fun k => h (BitVec.eq_of_toNat_eq k)
  rw [hasAnnex, r.field_annex, r.field_len]
  cases r.annex <;> simp [hl]

theorem Raw.wordBytes_base {r : Raw} (h : r.len ≠ 3) : wordBytes r.base = r.bytes.length := by
  rw [wordBytes, Raw.hasAnnex_base h, r.field_len, Raw.bytes]
  cases r.annex <;> simp [Nat.add_assoc]

/-! ## The bytes of an instruction read back as its words -/

theorem leNat_take_leBytes (n v : Nat) (bs : List Byte) (h : v < 256 ^ n) : leNat ((leBytes n v ++ bs).take n) = v := by
  have hl := Machine.leBytes_length n v
  rw [List.take_left' hl, Machine.leNat_leBytes, Nat.mod_eq_of_lt h]

/-- The words of an encoding whose second word has no more than the bytes that its length gives it. -/
theorem splitBytes_bytes {front : Bool} {r : Raw} (tail : List Byte) (hlen : r.len ≠ 3) (hsec : r.second.toNat < 256 ^ secondBytes r.len)
    (hfront : r.annex.isSome = true → front = false) (hann : ∀ w, r.annex = some w → w.extractLsb' 0 2 = 3#2) :
    splitBytes front (r.bytes ++ tail) = .ok (r, r.bytes.length) := by
  have hfirst : leNat ((r.bytes ++ tail).take 8) = r.base := by
    simp only [Raw.bytes, List.append_assoc]
    exact leNat_take_leBytes 8 _ _ r.base_lt
  have hsecond : leNat (((r.bytes ++ tail).drop 8).take (secondBytes r.len)) = r.second.toNat := by
    simp only [Raw.bytes, List.append_assoc]
    rw [List.drop_left' (Machine.leBytes_length 8 _)]
    exact leNat_take_leBytes _ _ _ hsec
  have hthird : ∀ w, r.annex = some w → leNat (((r.bytes ++ tail).drop (8 + secondBytes r.len)).take 8) = w.toNat := by
    intro w hw
    simp only [Raw.bytes, hw]
    rw [List.append_assoc, List.drop_left' (by simp)]
    exact leNat_take_leBytes 8 _ _ w.isLt
  have hlow : ∀ w, r.annex = some w → field w.toNat 0 2 = 3 := by
    intro w hw
    simpa [field, BitVec.extractLsb'] using congrArg BitVec.toNat (hann w hw)
  have hpast : reachesPast (r.bytes ++ tail) = false := by
    simp [reachesPast, hfirst, Raw.wordBytes_base hlen]
  unfold splitBytes
  simp only [hpast, hfirst, r.field_len, Raw.hasAnnex_base hlen, Raw.wordBytes_base hlen, BitVec.ofNat_toNat, BitVec.setWidth_eq,
    Bool.false_eq_true, if_false, Nat.add_sub_cancel_left, hsecond]
  cases ha : r.annex with
  | none => 
    have := r.ofWords_base
    rw [ha] at this
    simp [show ¬r.len = 3#2 from hlen, this]
  | some w =>
    have := r.ofWords_base
    rw [ha] at this
    simp [show ¬r.len = 3#2 from hlen, hfront (by simp [ha]), hthird w ha, hlow w ha, this]

/-! ## The fields of an instruction read back -/

/-- The numbers of the opcodes have eight bits. -/
theorem mkInstr_lt {opc : Nat} {c : Code} {i : Instr} (h : mkInstr opc c = some i) : opc < 2 ^ 8 := by
  unfold mkInstr at h
  split at h <;> first | omega | cases h

/-- What the form of an instruction leaves unencoded holds its default, one line for each form. -/
theorem Code.canon_iff {opc : Nat} {c : Code} : c.canon opc = true ↔
    match c.form with
    | .a => c.payload = 0 ∧ c.ext = Ext.default opc
    | .b => if opc = 0 then c.ext = Ext.default 0 ∧ c.payload.toNat < 2 ^ 32 else c.payload = 0
    | .d => opc ≠ 0 ∧ c.payload.toNat < 2 ^ 32
    | .f => c.ext = Ext.default opc ∧ c.payload.toNat < 2 ^ 32
    | _ => c.ext = Ext.default opc := by
  unfold Code.canon
  cases c.form <;> simp

theorem Code.second_lt {opc : Nat} {c : Code} (h : c.canon opc = true) : (c.second opc).toNat < 256 ^ secondBytes c.form.len := by
  have he := c.ext.toNat_lt
  have hp := c.payload.isLt
  rw [Code.canon_iff] at h
  unfold Code.second
  cases hf : c.form <;> simp only [hf] at h ⊢
  case b =>
    split_ifs at h ⊢ with h0
    · exact h.2
    · simpa [Form.len, secondBytes] using by omega
  case f => exact h.2
  case a => simp
  case d => exact BitVec.isLt _
  all_goals exact hp

theorem Code.extOf_second {opc : Nat} {c : Code} (h : c.canon opc = true) : extOf opc c.form (c.second opc) = c.ext := by
  have he := c.ext.toNat_lt
  rw [Code.canon_iff] at h
  unfold Code.second extOf
  cases hf : c.form <;> simp only [hf] at h ⊢
  case b =>
    split_ifs at h ⊢ with h0
    · rw [h.1, h0]
    · rw [BitVec.toNat_ofNat, Nat.mod_mod_of_dvd _ (by decide), Nat.mod_eq_of_lt he, Ext.ofNat_toNat]
  case d =>
    rw [if_neg h.1, BitVec.toNat_ofNat, Nat.mod_mod_of_dvd _ (by decide), Nat.add_mul_mod_self_left, Nat.mod_eq_of_lt he,
      Ext.ofNat_toNat]
  case a => simp [h.2]
  case f => simp [h.1]
  all_goals simp [h]

theorem Code.payloadOf_second {opc : Nat} {c : Code} (h : c.canon opc = true) : payloadOf opc c.form (c.second opc) = c.payload := by
  have he := c.ext.toNat_lt
  rw [Code.canon_iff] at h
  unfold Code.second payloadOf
  cases hf : c.form <;> simp only [hf] at h ⊢
  case a => exact h.1.symm
  case b => split_ifs at h ⊢ <;> simp [h]
  case d =>
    apply BitVec.eq_of_toNat_eq
    rw [BitVec.toNat_ofNat, BitVec.toNat_ofNat]
    omega

theorem Code.ofRaw_toRaw {opc : Nat} {c : Code} (ho : opc < 2 ^ 8) (h : c.canon opc = true) : Code.ofRaw (c.toRaw opc) c.form = c := by
  have hn : (BitVec.ofNat 8 opc).toNat = opc := by rw [BitVec.toNat_ofNat, Nat.mod_eq_of_lt ho]
  simp only [Code.ofRaw, Code.toRaw, hn, Code.extOf_second h, Code.payloadOf_second h, Opnd.ofBits_bits, Option.getD_some]
  simp [Code.ext]

/-! ## Decoding an encoded instruction -/

/-- The length code 11 stands for no form, R284. -/
theorem Form.len_ne_three (fm : Form) : fm.len ≠ 3 := by cases fm <;> decide

theorem Code.toRaw_bytes_length (opc : Nat) (c : Code) : (c.toRaw opc).bytes.length = c.len := by
  simp only [Raw.bytes, Code.toRaw, Code.len]
  cases c.form <;> cases c.annex <;> simp [Form.len, secondBytes]

theorem Code.annexOk_iff {front : Bool} {c : Code} :
    c.annexOk front = true ↔ ∀ w, c.annex = some w → front = false ∧ w.extractLsb' 0 2 = 3#2 := by
  unfold Code.annexOk
  cases c.annex <;> simp

theorem Code.accepted_iff {front : Bool} {opc : Nat} {c : Code} :
    c.accepted front opc = true ↔ checkRaw front (c.toRaw opc) = .ok c.form := by
  unfold Code.accepted
  cases checkRaw front (c.toRaw opc) <;> simp

theorem decode_bytes {front : Bool} {opc : Nat} {c : Code} {i : Instr} (tail : List Byte) (hcanon : c.canon opc = true)
    (hannex : c.annexOk front = true) (hacc : c.accepted front opc = true) (hmk : mkInstr opc c = some i) :
    decode front ((c.toRaw opc).bytes ++ tail) = .ok ⟨i, (c.toRaw opc).bytes.length⟩ := by
  rw [Code.annexOk_iff] at hannex
  rw [Code.accepted_iff] at hacc
  have ho := mkInstr_lt hmk
  have hopc : (c.toRaw opc).opc.toNat = opc := by rw [Code.toRaw, BitVec.toNat_ofNat, Nat.mod_eq_of_lt ho]
  have hsplit := splitBytes_bytes (front := front) (r := c.toRaw opc) tail c.form.len_ne_three (Code.second_lt hcanon)
    (fun hs => (hannex _ (Option.some_get hs).symm).1) (fun w hw => (hannex w hw).2)
  simp only [decode, hsplit, hacc, hopc, Code.ofRaw_toRaw ho hcanon, hmk]

/-- Settles O56: the words of an instruction read back from its bytes, its fields from its words, and the tests of Table 12.14 accept
them by the premise. -/
theorem encodeDecodes : Obligations.EncodeDecodes := by
  unfold Obligations.EncodeDecodes
  intro front i tail henc
  unfold Instr.encodable at henc
  unfold encode
  cases hcode : i.code with
  | none => simp [hcode] at henc
  | some p =>
    obtain ⟨opc, c⟩ := p
    simp only [hcode, Bool.and_eq_true, beq_iff_eq] at henc
    obtain ⟨⟨⟨hcanon, hannex⟩, hacc⟩, hmk⟩ := henc
    refine ⟨decode_bytes tail hcanon hannex hacc hmk, ?_⟩
    rintro _ _ ⟨⟩
    exact Code.toRaw_bytes_length opc c

end Sys2Proof
end

section
/-!
Frames: the operations that leave every byte of the memories as it was, one lemma each in the order of their definitions.
-/
namespace Sys2Proof.Machine

/-! ## Folds -/

/-- What holds at the start of a fold and is kept by its steps holds at its end. -/
theorem foldl_keeps {α β : Type} {P : β → Prop} {f : β → α → β} {b : β} {l : List α} (h0 : P b) (h : ∀ b a, P b → P (f b a)) :
    P (l.foldl f b) := by
  induction l generalizing b with
  | nil => exact h0
  | cons a l ih => exact ih (h b a h0)

theorem State.foldl_mem {α : Type} {f : State → α → State} (h : ∀ s x, (f s x).mem = s.mem) (l : List α) (s : State) :
    (l.foldl f s).mem = s.mem := foldl_keeps (P := fun t => t.mem = s.mem) rfl fun t x ht => (h t x).trans ht

/-! ## The memories stay as they were -/

/-! ### Of Report -/

theorem State.toPod_mem {s t : State} {iod : Nat} {p : Packet} (h : s.toPod iod p = some t) : t.mem = s.mem := by
  obtain ⟨n, _, rfl⟩ := Option.map_eq_some_iff.1 h
  rfl
@[simp] theorem State.send_mem (s : State) (h : PktHdr) (b : Body) : (s.send h b).mem = s.mem := by
  unfold State.send
  split
  · rfl
  · cases h' : s.toPod (podTable h.srcSock.toNat) ⟨h, b⟩ with
    | none => rfl
    | some t => exact State.toPod_mem h'
@[simp] theorem State.sendTo_mem (s : State) (ctx : B6) (tag src : Nat) (dst : Nat × Nat) (b : Body) :
    (s.sendTo ctx tag src dst b).mem = s.mem := by
  simp [State.sendTo]
@[simp] theorem State.updSockEv_mem (s : State) (k : Nat) (f : SockEv → SockEv) : (s.updSockEv k f).mem = s.mem := rfl
@[simp] theorem State.evLost_mem (s : State) (sock : Nat) : (s.evLost sock).mem = s.mem := rfl
@[simp] theorem State.countCause_mem (s : State) (d : Nat) (h : Handle) (cause : Nat) : (s.countCause d h cause).mem = s.mem := rfl

/-! ### Of Ops -/

@[simp] theorem State.settle_mem (s : State) (t : ThreadRef) : (s.settle t).mem = s.mem := by
  unfold State.settle
  split <;> simp
@[simp] theorem State.liveAdd_mem (s : State) (d : Nat) (h : Handle) (n : Nat) : (s.liveAdd d h n).mem = s.mem := rfl
@[simp] theorem State.liveSub_mem (s : State) (d : Nat) (h : Handle) (n : Nat) : (s.liveSub d h n).mem = s.mem := rfl
@[simp] theorem State.setBarDone_mem (s : State) (h : Handle) (key id gen : Nat) : (s.setBarDone h key id gen).mem = s.mem := rfl
@[simp] theorem State.breakAll_mem (s : State) (h : Handle) (xs : List (Nat × Nat × Nat)) : (s.breakAll h xs).mem = s.mem := rfl
@[simp] theorem State.barSend_mem (s : State) (d : Nat) (h : Handle) (tgt : Nat × Nat) (kind roster gen : Nat) (completion broken : Bool) :
    (s.barSend d h tgt kind roster gen completion broken).mem = s.mem := by
  simp [State.barSend]
@[simp] theorem State.breakTold_mem (s : State) (d : Nat) (h : Handle) (xs : List (Nat × Nat × Nat)) :
    (s.breakTold d h xs).mem = s.mem := by
  simp [State.breakTold, State.foldl_mem, apply_ite State.mem]
@[simp] theorem State.breakBarriers_mem (s : State) (d : Nat) (cw : Crew) : (s.breakBarriers d cw).mem = s.mem := by
  simp [State.breakBarriers]
@[simp] theorem State.barArrive_mem (s : State) (d : Nat) (h : Handle) (kind roster gen : Nat) :
    (s.barArrive d h kind roster gen).mem = s.mem := by
  unfold State.barArrive
  split <;> simp
@[simp] theorem State.barNudge_mem (s : State) (d : Nat) (h : Handle) : (s.barNudge d h).mem = s.mem := by
  simp [State.barNudge, State.foldl_mem]
@[simp] theorem State.writeMerge_mem (s : State) (r : CrewRef) (v : W64) : (s.writeMerge r v).mem = s.mem := by simp [State.writeMerge]
@[simp] theorem State.writeScrchk_mem (s : State) (r : CrewRef) (v : W64) : (s.writeScrchk r v).mem = s.mem := by simp [State.writeScrchk]
@[simp] theorem State.cpyReset_mem (s : State) (r : CrewRef) (ch : Nat) : (s.cpyReset r ch).mem = s.mem := by
  unfold State.cpyReset
  split <;> simp
@[simp] theorem State.cpyClrerr_mem (s : State) (r : CrewRef) (ch : Nat) : (s.cpyClrerr r ch).mem = s.mem := by simp [State.cpyClrerr]
@[simp] theorem State.writeCpyCtl_mem (s : State) (r : CrewRef) (v : W64) : (s.writeCpyCtl r v).mem = s.mem := by
  simp [State.writeCpyCtl, State.foldl_mem, apply_ite State.mem]
@[simp] theorem State.performCsr_mem (s : State) (r : CrewRef) (w : Nat × W64) : (s.performCsr r w).mem = s.mem := by
  unfold State.performCsr
  (repeat' split) <;> simp
@[simp] theorem State.tasksEnd_mem (s : State) (t : ThreadRef) : (s.tasksEnd t).mem = s.mem := by
  simp only [State.tasksEnd]
  (repeat' split) <;> simp
@[simp] theorem State.endBand_mem (s : State) (t : ThreadRef) : (s.endBand t).mem = s.mem := by
  unfold State.endBand
  split
  · split
    · simp
    · simp [State.foldl_mem]
  · rfl
@[simp] theorem State.endIfEmpty_mem (s : State) (t : ThreadRef) : (s.endIfEmpty t).mem = s.mem := by
  unfold State.endIfEmpty
  (repeat' split) <;> simp
@[simp] theorem State.exitLanes_mem (s : State) (t : ThreadRef) (m : BitVec 64) : (s.exitLanes t m).mem = s.mem := by simp [State.exitLanes]
@[simp] theorem State.dropLate_mem (s : State) (t : ThreadRef) : (s.dropLate t).mem = s.mem := by
  unfold State.dropLate
  (repeat' split) <;> simp
@[simp] theorem State.settleEnd_mem (s : State) (t : ThreadRef) : (s.settleEnd t).mem = s.mem := by simp [State.settleEnd]
@[simp] theorem State.killBand_mem (s : State) (t : ThreadRef) : (s.killBand t).mem = s.mem := by
  unfold State.killBand
  (repeat' split) <;> simp
@[simp] theorem State.endFront_mem (s : State) (r : CrewRef) : (s.endFront r).mem = s.mem := by simp [State.endFront]

/-! ### Of Operands -/

@[simp] theorem State.claimHalf_mem (s : State) (t : ThreadRef) (me : Nat × Nat) (k : Nat) : (s.claimHalf t me k).mem = s.mem := by
  simp only [State.claimHalf]
  (repeat' split) <;> simp
@[simp] theorem State.takePort_mem (s : State) (t : ThreadRef) (opc now : Nat) : (s.takePort t opc now).mem = s.mem := rfl
@[simp] theorem Env.claim_mem (e : Env) (s : State) : (e.claim s).mem = s.mem := by
  unfold Env.claim
  (repeat' split) <;> simp
@[simp] theorem Env.loops_mem (e : Env) (b : Band) (s : State) : (e.loops b s).mem = s.mem := by
  unfold Env.loops
  split <;> simp
@[simp] theorem Env.commit_mem (e : Env) (b : Band) (s : State) : (e.commit b s).mem = s.mem := by simp [Env.commit]
@[simp] theorem Env.done_mem (e : Env) (pc : PCW) (b : Band) (s : State) : (e.done pc b s).mem = s.mem := by simp [Env.done]
@[simp] theorem Env.settled_mem (e : Env) (s : State) : (e.settled s).mem = s.mem := by simp [Env.settled]

/-! ### Of Access -/

theorem State.mcHeld_mem {s t : State} {r : CrewRef} {cw : Crew} {me : Nat × Nat × Nat} {offs : List Nat}
    (h : s.mcHeld r cw me offs = some t) : t.mem = s.mem := by
  unfold State.mcHeld at h
  simp only at h
  split at h
  · cases h
    exact State.foldl_mem (fun s x => by split <;> simp) _ _
  · cases h
@[simp] theorem State.mcLeaves_mem (s : State) (r : CrewRef) (cw : Crew) (me : Nat × Nat × Nat) (offs : List Nat) :
    (s.mcLeaves r cw me offs).mem = s.mem := by
  unfold State.mcLeaves
  exact State.foldl_mem (fun s x => by simp) _ _
@[simp] theorem State.logUninit_mem (s : State) (r : CrewRef) (eng clus : Bool) (lane addr pc : Nat) :
    (s.logUninit r eng clus lane addr pc).mem = s.mem := by
  simp [State.logUninit]
@[simp] theorem State.l1Drop_mem (s : State) (d c : Nat) (f : B6 → Nat → Bool → Bool) : (s.l1Drop d c f).mem = s.mem := rfl
@[simp] theorem State.l1Acquire_mem (s : State) (d c : Nat) : (s.l1Acquire d c).mem = s.mem := rfl
@[simp] theorem State.l1Drain_mem (s : State) (d c : Nat) : (s.l1Drain d c).mem = s.mem := rfl
@[simp] theorem State.newTag_mem (s : State) (d : Nat) (u : TagUse) : (s.newTag d u).2.mem = s.mem := rfl
@[simp] theorem State.askPerm_mem (s : State) (d c : Nat) (ctx : B6) (va : Nat) : (s.askPerm d c ctx va).mem = s.mem := by
  simp only [State.askPerm]
  (repeat' split) <;> simp
@[simp] theorem State.wpalEnter_mem (s : State) (d c : Nat) (e : PalE) : (s.wpalEnter d c e).mem = s.mem := rfl
@[simp] theorem State.askRemote_mem (s : State) (d c : Nat) (asker : Nat × Nat × Nat) (ctx : B6) (va sock : Nat) (key sent : Body)
    (use : TagUse) :
    (s.askRemote d c asker ctx va sock key sent use).2.mem = s.mem := by
  unfold State.askRemote
  split <;> simp
@[simp] theorem State.forgetRemote_mem (s : State) (d c : Nat) (asker : Nat × Nat × Nat) : (s.forgetRemote d c asker).mem = s.mem := by
  unfold State.forgetRemote
  split <;> simp
@[simp] theorem State.answerRemote_mem (s : State) (d c tag : Nat) (ans : Byte × List Byte) : (s.answerRemote d c tag ans).mem = s.mem :=
  rfl
@[simp] theorem State.askCode_mem (s : State) (d c : Nat) (ctx : B6) (va : Nat) : (s.askCode d c ctx va).mem = s.mem := by
  simp only [State.askCode]
  (repeat' split) <;> simp
@[simp] theorem State.l2Touch_mem (s : State) (ctx : B6) (va sock : Nat) : (s.l2Touch ctx va sock).mem = s.mem := by
  simp only [State.l2Touch]
  (repeat' split) <;> simp
@[simp] theorem State.homeRead_mem (s : State) (ctx : B6) (va len sock : Nat) : (s.homeRead ctx va len sock).2.2.mem = s.mem := by
  unfold State.homeRead
  split <;> simp
@[simp] theorem Env.lookup_mem (e : Env) (asks : List Ask) (s : State) : (e.lookup asks s).mem = s.mem := by
  simp [Env.lookup, State.foldl_mem]
@[simp] theorem Env.waitAway_mem (e : Env) (va : Nat) (s : State) : (e.waitAway va s).mem = s.mem := by simp [Env.waitAway]
@[simp] theorem State.awaitRead_mem (s : State) (t : ThreadRef) (cw : Crew) (clus : Bool) (offs : List (Nat × Nat)) :
    (s.awaitRead t cw clus offs).2.mem = s.mem := by
  unfold State.awaitRead
  dsimp only
  split
  · split
    · next h => exact State.mcHeld_mem h
    · simp
  · rfl
@[simp] theorem State.poll_mem (s : State) (t : ThreadRef) : (s.poll t).mem = s.mem := by
  unfold State.poll
  split
  · refine State.foldl_mem (fun s w => ?_) _ _
    split
    · rfl
    · dsimp only
      split
      · split <;> [split; skip] <;> simp
      · split <;> simp
      · rfl
  · rfl
@[simp] theorem State.accDone_mem (s : State) (t : ThreadRef) (a : Acc) : (s.accDone t a).mem = s.mem := by
  unfold State.accDone
  (repeat' split) <;> simp
@[simp] theorem State.pieceDone_mem (s : State) (t : ThreadRef) (id i : Nat) (bs : List Byte) (st : BitVec 6) :
    (s.pieceDone t id i bs st).mem = s.mem := by
  simp only [State.pieceDone]
  (repeat' split) <;> simp
@[simp] theorem State.pieceRefused_mem (s : State) (t : ThreadRef) (id i : Nat) : (s.pieceRefused t id i).mem = s.mem := by
  simp [State.pieceRefused]
@[simp] theorem State.sendPiece_mem (s : State) (t : ThreadRef) (id i : Nat) : (s.sendPiece t id i).mem = s.mem := by
  simp only [State.sendPiece]
  (repeat' split) <;> simp
@[simp] theorem Env.launchAcc_mem (e : Env) (a : Acc) (committing : Bool) (s : State) : (e.launchAcc a committing s).mem = s.mem := by
  simp [Env.launchAcc]
@[simp] theorem Env.commitNew_mem (e : Env) (free : Nat) (b : Band) (s : State) : (e.commitNew free b s).mem = s.mem := by
  simp [Env.commitNew]

/-! ### Of Pool -/

@[simp] theorem State.takePage_mem (s : State) (d : Nat) (h : Handle) (va : Nat) : (s.takePage d h va).mem = s.mem := rfl
@[simp] theorem State.pageGot_mem (s : State) (d : Nat) (h : Handle) (w : PageWait) : (s.pageGot d h w).mem = s.mem := rfl
@[simp] theorem State.ringRemove_mem (s : State) (d : Nat) (h : Handle) (x : RingRec) : (s.ringRemove d h x).mem = s.mem := by
  simp only [State.ringRemove]
  (repeat' split) <;> simp

/-! ### Of Issue -/

@[simp] theorem State.keepFetched_mem (s : State) (t : ThreadRef) : (s.keepFetched t).mem = s.mem := by
  simp only [State.keepFetched]
  (repeat' split) <;> simp
@[simp] theorem State.barPoll_mem (s : State) (t : ThreadRef) : (s.barPoll t).mem = s.mem := by
  unfold State.barPoll
  (repeat' split) <;> simp
@[simp] theorem State.leaveSet_mem (s : State) (t : ThreadRef) : (s.leaveSet t).mem = s.mem := by simp [State.leaveSet]
@[simp] theorem State.enterSet_mem (s : State) (t : ThreadRef) : (s.enterSet t).mem = s.mem := by
  unfold State.enterSet
  split <;> simp
@[simp] theorem State.trimSet_mem (s : State) (d c : Nat) : (s.trimSet d c).mem = s.mem := rfl
@[simp] theorem State.cancelFront_mem (s : State) (t : ThreadRef) : (s.cancelFront t).mem = s.mem := by simp [State.cancelFront]
@[simp] theorem State.withCur_mem (s : State) (t : ThreadRef) : (s.withCur t).mem = s.mem := rfl

/-! ### Of Regs -/

@[simp] theorem State.updLink_mem (s : State) (lk : LinkId) (f : Link → Link) : (s.updLink lk f).mem = s.mem := rfl

/-! ### Of Xlate -/

@[simp] theorem State.trDone_mem (s : State) (n result : Nat) : (s.trDone n result).mem = s.mem := rfl
@[simp] theorem State.l2Drop_mem (s : State) (n : Nat) (ctx : B6) (va size : Nat) : (s.l2Drop n ctx va size).mem = s.mem := by
  unfold State.l2Drop
  split <;> simp
@[simp] theorem State.signalReady_mem (s : State) (n : Nat) (c : TrCmd) : (s.signalReady n c).mem = s.mem := by
  simp [State.signalReady, State.foldl_mem]
@[simp] theorem State.destroyEnd_mem (s : State) (c : Nat) : (s.destroyEnd c).mem = s.mem := by
  unfold State.destroyEnd
  split <;> simp
@[simp] theorem State.destroyStep_mem (s : State) (c : Nat) : (s.destroyStep c).mem = s.mem := by
  unfold State.destroyStep
  split <;> simp
@[simp] theorem State.palDrop_mem (s : State) (d c : Nat) (e : PalE) : (s.palDrop d c e).mem = s.mem := rfl
@[simp] theorem State.palExpire_mem (s : State) (d c : Nat) : (s.palExpire d c).mem = s.mem := by
  have hfold : ∀ l : List PalE, (l.foldl (fun (s : State) e => s.palDrop d c e) s).mem = s.mem :=
    fun l => State.foldl_mem (fun s x => by simp) l s
  unfold State.palExpire
  dsimp only
  split <;> simp [hfold]
@[simp] theorem State.palEnter_mem (s : State) (d c : Nat) (e : PalE) : (s.palEnter d c e).mem = s.mem := by
  simp only [State.palEnter]
  (repeat' split) <;> simp
@[simp] theorem State.unparkThreads_mem (s : State) (d : Nat) (f : ParkInfo → B6 → Bool) : (s.unparkThreads d f).mem = s.mem := by
  unfold State.unparkThreads
  exact State.foldl_mem (fun s x => by dsimp only; (repeat' split) <;> simp) _ _
@[simp] theorem State.unparkEngines_mem (s : State) (d : Nat) (f : B6 → Nat → Bool) : (s.unparkEngines d f).mem = s.mem := rfl
theorem State.replyPiece_mem {s u : State} {h : PktHdr} {t : ThreadRef} {a i : Nat} (hr : s.replyPiece h = some (t, a, i, u)) :
    u.mem = s.mem := by
  unfold State.replyPiece at hr
  simp only at hr
  split at hr
  · cases hr; rfl
  · cases hr

/-! ### Of Launch -/

@[simp] theorem State.updQueue_mem (s : State) (c q : Nat) (f : LaunchQ → LaunchQ) : (s.updQueue c q f).mem = s.mem := rfl
@[simp] theorem State.countDrop_mem (s : State) (c q : Nat) : (s.countDrop c q).mem = s.mem := rfl
@[simp] theorem State.tokenArrive_mem (s : State) (c q : Nat) (b : List Byte) (submitter : Option (ThreadRef × Nat)) :
    (s.tokenArrive c q b submitter).1.mem = s.mem := by
  simp only [State.tokenArrive]
  (repeat' split) <;> simp

/-! ### Of Power -/

@[simp] theorem State.retarget_mem (s : State) (d : Nat) : (s.retarget d).mem = s.mem := rfl
@[simp] theorem State.stepCeil_mem (s : State) (up : Bool) : (s.stepCeil up).mem = s.mem := by
  unfold State.stepCeil
  exact State.foldl_mem (fun s x => by dsimp only; (repeat' split) <;> simp) _ _

/-! ### Of Grid -/

@[simp] theorem State.reply0_mem (s : State) (h : Handle) (tgt : Nat × Nat) : (s.reply0 h tgt).mem = s.mem := by simp [State.reply0]
@[simp] theorem State.mirror_mem (s : State) (h : Handle) (p : PendMirror) (pkg die : Nat) : (s.mirror h p pkg die).mem = s.mem := by
  unfold State.mirror
  (repeat' split) <;> simp
@[simp] theorem State.grantRange_mem (s : State) (h : Handle) (tgt : Nat × Nat) (first count : Nat) (replayed : Bool) :
    (s.grantRange h tgt first count replayed).mem = s.mem := by
  simp [State.grantRange]
@[simp] theorem State.grantTo_mem (s : State) (h : Handle) (tgt : Nat × Nat) : (s.grantTo h tgt).mem = s.mem := by
  simp only [State.grantTo]
  (repeat' split) <;> simp
@[simp] theorem State.mirrorAt_mem (s : State) (h : PktHdr) (b : RangeB) (retire : Bool) : (s.mirrorAt h b retire).mem = s.mem := by
  simp [State.mirrorAt]
@[simp] theorem State.wantRange_mem (s : State) (d : Nat) (h : Handle) : (s.wantRange d h).mem = s.mem := by
  simp only [State.wantRange]
  (repeat' split) <;> simp
@[simp] theorem State.enqueueCluster_mem (s : State) (d prio : Nat) (c : QCluster) : (s.enqueueCluster d prio c).mem = s.mem := rfl
@[simp] theorem State.takeRange_mem (s : State) (d : Nat) (b : RangeB) : (s.takeRange d b).mem = s.mem := by
  unfold State.takeRange
  simp only
  split
  · rfl
  · split
    · rfl
    · split
      · simp
      · rw [State.wantRange_mem, State.retarget_mem]
        exact (State.foldl_mem (fun s i => by simp) _ _).trans rfl
@[simp] theorem State.snapGrid_mem (s : State) (h : Handle) : (s.snapGrid h).mem = s.mem := by
  unfold State.snapGrid
  exact State.foldl_mem (fun s x => by dsimp only; simp) _ _
@[simp] theorem State.addGrid_mem (s : State) (g : Grid) : (s.addGrid g).mem = s.mem := by simp [State.addGrid]
@[simp] theorem State.acceptOther_mem (s : State) (h : Handle) (a : Assigned) : (s.acceptOther h a).mem = s.mem := by
  simp only [State.acceptOther]
  (repeat' split) <;> simp
@[simp] theorem State.sendNotice_mem (s : State) (a : Assigned) (tgt : Nat × Nat) : (s.sendNotice a tgt).mem = s.mem := by
  simp [State.sendNotice]
@[simp] theorem State.noticeDies_mem (s : State) (a : Assigned) : (s.noticeDies a).mem = s.mem := by
  simp [State.noticeDies, State.foldl_mem]
@[simp] theorem State.actNotice_mem (s : State) (d : Nat) (n : Notice) : (s.actNotice d n).mem = s.mem := by
  simp only [State.actNotice]
  (repeat' split) <;> simp
@[simp] theorem State.actNotices_mem (s : State) (d : Nat) : (s.actNotices d).mem = s.mem := by
  simp [State.actNotices, State.foldl_mem, apply_ite State.mem]
@[simp] theorem State.sendCredit_mem (s : State) (d q : Nat) (h : Handle) (l : Landed) : (s.sendCredit d q h l).mem = s.mem := by
  simp [State.sendCredit]
@[simp] theorem State.discardPool_mem (s : State) (d : Nat) (h : Handle) : (s.discardPool d h).mem = s.mem := by
  simp [State.discardPool, State.foldl_mem]
@[simp] theorem State.retireCrews_mem (s : State) (d : Nat) (h : Handle) (n : Nat) : (s.retireCrews d h n).mem = s.mem := rfl
@[simp] theorem State.dropSaved_mem (s : State) (d : Nat) (h : Handle) (f : Nat → Bool) : (s.dropSaved d h f).mem = s.mem := rfl
@[simp] theorem State.preSettle_mem (s : State) (c : Nat) : (s.preSettle c).mem = s.mem := by
  unfold State.preSettle
  split <;> simp
@[simp] theorem State.elect_mem (s : State) : (s.elect).mem = s.mem := rfl
@[simp] theorem State.copyMirror_mem (s : State) (h : Handle) : (s.copyMirror h).mem = s.mem := by
  unfold State.copyMirror
  split
  · rfl
  · dsimp only
    split
    · refine (State.foldl_mem (fun s x => ?_) _ _).trans (by simp)
      split <;> simp
    · refine (State.foldl_mem (fun s x => by simp) _ _).trans (by simp)
@[simp] theorem State.adoptMirror_mem (s : State) (h : Handle) (d failing : Nat) : (s.adoptMirror h d failing).mem = s.mem := by
  unfold State.adoptMirror
  split
  · rfl
  · exact (State.foldl_mem (fun s x => by simp) _ _).trans (by simp)
@[simp] theorem State.tellOwner_mem (s : State) (h : Handle) : (s.tellOwner h).mem = s.mem := by
  simp [State.tellOwner, State.foldl_mem]
@[simp] theorem State.counterGone_mem (s : State) (h : Handle) (pkg die : Nat) : (s.counterGone h pkg die).mem = s.mem := by
  unfold State.counterGone
  split <;> simp
@[simp] theorem State.askAgain_mem (s : State) (h : Handle) : (s.askAgain h).mem = s.mem := by
  simp [State.askAgain, State.foldl_mem]
@[simp] theorem State.breakQueued_mem (s : State) (d : Nat) (c : QCluster) : (s.breakQueued d c).mem = s.mem := by
  unfold State.breakQueued
  split <;> simp
@[simp] theorem State.breakFar_mem (s : State) (h : Handle) (pkg die : Nat) : (s.breakFar h pkg die).mem = s.mem := by
  unfold State.breakFar
  split <;> simp
@[simp] theorem State.breakDie_mem (s : State) (d : Nat) : (s.breakDie d).mem = s.mem := by
  simp [State.breakDie, State.foldl_mem]
@[simp] theorem State.tellHealth_mem (s : State) : (s.tellHealth).mem = s.mem := by
  simp [State.tellHealth, State.foldl_mem]

/-! ### Of Interval -/

@[simp] theorem Env.occupy_mem (e : Env) (trans : Bool) (n : Nat) (s : State) : (e.occupy trans n s).mem = s.mem := rfl

/-! ### Of Mem -/

@[simp] theorem Env.atomDrops_mem (e : Env) (cw : Crew) (ts : List Touch) (s : State) : (e.atomDrops cw ts s).mem = s.mem := rfl

/-! ### Of Tasks -/

@[simp] theorem State.setEnqUsed_mem (s : State) (d c pkg die n : Nat) : (s.setEnqUsed d c pkg die n).mem = s.mem := rfl
@[simp] theorem Env.sendRecord_mem (e : Env) (cw : Crew) (ack : Bool) (wait : Nat) (x : State × BitVec 64) (lane : Nat) :
    (e.sendRecord cw ack wait x lane).1.mem = x.1.mem := by
  unfold Env.sendRecord
  dsimp only
  (repeat' split) <;> simp
@[simp] theorem State.creditBack_mem (s : State) (h : PktHdr) (g : Handle) : (s.creditBack h g).mem = s.mem := rfl
@[simp] theorem State.vacate_mem (s : State) (r : CrewRef) (cw : Crew) (k : Nat) : (s.vacate r cw k).mem = s.mem := by
  unfold State.vacate
  (repeat' split) <;> simp
@[simp] theorem State.leaveSource_mem (s : State) (d : Nat) (h : Handle) (x : Source) : (s.leaveSource d h x).mem = s.mem := by
  unfold State.leaveSource
  split <;> simp

/-! ### Of Collect -/

@[simp] theorem State.collSend_mem (s : State) (d : Nat) (h : Handle) (tgt : Nat × Nat) (st : BitVec 6) (rred : Bool)
    (roster gen lin : Nat) (result : Bool) (bs : List Byte) :
    (s.collSend d h tgt st rred roster gen lin result bs).mem = s.mem := by
  simp [State.collSend, State.foldl_mem]
@[simp] theorem State.collAnswer_mem (s : State) (d : Nat) (g : Grid) (st : BitVec 6) (rred : Bool) (roster gen lin : Nat)
    (bs : List Byte) :
    (s.collAnswer d g st rred roster gen lin bs).mem = s.mem := by
  unfold State.collAnswer
  split <;> simp
@[simp] theorem State.collCheck_mem (s : State) (d : Nat) (g : Grid) (rred : Bool) (roster gen : Nat) :
    (s.collCheck d g rred roster gen).mem = s.mem := by
  have hforget : ∀ (f : Die → Die) (u : State), (u.updDie d f).mem = u.mem := fun _ _ => rfl
  have hall : ∀ (ms : List Nat) (st rred bs) (u : State),
      (ms.foldl (fun (s : State) m => s.collAnswer d g st rred roster gen m bs) u).mem = u.mem :=
    fun ms st rred bs u => State.foldl_mem (fun s m => by simp) ms u
  have hdue : ∀ (ms : List Nat) (bs) (f : Nat → Die → Die) (u : State),
      (ms.foldl (fun (s : State) m => (s.collAnswer d g 0 false roster gen m bs).updDie d (f m)) u).mem = u.mem :=
    fun ms bs f u => State.foldl_mem (fun s m => by simp) ms u
  unfold State.collCheck
  dsimp only
  generalize (s.barBroken g.handle (if rred then 5 else 4) roster gen) = broken
  split
  · exact hforget _ _
  · split
    · split
      · rfl
      · split
        · rfl
        · split
          · rfl
          · exact (hall ..).trans (hforget _ _)
    · split
      · rfl
      · split
        · exact (hforget _ _).trans (hdue ..)
        · exact hdue ..

/-! ### Of Engine -/

@[simp] theorem State.engDone_mem (s : State) (g : Eng) : (s.engDone g).mem = s.mem := by simp [State.engDone]
@[simp] theorem State.engRest_mem (s : State) (g : Eng) : (s.engRest g).mem = s.mem := by
  unfold State.engRest
  split <;> simp
@[simp] theorem State.engAttr_mem (s : State) (g : Eng) (ctx : B6) (va : Nat) : (s.engAttr g ctx va).2.mem = s.mem := by
  have hask := fun (k b : Body) (u : TagUse) => State.askRemote_mem s g.r.die g.r.core g.asker (effCtx ctx va) va (8 + s.stackOf ctx va) k b u
  unfold State.engAttr
  dsimp only
  split
  · rfl
  · split
    · split
      · next h => rw [← hask, h]
      · next h => rw [← hask, h]
    · split
      · rfl
      · split <;> simp
@[simp] theorem State.engPart_mem (s : State) (g : Eng) (ctx : B6) (need : W16 → Bool) (va n : Nat) :
    (s.engPart g ctx need va n).2.mem = s.mem := by
  grind [State.engPart, State.engAttr_mem]
@[simp] theorem State.engParts_mem (s : State) (g : Eng) (ctx : B6) (need : W16 → Bool) (x4 : List (Nat × Nat)) :
    (s.engParts g ctx need x4).2.mem = s.mem := by
  induction x4 generalizing s with
  | nil => rfl
  | cons p ps ih => grind [State.engParts, State.engPart_mem]
@[simp] theorem State.engAsk_mem (s : State) (g : Eng) (ctx : B6) (p : EngPart) (body : Body) : (s.engAsk g ctx p body).2.mem = s.mem := by
  have hask := State.askRemote_mem s g.r.die g.r.core g.asker (effCtx ctx p.va) p.va p.sock body body (.engine g.r.core)
  unfold State.engAsk
  split <;> next h => rw [← hask, h]
@[simp] theorem State.engFetch_mem (s : State) (g : Eng) (ctx : B6) (x3 : List EngPart) : (s.engFetch g ctx x3).2.mem = s.mem := by
  induction x3 generalizing s with
  | nil => rfl
  | cons p ps ih => grind [State.engFetch, State.engAsk_mem, State.homeRead_mem]
@[simp] theorem State.engDrop_mem (s : State) (g : Eng) (ctx : B6) (va : Nat) : (s.engDrop g ctx va).mem = s.mem := rfl
@[simp] theorem State.engRead_mem (s : State) (g : Eng) (cw : Crew) (sp : Space) (need : W16 → Bool) (va n : Nat) :
    (s.engRead g cw sp need va n).2.mem = s.mem := by
  unfold State.engRead
  dsimp only
  split
  · grind [State.engParts_mem, State.engFetch_mem]
  · split <;> rfl
@[simp] theorem State.mcOpen_mem (s : State) (g : Eng) (cw : Crew) (core block : Nat) : (s.mcOpen g cw core block).mem = s.mem := rfl

/-! ### Of Copy -/

@[simp] theorem Env.copyQueue_mem (e : Env) (ch : Nat) (op : CopyOp) (s : State) : (e.copyQueue ch op s).mem = s.mem := by
  simp [Env.copyQueue]
@[simp] theorem State.updHead_mem (s : State) (d c ch : Nat) (f : CopyCmd → CopyCmd) : (s.updHead d c ch f).mem = s.mem := rfl
@[simp] theorem State.copyUninit_mem (s : State) (r : CrewRef) (ch : Nat) (sp : Space) (u : Option Nat) :
    (s.copyUninit r ch sp u).mem = s.mem := by
  unfold State.copyUninit
  (repeat' split) <;> simp
theorem State.engHeld_mem {s t : State} {g : Eng} {cw : Crew} {sp : Space} {offs : List Nat} (h : s.engHeld g cw sp offs = some t) :
    t.mem = s.mem := by
  unfold State.engHeld at h
  split at h
  · exact State.mcHeld_mem h
  · cases h
@[simp] theorem State.engLeaves_mem (s : State) (g : Eng) (cw : Crew) (sp : Space) (offs : List Nat) :
    (s.engLeaves g cw sp offs).mem = s.mem := by
  unfold State.engLeaves
  split <;> simp
@[simp] theorem State.copyRead_mem (s : State) (g : Eng) (cw : Crew) (k : CopyCmd) (t : TensorRec) (cs : List Nat) (p : Nat) :
    (s.copyRead g cw k t cs p).2.mem = s.mem := by
  unfold State.copyRead
  (repeat' split) <;> simp
@[simp] theorem State.copyReads_mem (s : State) (g : Eng) (cw : Crew) (k : CopyCmd) (t : TensorRec) (x5 : List Nat) :
    (s.copyReads g cw k t x5).2.2.2.mem = s.mem := by
  induction x5 generalizing s with
  | nil => rfl
  | cons p ps ih => grind [State.copyReads, State.copyRead_mem]

/-! ### Of Caddy -/

@[simp] theorem State.setTable_mem (s : State) (r : CrewRef) (t : Nat) (x : JTable) : (s.setTable r t x).mem = s.mem := by
  simp [State.setTable]
@[simp] theorem State.updTable_mem (s : State) (r : CrewRef) (t : Nat) (f : JTable → JTable) : (s.updTable r t f).mem = s.mem := by
  simp [State.updTable]
@[simp] theorem State.clearEntries_mem (s : State) (r : CrewRef) (t : JTable) : (s.clearEntries r t).mem = s.mem := by
  unfold State.clearEntries
  split <;> simp
@[simp] theorem State.clearTable_mem (s : State) (r : CrewRef) (t : Nat) (reset : Bool) : (s.clearTable r t reset).mem = s.mem := by
  simp only [State.clearTable]
  (repeat' split) <;> simp
@[simp] theorem State.updOp_mem (s : State) (d c seq : Nat) (f : JOp → JOp) : (s.updOp d c seq f).mem = s.mem := rfl
@[simp] theorem State.opUninit_mem (s : State) (d c : Nat) (o : JOp) (clus : Bool) (u : Option Nat) :
    (s.opUninit d c o clus u).mem = s.mem := by
  unfold State.opUninit
  (repeat' split) <;> simp

/-! ### Of Infuser -/

@[simp] theorem Env.jQueue_mem (e : Env) (kind : WaitKind) (ops : List JOp) (s : State) : (e.jQueue kind ops s).mem = s.mem := by
  simp [Env.jQueue]
@[simp] theorem State.configure_mem (s : State) (r : CrewRef) (t : Nat) (d : JTable) : (s.configure r t d).mem = s.mem := by
  simp only [State.configure]
  (repeat' split) <;> simp
@[simp] theorem State.batchDone_mem (s : State) (t : ThreadRef) (n : Nat) : (s.batchDone t n).mem = s.mem := by simp [State.batchDone]

/-! ### Of Passes -/

theorem State.jWindows_mem {s t : State} {g : Eng} {cw : Crew} {a b : List Nat} (h : s.jWindows g cw a b = some t) : t.mem = s.mem := by
  have hopen : ∀ (l : List ((Nat × Nat) × McFound)),
      (l.foldl (fun (s : State) x => s.mcOpen g cw x.1.1 x.1.2) s).mem = s.mem := fun l => State.foldl_mem (fun s x => by simp) l s
  unfold State.jWindows at h
  simp only at h
  split at h
  · next h' =>
    cases h
    exact (State.mcHeld_mem h').trans (hopen _)
  · split at h
    · cases h; exact hopen _
    · cases h
@[simp] theorem State.maskRow_mem (s : State) (d c : Nat) (o : JOp) (cw : Crew) (t : TensorRec) (row : Nat) :
    (s.maskRow d c o cw t row).2.mem = s.mem := by
  unfold State.maskRow
  dsimp only
  split
  · rfl
  · refine foldl_keeps (P := fun (x : Except JStop (List Nat) × State) => x.2.mem = s.mem) rfl fun x c0 hx => ?_
    grind [State.engRead_mem, State.opUninit_mem]
@[simp] theorem State.mask_mem (s : State) (d c : Nat) (o : JOp) (cw : Crew) (rows : List Nat) : (s.mask d c o cw rows).2.mem = s.mem := by
  unfold State.mask
  dsimp only
  split
  · rfl
  · split
    · next h => exact State.engHeld_mem h
    · have hread := State.engRead_mem s (o.eng d c) cw o.mrsp attrR (o.unis.getLastD 0).toNat 64
      split
      · next h => rw [← hread, h]
      · next h =>
        rw [h] at hread
        dsimp only at hread
        split
        · simp [hread]
        · refine foldl_keeps (P := fun (x : Except JStop (List (Nat × List Nat)) × State) => x.2.mem = s.mem) (by simp [hread]) fun x row hx => ?_
          grind [State.maskRow_mem]
@[simp] theorem State.maskFor_mem (s : State) (d c : Nat) (o : JOp) (cw : Crew) (is : List Nat) :
    (s.maskFor d c o cw is).2.mem = s.mem := by
  grind [State.maskFor, State.mask_mem]
@[simp] theorem State.quarterBegin_mem (s : State) (d c : Nat) (o : JOp) (cw : Crew) : (s.quarterBegin d c o cw).2.mem = s.mem := by
  unfold State.quarterBegin
  dsimp only
  have hmask := State.maskFor_mem s d c o cw (o.laneRows.map fun l => o.rowI l.1)
  split
  · next h => rw [← hmask, h]
  · next h =>
    rw [h] at hmask
    dsimp only at hmask
    split
    · next h => exact (State.jWindows_mem h).trans hmask
    · simp [hmask]
@[simp] theorem State.bitBegin_mem (s : State) (d c : Nat) (o : JOp) (cw : Crew) : (s.bitBegin d c o cw).2.mem = s.mem := by
  unfold State.bitBegin
  dsimp only
  have hmask := State.maskFor_mem s d c o cw ((List.range 16).map o.rowI)
  split
  · next h => rw [← hmask, h]
  · next h =>
    rw [h] at hmask
    dsimp only at hmask
    split
    · next h => exact (State.jWindows_mem h).trans hmask
    · split
      · next h => exact (State.jWindows_mem h).trans hmask
      · simp [hmask]
@[simp] theorem State.streamBegin_mem (s : State) (d c : Nat) (o : JOp) (cw : Crew) : (s.streamBegin d c o cw).2.mem = s.mem := by
  unfold State.streamBegin
  dsimp only
  split
  · next h => exact State.jWindows_mem h
  · simp

/-! ### Of Drain -/

@[simp] theorem State.spillTuples_mem (s : State) (g : Eng) (cw : Crew) (t : JTable) (x4 x5 : Nat) :
    (s.spillTuples g cw t x4 x5).2.mem = s.mem := by
  induction x4 generalizing s x5 with
  | zero => rfl
  | succ fuel ih => grind [State.spillTuples, State.engRead_mem]
@[simp] theorem State.drainBegin_mem (s : State) (d c : Nat) (o : JOp) (cw : Crew) : (s.drainBegin d c o cw).2.mem = s.mem := by
  have hmem : ∀ {e t u}, State.spillTuples u (o.eng d c) cw (cw.table o.tbl)
      ((cw.table o.tbl).spills + 1) (cw.table o.tbl).sphead = (e, t) → t.mem = u.mem :=
    fun h => (congrArg (fun x => x.2.mem) h).symm.trans (State.spillTuples_mem ..)
  have hread := State.engRead_mem s (o.eng d c) cw o.rsp attrR (o.u 0) 64
  unfold State.drainBegin
  cases o.list
  · simp only [Bool.false_eq_true, if_false, Bool.not_false, Bool.true_and]
    split
    · next h => exact State.engHeld_mem h
    · split
      · next h => rw [← hread, h]
      · next h =>
        rw [h] at hread
        split
        · simpa using hread
        · split <;> next h3 => simpa [hmem h3] using hread
  · simp only [if_true, Bool.not_true, Bool.false_and, Bool.false_eq_true, if_false]
    split <;> next h3 => exact hmem h3
@[simp] theorem State.jDetach_mem (s : State) (r : CrewRef) (ops : List JOp) : (s.jDetach r ops).mem = s.mem := by
  simp [State.jDetach, State.foldl_mem]
@[simp] theorem State.tailCounts_mem (s : State) (g : Eng) (cw : Crew) (area : List Byte) (x4 : Nat) :
    (s.tailCounts g cw area x4).2.mem = s.mem := by
  induction x4 generalizing s with
  | zero => rfl
  | succ n ih => grind [State.tailCounts, State.engRead_mem]
@[simp] theorem State.savedKeys_mem (s : State) (g : Eng) (cw : Crew) (n : Nat) (t : JTable) : (s.savedKeys g cw n t).2.mem = s.mem := by
  grind [State.savedKeys, State.engRead_mem]
@[simp] theorem State.savedTables_mem (s : State) (g : Eng) (cw : Crew) (area : List Byte) (counts : List Nat) (n : Nat) :
    (s.savedTables g cw area counts n).2.mem = s.mem := by
  induction n generalizing s with
  | zero => rfl
  | succ n ih => grind [State.savedTables, State.savedKeys_mem]
@[simp] theorem State.jInstall_mem (s : State) (r : CrewRef) (ts : List (Nat × JTable × List (Nat × CEntry))) :
    (s.jInstall r ts).mem = s.mem := by
  unfold State.jInstall
  refine State.foldl_mem (fun s x => ?_) _ _
  split <;> simp
@[simp] theorem State.bandWords_mem (s : State) (r : CrewRef) (area : List Byte) : (s.bandWords r area).mem = s.mem := by
  simp [State.bandWords]
@[simp] theorem State.jAppend_mem (s : State) (d c : Nat) (ops : List JOp) : (s.jAppend d c ops).mem = s.mem := rfl

/-! ### Of Events -/

@[simp] theorem State.swapSet_mem (s : State) (out : Option ThreadRef) (into : ThreadRef) : (s.swapSet out into).mem = s.mem := by
  unfold State.swapSet
  split <;> simp

/-! ### Of Links -/

@[simp] theorem State.offer_mem (s : State) (lk : LinkId) (p : Packet) : (s.offer lk p).mem = s.mem := by
  unfold State.offer
  (repeat' split) <;> simp
@[simp] theorem State.podOffer_mem (s : State) (n : Nat) : (s.podOffer n).mem = s.mem := by
  simp only [State.podOffer]
  (repeat' split) <;> simp
@[simp] theorem State.flitIn_mem (s : State) (lk : LinkId) (flit : List Byte) (asCtl : Bool) : (s.flitIn lk flit asCtl).mem = s.mem := rfl
@[simp] theorem State.linkDown_mem (s : State) (lk : LinkId) (fail : W64) : (s.linkDown lk fail).mem = s.mem := by
  unfold State.linkDown
  split <;> simp

/-! ### Of Save -/

@[simp] theorem State.dropCrew_mem (s : State) (r : CrewRef) (cw : Crew) : (s.dropCrew r cw).mem = s.mem := rfl
@[simp] theorem State.moveNames_mem (s : State) (g : ThreadRef × Nat → ThreadRef × Nat) : (s.moveNames g).mem = s.mem := rfl
@[simp] theorem State.readArea_mem (s : State) (sv : SavedCrew) (r : CrewRef) (cw : Crew) (x4 : Option (List Byte)) :
    (s.readArea sv r cw x4).2.mem = s.mem := by
  unfold State.readArea
  (repeat' split) <;> simp
@[simp] theorem State.preemptDie_mem (s : State) (h : Handle) (d : Nat) : (s.preemptDie h d).mem = s.mem := by
  simp [State.preemptDie, State.foldl_mem]
@[simp] theorem State.ctxPreempt_mem (s : State) (c : Nat) (v : W64) : (s.ctxPreempt c v).mem = s.mem := by
  have hs : (if v.getLsbD 57 then s.updCtx c fun x => { x with preNospace := false } else s).mem = s.mem := by split <;> rfl
  unfold State.ctxPreempt
  generalize (if v.getLsbD 57 then s.updCtx c fun x => { x with preNospace := false } else s) = s1 at hs
  dsimp only
  split
  · exact hs
  · split
    · exact hs
    · simp [State.foldl_mem, hs]
@[simp] theorem State.resumeDie_mem (s : State) (g : Grid) (d : Nat) : (s.resumeDie g d).mem = s.mem := by
  unfold State.resumeDie
  simp only [State.wantRange_mem, State.retarget_mem]
  exact State.foldl_mem (fun s x => by simp) _ _
@[simp] theorem State.ctxResume_mem (s : State) (c : Nat) (v : W64) : (s.ctxResume c v).mem = s.mem := by
  unfold State.ctxResume
  dsimp only
  split
  · rfl
  · split
    · exact State.foldl_mem (fun s x => by simp) _ _
    · rfl

/-! ### Of Place -/

@[simp] theorem State.updHeads_mem (s : State) (d p : Nat) (f : List QCluster → List QCluster) : (s.updHeads d p f).mem = s.mem := rfl
@[simp] theorem State.ageHead_mem (s : State) (d p : Nat) (c : QCluster) (l : LaunchRec) : (s.ageHead d p c l).mem = s.mem := rfl
@[simp] theorem State.countRetired_mem (s : State) (d : Nat) (h : Handle) (lin : Nat) : (s.countRetired d h lin).mem = s.mem := by
  simp only [State.countRetired]
  (repeat' split) <;> simp

/-! ### Of Start -/

@[simp] theorem State.updBoot_mem (s : State) (f : Boot → Boot) : (s.updBoot f).mem = s.mem := rfl
@[simp] theorem State.updOwn_mem (s : State) (f : Own → Own) : (s.updOwn f).mem = s.mem := rfl
@[simp] theorem State.updStart_mem (s : State) (f : Start → Start) : (s.updStart f).mem = s.mem := rfl
@[simp] theorem State.updFw_mem (s : State) (f : Fw → Fw) : (s.updFw f).mem = s.mem := rfl
@[simp] theorem State.denied_mem (s : State) : (s.denied).mem = s.mem := rfl
@[simp] theorem State.drawNonce_mem (s : State) : (s.drawNonce).mem = s.mem := rfl
@[simp] theorem State.openWindow_mem (s : State) : (s.openWindow).mem = s.mem := rfl
@[simp] theorem State.closeWindow_mem (s : State) : (s.closeWindow).mem = s.mem := rfl
@[simp] theorem State.claimNow_mem (s : State) (cand : BitVec 2) (valid : Bool) : (s.claimNow cand valid).mem = s.mem := by
  simp only [State.claimNow]
  (repeat' split) <;> simp
@[simp] theorem State.claim_mem (s : State) (cand : BitVec 2) (valid : Bool) : (s.claim cand valid).mem = s.mem := by
  unfold State.claim
  split <;> simp
@[simp] theorem State.release_mem (s : State) (cand tgt : Nat) (valid : Bool) : (s.release cand tgt valid).mem = s.mem := by
  simp only [State.release]
  (repeat' split) <;> simp
@[simp] theorem State.acceptOwner_mem (s : State) (cand tgt : Nat) (valid : Bool) : (s.acceptOwner cand tgt valid).mem = s.mem := by
  simp only [State.acceptOwner]
  (repeat' split) <;> simp
@[simp] theorem State.submit_mem (s : State) (cand : BitVec 2) : (s.submit cand).mem = s.mem := by
  unfold State.submit
  dsimp only
  split <;> simp
@[simp] theorem State.attRequest_mem (s : State) (cand : BitVec 2) : (s.attRequest cand).mem = s.mem := by
  simp only [State.attRequest]
  (repeat' split) <;> simp
@[simp] theorem State.beginStart_mem (s : State) (kind : StartKind) (again : Bool) : (s.beginStart kind again).mem = s.mem := by
  simp only [State.beginStart]
  (repeat' split) <;> simp
@[simp] theorem State.safeMode_mem (s : State) : (s.safeMode).mem = s.mem := rfl
@[simp] theorem State.startFailed_mem (s : State) : (s.startFailed).mem = s.mem := by
  simp only [State.startFailed]
  (repeat' split) <;> simp
@[simp] theorem State.untrained_mem (s : State) (sock : Nat) : (s.untrained sock).mem = s.mem := by
  unfold State.untrained
  exact State.foldl_mem (fun s x => by dsimp only; simp) _ _
@[simp] theorem State.startDone_mem (s : State) : (s.startDone).mem = s.mem := by simp [State.startDone]
@[simp] theorem State.bootCold_mem (s : State) : (s.bootCold).mem = s.mem := by
  simp only [State.bootCold]
  (repeat' split) <;> simp
@[simp] theorem State.bootWarm_mem (s : State) : (s.bootWarm).mem = s.mem := by
  simp only [State.bootWarm]
  (repeat' split) <;> simp

/-! ### Of Master -/

@[simp] theorem State.unparkAll_mem (s : State) (c : Nat) : (s.unparkAll c).mem = s.mem := by
  simp [State.unparkAll, State.foldl_mem]
@[simp] theorem State.writeTrcmd_mem (s : State) (n i : Nat) (v : W64) : (s.writeTrcmd n i v).mem = s.mem := by
  simp only [State.writeTrcmd]
  (repeat' split) <;> simp
@[simp] theorem State.updConv_mem (s : State) (sock : Nat) (f : TimeConv → TimeConv) : (s.updConv sock f).mem = s.mem := rfl
@[simp] theorem State.storeBoot_mem (s : State) (cand : BitVec 2) (r : Reg) (v : W64) : (s.storeBoot cand r v).mem = s.mem := by
  unfold State.storeBoot
  (repeat' split) <;> simp
@[simp] theorem State.storeLink_mem (s : State) (r : Reg) (v : W64) : (s.storeLink r v).mem = s.mem := by
  unfold State.storeLink
  (repeat' split) <;> simp
@[simp] theorem State.stage_mem (s : State) (cls off : Nat) (bs : List Byte) : (s.stage cls off bs).mem = s.mem := rfl
@[simp] theorem State.commitImage_mem (s : State) (cls : Nat) : (s.commitImage cls).2.mem = s.mem := by
  simp only [State.commitImage]
  (repeat' split) <;> simp

/-! ### Of Sched -/

@[simp] theorem State.arrives_mem (s : State) (p : Packet) : (s.arrives p).1.mem = s.mem := rfl
@[simp] theorem State.deliver_mem (s : State) (n : Nat) : (s.deliver n).1.mem = s.mem := by
  simp only [State.deliver]
  (repeat' split) <;> simp
@[simp] theorem State.hop_mem (s : State) (n : Nat) : (s.hop n).1.mem = s.mem := by
  simp only [State.hop]
  (repeat' split) <;> simp
@[simp] theorem State.noteReady_mem (s : State) (t : ThreadRef) : (s.noteReady t).mem = s.mem := by
  unfold State.noteReady
  (repeat' split) <;> simp
@[simp] theorem State.collect_mem (s : State) (t : ThreadRef) (i : Instr) : (s.collect t i).mem = s.mem := by
  unfold State.collect
  split <;> simp
@[simp] theorem State.landNow_mem (s : State) (t : ThreadRef) (id : Nat) : (s.landNow t id).mem = s.mem := by
  unfold State.landNow
  (repeat' split) <;> simp
@[simp] theorem State.nextTurn_mem (s : State) : (s.nextTurn).2.mem = s.mem := by
  unfold State.nextTurn
  split <;> simp

end Sys2Proof.Machine
end

section
/-!
The operations that write bytes of the memories keep the canonical form, one lemma each in the order of their definitions.
-/
namespace Sys2Proof.Machine

/-! ## Folds, runs of writes and choices -/

theorem State.foldl_wf {α : Type} {f : State → α → State}
    (h : ∀ s x, Memory.wf s.mem = true → Memory.wf (f s x).mem = true) (l : List α) (s : State) (hs : Memory.wf s.mem = true) :
    Memory.wf (l.foldl f s).mem = true := foldl_keeps (P := fun t : State => Memory.wf t.mem = true) hs h

theorem Memory.wf_writes {ks : List (Nat × Byte)} {m : List Host.Cell} (h : Memory.wf m = true) :
    Memory.wf (ks.foldl (fun m x => Memory.write m x.1 x.2) m) = true :=
  foldl_keeps (P := fun m : List Host.Cell => Memory.wf m = true) h fun _ _ hm => Memory.wf_write hm _ _

theorem putCells_wf {m : List Host.Cell} (h : Memory.wf m = true) (k n : Nat) (cs : Tbl Byte) : Memory.wf (putCells m k n cs) = true :=
  foldl_keeps (P := fun m : List Host.Cell => Memory.wf m = true) (Memory.wf_clear h k n) fun _ _ hm => Memory.wf_write hm _ _

theorem clearSrams_wf {m : List Host.Cell} (h : Memory.wf m = true) : Memory.wf (clearSrams m) = true :=
  Memory.wfFrom_filter _ m none h

@[simp] theorem State.setMem_wf {s : State} {m : List Host.Cell} (h : Memory.wf m = true) : Memory.wf (s.setMem m).mem = true := h

theorem wf_ite {p : Prop} [Decidable p] {s t : State} (hs : Memory.wf s.mem = true) (ht : Memory.wf t.mem = true) :
    Memory.wf (if p then s else t).mem = true := by
  split <;> assumption

/-! ## The canonical form is kept -/

/-! ### Of Report -/

/-- `State.hostWrite` with the map of places to keys as a variable. -/
def State.storeBy (key : State → Nat → Option Nat) (s : State) : Nat → List Byte → State
  | _, [] => s
  | pa, b :: bs =>
    match key s pa with
    | some k => (s.writeKey k [b]).storeBy key (pa + 1) bs
    | none => s.storeBy key (pa + 1) bs

theorem State.storeBy_wf (key : State → Nat → Option Nat) (s : State) (pa : Nat) (bs : List Byte) (hm : Memory.wf s.mem = true) :
    Memory.wf (s.storeBy key pa bs).mem = true := by
  induction bs generalizing s pa with
  | nil => exact hm
  | cons b bs ih =>
    unfold State.storeBy
    split
    · exact ih _ _ (State.writeKey_wf hm _ _)
    · exact ih _ _ hm



theorem State.hostWrite_eq_storeBy : State.hostWrite = State.storeBy State.hostKey := by
  delta State.hostWrite State.hostWrite._f State.storeBy State.storeBy._f
  generalize State.hostKey = key
  rfl

@[simp] theorem State.hostWrite_wf (s : State) (x1 : Nat) (x2 : List Byte) (hm : Memory.wf s.mem = true) :
    Memory.wf (s.hostWrite x1 x2).mem = true := by
  rw [State.hostWrite_eq_storeBy]
  exact State.storeBy_wf _ s x1 x2 hm
@[simp] theorem State.postRecord_wf (s : State) (r : List Byte) (hm : Memory.wf s.mem = true) : Memory.wf (s.postRecord r).mem = true := by
  unfold State.postRecord
  dsimp only
  (repeat' split) <;> first | exact hm | exact State.hostWrite_wf _ _ _ (State.hostWrite_wf _ _ _ (State.hostWrite_wf _ _ _ hm)) | simp [hm]
@[simp] theorem State.report_wf (s : State) (sock : Nat) (fatal : Bool) (ctx : Option B6) (cause : Nat) (grid : Handle) (detail : List Byte)
    (hm : Memory.wf s.mem = true) : Memory.wf (s.report sock fatal ctx cause grid detail).mem = true := by
  unfold State.report
  split <;> simp [hm]

/-! ### Of Ops -/

theorem State.devWrite_wf {s t : State} {ctx : B6} {va : Nat} {bs : List Byte} (h : s.devWrite ctx va bs = .ok t)
    (hm : Memory.wf s.mem = true) : Memory.wf t.mem = true := by
  unfold State.devWrite at h
  split at h
  · cases h; exact Memory.wf_writes hm
  · cases h
@[simp] theorem State.trapEvent_wf (s : State) (t : ThreadRef) (h : Handle) (cause fpc info lanes kind : Nat)
    (hm : Memory.wf s.mem = true) : Memory.wf (s.trapEvent t h cause fpc info lanes kind).mem = true := by
  simp [State.trapEvent, hm]
@[simp] theorem State.doubleTrap_wf (s : State) (t : ThreadRef) (h : Handle) (fpc info lanes kind first second : Nat)
    (hm : Memory.wf s.mem = true) : Memory.wf (s.doubleTrap t h fpc info lanes kind first second).mem = true := by
  simp [State.doubleTrap, hm]
@[simp] theorem State.saveLanes_wf (s : State) (cw : Crew) (t : ThreadRef) (b : Band) (srcs : List (Nat × List W128))
    (hm : Memory.wf s.mem = true) : Memory.wf (s.saveLanes cw t b srcs).mem = true := by
  unfold State.saveLanes
  exact State.foldl_wf (fun s l hs => State.writeKey_wf hs _ _) _ _ hm
@[simp] theorem State.enterTrap_wf (s : State) (t : ThreadRef) (hm : Memory.wf s.mem = true) : Memory.wf (s.enterTrap t).mem = true := by
  simp only [State.enterTrap]
  (repeat' split) <;> simp [hm]
@[simp] theorem State.frontFault_wf (s : State) (t : ThreadRef) (p : PendTrap)
    (hm : Memory.wf s.mem = true) : Memory.wf (s.frontFault t p).mem = true := by
  have hkill : ∀ (bs : Tbl Band) (s : State), Memory.wf s.mem = true →
      Memory.wf (bs.foldl (fun s b => if b.2.running then s.killBand (t.crew.band b.1) else s) s).mem = true :=
    fun bs s hs => State.foldl_wf (fun s b hs => by split <;> simp [hs]) _ _ hs
  unfold State.frontFault
  split
  · dsimp only
    split
    · split <;> simp [hkill, hm]
    · simp [hkill, hm]
  · exact hm
@[simp] theorem State.takeTrap_wf (s : State) (t : ThreadRef) (p : PendTrap)
    (hm : Memory.wf s.mem = true) : Memory.wf (s.takeTrap t p).mem = true := by
  simp only [State.takeTrap]
  (repeat' split) <;> simp [hm]

/-! ### Of Blocks -/

@[simp] theorem State.putFields_wf (s : State) (sv : SavedCrew) (fs : Fields)
    (hm : Memory.wf s.mem = true) : Memory.wf (s.putFields sv fs).mem = true := by
  unfold State.putFields
  refine State.foldl_wf (fun s x hs => ?_) _ _ hm
  split
  · next h => exact State.devWrite_wf h hs
  · exact hs
@[simp] theorem State.updSaved_wf (s : State) (d : Nat) (f : SavedCrew → SavedCrew)
    (hm : Memory.wf s.mem = true) : Memory.wf (s.updSaved d f).mem = true := by
  unfold State.updSaved
  exact State.foldl_wf (fun s x hs => State.putFields_wf _ _ _ hs) _ _ hm
@[simp] theorem State.updWaiting_wf (s : State) (t : ThreadRef) (id : Nat) (f : Band → Band)
    (hm : Memory.wf s.mem = true) : Memory.wf (s.updWaiting t id f).mem = true := by
  have hsaved : ∀ g : Crew → Bool, Memory.wf (State.updWaiting.saved t f s g).mem = true :=
    fun g => State.updSaved_wf _ _ _ hm
  unfold State.updWaiting
  dsimp only
  split
  · split
    · simpa using hm
    · exact hsaved _
  · exact hsaved _
@[simp] theorem State.waitDone_wf (s : State) (t : ThreadRef) (id : Nat)
    (hm : Memory.wf s.mem = true) : Memory.wf (s.waitDone t id).mem = true := by
  simp [State.waitDone, hm]

/-! ### Of Operands -/

@[simp] theorem Env.raise_wf (e : Env) (cause : Nat) (info : W64) (lanes : BitVec 64) (s : State)
    (hm : Memory.wf s.mem = true) : Memory.wf (e.raise cause info lanes s).mem = true := by
  simp [Env.raise, hm]

/-! ### Of Access -/

@[simp] theorem State.putSpot_wf (s : State) (d : Nat) (p : Spot) (v : Byte)
    (hm : Memory.wf s.mem = true) : Memory.wf (s.putSpot d p v).mem = true := by
  grind [State.putSpot, State.writeKey_wf, State.clearKey_wf, State.updCore_mem]
@[simp] theorem State.putScr_wf (s : State) (r : CrewRef) (cw : Crew) (sp : Space) (laneCtx off : Nat) (bs : List Byte)
    (hm : Memory.wf s.mem = true) : Memory.wf (s.putScr r cw sp laneCtx off bs).mem = true := by
  simp +contextual [State.putScr, State.foldl_wf, hm]
@[simp] theorem State.homeWrite_wf (s : State) (ctx : B6) (va sock : Nat) (bs : List Byte)
    (hm : Memory.wf s.mem = true) : Memory.wf (s.homeWrite ctx va sock bs).2.mem = true := by
  unfold State.homeWrite
  split
  · simpa using Memory.wf_writes hm
  · exact hm
@[simp] theorem State.homeAtomic_wf (s : State) (ctx : B6) (va sock op width : Nat) (signed : Bool) (operand expected : Nat)
    (hm : Memory.wf s.mem = true) : Memory.wf (s.homeAtomic ctx va sock op width signed operand expected).2.2.mem = true := by
  grind [State.homeAtomic, State.homeRead_mem, State.homeWrite_wf]

/-! ### Of Pool -/

@[simp] theorem State.pageWait_wf (s : State) (d : Nat) (h : Handle) (w : PageWait)
    (hm : Memory.wf s.mem = true) : Memory.wf (s.pageWait d h w).mem = true := by
  simp only [State.pageWait]
  (repeat' split) <;> simp [hm]
@[simp] theorem State.returnWait_wf (s : State) (d : Nat) (h : Handle) (r : List Byte)
    (hm : Memory.wf s.mem = true) : Memory.wf (s.returnWait d h r).mem = true := by
  simp [State.returnWait, hm]
@[simp] theorem State.recordsLost_wf (s : State) (d : Nat) (h : Handle) (n : Nat)
    (hm : Memory.wf s.mem = true) : Memory.wf (s.recordsLost d h n).mem = true := by
  simp [State.recordsLost, hm]
@[simp] theorem State.ringPut_wf (s : State) (d : Nat) (h : Handle) (page slot : Nat) (new : Bool) (r : List Byte)
    (hm : Memory.wf s.mem = true) : Memory.wf (s.ringPut d h page slot new r).mem = true := by
  unfold State.ringPut
  split
  · next h =>
    have := State.devWrite_wf h hm
    split <;> simp [this]
  · simp [hm]
theorem State.ringAppend_wf {s t : State} {d : Nat} {h : Handle} {me : Option PageWait} {r : List Byte}
    (ha : s.ringAppend d h me r = some t) (hm : Memory.wf s.mem = true) : Memory.wf t.mem = true := by
  unfold State.ringAppend at ha
  simp only at ha
  split at ha
  · cases ha; exact State.ringPut_wf _ _ _ _ _ _ _ hm
  · obtain ⟨va, _, rfl⟩ := Option.map_eq_some_iff.1 ha
    exact State.ringPut_wf _ _ _ _ _ _ _ hm
theorem State.ringAppends_wf {s t : State} {d : Nat} {h : Handle} {me : Option PageWait} {rs : List (List Byte)}
    (ha : s.ringAppends d h me rs = some t) (hm : Memory.wf s.mem = true) : Memory.wf t.mem = true := by
  induction rs generalizing s with
  | nil => cases ha; exact hm
  | cons r rs ih =>
    unfold State.ringAppends at ha
    split at ha
    · next h' => exact ih ha (State.ringAppend_wf h' hm)
    · cases ha
theorem State.enterWindow_wf {s t : State} {c : CrewRef} {me : Option PageWait} {r : List Byte}
    (ha : s.enterWindow c me r = some t) (hm : Memory.wf s.mem = true) : Memory.wf t.mem = true := by
  unfold State.enterWindow at ha
  split at ha
  · cases ha; exact hm
  · dsimp only at ha
    split at ha
    · exact State.ringAppend_wf ha hm
    · split at ha
      · cases ha; exact hm
      · obtain ⟨u, hu, rfl⟩ := Option.map_eq_some_iff.1 ha
        simpa using State.ringAppends_wf hu (by simpa using hm)
theorem State.enterWindows_wf {s t : State} {c : CrewRef} {me : Option PageWait} {rs : List (List Byte)}
    (ha : s.enterWindows c me rs = some t) (hm : Memory.wf s.mem = true) : Memory.wf t.mem = true := by
  induction rs generalizing s with
  | nil => cases ha; exact hm
  | cons r rs ih =>
    unfold State.enterWindows at ha
    split at ha
    · next h' => exact ih ha (State.enterWindow_wf h' hm)
    · cases ha
@[simp] theorem State.requeueLane_wf (s : State) (t : ThreadRef) (lane : Nat)
    (hm : Memory.wf s.mem = true) : Memory.wf (s.requeueLane t lane).mem = true := by
  have hover : ∀ (u : State) (h : Handle) (w : PageWait), Memory.wf u.mem = true →
      Memory.wf (((u.pageGot t.die h w).updThread t fun b =>
        { b with requeue := b.requeue &&& ~~~(1#64 <<< lane), tasks := b.tasks &&& ~~~(1#64 <<< lane) }).endIfEmpty t).mem = true :=
    fun u h w hu => by simpa using hu
  unfold State.requeueLane
  dsimp only
  split
  · split
    · exact hover _ _ _ hm
    · split
      · next h => exact hover _ _ _ (State.enterWindow_wf h hm)
      · simp [hm]
  · exact hm
@[simp] theorem State.abortLanes_wf (s : State) (t : ThreadRef) (m : BitVec 64)
    (hm : Memory.wf s.mem = true) : Memory.wf (s.abortLanes t m).mem = true := by
  unfold State.abortLanes
  split
  · exact hm
  · simp +contextual [State.foldl_wf, hm]
@[simp] theorem State.faultEvent_wf (s : State) (t : ThreadRef) (h : Handle) (b : Band) (f : MemFault) (restart : PCW) (requeued : Bool)
    (hm : Memory.wf s.mem = true) : Memory.wf (s.faultEvent t h b f restart requeued).mem = true := by
  unfold State.faultEvent
  split <;> simp [hm]
@[simp] theorem State.parkFault_wf (s : State) (t : ThreadRef) (cw : Crew) (b1 : Band) (f : MemFault)
    (hm : Memory.wf s.mem = true) : Memory.wf (s.parkFault t cw b1 f).mem = true := by
  simp [State.parkFault, hm]
@[simp] theorem State.memFault_wf (s : State) (t : ThreadRef) (f : MemFault)
    (hm : Memory.wf s.mem = true) : Memory.wf (s.memFault t f).mem = true := by
  grind [State.memFault, State.faultEvent_wf, State.parkFault_wf, State.abortLanes_wf, State.setThread_mem]

/-! ### Of Issue -/

@[simp] theorem State.barFailed_wf (s : State) (t : ThreadRef) (hm : Memory.wf s.mem = true) : Memory.wf (s.barFailed t).mem = true := by
  simp only [State.barFailed]
  (repeat' split) <;> simp [hm]
@[simp] theorem State.pick_wf (s0 : State) (t : ThreadRef) (hm : Memory.wf s0.mem = true) : Memory.wf (s0.pick t).1.mem = true := by
  simp only [State.pick]
  (repeat' split) <;> simp [hm]

/-! ### Of Xlate -/

@[simp] theorem State.pageFault_wf (s : State) (t : ThreadRef) (ctx : B6) (page : Nat)
    (hm : Memory.wf s.mem = true) : Memory.wf (s.pageFault t ctx page).mem = true := by
  simp only [State.pageFault]
  (repeat' split) <;> simp [hm]
@[simp] theorem State.wakeSaved_wf (s : State) (d : Nat) (f : B6 → Nat → Bool)
    (hm : Memory.wf s.mem = true) : Memory.wf (s.wakeSaved d f).mem = true := by
  simp [State.wakeSaved, hm]
@[simp] theorem State.fetchRefused_wf (s : State) (d c : Nat) (ctx : B6) (line : Nat)
    (hm : Memory.wf s.mem = true) : Memory.wf (s.fetchRefused d c ctx line).mem = true := by
  unfold State.fetchRefused
  refine State.foldl_wf (fun s x hs => ?_) _ _ hm
  split
  · split <;> simp [hs]
  · exact hs

/-! ### Of Grid -/

@[simp] theorem State.launchOutcome_wf (s : State) (sub : Option (ThreadRef × Nat)) (h : Handle)
    (hm : Memory.wf s.mem = true) : Memory.wf (s.launchOutcome sub h).mem = true := by
  simp only [State.launchOutcome]
  (repeat' split) <;> simp [hm]
@[simp] theorem State.complWrite_wf (s : State) (g : Grid) (va : Nat) (bs : List Byte)
    (hm : Memory.wf s.mem = true) : Memory.wf (s.complWrite g va bs).mem = true := by
  unfold State.complWrite
  split
  · exact hm
  · split
    · next h => exact State.devWrite_wf h hm
    · simp [hm]
@[simp] theorem State.writeCompletion_wf (s : State) (g : Grid) (status : Nat)
    (hm : Memory.wf s.mem = true) : Memory.wf (s.writeCompletion g status).mem = true := by
  grind [State.writeCompletion, State.complWrite_wf, State.waitDone_wf, State.sendTo_mem]
@[simp] theorem State.endGridN_wf (x0 : Nat) (x1 : State) (x2 : Handle) (x3 : Nat)
    (hm : Memory.wf x1.mem = true) : Memory.wf (State.endGridN x0 x1 x2 x3).mem = true := by
  induction x0 generalizing x1 x2 x3 with
  | zero => exact hm
  | succ n ih =>
    unfold State.endGridN
    split
    · exact hm
    · split
      · exact hm
      · rw [State.destroyStep_mem]
        exact State.foldl_wf (fun s x hs => ih _ _ _ (by simpa using hs)) _ _ (by simp [hm])
@[simp] theorem State.endGrid_wf (s : State) (h : Handle) (status : Nat)
    (hm : Memory.wf s.mem = true) : Memory.wf (s.endGrid h status).mem = true := by
  simp [State.endGrid, hm]
@[simp] theorem State.sweepStart_wf (s : State) (h : Handle) (hm : Memory.wf s.mem = true) : Memory.wf (s.sweepStart h).mem = true := by
  unfold State.sweepStart
  dsimp only
  split
  · exact hm
  · split
    · exact hm
    · split <;> simp +contextual [State.foldl_wf, hm]
@[simp] theorem State.serveAsked_wf (s : State) (h : Handle) (hm : Memory.wf s.mem = true) : Memory.wf (s.serveAsked h).mem = true := by
  unfold State.serveAsked
  split
  · exact hm
  · simp +contextual [State.foldl_wf, hm]
@[simp] theorem State.serveAfter_wf (s : State) (hm : Memory.wf s.mem = true) : Memory.wf (s.serveAfter).mem = true := by
  simp +contextual [State.serveAfter, State.foldl_wf, hm]
@[simp] theorem State.finishGrid_wf (s : State) (h : Handle) (status : Nat)
    (hm : Memory.wf s.mem = true) : Memory.wf (s.finishGrid h status).mem = true := by
  simp [State.finishGrid, hm]
@[simp] theorem State.sweepEnd_wf (s : State) (h : Handle) (hm : Memory.wf s.mem = true) : Memory.wf (s.sweepEnd h).mem = true := by
  simp only [State.sweepEnd]
  (repeat' split) <;> simp [hm]
@[simp] theorem State.acceptOwn_wf (s : State) (h : Handle) (f : Forwarded) (cw : W64)
    (hm : Memory.wf s.mem = true) : Memory.wf (s.acceptOwn h f cw).mem = true := by
  grind [State.acceptOwn, State.addGrid_mem, State.report_wf, State.launchOutcome_wf, State.finishGrid_wf, State.updOwner_mem]
@[simp] theorem State.accept_wf (s : State) (a : Assigned) (hm : Memory.wf s.mem = true) : Memory.wf (s.accept a).mem = true := by
  simp only [State.accept]
  (repeat' split) <;> simp [hm]
@[simp] theorem State.copyEnd_wf (s : State) (r : CrewRef) (ch : Nat) (k : CopyCmd) (st : BitVec 6)
    (hm : Memory.wf s.mem = true) : Memory.wf (s.copyEnd r ch k st).mem = true := by
  simp [State.copyEnd, hm]
@[simp] theorem State.discardCopies_wf (s : State) (r : CrewRef)
    (hm : Memory.wf s.mem = true) : Memory.wf (s.discardCopies r).mem = true := by
  unfold State.discardCopies
  exact State.foldl_wf (fun s x hs => State.foldl_wf (fun s x hs => by simp [hs]) _ _ hs) _ _ hm
@[simp] theorem State.discardOps_wf (s : State) (r : CrewRef) (hm : Memory.wf s.mem = true) : Memory.wf (s.discardOps r).mem = true := by
  simp +contextual [State.discardOps, State.foldl_wf, hm]
@[simp] theorem State.cancelDie_wf (s : State) (d : Nat) (h : Handle)
    (hm : Memory.wf s.mem = true) : Memory.wf (s.cancelDie d h).mem = true := by
  unfold State.cancelDie
  split
  · exact hm
  · simp only [State.preSettle_mem, State.retarget_mem]
    refine State.foldl_wf (fun s r hs => ?_) _ _ ?_
    · exact State.foldl_wf (fun s t hs => by simp [hs]) _ _ hs
    · exact State.foldl_wf (fun s r hs => by simp [hs]) _ _ (by simp [hm])
@[simp] theorem State.cancelGrid_wf (s : State) (h : Handle) (hm : Memory.wf s.mem = true) : Memory.wf (s.cancelGrid h).mem = true := by
  unfold State.cancelGrid
  split
  · exact hm
  · split
    · simp [hm]
    · refine State.sweepStart_wf _ _ ?_
      rw [State.foldl_mem (fun s d => by simp), State.foldl_mem (fun s tgt => by simp)]
      simpa using hm
    · exact hm
@[simp] theorem State.cancelAt_wf (s : State) (d : Nat) (h : Handle)
    (hm : Memory.wf s.mem = true) : Memory.wf (s.cancelAt d h).mem = true := by
  simp only [State.cancelAt]
  (repeat' split) <;> simp [hm]
@[simp] theorem State.serveFar_wf (s : State) (hm : Memory.wf s.mem = true) : Memory.wf (s.serveFar).mem = true := by
  unfold State.serveFar
  refine State.serveAfter_wf _ (State.foldl_wf (fun s g hs => ?_) _ _ hm)
  split <;> simp [hs]
@[simp] theorem State.gridLosesDie_wf (s : State) (h : Handle) (pkg die : Nat)
    (hm : Memory.wf s.mem = true) : Memory.wf (s.gridLosesDie h pkg die).mem = true := by
  simp only [State.gridLosesDie]
  (repeat' split) <;> simp [hm]
@[simp] theorem State.stealNext_wf (s : State) (d : Nat) (h : Handle) (rest : List Nat)
    (hm : Memory.wf s.mem = true) : Memory.wf (s.stealNext d h rest).mem = true := by
  simp only [State.stealNext]
  (repeat' split) <;> simp [hm]
@[simp] theorem State.stealRefused_wf (s : State) (d : Nat) (h : Handle)
    (hm : Memory.wf s.mem = true) : Memory.wf (s.stealRefused d h).mem = true := by
  unfold State.stealRefused
  split <;> simp [hm]
@[simp] theorem State.clearTransfers_wf (s : State) (e pkg d : Nat)
    (hm : Memory.wf s.mem = true) : Memory.wf (s.clearTransfers e pkg d).mem = true := by
  have hlose : ∀ (s : State) (h : Handle) (n : Nat), Memory.wf s.mem = true →
      Memory.wf (if n = 0 then s else (s.liveSub e h n).updOwner h fun o => { o with failed := true }).mem = true :=
    fun s h n hs => by split <;> simp [hs]
  have henqs : ∀ (l : List (Nat × ThreadRef × Nat × Handle)) (s : State), Memory.wf s.mem = true →
      Memory.wf (l.foldl (fun (s : State) u => if 1 = 0 then (s.updDie e fun x => { x with tags := x.tags.erase u.1 }).waitDone u.2.1 u.2.2.1
        else (((s.updDie e fun x => { x with tags := x.tags.erase u.1 }).waitDone u.2.1 u.2.2.1).liveSub e u.2.2.2 1).updOwner u.2.2.2
          fun o => { o with failed := true }) s).mem = true :=
    fun l s hs => State.foldl_wf (fun s u hs => hlose _ _ 1 (by simp [hs])) _ _ hs
  unfold State.clearTransfers
  dsimp only
  split
  · exact henqs _ _ hm
  · refine State.foldl_wf (fun s g hs => ?_) _ _ (henqs _ _ hm)
    have hg : ∀ f : GridDie → GridDie, Memory.wf (s.updGridDie e (BitVec.ofNat 48 g.1) f).mem = true := fun f => hs
    split
    · split
      · exact State.stealRefused_wf _ _ _ (hlose _ _ _ (hg _))
      · exact hlose _ _ _ (hg _)
    · split
      · exact hlose _ _ _ (hg _)
      · exact hlose _ _ _ (hg _)
    · exact hlose _ _ _ (hg _)
@[simp] theorem State.reelect_wf (s : State) (failed : Option Nat)
    (hm : Memory.wf s.mem = true) : Memory.wf (s.reelect failed).mem = true := by
  have hlead : ∀ (l : List Handle) (s1 : State), Memory.wf s1.mem = true → Memory.wf (l.foldl (fun (u : State) h =>
        (if (s.disp.depv && (match u.gridOf h with | some g => !(g.own.pendMirror.any fun p => p.copy) | none => true)) = true
         then u.adoptMirror h s.disp.deputy.toNat s.disp.leader.toNat
         else u.counterGone h u.pkg s.disp.leader.toNat).tellOwner h) s1).mem = true := fun l s1 h1 =>
    State.foldl_wf (fun u h hu => by
      rw [State.tellOwner_mem]
      exact wf_ite (by simpa using hu) (by simpa using hu)) _ _ h1
  have hlose : ∀ (l : List Handle) (d : Nat) (s1 : State), Memory.wf s1.mem = true →
      Memory.wf (l.foldl (fun (u : State) h => u.gridLosesDie h u.pkg d) s1).mem = true := fun l d s1 h1 =>
    State.foldl_wf (fun u h hu => State.gridLosesDie_wf _ _ _ _ hu) _ _ h1
  have hcopy : ∀ (l : List Handle) (s1 : State), Memory.wf s1.mem = true →
      Memory.wf (l.foldl (fun (u : State) h => (u.copyMirror h).serveAsked h) s1).mem = true := fun l s1 h1 =>
    State.foldl_wf (fun u h hu => State.serveAsked_wf _ _ (by simpa using hu)) _ _ h1
  have helect : Memory.wf s.elect.mem = true := by simpa using hm
  unfold State.reelect
  cases failed with
  | none => exact wf_ite (hcopy _ _ (wf_ite (hlead _ _ helect) helect)) (wf_ite (hlead _ _ helect) helect)
  | some d =>
    exact wf_ite (hcopy _ _ (hlose _ _ _ (wf_ite (hlead _ _ helect) helect))) (hlose _ _ _ (wf_ite (hlead _ _ helect) helect))
@[simp] theorem State.dieFailed_wf (s : State) (d : Nat) (hm : Memory.wf s.mem = true) : Memory.wf (s.dieFailed d).mem = true := by
  unfold State.dieFailed
  exact State.reelect_wf _ _ (State.foldl_wf (fun s e hs => State.clearTransfers_wf _ _ _ _ hs) _ _ (by simp [hm]))
@[simp] theorem State.podCounterGone_wf (s : State) (g : Grid) (pkg : Nat)
    (hm : Memory.wf s.mem = true) : Memory.wf (s.podCounterGone g pkg).mem = true := by
  unfold State.podCounterGone
  split <;> simp [hm]

/-! ### Of Mem -/

@[simp] theorem Env.scratchAtomic_wf (e : Env) (cw : Crew) (sp : Space) (m : MemOp) (t : Touch) (s : State)
    (hm : Memory.wf s.mem = true) : Memory.wf (e.scratchAtomic cw sp m t s).2.2.mem = true := by
  unfold Env.scratchAtomic
  split <;> simp [hm]
@[simp] theorem Env.scratch_wf (e : Env) (cw : Crew) (sp : Space) (m : MemOp) (x4 : List Touch) (x5 : State)
    (hm : Memory.wf x5.mem = true) : Memory.wf (e.scratch cw sp m x4 x5).2.2.mem = true := by
  induction x4 generalizing x5 with
  | nil => exact hm
  | cons t ts ih =>
    unfold Env.scratch
    dsimp only
    split
    · exact ih _ (by simp [hm])
    · exact ih _ (by simp [hm])
    · exact ih _ hm

/-! ### Of Tasks -/

@[simp] theorem State.enqAnswered_wf (s : State) (d tag : Nat)
    (hm : Memory.wf s.mem = true) : Memory.wf (s.enqAnswered d tag).mem = true := by
  simp only [State.enqAnswered]
  (repeat' split) <;> simp [hm]
@[simp] theorem State.formBand_wf (s : State) (r : CrewRef) (hm : Memory.wf s.mem = true) : Memory.wf (s.formBand r).mem = true := by
  unfold State.formBand
  split
  · exact hm
  · dsimp only
    split
    · exact hm
    · split
      · exact hm
      · exact State.foldl_wf (fun s x hs => State.writeKey_wf hs _ _) _ _ (by simp [hm])
@[simp] theorem State.takeFrom_wf (s : State) (d : Nat) (h : Handle) (n : Nat) (bins : List Nat) (xs : List Source)
    (hm : Memory.wf s.mem = true) : Memory.wf (s.takeFrom d h n bins xs).1.mem = true := by
  induction xs generalizing s n bins with
  | nil => cases n <;> exact hm
  | cons x xs ih =>
    cases n with
    | zero => exact hm
    | succ n =>
      unfold State.takeFrom
      split
      · exact ih _ _ _ (by simp [hm])
      · dsimp only
        split
        · exact ih _ _ _ (by simp [hm])
        · exact ih _ _ _ hm
@[simp] theorem State.stealBegin_wf (s : State) (d : Nat) (h : Handle)
    (hm : Memory.wf s.mem = true) : Memory.wf (s.stealBegin d h).mem = true := by
  simp [State.stealBegin, hm]
@[simp] theorem State.stealable_wf (s : State) (d : Nat) (h : Handle) (xs : List RingRec)
    (hm : Memory.wf s.mem = true) : Memory.wf (s.stealable d h xs).1.mem = true := by
  induction xs generalizing s with
  | nil => exact hm
  | cons x xs ih =>
    unfold State.stealable
    split
    · exact ih _ (by simp [hm])
    · exact ih _ hm
@[simp] theorem State.grantArrived_wf (s : State) (d : Nat) (h : Handle) (h0 : PktHdr) (recs : List (List Byte))
    (hm : Memory.wf s.mem = true) : Memory.wf (s.grantArrived d h h0 recs).mem = true := by
  unfold State.grantArrived
  simp only [State.send_mem, State.updGridDie_mem, State.updDisp_mem]
  refine State.foldl_wf (fun s r hs => ?_) _ _ (by simp [hm])
  split
  · next h => exact State.ringAppend_wf h hs
  · simp [hs]
@[simp] theorem State.servePage_wf (s : State) (d : Nat) (h : Handle) (w : PageWait)
    (hm : Memory.wf s.mem = true) : Memory.wf (s.servePage d h w).mem = true := by
  unfold State.servePage
  split
  · dsimp only
    split
    · split <;> simp [hm]
    · simp [hm]
  · split
    · next h => simpa using State.ringAppend_wf h hm
    · exact hm
  · split
    · split <;> simp [hm]
    · simp [hm]
  · split
    · split <;> simp [hm]
    · simp [hm]

/-! ### Of Collect -/

@[simp] theorem State.putOwn_wf (s : State) (d : Nat) (h : Handle) (lin off : Nat) (bs : List Byte)
    (hm : Memory.wf s.mem = true) : Memory.wf (s.putOwn d h lin off bs).mem = true := by
  unfold State.putOwn
  dsimp only
  split
  · simp [hm]
  · exact State.foldl_wf (fun s x hs => by simp [hs]) _ _ hm

/-! ### Of Control -/

@[simp] theorem State.merge_wf (s : State) (c : CrewRef) (a b : Nat) (annex : W64) (next : PCW)
    (hm : Memory.wf s.mem = true) : Memory.wf (s.merge c a b annex next).mem = true := by
  unfold State.merge
  split
  · exact hm
  · split
    · simp only [State.endBand_mem, State.setThread_mem]
      exact State.foldl_wf (fun s x hs => State.writeKey_wf hs _ _) _ _ hm
    · exact hm

/-! ### Of Csr -/

@[simp] theorem Env.noPriv_wf (e : Env) (s : State) (hm : Memory.wf s.mem = true) : Memory.wf (e.noPriv s).mem = true := by
  simp [Env.noPriv, hm]
@[simp] theorem State.returnTrap_wf (s : State) (t : ThreadRef) (cw : Crew) (b0 : Band) (act : Nat)
    (hm : Memory.wf s.mem = true) : Memory.wf (s.returnTrap t cw b0 act).mem = true := by
  simp only [State.returnTrap]
  (repeat' split) <;> simp [hm]

/-! ### Of Engine -/

@[simp] theorem State.engStore_wf (s : State) (g : Eng) (ctx : B6) (x3 : List (EngPart × List Byte))
    (hm : Memory.wf s.mem = true) : Memory.wf (s.engStore g ctx x3).2.mem = true := by
  induction x3 generalizing s with
  | nil => exact hm
  | cons p ps ih => grind [State.engStore, State.engAsk_mem, State.homeWrite_wf, State.engDrop_mem]
@[simp] theorem State.engWrite_wf (s : State) (g : Eng) (cw : Crew) (sp : Space) (need : W16 → Bool) (va : Nat) (bs : List Byte)
    (hm : Memory.wf s.mem = true) : Memory.wf (s.engWrite g cw sp need va bs).2.mem = true := by
  unfold State.engWrite
  dsimp only
  split
  · have hparts := State.engParts_mem s g (handleCtx cw.cfg.handle) need (splitAt 64 va bs.length)
    split
    · next h => rw [h] at hparts; dsimp only at hparts; rw [hparts]; exact hm
    · next h =>
      rw [h] at hparts
      dsimp only at hparts
      exact State.engStore_wf _ _ _ _ (by simpa [hparts] using hm)
  · split
    · exact hm
    · simp [hm]
@[simp] theorem State.engAtomic_wf (s : State) (g : Eng) (cw : Crew) (sp : Space) (need : W16 → Bool) (va op width : Nat)
    (signed : Bool) (operand : Nat)
    (hm : Memory.wf s.mem = true) : Memory.wf (s.engAtomic g cw sp need va op width signed operand).2.mem = true := by
  unfold State.engAtomic
  dsimp only
  split
  · split
    · exact hm
    · grind [State.engPart_mem, State.engAsk_mem, State.homeAtomic_wf, State.engDrop_mem]
  · split
    · exact hm
    · simp [hm]
@[simp] theorem State.countArrived_wf (s : State) (r : CrewRef) (cw : Crew) (sp : Space) (off units : Nat)
    (hm : Memory.wf s.mem = true) : Memory.wf (s.countArrived r cw sp off units).mem = true := by
  simp [State.countArrived, hm]

/-! ### Of Copy -/

@[simp] theorem State.copyError_wf (s : State) (r : CrewRef) (ch : Nat) (k : CopyCmd) (code : Nat)
    (hm : Memory.wf s.mem = true) : Memory.wf (s.copyError r ch k code).mem = true := by
  unfold State.copyError
  exact State.foldl_wf (fun s x hs => State.copyEnd_wf _ _ _ _ _ hs) _ _ (by simp [hm])
@[simp] theorem State.copyStop_wf (s : State) (r : CrewRef) (ch : Nat) (k : CopyCmd) (why : CopyStop)
    (hm : Memory.wf s.mem = true) : Memory.wf (s.copyStop r ch k why).mem = true := by
  unfold State.copyStop
  split <;> simp [hm]
@[simp] theorem State.copyStart_wf (s : State) (r : CrewRef) (cw : Crew) (ch : Nat) (k : CopyCmd)
    (hm : Memory.wf s.mem = true) : Memory.wf (s.copyStart r cw ch k).mem = true := by
  have hread := State.engRead_mem s (k.eng r ch) cw k.rsp attrR k.recAddr.toNat 64
  unfold State.copyStart
  dsimp only
  refine wf_ite (by simp [hm]) ?_
  split
  · next h => exact (State.engHeld_mem h) ▸ hm
  · split
    · next h => rw [h] at hread; dsimp only at hread; simp [hread, hm]
    · next rd s0 h =>
      rw [h] at hread
      dsimp only at hread
      have hm1 : Memory.wf (((s0.engDone (k.eng r ch)).engLeaves (k.eng r ch) cw k.rsp [k.recAddr.toNat]).copyUninit r ch
          k.rsp rd.uninit).mem = true := by simp [hread, hm]
      refine wf_ite (State.copyError_wf _ _ _ _ _ hm1) (wf_ite (State.copyError_wf _ _ _ _ _ hm1)
        (wf_ite (State.copyError_wf _ _ _ _ _ hm1) ?_))
      split
      · next h2 =>
        split at h2
        · exact (State.engHeld_mem h2) ▸ hm1
        · cases h2
      · refine wf_ite (State.copyError_wf _ _ _ _ _ hm1) (wf_ite (State.copyError_wf _ _ _ _ _ ?_) ?_)
        · exact wf_ite (by simpa using hm1) hm1
        · rw [State.updHead_mem]
          exact wf_ite (by simpa using hm1) hm1
@[simp] theorem State.copyWrite_wf (s : State) (g : Eng) (cw : Crew) (k : CopyCmd) (t : TensorRec) (cs : List Nat) (p : Nat)
    (bs : List Byte)
    (hm : Memory.wf s.mem = true) : Memory.wf (s.copyWrite g cw k t cs p bs).2.mem = true := by
  grind [State.copyWrite, State.engWrite_wf, State.engAtomic_wf]
@[simp] theorem State.copyCount_wf (s : State) (r : CrewRef) (cw : Crew) (ch : Nat) (k : CopyCmd) (bytes rows : Nat)
    (hm : Memory.wf s.mem = true) : Memory.wf (s.copyCount r cw ch k bytes rows).mem = true := by
  simp only [State.copyCount]
  (repeat' split) <;> simp [hm]
@[simp] theorem State.copyDeliver_wf (s : State) (r : CrewRef) (cw : Crew) (ch : Nat) (k : CopyCmd) (t : TensorRec) (x6 : List
    (Nat × List Byte))
    (hm : Memory.wf s.mem = true) : Memory.wf (s.copyDeliver r cw ch k t x6).2.mem = true := by
  induction x6 generalizing s with
  | nil => exact hm
  | cons p ps ih => grind [State.copyDeliver, State.copyWrite_wf, State.engDone_mem, State.copyUninit_mem, State.copyCount_wf, State.updHead_mem]
@[simp] theorem State.copyStep_wf (s : State) (r : CrewRef) (cw : Crew) (ch : Nat) (k : CopyCmd) (t : TensorRec)
    (hm : Memory.wf s.mem = true) : Memory.wf (s.copyStep r cw ch k t).mem = true := by
  unfold State.copyStep
  dsimp only
  refine wf_ite (by simp [hm]) ?_
  split
  · next h =>
    split at h
    · cases h
    · exact (State.mcHeld_mem h) ▸ hm
  · have hm1 : ∀ (offs todo : List Nat) sp u f, Memory.wf (((if offs.isEmpty then (s.copyReads (k.eng r ch) cw k t todo).2.2.2
        else (s.copyReads (k.eng r ch) cw k t todo).2.2.2.mcLeaves r cw (k.eng r ch).reader offs).copyUninit r ch sp u).updHead
          r.die r.core ch f).mem = true := by
      intro offs todo sp u f
      rw [State.updHead_mem, State.copyUninit_mem]
      exact wf_ite (by simp [hm]) (by simp [hm])
    split
    · exact hm1 ..
    · exact State.copyStop_wf _ _ _ _ _ (hm1 ..)
    · split
      · exact State.copyStop_wf _ _ _ _ _ <| State.copyDeliver_wf _ _ _ _ _ _ _ (hm1 ..)
      · exact State.copyStop_wf _ _ _ _ _ <| State.copyDeliver_wf _ _ _ _ _ _ _ (hm1 ..)
      · exact wf_ite (State.copyEnd_wf _ _ _ _ _ (State.copyDeliver_wf _ _ _ _ _ _ _ (hm1 ..))) (State.copyDeliver_wf _ _ _ _ _ _ _ (hm1 ..))

/-! ### Of Caddy -/

@[simp] theorem State.globWrites_wf (s : State) (g : Eng) (cw : Crew) (x3 : List (Nat × List Byte))
    (hm : Memory.wf s.mem = true) : Memory.wf (s.globWrites g cw x3).2.mem = true := by
  induction x3 generalizing s with
  | nil => exact hm
  | cons p ps ih => grind [State.globWrites, State.engWrite_wf]
@[simp] theorem State.spillTuple_wf (s : State) (g : Eng) (cw : Crew) (t key bits : Nat)
    (hm : Memory.wf s.mem = true) : Memory.wf (s.spillTuple g cw t key bits).2.mem = true := by
  grind [State.spillTuple, State.globWrites_wf, State.setTable_mem, State.engDone_mem]
@[simp] theorem State.placeKey_wf (s : State) (g : Eng) (cw : Crew) (t : Nat) (m : JSum)
    (hm : Memory.wf s.mem = true) : Memory.wf (s.placeKey g cw t m).2.2.mem = true := by
  grind [State.placeKey, State.updCore_mem, State.spillTuple_wf]
@[simp] theorem State.placeKeys_wf (s : State) (g : Eng) (cw : Crew) (t : Nat) (x4 : List JSum)
    (hm : Memory.wf s.mem = true) : Memory.wf (s.placeKeys g cw t x4).2.2.2.mem = true := by
  induction x4 generalizing s with
  | nil => exact hm
  | cons p ps ih => grind [State.placeKeys, State.placeKey_wf]
@[simp] theorem State.jReads_wf (s : State) (d c : Nat) (o : JOp)
    (hm : Memory.wf s.mem = true) : Memory.wf (s.jReads d c o).mem = true := by
  unfold State.jReads
  split <;> simp [hm]
@[simp] theorem State.opDone_wf (s : State) (d c : Nat) (o : JOp)
    (hm : Memory.wf s.mem = true) : Memory.wf (s.opDone d c o).mem = true := by
  unfold State.opDone
  split <;> simp [hm]
@[simp] theorem State.opError_wf (s : State) (d c : Nat) (o : JOp) (code : Nat)
    (hm : Memory.wf s.mem = true) : Memory.wf (s.opError d c o code).mem = true := by
  simp [State.opError, hm]
@[simp] theorem State.opStop_wf (s : State) (d c : Nat) (o : JOp) (why : JStop)
    (hm : Memory.wf s.mem = true) : Memory.wf (s.opStop d c o why).mem = true := by
  simp only [State.opStop]
  (repeat' split) <;> simp [hm]

/-! ### Of Infuser -/

@[simp] theorem State.jAnswer_wf (s : State) (o : JOp) (v : Nat) (hm : Memory.wf s.mem = true) : Memory.wf (s.jAnswer o v).mem = true := by
  simp [State.jAnswer, hm]
theorem State.simpleEntry_wf {s t : State} {d c : Nat} {o : JOp} (h : s.simpleEntry d c o = some t) (hm : Memory.wf s.mem = true) :
    Memory.wf t.mem = true := by
  unfold State.simpleEntry at h
  dsimp only at h
  (repeat' split at h) <;> cases h <;> simp [hm]
@[simp] theorem State.jPrune_wf (s : State) (d c : Nat) (hm : Memory.wf s.mem = true) : Memory.wf (s.jPrune d c).mem = true := by
  unfold State.jPrune
  refine State.foldl_wf (fun s o hs => ?_) _ _ hm
  split
  · exact hs
  · split
    · simp [hs]
    · split <;> simp [hs]
@[simp] theorem State.jFront_wf (s : State) (d c x3 : Nat) (hm : Memory.wf s.mem = true) : Memory.wf (s.jFront d c x3).mem = true := by
  induction x3 generalizing s with
  | zero => exact hm
  | succ n ih =>
    unfold State.jFront
    split
    · exact hm
    · split
      · next h => exact ih _ (State.simpleEntry_wf h hm)
      · exact hm
@[simp] theorem State.jSettle_wf (s : State) (d c : Nat) (hm : Memory.wf s.mem = true) : Memory.wf (s.jSettle d c).mem = true := by
  simp [State.jSettle, hm]

/-! ### Of Passes -/

@[simp] theorem State.opPlace_wf (s : State) (d c : Nat) (o : JOp) (cw : Crew)
    (hm : Memory.wf s.mem = true) : Memory.wf (s.opPlace d c o cw).mem = true := by
  simp only [State.opPlace]
  (repeat' split) <;> simp [hm]
@[simp] theorem State.opStep_wf (s : State) (d c : Nat) (o : JOp) (start : State → Nat → Nat → JOp → Crew → Except JStop Begun × State)
    (hstart : ∀ u d c o cw, (start u d c o cw).2.mem = u.mem) (hm : Memory.wf s.mem = true) :
    Memory.wf (s.opStep d c o start).mem = true := by
  unfold State.opStep
  split
  · exact hm
  · split
    · simp [hm]
    · have hread := hstart s d c o ‹_›
      split
      · next h => rw [h] at hread; dsimp only at hread; simp [hread, hm]
      · next h =>
        rw [h] at hread; dsimp only at hread
        dsimp only
        refine State.opPlace_wf _ _ _ _ _ ?_
        split <;> simp [hread, hm]

/-! ### Of Drain -/

@[simp] theorem State.drainFault_wf (s : State) (d c : Nat) (o : JOp) (va : Nat) (write : Bool)
    (hm : Memory.wf s.mem = true) : Memory.wf (s.drainFault d c o va write).mem = true := by
  simp only [State.drainFault]
  (repeat' split) <;> simp [hm]
@[simp] theorem State.drainStopped_wf (s : State) (d c : Nat) (o : JOp) (why : DrainStop)
    (hm : Memory.wf s.mem = true) : Memory.wf (s.drainStopped d c o why).mem = true := by
  simp only [State.drainStopped]
  (repeat' split) <;> simp [hm]
@[simp] theorem State.drainWrites_wf (s : State) (d c : Nat) (cw : Crew) (x4 : JOp) (x5 : List (Space × Nat × List Byte))
    (hm : Memory.wf s.mem = true) : Memory.wf (s.drainWrites d c cw x4 x5).2.2.mem = true := by
  induction x5 generalizing s x4 with
  | nil => exact hm
  | cons p ps ih => grind [State.drainWrites, State.engWrite_wf]
@[simp] theorem State.drainAmax_wf (s : State) (d c : Nat) (o : JOp) (cw : Crew) (vals : List JSum)
    (hm : Memory.wf s.mem = true) : Memory.wf (s.drainAmax d c o cw vals).2.mem = true := by
  grind [State.drainAmax, State.engAtomic_wf]
@[simp] theorem State.drainWritten_wf (s : State) (d c : Nat) (o : JOp) (cw : Crew) (mine : List JSum) (st : BitVec 6)
    (hm : Memory.wf s.mem = true) : Memory.wf (s.drainWritten d c o cw mine st).mem = true := by
  grind [State.drainWritten, State.drainStopped_wf, State.drainAmax_wf, State.updOp_mem]
@[simp] theorem State.tileStep_wf (s : State) (d c : Nat) (o : JOp) (cw : Crew) (t : TensorRec)
    (hm : Memory.wf s.mem = true) : Memory.wf (s.tileStep d c o cw t).mem = true := by
  grind [State.tileStep, State.drainWrites_wf, State.drainStopped_wf, State.updOp_mem, State.drainWritten_wf]
@[simp] theorem State.listStep_wf (s : State) (d c : Nat) (o : JOp) (cw : Crew)
    (hm : Memory.wf s.mem = true) : Memory.wf (s.listStep d c o cw).mem = true := by
  grind [State.listStep, State.drainWrites_wf, State.drainStopped_wf, State.drainWritten_wf, State.setTable_mem, State.updOp_mem]
@[simp] theorem State.drainStep_wf (s : State) (d c : Nat) (o : JOp)
    (hm : Memory.wf s.mem = true) : Memory.wf (s.drainStep d c o).mem = true := by
  grind [State.drainStep, State.drainBegin_mem, State.drainStopped_wf, State.updOp_mem, State.listStep_wf, State.tileStep_wf]

/-! ### Of Links -/

@[simp] theorem State.hwEvent_wf (s : State) (sock n : Nat) (fatal : Bool)
    (hm : Memory.wf s.mem = true) : Memory.wf (s.hwEvent sock n fatal).mem = true := by
  simp [State.hwEvent, hm]
@[simp] theorem State.podArrive_wf (s : State) (port : Nat) (p : Packet)
    (hm : Memory.wf s.mem = true) : Memory.wf (s.podArrive port p).mem = true := by
  grind [State.podArrive, State.toPod_mem, State.hwEvent_wf]
@[simp] theorem State.delivered_wf (s : State) (lk : LinkId) (p : Packet)
    (hm : Memory.wf s.mem = true) : Memory.wf (s.delivered lk p).mem = true := by
  unfold State.delivered
  split <;> simp [hm]
@[simp] theorem State.unload_wf (s : State) (lk : LinkId) (vc : Nat)
    (hm : Memory.wf s.mem = true) : Memory.wf (s.unload lk vc).mem = true := by
  unfold State.unload
  split <;> simp [hm]

/-! ### Of Failures -/

@[simp] theorem State.loseHealth_wf (s : State) (sock : Nat) (hm : Memory.wf s.mem = true) : Memory.wf (s.loseHealth sock).mem = true := by
  unfold State.loseHealth
  split <;> simp [hm]
@[simp] theorem State.passengerFails_wf (s : State) (sock : Nat)
    (hm : Memory.wf s.mem = true) : Memory.wf (s.passengerFails sock).mem = true := by
  simp only [State.passengerFails]
  (repeat' split) <;> simp [hm]
@[simp] theorem State.retrainFails_wf (s : State) (lk : LinkId) (fail : W64)
    (hm : Memory.wf s.mem = true) : Memory.wf (s.retrainFails lk fail).mem = true := by
  simp only [State.retrainFails]
  (repeat' split) <;> simp [hm]

/-! ### Of Save -/

@[simp] theorem State.abandonSave_wf (s : State) (d : Nat) (h : Handle) (cs : List (CrewRef × Crew)) (cause : Nat)
    (hm : Memory.wf s.mem = true) : Memory.wf (s.abandonSave d h cs cause).mem = true := by
  simp [State.abandonSave, hm, State.foldl_wf]
theorem State.saveBytes_wf (s : State) (ctx : B6) (l : List (Nat × List Byte × Bool)) (hm : Memory.wf s.mem = true) :
    Memory.wf (s.saveBytes ctx l).2.mem = true := by
  induction l generalizing s with
  | nil => exact hm
  | cons p ps ih =>
    unfold State.saveBytes
    split
    · exact hm
    · exact ih _ (Memory.wf_writes hm)

@[simp] theorem State.saveAt_wf (s : State) (d : Nat) (h : Handle) (cluster : Nat) (cs : List (CrewRef × Crew)) (vas : List Nat)
    (hm : Memory.wf s.mem = true) : Memory.wf (s.saveAt d h cluster cs vas).mem = true := by
  unfold State.saveAt
  extract_lets ctx size crews free toSaved one
  have hsave := State.saveBytes_wf s ctx (crews.flatMap one) hm
  split
  · next h =>
    rw [h] at hsave
    exact State.abandonSave_wf _ _ _ _ _ hsave
  · next h =>
    rw [h] at hsave
    rw [State.preSettle_mem, State.retarget_mem]
    exact State.foldl_wf (fun s x hs => by rw [State.dropCrew_mem]; exact hs) _ _ hsave
@[simp] theorem State.requeueAgain_wf (s : State) (r : CrewRef)
    (hm : Memory.wf s.mem = true) : Memory.wf (s.requeueAgain r).mem = true := by
  unfold State.requeueAgain
  split
  · exact hm
  · exact State.foldl_wf (fun s b hs => State.foldl_wf (fun s l hs => by simp [hs]) _ _ hs) _ _ hm
@[simp] theorem State.restoreCrew_wf (s : State) (sv0 : SavedCrew) (r : CrewRef) (cfg : CrewCfg)
    (hm : Memory.wf s.mem = true) : Memory.wf (s.restoreCrew sv0 r cfg).mem = true := by
  unfold State.restoreCrew
  dsimp only
  refine State.requeueAgain_wf _ _ ?_
  rw [State.l1Drop_mem, State.moveNames_mem, State.updCore_mem, State.readArea_mem, State.updCore_mem]
  exact putCells_wf (putCells_wf (putCells_wf hm ..) ..) ..

/-! ### Of Place -/

@[simp] theorem State.clearRanges_wf (s : State) (d : Nat) (cfg : CrewCfg) (f : Fit)
    (hm : Memory.wf s.mem = true) : Memory.wf (s.clearRanges d cfg f).mem = true := by
  grind [State.clearRanges, State.updCore_mem, State.clearKey_wf]
@[simp] theorem State.startCluster_wf (s : State) (d : Nat) (g : Grid) (c : QCluster) (core0 : Nat) (fits : List Fit)
    (hm : Memory.wf s.mem = true) : Memory.wf (s.startCluster d g c core0 fits).mem = true := by
  have hclear : ∀ (u : State) (cfg : CrewCfg) (f : Fit), Memory.wf u.mem = true → Memory.wf (u.clearRanges d cfg f).mem = true :=
    fun u cfg f hu => by simp [hu]
  unfold State.startCluster
  cases c.saved with
  | none =>
    rw [State.updGridDie_mem]
    exact State.foldl_wf (fun u x hu => by simpa using hclear _ _ _ hu) _ _ hm
  | some k =>
    rw [State.dropSaved_mem]
    refine State.foldl_wf (fun u x hu => ?_) _ _ hm
    dsimp only
    split
    · exact State.restoreCrew_wf _ _ _ _ (hclear _ _ _ hu)
    · exact hu
@[simp] theorem State.placeQueue_wf (d p : Nat) (ds : Drains) (x3 : Nat) (x4 : State)
    (hm : Memory.wf x4.mem = true) : Memory.wf (State.placeQueue d p ds x3 x4).mem = true := by
  induction x3 generalizing x4 with
  | zero => exact hm
  | succ n ih =>
    unfold State.placeQueue
    split
    · exact hm
    · split
      · exact ih _ (by simp [hm])
      · split
        · exact hm
        · split
          · exact ih _ (by simp [hm])
          · simp [hm]
@[simp] theorem State.placeRound_wf (s : State) (d : Nat) (hm : Memory.wf s.mem = true) : Memory.wf (s.placeRound d).mem = true := by
  unfold State.placeRound
  exact State.foldl_wf (fun s p hs => State.placeQueue_wf _ _ _ _ _ hs) _ _ hm

/-! ### Of Start -/

@[simp] theorem State.clearAll_wf (s : State) (cold : Bool) (ok : BitVec 26)
    (hm : Memory.wf s.mem = true) : Memory.wf (s.clearAll cold ok).mem = true := by
  unfold State.clearAll
  simp only [State.foldl_mem (fun s d => State.retarget_mem s d)]
  exact clearSrams_wf hm
@[simp] theorem State.replayLog_wf (s : State) (sock : Nat) (hm : Memory.wf s.mem = true) : Memory.wf (s.replayLog sock).mem = true := by
  simp +contextual [State.replayLog, State.foldl_wf, hm]
@[simp] theorem State.stepDone_wf (s : State) (step : Nat) (ok : BitVec 26)
    (hm : Memory.wf s.mem = true) : Memory.wf (s.stepDone step ok).mem = true := by
  unfold State.stepDone
  dsimp only
  split
  · simp [hm]
  · simpa [State.foldl_mem] using hm
  · rfl
  · simp [hm]
  · simp [hm]
  · split
    · simp [hm]
    · simp +contextual [State.foldl_wf, hm]
  · split <;> exact hm

/-! ### Of Master -/

@[simp] theorem State.destroy_wf (s : State) (c : Nat) (hm : Memory.wf s.mem = true) : Memory.wf (s.destroy c).mem = true := by
  simp +contextual [State.destroy, State.foldl_wf, hm]
@[simp] theorem State.writeCtxCfg_wf (s : State) (c : Nat) (v : W64)
    (hm : Memory.wf s.mem = true) : Memory.wf (s.writeCtxCfg c v).mem = true := by
  simp only [State.writeCtxCfg]
  (repeat' split) <;> simp [hm]
@[simp] theorem State.writeDiescr_wf (s : State) (d c : Nat) (v : W64)
    (hm : Memory.wf s.mem = true) : Memory.wf (s.writeDiescr d c v).mem = true := by
  grind [State.writeDiescr, State.updCtxDie_mem, State.clearKey_wf]
@[simp] theorem State.storeCtx_wf (s : State) (r : Reg) (v : W64)
    (hm : Memory.wf s.mem = true) : Memory.wf (s.storeCtx r v).mem = true := by
  simp only [State.storeCtx]
  (repeat' split) <;> simp [hm]
@[simp] theorem State.store_wf (s : State) (cand : BitVec 2) (r : Reg) (v : W64)
    (hm : Memory.wf s.mem = true) : Memory.wf (s.store cand r v).mem = true := by
  simp [State.store, hm]
@[simp] theorem State.regWrite_wf (s : State) (cand : BitVec 2) (sock off : Nat) (v : W64)
    (hm : Memory.wf s.mem = true) : Memory.wf (s.regWrite cand sock off v).2.mem = true := by
  simp only [State.regWrite]
  (repeat' split) <;> simp [hm]
@[simp] theorem State.blockWrite_wf (s : State) (sock x2 x3 : Nat) (x4 : List Byte)
    (hm : Memory.wf s.mem = true) : Memory.wf (s.blockWrite sock x2 x3 x4).2.mem = true := by
  induction x3 generalizing s x2 x4 with
  | zero => exact hm
  | succ n ih =>
    unfold State.blockWrite
    exact ih _ _ _ (by simp [hm])
@[simp] theorem State.mgmtRun_wf (s : State) (msg : List Byte)
    (hm : Memory.wf s.mem = true) : Memory.wf (s.mgmtRun msg).2.2.mem = true := by
  simp only [State.mgmtRun]
  (repeat' split) <;> simp [hm]

/-! ### Of Sched -/

@[simp] theorem State.elapse_wf (s0 : State) (periods : Nat) (hm : Memory.wf s0.mem = true) : Memory.wf (s0.elapse periods).mem = true := by
  have hnote : ((s0.coreList.flatMap fun c => s0.threadsAt c.1 c.2).foldl (fun (s : State) t => s.noteReady t) s0).mem = s0.mem :=
    State.foldl_mem (fun s t => by simp) _ _
  unfold State.elapse
  dsimp only
  refine State.serveFar_wf _ ?_
  rw [State.foldl_mem (fun s c => by simp)]
  exact hnote ▸ hm
@[simp] theorem State.hostStore_wf (s : State) (peripheral : Bool) (pa : Nat) (bs : List Byte)
    (hm : Memory.wf s.mem = true) : Memory.wf (s.hostStore peripheral pa bs).1.mem = true := by
  simp only [State.hostStore]
  (repeat' split) <;> simp [hm]
@[simp] theorem State.turn_wf (s : State) (x1 : Turn) (hm : Memory.wf s.mem = true) : Memory.wf (s.turn x1).1.mem = true := by
  simp only [State.turn]
  (repeat' split) <;> simp [hm]

/-! ### Answers, the owner's answer and new records -/

theorem State.engineAnswer_wf {s t : State} {h : PktHdr} {st : Byte} {bs : List Byte} (ha : s.engineAnswer h st bs = some t)
    (hm : Memory.wf s.mem = true) : Memory.wf t.mem = true := by
  unfold State.engineAnswer at ha
  dsimp only at ha
  split at ha
  · cases ha; simpa using hm
  · cases ha
    exact wf_ite (by simpa using hm) (State.fetchRefused_wf _ _ _ _ _ hm)
  · cases ha

theorem State.ownerSays_wf {s t : State} {h : Handle} {cw : W64} (ha : s.ownerSays h cw = some t)
    (hm : Memory.wf s.mem = true) : Memory.wf t.mem = true := by
  unfold State.ownerSays at ha
  (repeat' split at ha) <;> cases ha
  exact State.finishGrid_wf _ _ _ hm

theorem Env.create_wf {e : Env} {cw : Crew} {rs : List (List Byte)} {s t : State} (ha : e.create cw rs s = some t)
    (hm : Memory.wf s.mem = true) : Memory.wf t.mem = true := by
  unfold Env.create at ha
  dsimp only at ha
  split at ha
  · cases ha; exact hm
  · obtain ⟨u, hu, rfl⟩ := Option.map_eq_some_iff.1 ha
    simpa using State.enterWindows_wf hu (by simpa using hm)

end Sys2Proof.Machine
end

section
/-!
What an instruction or an event may answer: a next state with the memories in canonical form; never a refusal; a fault only without a thread,
a crew or a grid.
-/
namespace Sys2Proof.Machine

/-! ## What a step may answer -/

/-- The instruction's thread runs, and the machine holds its crew and the crew's grid. -/
def State.Ready (s : State) : Prop :=
  ∃ cw b, s.crewOf s.cur.crew = some cw ∧ s.thread s.cur = some b ∧ b.running = true ∧ (s.gridOf cw.cfg.handle).isSome = true

/-- The outcome is no refusal, it is a fault only where `F` holds, and the memories of a next state are in canonical form where `W` holds. -/
def Sound (F W : Prop) : Out → Prop
  | .next t => W → Memory.wf t.mem = true
  | .fault _ => F
  | .refused _ => False

@[simp] theorem sound_next {F W : Prop} {t : State} : Sound F W (.next t) ↔ (W → Memory.wf t.mem = true) := Iff.rfl

@[simp] theorem sound_fault {F W : Prop} {f : Fault} : Sound F W (.fault f) ↔ F := Iff.rfl

@[simp] theorem sound_waits {F : Prop} {s : State} : Sound F (Memory.wf s.mem = true) (waits s) := id

theorem Sound.mono {F G W V : Prop} {o : Out} (h : Sound F W o) (hf : F → G) (hw : V → W) : Sound G V o := by
  cases o with
  | next t => exact fun hv => h (hw hv)
  | fault r => exact hf h
  | refused r => exact h

theorem runInstr_sound_of {F : Prop} {opc : Nat} {c : Code} {s : State} {k : Env → Out} (hF : ¬ s.Ready → F)
    (hk : ∀ e cw, mkEnv opc c s = some e → s.crewOf e.t.crew = some cw → Sound F (Memory.wf s.mem = true) (k e)) :
    Sound F (Memory.wf s.mem = true) (runInstr opc c s k) := by
  unfold runInstr
  cases he : mkEnv opc c s with
  | none =>
    refine hF ?_
    rintro ⟨cw, b, hcw, hb, hrun, -⟩
    simp [mkEnv, hcw, hb, hrun] at he
  | some e =>
    obtain ⟨cw, hcw⟩ := mkEnv_crew he
    dsimp only
    split
    · exact fun hm => by simp [hm]
    · exact hk e cw he hcw

theorem runInstr_sound {opc : Nat} {c : Code} {s : State} {k : Env → Out}
    (hk : ∀ e cw, mkEnv opc c s = some e → s.crewOf e.t.crew = some cw → Sound (¬ s.Ready) (Memory.wf s.mem = true) (k e)) :
    Sound (¬ s.Ready) (Memory.wf s.mem = true) (runInstr opc c s k) := runInstr_sound_of id hk

theorem mkEnv_t {opc : Nat} {c : Code} {s : State} {e : Env} (he : mkEnv opc c s = some e) : e.t = s.cur := by
  obtain ⟨_, _, _, _, _, ht, _⟩ := mkEnv_spec he
  exact ht

theorem not_ready_of_gridOf {opc : Nat} {c : Code} {s : State} {e : Env} {cw : Crew} (he : mkEnv opc c s = some e)
    (hcw : s.crewOf e.t.crew = some cw) (hg : s.gridOf cw.cfg.handle = none) : ¬ s.Ready := by
  rintro ⟨cw', b, hcw', -, -, hgrid⟩
  rw [mkEnv_t he, hcw'] at hcw
  cases hcw
  simp [hg] at hgrid

theorem sound_ite {F W : Prop} {p : Prop} [Decidable p] {o o' : Out} (h : Sound F W o) (h' : Sound F W o') :
    Sound F W (if p then o else o') := by
  split <;> assumption

/-! ## The shared operations -/

section
variable {F W : Prop} {e : Env} {s : State} {cw : Crew}

@[simp] theorem sound_finish {pc : PCW} {b : Band} : Sound F W (e.finish pc b s) ↔ (W → Memory.wf s.mem = true) := by simp [Env.finish]

@[simp] theorem sound_result {p : Pend} : Sound F W (e.result p s) ↔ (W → Memory.wf s.mem = true) := by simp [Env.result]

@[simp] theorem sound_committedEnd {b : Band} : Sound F W (e.committedEnd b s) ↔ (W → Memory.wf s.mem = true) := by
  simp [Env.committedEnd]

@[simp] theorem sound_transOut {n : Nat} {rs : List (Nat × Res)} {more : List (Nat × W64)} :
    Sound F W (e.transOut n rs more s) ↔ (W → Memory.wf s.mem = true) := by simp [Env.transOut]

@[simp] theorem sound_crossLanes {n : Nat} {raw : List (Nat × Nat)} : Sound F W (e.crossLanes n raw s) ↔ (W → Memory.wf s.mem = true) := by
  simp [Env.crossLanes]

@[simp] theorem sound_crossUni {v : Nat} : Sound F W (e.crossUni v s) ↔ (W → Memory.wf s.mem = true) := by simp [Env.crossUni]

@[simp] theorem sound_reached {b : Band} {v : W64} : Sound F W (e.reached b v s) ↔ (W → Memory.wf s.mem = true) := by simp [Env.reached]

theorem taskTrap_sound {code : Nat} {lanes : BitVec 64} (hm : W → Memory.wf s.mem = true) : Sound F W (e.taskTrap code lanes s) :=
  fun w => by simp [hm w]

theorem jRefuse_sound {code addr : Nat} {lanes : BitVec 64} (hm : W → Memory.wf s.mem = true) : Sound F W (e.jRefuse code addr lanes s) :=
  fun w => by simp [hm w]

theorem areaFault_sound {f : EngFault} {va : Nat} {write : Bool} (hm : W → Memory.wf s.mem = true) :
    Sound F W (e.areaFault f va write s) := by
  cases f <;> exact fun w => by simp [hm w]

theorem access_sound {sp : Space} {align : Nat} {kind : AccKind} {need : W16 → Bool} {ts : List Touch} {k : Out}
    (hm : W → Memory.wf s.mem = true) (hk : Sound F W k) : Sound F W (e.access s cw sp align kind need ts k) := by
  unfold Env.access
  split
  · exact fun w => by simp [hm w]
  · exact fun w => by simp [hm w]
  · exact hk

theorem initCheck_sound {sp : Space} {ts : List Touch} {k : State → Out} (hm : W → Memory.wf s.mem = true)
    (hk : ∀ u, (W → Memory.wf u.mem = true) → Sound F W (k u)) : Sound F W (e.initCheck s cw sp ts k) := by
  unfold Env.initCheck
  split
  · exact hk s hm
  · exact sound_ite (hk _ (by simpa using hm)) fun w => by simp [hm w]

theorem scratchNow_sound {sp : Space} {m : MemOp} {committing : Bool} {ts : List Touch} (hm : W → Memory.wf s.mem = true) :
    Sound F W (e.scratchNow cw sp m committing ts s) := by
  refine initCheck_sound hm fun u hu w => ?_
  have hstored : ∀ b : Band, Memory.wf (if committing then e.commitNew (e.free + e.used) b (e.scratch cw sp m ts u).2.2
      else e.commit b (e.scratch cw sp m ts u).2.2).mem = true := fun b => wf_ite (by simp [hu w]) (by simp [hu w])
  exact wf_ite (by simpa using hstored _) (hstored _)

theorem scratchAccess_sound {sp : Space} {m : MemOp} {committing : Bool} {ts : List Touch} (hm : W → Memory.wf s.mem = true) :
    Sound F W (e.scratchAccess cw sp m committing ts s) := by
  have hnow := scratchNow_sound (F := F) (e := e) (cw := cw) (sp := sp) (m := m) (committing := committing) (ts := ts) hm
  unfold Env.scratchAccess
  refine sound_ite ?_ hnow
  dsimp only
  split
  · next h => exact fun w => (State.mcHeld_mem h) ▸ hm w
  · split
    · next h => rw [h] at hnow; simpa using hnow
    · exact hnow

theorem globAccess_sound {m : MemOp} {committing : Bool} {ts : List Touch} (hm : W → Memory.wf s.mem = true) :
    Sound F W (e.globAccess cw m committing ts s) := by
  unfold Env.globAccess
  refine sound_ite hm fun w => ?_
  simp only [Env.launchAcc_mem]
  exact wf_ite (by simpa using hm w) (hm w)

theorem mem_sound {m : MemOp} (hcw : s.crewOf e.t.crew = some cw) (hm : W → Memory.wf s.mem = true) : Sound F W (e.mem m s) := by
  unfold Env.mem
  rw [hcw]
  refine sound_ite hm (sound_ite hm (sound_ite (sound_ite ?_ ?_) (access_sound hm (sound_ite (globAccess_sound hm) (scratchAccess_sound hm)))))
  · exact sound_committedEnd.2 hm
  · exact sound_finish.2 hm

theorem atomic_sound {op : Nat} {expects : Tbl W128} (hcw : s.crewOf e.t.crew = some cw) (hm : W → Memory.wf s.mem = true) :
    Sound F W (e.atomic op expects s) := mem_sound hcw hm

theorem fence_sound {kind scope : Nat} (hm : W → Memory.wf s.mem = true) : Sound F W (e.fence kind scope s) := by
  unfold Env.fence
  refine sound_ite (fun w => by simp [hm w]) (sound_ite hm (sound_committedEnd.2 fun w => ?_))
  exact wf_ite (by simp [hm w]) (wf_ite (by simp [hm w]) (hm w))

theorem sendRecords_mem {ack : Bool} {wait : Nat} {l : List Nat} {x : State × BitVec 64} :
    (l.foldl (e.sendRecord cw ack wait) x).1.mem = x.1.mem :=
  foldl_keeps (P := fun y : State × BitVec 64 => y.1.mem = x.1.mem) rfl fun y n hy => (Env.sendRecord_mem e cw ack wait y n).trans hy

theorem enqueue_sound {opc : Nat} {c : Code} {s : State} {ack : Bool} (he : mkEnv opc c s = some e) (hcw : s.crewOf e.t.crew = some cw) :
    Sound (¬ s.Ready) (Memory.wf s.mem = true) (e.enqueue ack s) := by
  unfold Env.enqueue
  rw [hcw]
  dsimp only
  split
  · next hg => exact not_ready_of_gridOf he hcw hg
  · refine sound_ite sound_waits (sound_ite (sound_committedEnd.2 id) (sound_ite (taskTrap_sound id) (sound_ite (taskTrap_sound id) ?_)))
    refine sound_ite sound_waits (sound_ite ?_ (sound_ite ?_ ?_)) <;> intro hm <;> simp [sendRecords_mem, hm]

theorem State.askRemote_eq_mem {s t : State} {d c va sock : Nat} {asker : Nat × Nat × Nat} {ctx : B6} {key sent : Body} {use : TagUse}
    {r : Option (Byte × List Byte)} (h : s.askRemote d c asker ctx va sock key sent use = (r, t)) : t.mem = s.mem := by
  rw [← State.askRemote_mem s d c asker ctx va sock key sent use, h]

theorem State.homeRead_eq_mem {s t : State} {ctx : B6} {va len sock st : Nat} {bs : List Byte}
    (h : s.homeRead ctx va len sock = (st, bs, t)) : t.mem = s.mem := by
  rw [← State.homeRead_mem s ctx va len sock, h]

theorem ownRead_sound {va : Int} {len align : Nat} {k : List Byte → State → Out} (hm : W → Memory.wf s.mem = true)
    (hk : ∀ bs u, (W → Memory.wf u.mem = true) → Sound F W (k bs u)) : Sound F W (e.ownRead s cw va len align k) := by
  unfold Env.ownRead
  dsimp only
  split
  · exact fun w => by simp [hm w]
  · exact fun w => by simp [hm w]
  · split
    · split
      · next h => exact fun w => by simpa [State.askRemote_eq_mem h] using hm w
      · next h => exact hk _ _ fun w => by simpa [State.askRemote_eq_mem h] using hm w
      · next h => exact fun w => by simp [State.askRemote_eq_mem h, hm w]
    · split
      · next h => exact hk _ _ fun w => (State.homeRead_eq_mem h) ▸ hm w
      · exact fun w => by simp [hm w]

theorem pop_sound {k : W64 → Env → Out} (hcw : s.crewOf e.t.crew = some cw) (hm : W → Memory.wf s.mem = true)
    (hk : ∀ v e', Sound F W (k v e')) : Sound F W (e.pop s k) := by
  unfold Env.pop
  rw [hcw]
  dsimp only
  split
  · exact hk _ _
  · exact sound_ite (fun w => by simp [hm w]) hm

theorem lengthAt_sound {pc : PCW} {k : Nat → Out} (hcw : s.crewOf e.t.crew = some cw) (hm : W → Memory.wf s.mem = true)
    (hk : ∀ n, Sound F W (k n)) : Sound F W (e.lengthAt s pc k) := by
  unfold Env.lengthAt
  rw [hcw]
  dsimp only
  split
  · exact hk _
  all_goals exact fun w => by simp [hm w]

theorem jIssue_sound {k : Crew → Out} (hcw : s.crewOf e.t.crew = some cw) (hm : W → Memory.wf s.mem = true)
    (hk : ∀ cw, Sound F W (k cw)) : Sound F W (e.jIssue s k) := by
  unfold Env.jIssue
  rw [hcw]
  exact sound_ite (jRefuse_sound hm) (hk cw)

end
end Sys2Proof.Machine
end

section
/-!
The meaning of each instruction and event answers soundly, one lemma each in the order of their definitions.
-/
namespace Sys2Proof.Machine

theorem State.tailCounts_eq_mem {s t : State} {g : Eng} {cw : Crew} {area : List Byte} {n : Nat} {r : Except EngFault (List Nat)}
    (h : s.tailCounts g cw area n = (r, t)) : t.mem = s.mem := by rw [← State.tailCounts_mem s g cw area n, h]

theorem State.savedTables_eq_mem {s t : State} {g : Eng} {cw : Crew} {area : List Byte} {counts : List Nat} {n : Nat}
    {r : Except EngFault (List (Nat × JTable × List (Nat × CEntry)))} (h : s.savedTables g cw area counts n = (r, t)) : t.mem = s.mem := by
  rw [← State.savedTables_mem s g cw area counts n, h]

/-- The thread of an instruction is there once it is done. -/
theorem Env.done_thread {opc : Nat} {c : Code} {s : State} {e : Env} (he : mkEnv opc c s = some e) (pc : PCW) (b : Band) :
    ∃ cw b', (e.done pc b s).crewOf e.t.crew = some cw ∧ (e.done pc b s).thread e.t = some b' := by
  obtain ⟨t, b', ht, hb, -⟩ := Env.finish_goes he (.refl s) pc b
  injection ht with ht
  subst ht
  cases hc : (e.done pc b s).crewOf e.t.crew with
  | none => simp [State.thread, hc] at hb
  | some cw => exact ⟨cw, b', rfl, hb⟩

/-! ### Of Xlate -/

theorem execMap_sound (s : State) : Sound (False) (Memory.wf s.mem = true) (execMap s) := by
  unfold execMap
  dsimp only
  (repeat' split) <;> simp +contextual
theorem execSetp_sound (s : State) : Sound (False) (Memory.wf s.mem = true) (execSetp s) := by
  unfold execSetp
  dsimp only
  (repeat' split) <;> simp +contextual
theorem execUnmap_sound (s : State) : Sound (False) (Memory.wf s.mem = true) (execUnmap s) := by
  unfold execUnmap
  dsimp only
  (repeat' split) <;> simp +contextual
theorem execUnmapWaitExpiry_sound (s : State) : Sound (False) (Memory.wf s.mem = true) (execUnmapWaitExpiry s) := by
  have hdrop : ∀ (l : List Mapping) (n : Nat) (u : State),
      (l.foldl (fun (s : State) m => s.l2Drop n m.ctx m.va (pageSize (attrSz m.attr))) u).mem = u.mem :=
    fun l n u => State.foldl_mem (fun s m => by simp) l u
  intro hm
  refine State.foldl_wf (fun s m hs => by simpa using hs) _ _ ?_
  split
  · exact wf_ite (by simpa [hdrop] using hm) (by simpa [hdrop] using hm)
  · simpa [hdrop] using hm
theorem execPermreq_sound (h : PktHdr) (va : VAddr) (_ts : W64) (s : State) :
    Sound (False) (Memory.wf s.mem = true) (execPermreq h va _ts s) := by
  unfold execPermreq
  dsimp only
  (repeat' split) <;> simp +contextual
theorem execPalLeaseExpiry_sound (s : State) : Sound (False) (Memory.wf s.mem = true) (execPalLeaseExpiry s) := fun hm => by simp [hm]
theorem execPermreply_sound (h : PktHdr) (b : PermReplyB) (s : State) : Sound (False) (Memory.wf s.mem = true) (execPermreply h b s) := by
  unfold execPermreply
  dsimp only
  split
  · refine sound_ite (fun hm => ?_) fun hm => by simpa using hm
    refine State.foldl_wf (fun u t hu => ?_) _ _ (by simpa using hm)
    split
    · exact wf_ite (by simp [hu]) hu
    · exact hu
  · exact sound_ite (fun hm => by simpa using hm) fun hm => by simpa using hm
  · exact id
theorem execReady_sound (h : PktHdr) (page : VAddr) (sz : BitVec 2) (s : State) :
    Sound (False) (Memory.wf s.mem = true) (execReady h page sz s) := fun hm => by simp [hm]
theorem execUnpark_sound (h : PktHdr) (s : State) : Sound (False) (Memory.wf s.mem = true) (execUnpark h s) := fun hm => by simp [hm]
theorem execRead_sound (h : PktHdr) (b : ReadB) (s : State) :
    Sound (False) (Memory.wf s.mem = true) (execRead h b s) := fun hm => by simp [hm]
theorem execWrite_sound (h : PktHdr) (b : WriteB) (s : State) : Sound (False) (Memory.wf s.mem = true) (execWrite h b s) := by
  unfold execWrite
  split <;> intro hm <;> simp [hm]
theorem execAtomic_sound (h : PktHdr) (b : AtomicB) (s : State) : Sound (False) (Memory.wf s.mem = true) (execAtomic h b s) := by
  unfold execAtomic
  split <;> intro hm <;> simp [hm]
theorem answer_sound (s : State) (h : PktHdr) (status : Byte) (f : Acc → Piece → List Byte × BitVec 6)
    (g : ThreadRef → Acc → Piece → State → State) (hg : ∀ t a p u, Memory.wf u.mem = true → Memory.wf (g t a p u).mem = true) :
    Sound False (Memory.wf s.mem = true) (s.answer h status f g) := by
  unfold State.answer
  split
  · exact id
  · next hr =>
    have hmem := State.replyPiece_mem hr
    split
    · exact fun hm => hmem ▸ hm
    · exact sound_ite (fun hm => by simp [hmem, hm]) fun hm => by simp [hg, hmem, hm]
theorem execData_sound (h : PktHdr) (status : Byte) (bytes : List Byte) (s : State) :
    Sound (False) (Memory.wf s.mem = true) (execData h status bytes s) := by
  unfold execData
  split
  · next h => exact State.engineAnswer_wf h
  · exact answer_sound _ _ _ _ _ fun t a p u hu => wf_ite hu (wf_ite (by simpa using hu) (by simpa using hu))
theorem execAck_sound (h : PktHdr) (status : Byte) (s : State) : Sound (False) (Memory.wf s.mem = true) (execAck h status s) := by
  unfold execAck
  split
  · next h => exact State.engineAnswer_wf h
  · exact answer_sound _ _ _ _ _ fun _ _ _ _ hm => hm
theorem execOld_sound (h : PktHdr) (status : Byte) (val : W128) (s : State) :
    Sound (False) (Memory.wf s.mem = true) (execOld h status val s) := by
  unfold execOld
  split
  · next h => exact State.engineAnswer_wf h
  · exact answer_sound _ _ _ _ _ fun _ _ _ _ hm => hm
theorem execDeferredFault_sound (acc : Nat) (s : State) : Sound (False) (Memory.wf s.mem = true) (execDeferredFault acc s) := by
  unfold execDeferredFault
  dsimp only
  (repeat' split) <;> simp +contextual

/-! ### Of Launch -/

theorem execLaunchTokenWrite_sound (addr : W64) (bytes : List Byte) (s : State) :
    Sound (False) (Memory.wf s.mem = true) (execLaunchTokenWrite addr bytes s) := by
  unfold execLaunchTokenWrite
  dsimp only
  (repeat' split) <;> simp +contextual
theorem execTokenTake_sound (s : State) : Sound (False) (Memory.wf s.mem = true) (execTokenTake s) := by
  unfold execTokenTake
  dsimp only
  (repeat' split) <;> simp +contextual

/-! ### Of Power -/

theorem execOpPointChangeDone_sound (s : State) : Sound (False) (Memory.wf s.mem = true) (execOpPointChangeDone s) := fun hm => hm
theorem execPowerWindow_sound (avgW : Nat) (s : State) : Sound (False) (Memory.wf s.mem = true) (execPowerWindow avgW s) := by
  unfold execPowerWindow
  dsimp only
  (repeat' split) <;> simp +contextual

/-! ### Of Grid -/

theorem execSweep_sound (h : PktHdr) (g : Handle) (n : W64) (s : State) :
    Sound (False) (Memory.wf s.mem = true) (execSweep h g n s) := fun hm => by simp [hm]
theorem execSweepreply_sound (h : PktHdr) (b : SweepReplyB) (s : State) :
    Sound (False) (Memory.wf s.mem = true) (execSweepreply h b s) := by
  unfold execSweepreply
  dsimp only
  (repeat' split) <;> simp +contextual
theorem execRangereq_sound (h : PktHdr) (g : Handle) (s : State) :
    Sound (False) (Memory.wf s.mem = true) (execRangereq h g s) := fun hm => by simp [hm]
theorem execMirrorack_sound (_h : PktHdr) (g : Handle) (first : W64) (s : State) :
    Sound (False) (Memory.wf s.mem = true) (execMirrorack _h g first s) := by
  unfold execMirrorack
  dsimp only
  (repeat' split) <;> simp +contextual
theorem execRetire_sound (h : PktHdr) (b : RangeB) (s : State) : Sound (False) (Memory.wf s.mem = true) (execRetire h b s) := by
  unfold execRetire
  split <;> intro hm <;> simp [hm]
theorem execRange_sound (h : PktHdr) (b : RangeB) (s : State) : Sound (False) (Memory.wf s.mem = true) (execRange h b s) := by
  unfold execRange
  split <;> intro hm <;> simp [hm]
theorem execToken_sound (h : PktHdr) (q : QueueWord) (tok : List Byte) (s : State) :
    Sound (False) (Memory.wf s.mem = true) (execToken h q tok s) := by
  unfold execToken
  dsimp only
  refine sound_ite id ?_
  split
  · exact fun hm => wf_ite hm (by simpa using hm)
  · intro hm
    refine State.foldl_wf (fun u p hu => by simpa using hu) _ _ ?_
    rw [State.noticeDies_mem]
    exact State.accept_wf _ _ hm
theorem execTokenForwardTimeout_sound (q : QueueWord) (s : State) :
    Sound (False) (Memory.wf s.mem = true) (execTokenForwardTimeout q s) := by
  unfold execTokenForwardTimeout
  dsimp only
  (repeat' split) <;> simp +contextual
theorem execNotice_sound (h : PktHdr) (g : Handle) (q : QueueWord) (cw : W64) (lo : List Byte) (s : State) :
    Sound (False) (Memory.wf s.mem = true) (execNotice h g q cw lo s) := by
  unfold execNotice
  refine sound_ite ?_ id
  split
  · next h => exact State.ownerSays_wf h
  · exact id
theorem execRecpart_sound (h : PktHdr) (g : Handle) (hi : List Byte) (s : State) :
    Sound (False) (Memory.wf s.mem = true) (execRecpart h g hi s) := by
  unfold execRecpart
  dsimp only
  (repeat' split) <;> simp +contextual
theorem execCancel_sound (h : PktHdr) (g : Handle) (s : State) : Sound (False) (Memory.wf s.mem = true) (execCancel h g s) := by
  unfold execCancel
  split <;> intro hm <;> simp [hm]
theorem execHealth_sound (h : PktHdr) (mask : W32) (s : State) : Sound (False) (Memory.wf s.mem = true) (execHealth h mask s) := by
  unfold execHealth
  extract_lets p was podldr host s1 gone lost s2 mine s3 s4 s5 disp s6
  intro hm
  have h2 : Memory.wf s2.mem = true := State.reelect_wf _ _ hm
  have h3 : Memory.wf s3.mem = true := wf_ite (State.foldl_wf (fun s g hs => State.podCounterGone_wf _ _ _ hs) _ _ h2) h2
  have h4 : Memory.wf s4.mem = true := State.foldl_wf (fun s d hs =>
    State.foldl_wf (fun s h hs => State.gridLosesDie_wf _ _ _ _ (by simpa using hs)) _ _
      (State.foldl_wf (fun s e hs => State.clearTransfers_wf _ _ _ _ hs) _ _ hs)) _ _ h3
  have h5 : Memory.wf s5.mem = true := wf_ite (State.foldl_wf (fun s h hs => by simpa using hs) _ _ h4) h4
  have h6 : Memory.wf s6.mem = true := wf_ite (wf_ite h5 (by simpa using h5)) h5
  exact h6
theorem execPodseq_sound (h : PktHdr) (n : W64) (s : State) : Sound (False) (Memory.wf s.mem = true) (execPodseq h n s) := fun hm => hm

/-! ### Of Interval -/

theorem ivFixed_sound (opc n m : Nat) (c : Code) (s : State) (f : Fmt → List Ivl → Res) :
    Sound (¬ s.Ready) (Memory.wf s.mem = true) (ivFixed opc n m c s f) := runInstr_sound fun e cw he hcw => by simp
theorem ivVaried_sound (opc n : Nat) (c : Code) (s : State) (f : Fmt → List Ivl → Res) :
    Sound (¬ s.Ready) (Memory.wf s.mem = true) (ivVaried opc n c s f) := runInstr_sound fun e cw he hcw => by simp
theorem execFadd_sound (c : Code) (s : State) : Sound (¬ s.Ready) (Memory.wf s.mem = true) (execFadd c s) := ivFixed_sound ..
theorem execFsub_sound (c : Code) (s : State) : Sound (¬ s.Ready) (Memory.wf s.mem = true) (execFsub c s) := ivFixed_sound ..
theorem execFmul_sound (c : Code) (s : State) : Sound (¬ s.Ready) (Memory.wf s.mem = true) (execFmul c s) := ivFixed_sound ..
theorem execFfma_sound (c : Code) (s : State) : Sound (¬ s.Ready) (Memory.wf s.mem = true) (execFfma c s) := ivFixed_sound ..
theorem execFsqr_sound (c : Code) (s : State) : Sound (¬ s.Ready) (Memory.wf s.mem = true) (execFsqr c s) := ivFixed_sound ..
theorem execFhull_sound (c : Code) (s : State) : Sound (¬ s.Ready) (Memory.wf s.mem = true) (execFhull c s) := ivFixed_sound ..
theorem execFisect_sound (c : Code) (s : State) : Sound (¬ s.Ready) (Memory.wf s.mem = true) (execFisect c s) := ivFixed_sound ..
theorem execFlb_sound (c : Code) (s : State) : Sound (¬ s.Ready) (Memory.wf s.mem = true) (execFlb c s) := ivFixed_sound ..
theorem execFub_sound (c : Code) (s : State) : Sound (¬ s.Ready) (Memory.wf s.mem = true) (execFub c s) := ivFixed_sound ..
theorem execFmid_sound (c : Code) (s : State) : Sound (¬ s.Ready) (Memory.wf s.mem = true) (execFmid c s) := ivFixed_sound ..
theorem execFrad_sound (c : Code) (s : State) : Sound (¬ s.Ready) (Memory.wf s.mem = true) (execFrad c s) := ivFixed_sound ..
theorem execFwid_sound (c : Code) (s : State) : Sound (¬ s.Ready) (Memory.wf s.mem = true) (execFwid c s) := ivFixed_sound ..
theorem execFmag_sound (c : Code) (s : State) : Sound (¬ s.Ready) (Memory.wf s.mem = true) (execFmag c s) := ivFixed_sound ..
theorem execFmig_sound (c : Code) (s : State) : Sound (¬ s.Ready) (Memory.wf s.mem = true) (execFmig c s) := ivFixed_sound ..
theorem execFmk_sound (c : Code) (s : State) : Sound (¬ s.Ready) (Memory.wf s.mem = true) (execFmk c s) := ivFixed_sound ..
theorem execFneg_sound (c : Code) (s : State) : Sound (¬ s.Ready) (Memory.wf s.mem = true) (execFneg c s) := ivFixed_sound ..
theorem execFabs_sound (c : Code) (s : State) : Sound (¬ s.Ready) (Memory.wf s.mem = true) (execFabs c s) := ivFixed_sound ..
theorem execFmin_sound (c : Code) (s : State) : Sound (¬ s.Ready) (Memory.wf s.mem = true) (execFmin c s) := ivFixed_sound ..
theorem execFmax_sound (c : Code) (s : State) : Sound (¬ s.Ready) (Memory.wf s.mem = true) (execFmax c s) := ivFixed_sound ..
theorem execFbis_sound (c : Code) (s : State) :
    Sound (¬ s.Ready) (Memory.wf s.mem = true) (execFbis c s) := runInstr_sound fun e cw he hcw => by simp
theorem execFcmp_sound (c : Code) (s : State) :
    Sound (¬ s.Ready) (Memory.wf s.mem = true) (execFcmp c s) := runInstr_sound fun e cw he hcw => by simp
theorem execFdiv_sound (c : Code) (s : State) : Sound (¬ s.Ready) (Memory.wf s.mem = true) (execFdiv c s) := ivVaried_sound ..
theorem execFdivp_sound (c : Code) (s : State) :
    Sound (¬ s.Ready) (Memory.wf s.mem = true) (execFdivp c s) := runInstr_sound fun e cw he hcw => by simp
theorem execFsqrt_sound (c : Code) (s : State) : Sound (¬ s.Ready) (Memory.wf s.mem = true) (execFsqrt c s) := ivVaried_sound ..
theorem execFrcp_sound (c : Code) (s : State) : Sound (¬ s.Ready) (Memory.wf s.mem = true) (execFrcp c s) := ivVaried_sound ..
theorem execFrsqrt_sound (c : Code) (s : State) : Sound (¬ s.Ready) (Memory.wf s.mem = true) (execFrsqrt c s) := ivVaried_sound ..
theorem execFexp2_sound (c : Code) (s : State) : Sound (¬ s.Ready) (Memory.wf s.mem = true) (execFexp2 c s) := ivVaried_sound ..
theorem execFlog2_sound (c : Code) (s : State) : Sound (¬ s.Ready) (Memory.wf s.mem = true) (execFlog2 c s) := ivVaried_sound ..
theorem execFsinpi_sound (c : Code) (s : State) : Sound (¬ s.Ready) (Memory.wf s.mem = true) (execFsinpi c s) := ivVaried_sound ..
theorem execFcospi_sound (c : Code) (s : State) : Sound (¬ s.Ready) (Memory.wf s.mem = true) (execFcospi c s) := ivVaried_sound ..
theorem execFtanh_sound (c : Code) (s : State) : Sound (¬ s.Ready) (Memory.wf s.mem = true) (execFtanh c s) := ivVaried_sound ..
theorem execFpown_sound (c : Code) (s : State) :
    Sound (¬ s.Ready) (Memory.wf s.mem = true) (execFpown c s) := runInstr_sound fun e cw he hcw => by simp
theorem execFcvt_sound (c : Code) (s : State) :
    Sound (¬ s.Ready) (Memory.wf s.mem = true) (execFcvt c s) := runInstr_sound fun e cw he hcw => by simp
theorem execFcoll_sound (c : Code) (s : State) :
    Sound (¬ s.Ready) (Memory.wf s.mem = true) (execFcoll c s) := runInstr_sound fun e cw he hcw => by simp
theorem execFq8_sound (c : Code) (s : State) :
    Sound (¬ s.Ready) (Memory.wf s.mem = true) (execFq8 c s) := runInstr_sound fun e cw he hcw => by simp
theorem execMov_sound (c : Code) (s : State) :
    Sound (¬ s.Ready) (Memory.wf s.mem = true) (execMov c s) := runInstr_sound fun e cw he hcw => by
  dsimp only
  split <;> simp +contextual

/-! ### Of Mem -/

theorem execLd_sound (c : Code) (s : State) :
    Sound (¬ s.Ready) (Memory.wf s.mem = true) (execLd c s) := runInstr_sound fun _ _ _ hcw => mem_sound hcw id
theorem execSt_sound (c : Code) (s : State) :
    Sound (¬ s.Ready) (Memory.wf s.mem = true) (execSt c s) := runInstr_sound fun _ _ _ hcw => mem_sound hcw id
theorem execAtom_sound (c : Code) (s : State) :
    Sound (¬ s.Ready) (Memory.wf s.mem = true) (execAtom c s) := runInstr_sound fun _ _ _ hcw => mem_sound hcw id
theorem execCas_sound (c : Code) (s : State) :
    Sound (¬ s.Ready) (Memory.wf s.mem = true) (execCas c s) := runInstr_sound fun _ _ _ hcw => mem_sound hcw id
theorem execAtomFadd_sound (c : Code) (s : State) :
    Sound (¬ s.Ready) (Memory.wf s.mem = true) (execAtomFadd c s) := runInstr_sound fun _ _ _ hcw => mem_sound hcw id
theorem execAtomFmaxa_sound (c : Code) (s : State) :
    Sound (¬ s.Ready) (Memory.wf s.mem = true) (execAtomFmaxa c s) := runInstr_sound fun _ _ _ hcw => mem_sound hcw id
theorem execAmaxswap_sound (c : Code) (s : State) :
    Sound (¬ s.Ready) (Memory.wf s.mem = true) (execAmaxswap c s) := runInstr_sound fun _ _ _ hcw => mem_sound hcw id
theorem execFence_sound (c : Code) (s : State) :
    Sound (¬ s.Ready) (Memory.wf s.mem = true) (execFence c s) := runInstr_sound fun _ _ _ _ => fence_sound id
theorem execFenceDrain_sound (c : Code) (s : State) :
    Sound (¬ s.Ready) (Memory.wf s.mem = true) (execFenceDrain c s) := runInstr_sound fun _ _ _ _ => fence_sound id

/-! ### Of Tasks -/

theorem execEmit_sound (c : Code) (s : State) :
    Sound (¬ s.Ready) (Memory.wf s.mem = true) (execEmit c s) := runInstr_sound fun e cw he hcw => by
  rw [hcw]
  refine sound_ite id (sound_ite (sound_committedEnd.2 id) (sound_ite (taskTrap_sound id) (sound_ite (taskTrap_sound id) ?_)))
  dsimp only
  split
  · next h => exact sound_committedEnd.2 (Env.create_wf h)
  · exact fun hm => by simp [hm]
theorem execSplit_sound (c : Code) (s : State) :
    Sound (¬ s.Ready) (Memory.wf s.mem = true) (execSplit c s) := runInstr_sound fun e cw he hcw => by
  rw [hcw]
  refine sound_ite id (sound_ite (sound_committedEnd.2 id) (sound_ite (taskTrap_sound id) ?_))
  dsimp only
  split
  · exact fun hm => by simp [hm]
  · next h => exact fun hm => by simpa using Env.create_wf h hm
theorem execTend_sound (c : Code) (s : State) :
    Sound (¬ s.Ready) (Memory.wf s.mem = true) (execTend c s) := runInstr_sound fun e cw he hcw => sound_ite id fun hm => by simp [hm]
theorem execEnq_sound (c : Code) (s : State) :
    Sound (¬ s.Ready) (Memory.wf s.mem = true) (execEnq c s) := runInstr_sound fun _ _ he hcw => enqueue_sound he hcw
theorem execEnqA_sound (c : Code) (s : State) :
    Sound (¬ s.Ready) (Memory.wf s.mem = true) (execEnqA c s) := runInstr_sound fun _ _ he hcw => enqueue_sound he hcw
theorem execLaunch_sound (c : Code) (s : State) :
    Sound (¬ s.Ready) (Memory.wf s.mem = true) (execLaunch c s) := runInstr_sound fun e cw he hcw => by
  rw [hcw]
  refine sound_ite id (ownRead_sound id fun tok u hu => ?_)
  have hr : ∀ c q b w, Memory.wf s.mem = true → Memory.wf (if 64 ≤ q then (u, false) else u.tokenArrive c q b w).1.mem = true := by
    intro c q b w hm
    split <;> simp [hu hm]
  exact sound_ite (fun hm => by simpa using hr _ _ _ _ hm) (sound_committedEnd.2 (hr _ _ _ _))
theorem execGcancel_sound (c : Code) (s : State) :
    Sound (¬ s.Ready) (Memory.wf s.mem = true) (execGcancel c s) := runInstr_sound fun e cw he hcw => by
  rw [hcw]
  dsimp only
  (repeat' split) <;> simp +contextual
theorem execGstatus_sound (c : Code) (s : State) :
    Sound (¬ s.Ready) (Memory.wf s.mem = true) (execGstatus c s) := runInstr_sound fun e cw he hcw => by
  rw [hcw]
  dsimp only
  (repeat' split) <;> simp +contextual
theorem execEnqArrival_sound (h : PktHdr) (b : EnqB) (s : State) : Sound (False) (Memory.wf s.mem = true) (execEnqArrival h b s) := by
  unfold execEnqArrival
  dsimp only
  refine sound_ite (fun hm => by simpa using hm) (sound_ite (fun hm => by simpa using hm) ?_)
  split
  · exact fun hm => by simpa using hm
  · split
    · exact fun hm => by simp [hm]
    · next h => exact fun hm => by simpa using State.devWrite_wf h hm
theorem execEnqack_sound (h : PktHdr) (_r : Route) (g : Handle) (s : State) :
    Sound (False) (Memory.wf s.mem = true) (execEnqack h _r g s) := fun hm => by simp [hm]
theorem execCredit_sound (h : PktHdr) (_r : Route) (g : Handle) (s : State) :
    Sound (False) (Memory.wf s.mem = true) (execCredit h _r g s) := fun hm => hm
theorem execBounce_sound (h : PktHdr) (b : EnqB) (s : State) : Sound (False) (Memory.wf s.mem = true) (execBounce h b s) := by
  unfold execBounce
  refine sound_ite (fun hm => by simp [hm]) ?_
  dsimp only
  split
  · next h => exact fun hm => State.ringAppend_wf h (by simp [hm])
  · exact fun hm => by simp [hm]
theorem execBandFormation_sound (s : State) : Sound (False) (Memory.wf s.mem = true) (execBandFormation s) := fun hm => by simp [hm]
theorem execFlushAgeExpiry_sound (s : State) : Sound (False) (Memory.wf s.mem = true) (execFlushAgeExpiry s) := fun hm => by simp [hm]
theorem execTake_sound (s : State) : Sound (False) (Memory.wf s.mem = true) (execTake s) := by
  unfold execTake
  dsimp only
  (repeat' split) <;> simp +contextual
theorem execStealRound_sound (die : Nat) (g : Handle) (s : State) : Sound (False) (Memory.wf s.mem = true) (execStealRound die g s) := by
  unfold execStealRound
  refine sound_ite id ?_
  split
  · exact fun hm => by simp [hm]
  · exact fun hm => by simp [hm]
  · exact id
theorem execStealRoundWaitExpiry_sound (die : Nat) (g : Handle) (s : State) :
    Sound (False) (Memory.wf s.mem = true) (execStealRoundWaitExpiry die g s) := by
  unfold execStealRoundWaitExpiry
  split
  · exact sound_ite id (sound_ite (fun hm => by simp [hm]) fun hm => by simpa using hm)
  · exact id
theorem execStealreq_sound (h : PktHdr) (g : Handle) (s : State) : Sound (False) (Memory.wf s.mem = true) (execStealreq h g s) := by
  unfold execStealreq
  refine sound_ite (fun hm => by simp [hm]) fun hm => ?_
  refine State.foldl_wf (fun u r hu => by simpa using hu) _ _ ?_
  simp only [State.send_mem, State.updDisp_mem, State.updGridDie_mem]
  exact State.foldl_wf (fun u r hu => by simp [hu]) _ _ (by simp [hm])
theorem execGrant_sound (h : PktHdr) (g : Handle) (k : W64) (s : State) : Sound (False) (Memory.wf s.mem = true) (execGrant h g k s) := by
  unfold execGrant
  dsimp only
  (repeat' split) <;> simp +contextual
theorem execStealrec_sound (h : PktHdr) (g : Handle) (pos : W64) (record : List Byte) (s : State) :
    Sound (False) (Memory.wf s.mem = true) (execStealrec h g pos record s) := by
  unfold execStealrec
  dsimp only
  (repeat' split) <;> simp +contextual
theorem execRefuse_sound (h : PktHdr) (g : Handle) (s : State) : Sound (False) (Memory.wf s.mem = true) (execRefuse h g s) := by
  unfold execRefuse
  split
  · exact sound_ite (fun hm => by simp [hm]) id
  · exact id
theorem execStealack_sound (h : PktHdr) (g : Handle) (k : W64) (s : State) :
    Sound (False) (Memory.wf s.mem = true) (execStealack h g k s) := by
  unfold execStealack
  dsimp only
  (repeat' split) <;> simp +contextual
theorem execSpillPageReturn_sound (s : State) : Sound (False) (Memory.wf s.mem = true) (execSpillPageReturn s) := by
  unfold execSpillPageReturn
  dsimp only
  (repeat' split) <;> simp +contextual

/-! ### Of Collect -/

theorem execBar_sound (c : Code) (s : State) :
    Sound (¬ s.Ready) (Memory.wf s.mem = true) (execBar c s) := runInstr_sound fun e cw he hcw => by
  rw [hcw]
  dsimp only
  (repeat' split) <;> simp +contextual
theorem execBarrier_sound (h : PktHdr) (b : BarrierB) (s : State) : Sound (False) (Memory.wf s.mem = true) (execBarrier h b s) := by
  unfold execBarrier
  dsimp only
  refine sound_ite (fun hm => wf_ite (wf_ite ?_ ?_) ?_) ?_
  · simpa using hm
  · simpa using hm
  · simpa using hm
  · split
    · exact id
    · have htell : ∀ (l : List (Nat × Nat)) (x : Bool) (u : State), Memory.wf u.mem = true → Memory.wf (l.foldl (fun (s : State) p =>
          s.barSend (s.leaderOf s.pkg) b.handle p b.kind.toNat b.roster.toNat b.gen.toNat true x) u).mem = true :=
        fun l x u hu => State.foldl_wf (fun s p hs => by simpa using hs) _ _ hu
      have hset : Memory.wf s.mem = true → Memory.wf (if h.srcPkg.toNat = s.pkg then s else
          s.setBarDone b.handle (b.kind.toNat + 2 ^ 16 + 16 * (8 * h.srcPkg.toNat + h.srcSock.toNat)) b.roster.toNat b.gen.toNat).mem = true :=
        fun hm => wf_ite hm (by simpa using hm)
      exact sound_ite (fun hm => htell _ _ _ (by simpa using hm)) (sound_ite hset fun hm => htell _ _ _ (by simpa using hset hm))
theorem execArrive_sound (c : Code) (s : State) :
    Sound (¬ s.Ready) (Memory.wf s.mem = true) (execArrive c s) := runInstr_sound fun e cw he hcw => by
  rw [hcw]
  exact sound_ite id (sound_ite (sound_committedEnd.2 id) (access_sound id (scratchAccess_sound id)))
theorem execAwait_sound (c : Code) (s : State) :
    Sound (¬ s.Ready) (Memory.wf s.mem = true) (execAwait c s) := runInstr_sound fun e cw he hcw => by
  rw [hcw]
  exact sound_ite id (sound_ite (sound_finish.2 id) (access_sound id (initCheck_sound id fun u hu hm => by simp [hu hm])))
theorem collective_sound (opc : Nat) (rred : Bool) (c : Code) (s : State) :
    Sound (¬ s.Ready) (Memory.wf s.mem = true) (collective opc rred c s) := runInstr_sound fun e cw he hcw => by
  rw [hcw]
  dsimp only
  split
  · next hg => exact not_ready_of_gridOf he hcw hg
  · refine sound_ite (sound_finish.2 id) (sound_ite id (sound_ite (fun hm => by simp [hm]) (sound_ite (fun hm => by simp [hm])
      (sound_ite (fun hm => by simp [hm]) ?_))))
    refine sound_ite (initCheck_sound id fun u hu hm => ?_) fun hm => ?_
    · rw [State.collSend_mem]
      exact wf_ite (by simp [State.breakAll, hu hm]) (by simp [hu hm])
    · rw [State.collSend_mem]
      exact wf_ite (by simp [State.breakAll, hm]) (by simp [hm])
theorem execRmcast_sound (c : Code) (s : State) : Sound (¬ s.Ready) (Memory.wf s.mem = true) (execRmcast c s) := collective_sound ..
theorem execRred_sound (c : Code) (s : State) : Sound (¬ s.Ready) (Memory.wf s.mem = true) (execRred c s) := collective_sound ..
theorem execColl_sound (h : PktHdr) (b : CollB) (s : State) : Sound (False) (Memory.wf s.mem = true) (execColl h b s) := by
  unfold execColl
  dsimp only
  (repeat' split) <;> simp +contextual
theorem execCollres_sound (h : PktHdr) (b : CollB) (s : State) : Sound (False) (Memory.wf s.mem = true) (execCollres h b s) := by
  unfold execCollres
  dsimp only
  (repeat' split) <;> simp +contextual

/-! ### Of Integer -/

theorem aluInstr_sound (opc : Nat) (c : Code) (s : State) (f : ITy → ℤ → ℤ → ℤ → ℤ) :
    Sound (¬ s.Ready) (Memory.wf s.mem = true) (aluInstr opc c s f) := runInstr_sound fun e cw he hcw => by simp
theorem execNop_sound (c : Code) (s : State) :
    Sound (¬ s.Ready) (Memory.wf s.mem = true) (execNop c s) := runInstr_sound fun e cw he hcw => by simp
theorem execIadd_sound (c : Code) (s : State) : Sound (¬ s.Ready) (Memory.wf s.mem = true) (execIadd c s) := aluInstr_sound ..
theorem execIsub_sound (c : Code) (s : State) : Sound (¬ s.Ready) (Memory.wf s.mem = true) (execIsub c s) := aluInstr_sound ..
theorem execIadds_sound (c : Code) (s : State) : Sound (¬ s.Ready) (Memory.wf s.mem = true) (execIadds c s) := aluInstr_sound ..
theorem execIsubs_sound (c : Code) (s : State) : Sound (¬ s.Ready) (Memory.wf s.mem = true) (execIsubs c s) := aluInstr_sound ..
theorem execImul_sound (c : Code) (s : State) : Sound (¬ s.Ready) (Memory.wf s.mem = true) (execImul c s) := aluInstr_sound ..
theorem execImulh_sound (c : Code) (s : State) : Sound (¬ s.Ready) (Memory.wf s.mem = true) (execImulh c s) := aluInstr_sound ..
theorem execImad_sound (c : Code) (s : State) : Sound (¬ s.Ready) (Memory.wf s.mem = true) (execImad c s) := aluInstr_sound ..
theorem execImulq_sound (c : Code) (s : State) : Sound (¬ s.Ready) (Memory.wf s.mem = true) (execImulq c s) := aluInstr_sound ..
theorem execIabs_sound (c : Code) (s : State) : Sound (¬ s.Ready) (Memory.wf s.mem = true) (execIabs c s) := aluInstr_sound ..
theorem execImin_sound (c : Code) (s : State) : Sound (¬ s.Ready) (Memory.wf s.mem = true) (execImin c s) := aluInstr_sound ..
theorem execImax_sound (c : Code) (s : State) : Sound (¬ s.Ready) (Memory.wf s.mem = true) (execImax c s) := aluInstr_sound ..
theorem execIneg_sound (c : Code) (s : State) : Sound (¬ s.Ready) (Memory.wf s.mem = true) (execIneg c s) := aluInstr_sound ..
theorem execIshl_sound (c : Code) (s : State) : Sound (¬ s.Ready) (Memory.wf s.mem = true) (execIshl c s) := aluInstr_sound ..
theorem execIshr_sound (c : Code) (s : State) : Sound (¬ s.Ready) (Memory.wf s.mem = true) (execIshr c s) := aluInstr_sound ..
theorem execIshra_sound (c : Code) (s : State) : Sound (¬ s.Ready) (Memory.wf s.mem = true) (execIshra c s) := aluInstr_sound ..
theorem execAndb_sound (c : Code) (s : State) : Sound (¬ s.Ready) (Memory.wf s.mem = true) (execAndb c s) := aluInstr_sound ..
theorem execOrb_sound (c : Code) (s : State) : Sound (¬ s.Ready) (Memory.wf s.mem = true) (execOrb c s) := aluInstr_sound ..
theorem execXorb_sound (c : Code) (s : State) : Sound (¬ s.Ready) (Memory.wf s.mem = true) (execXorb c s) := aluInstr_sound ..
theorem execNotb_sound (c : Code) (s : State) : Sound (¬ s.Ready) (Memory.wf s.mem = true) (execNotb c s) := aluInstr_sound ..
theorem execAndn_sound (c : Code) (s : State) : Sound (¬ s.Ready) (Memory.wf s.mem = true) (execAndn c s) := aluInstr_sound ..
theorem execBsel_sound (c : Code) (s : State) : Sound (¬ s.Ready) (Memory.wf s.mem = true) (execBsel c s) := aluInstr_sound ..
theorem execPopc_sound (c : Code) (s : State) : Sound (¬ s.Ready) (Memory.wf s.mem = true) (execPopc c s) := aluInstr_sound ..
theorem execClz_sound (c : Code) (s : State) : Sound (¬ s.Ready) (Memory.wf s.mem = true) (execClz c s) := aluInstr_sound ..
theorem execCtz_sound (c : Code) (s : State) : Sound (¬ s.Ready) (Memory.wf s.mem = true) (execCtz c s) := aluInstr_sound ..
theorem execBrev_sound (c : Code) (s : State) : Sound (¬ s.Ready) (Memory.wf s.mem = true) (execBrev c s) := aluInstr_sound ..
theorem execBfx_sound (c : Code) (s : State) : Sound (¬ s.Ready) (Memory.wf s.mem = true) (execBfx c s) := aluInstr_sound ..
theorem execBfi_sound (c : Code) (s : State) : Sound (¬ s.Ready) (Memory.wf s.mem = true) (execBfi c s) := aluInstr_sound ..
theorem execIsetp_sound (c : Code) (s : State) :
    Sound (¬ s.Ready) (Memory.wf s.mem = true) (execIsetp c s) := runInstr_sound fun e cw he hcw => by simp
theorem execMovi_sound (c : Code) (s : State) :
    Sound (¬ s.Ready) (Memory.wf s.mem = true) (execMovi c s) := runInstr_sound fun e cw he hcw => by simp
theorem execSel_sound (c : Code) (s : State) :
    Sound (¬ s.Ready) (Memory.wf s.mem = true) (execSel c s) := runInstr_sound fun e cw he hcw => by simp
theorem execCvti_sound (c : Code) (s : State) :
    Sound (¬ s.Ready) (Memory.wf s.mem = true) (execCvti c s) := runInstr_sound fun e cw he hcw => by simp
theorem execLea_sound (c : Code) (s : State) : Sound (¬ s.Ready) (Memory.wf s.mem = true) (execLea c s) := aluInstr_sound ..
theorem execSetix_sound (c : Code) (s : State) :
    Sound (¬ s.Ready) (Memory.wf s.mem = true) (execSetix c s) := runInstr_sound fun e cw he hcw => by simp

/-! ### Of Control -/

theorem execBra_sound (c : Code) (s : State) :
    Sound (¬ s.Ready) (Memory.wf s.mem = true) (execBra c s) := runInstr_sound fun e cw he hcw => by simp
theorem execBrx_sound (c : Code) (s : State) :
    Sound (¬ s.Ready) (Memory.wf s.mem = true) (execBrx c s) := runInstr_sound fun e cw he hcw => by simp
theorem execCall_sound (c : Code) (s : State) :
    Sound (¬ s.Ready) (Memory.wf s.mem = true) (execCall c s) :=
  runInstr_sound fun e cw he hcw => sound_ite (fun hm => by simp [hm]) (sound_finish.2 id)
theorem execRet_sound (c : Code) (s : State) :
    Sound (¬ s.Ready) (Memory.wf s.mem = true) (execRet c s) := runInstr_sound fun e cw he hcw => by simp
theorem execExit_sound (c : Code) (s : State) :
    Sound (¬ s.Ready) (Memory.wf s.mem = true) (execExit c s) := runInstr_sound fun e cw he hcw => by
  dsimp only
  split <;> simp +contextual
theorem diverge_sound (opc : Nat) (c : Code) (s : State) (branch : Bool) (f : Env → Nat → Nat → Nat) :
    Sound (¬ s.Ready) (Memory.wf s.mem = true) (diverge opc c s branch f) := runInstr_sound fun e cw he hcw => by
  dsimp only
  split <;> simp +contextual
theorem execIfb_sound (c : Code) (s : State) : Sound (¬ s.Ready) (Memory.wf s.mem = true) (execIfb c s) := diverge_sound ..
theorem execElseb_sound (c : Code) (s : State) : Sound (¬ s.Ready) (Memory.wf s.mem = true) (execElseb c s) := diverge_sound ..
theorem execEndif_sound (c : Code) (s : State) : Sound (¬ s.Ready) (Memory.wf s.mem = true) (execEndif c s) := diverge_sound ..
theorem execIf3_sound (c : Code) (s : State) : Sound (¬ s.Ready) (Memory.wf s.mem = true) (execIf3 c s) := diverge_sound ..
theorem execElsef_sound (c : Code) (s : State) : Sound (¬ s.Ready) (Memory.wf s.mem = true) (execElsef c s) := diverge_sound ..
theorem execElseu_sound (c : Code) (s : State) : Sound (¬ s.Ready) (Memory.wf s.mem = true) (execElseu c s) := diverge_sound ..
theorem execEndif3_sound (c : Code) (s : State) : Sound (¬ s.Ready) (Memory.wf s.mem = true) (execEndif3 c s) := diverge_sound ..
theorem execLoopb_sound (c : Code) (s : State) : Sound (¬ s.Ready) (Memory.wf s.mem = true) (execLoopb c s) := diverge_sound ..
theorem leaveLoop_sound (opc step : Nat) (c : Code) (s : State) :
    Sound (¬ s.Ready) (Memory.wf s.mem = true) (leaveLoop opc step c s) := runInstr_sound fun e cw he hcw => by
  dsimp only
  (repeat' split) <;> simp +contextual
theorem execBrk_sound (c : Code) (s : State) : Sound (¬ s.Ready) (Memory.wf s.mem = true) (execBrk c s) := leaveLoop_sound ..
theorem execCont_sound (c : Code) (s : State) : Sound (¬ s.Ready) (Memory.wf s.mem = true) (execCont c s) := leaveLoop_sound ..
theorem execEndloop_sound (c : Code) (s : State) :
    Sound (¬ s.Ready) (Memory.wf s.mem = true) (execEndloop c s) := runInstr_sound fun e cw he hcw => by
  dsimp only
  split <;> simp +contextual
theorem execMrg_sound (c : Code) (s : State) :
    Sound (¬ s.Ready) (Memory.wf s.mem = true) (execMrg c s) := runInstr_sound fun e cw he hcw => by
  rw [hcw]
  dsimp only
  (repeat' split) <;> simp +contextual
theorem execRgn_sound (c : Code) (s : State) :
    Sound (¬ s.Ready) (Memory.wf s.mem = true) (execRgn c s) := runInstr_sound fun e cw he hcw => by
  dsimp only
  split <;> simp +contextual
theorem predInstr_sound (opc : Nat) (c : Code) (s : State) (f : Tri → Tri → Tri) :
    Sound (¬ s.Ready) (Memory.wf s.mem = true) (predInstr opc c s f) := runInstr_sound fun e cw he hcw => by simp
theorem execPand_sound (c : Code) (s : State) : Sound (¬ s.Ready) (Memory.wf s.mem = true) (execPand c s) := predInstr_sound ..
theorem execPor_sound (c : Code) (s : State) : Sound (¬ s.Ready) (Memory.wf s.mem = true) (execPor c s) := predInstr_sound ..
theorem execPxor_sound (c : Code) (s : State) : Sound (¬ s.Ready) (Memory.wf s.mem = true) (execPxor c s) := predInstr_sound ..
theorem execPnot_sound (c : Code) (s : State) : Sound (¬ s.Ready) (Memory.wf s.mem = true) (execPnot c s) := predInstr_sound ..
theorem execPdec_sound (c : Code) (s : State) : Sound (¬ s.Ready) (Memory.wf s.mem = true) (execPdec c s) := predInstr_sound ..
theorem execPmov_sound (c : Code) (s : State) :
    Sound (¬ s.Ready) (Memory.wf s.mem = true) (execPmov c s) := runInstr_sound fun e cw he hcw => by
  dsimp only
  split <;> simp +contextual
theorem execDqpop_sound (c : Code) (s : State) :
    Sound (¬ s.Ready) (Memory.wf s.mem = true) (execDqpop c s) :=
  runInstr_sound fun _ _ _ hcw => pop_sound hcw id fun _ _ => sound_result.2 id
theorem execDqbr_sound (c : Code) (s : State) :
    Sound (¬ s.Ready) (Memory.wf s.mem = true) (execDqbr c s) :=
  runInstr_sound fun e cw he hcw => pop_sound hcw id fun v e1 hm => by simp [hm]
theorem execDqpush_sound (c : Code) (s : State) :
    Sound (¬ s.Ready) (Memory.wf s.mem = true) (execDqpush c s) := runInstr_sound fun e cw he hcw => by
  rw [hcw]
  dsimp only
  (repeat' split) <;> simp +contextual
theorem execShfl_sound (c : Code) (s : State) :
    Sound (¬ s.Ready) (Memory.wf s.mem = true) (execShfl c s) := runInstr_sound fun e cw he hcw => by simp
theorem execVote_sound (c : Code) (s : State) :
    Sound (¬ s.Ready) (Memory.wf s.mem = true) (execVote c s) := runInstr_sound fun e cw he hcw => by
  dsimp only
  split <;> simp +contextual
theorem execRedi_sound (c : Code) (s : State) :
    Sound (¬ s.Ready) (Memory.wf s.mem = true) (execRedi c s) := runInstr_sound fun e cw he hcw => by
  dsimp only
  split <;> simp +contextual
theorem execScani_sound (c : Code) (s : State) :
    Sound (¬ s.Ready) (Memory.wf s.mem = true) (execScani c s) := runInstr_sound fun e cw he hcw => by simp
theorem execRdlane_sound (c : Code) (s : State) :
    Sound (¬ s.Ready) (Memory.wf s.mem = true) (execRdlane c s) := runInstr_sound fun e cw he hcw => by simp
theorem execWrlane_sound (c : Code) (s : State) :
    Sound (¬ s.Ready) (Memory.wf s.mem = true) (execWrlane c s) := runInstr_sound fun e cw he hcw => by simp
theorem execSop_sound (c : Code) (s : State) :
    Sound (¬ s.Ready) (Memory.wf s.mem = true) (execSop c s) := runInstr_sound fun e cw he hcw => by simp
theorem execSmovi_sound (c : Code) (s : State) :
    Sound (¬ s.Ready) (Memory.wf s.mem = true) (execSmovi c s) := runInstr_sound fun e cw he hcw => by simp
theorem execSbr_sound (c : Code) (s : State) :
    Sound (¬ s.Ready) (Memory.wf s.mem = true) (execSbr c s) := runInstr_sound fun e cw he hcw => by simp
theorem execFloop_sound (c : Code) (s : State) : Sound (¬ (s.Ready ∧ s.cur.band = none)) (Memory.wf s.mem = true) (execFloop c s) :=
  runInstr_sound_of (fun h hr => h hr.1) fun e cw he hcw => by
    refine sound_ite (lengthAt_sound hcw id fun n => sound_finish.2 id) ?_
    rw [hcw]
    dsimp only
    split
    · exact sound_ite (fun hm => by simp [hm]) fun hm => by simpa using hm
    · next hfront =>
      rintro ⟨⟨cw', b, hcw', hb, -⟩, hcur⟩
      rw [mkEnv_t he, hcw'] at hcw
      cases hcw
      simp [State.thread, hcw', hcur, Crew.thread, hfront] at hb
theorem execFend_sound (c : Code) (s : State) :
    Sound (¬ s.Ready) (Memory.wf s.mem = true) (execFend c s) := runInstr_sound fun e cw he hcw => sound_ite id fun hm => by simp [hm]

/-! ### Of Csr -/

theorem execCsrr_sound (c : Code) (s : State) :
    Sound (¬ s.Ready) (Memory.wf s.mem = true) (execCsrr c s) := runInstr_sound fun e cw he hcw => by
  rw [hcw]
  dsimp only
  (repeat' split) <;> simp +contextual
theorem execExecWrite_sound (c : Code) (s : State) :
    Sound (¬ s.Ready) (Memory.wf s.mem = true) (execExecWrite c s) := runInstr_sound fun e cw he hcw => by simp
theorem execNestWrite_sound (c : Code) (s : State) :
    Sound (¬ s.Ready) (Memory.wf s.mem = true) (execNestWrite c s) := runInstr_sound fun e cw he hcw => by
  dsimp only
  split <;> simp +contextual
theorem execCrewMergeWrite_sound (c : Code) (s : State) :
    Sound (¬ s.Ready) (Memory.wf s.mem = true) (execCrewMergeWrite c s) := runInstr_sound fun e cw he hcw => by simp
theorem execCsrw_sound (c : Code) (s : State) :
    Sound (¬ s.Ready) (Memory.wf s.mem = true) (execCsrw c s) := runInstr_sound fun e cw he hcw => by
  dsimp only
  (repeat' split) <;> simp +contextual
theorem execBkpt_sound (c : Code) (s : State) :
    Sound (¬ s.Ready) (Memory.wf s.mem = true) (execBkpt c s) := runInstr_sound fun e cw he hcw => by
  dsimp only
  split <;> simp +contextual
theorem execStrap_sound (c : Code) (s : State) :
    Sound (¬ s.Ready) (Memory.wf s.mem = true) (execStrap c s) :=
  runInstr_sound fun e cw he hcw => sound_ite (sound_finish.2 id) fun hm => by simp [hm]
theorem tret_sound (act : Nat) (c : Code) (s : State) :
    Sound (¬ s.Ready) (Memory.wf s.mem = true) (tret act c s) := runInstr_sound fun e cw he hcw => by
  refine sound_ite (fun hm => by simp [hm]) (sound_ite id ?_)
  obtain ⟨w, b, hw, hb⟩ := Env.done_thread he e.next e.b
  dsimp only
  rw [hw, hb]
  exact fun hm => by simp [hm]
theorem execTretResume_sound (c : Code) (s : State) : Sound (¬ s.Ready) (Memory.wf s.mem = true) (execTretResume c s) := tret_sound ..
theorem execTretSkip_sound (c : Code) (s : State) : Sound (¬ s.Ready) (Memory.wf s.mem = true) (execTretSkip c s) := tret_sound ..
theorem execTretWriteSkip_sound (c : Code) (s : State) : Sound (¬ s.Ready) (Memory.wf s.mem = true) (execTretWriteSkip c s) := tret_sound ..
theorem execTretRetryRegion_sound (c : Code) (s : State) :
    Sound (¬ s.Ready) (Memory.wf s.mem = true) (execTretRetryRegion c s) := tret_sound ..
theorem execTretKillLanes_sound (c : Code) (s : State) : Sound (¬ s.Ready) (Memory.wf s.mem = true) (execTretKillLanes c s) := tret_sound ..
theorem execTretKillBand_sound (c : Code) (s : State) : Sound (¬ s.Ready) (Memory.wf s.mem = true) (execTretKillBand c s) := tret_sound ..

/-! ### Of Engine -/

theorem execMulticastWindowClose_sound (s : State) : Sound (False) (Memory.wf s.mem = true) (execMulticastWindowClose s) := fun hm => hm

/-! ### Of Copy -/

theorem copyInstr_sound (opc : Nat) (op : CopyOp) (c : Code) (s : State) :
    Sound (¬ s.Ready) (Memory.wf s.mem = true) (copyInstr opc op c s) := runInstr_sound fun e cw he hcw => by
  dsimp only
  (repeat' split) <;> simp +contextual
theorem execCpy_sound (c : Code) (s : State) : Sound (¬ s.Ready) (Memory.wf s.mem = true) (execCpy c s) := copyInstr_sound ..
theorem execCpyg_sound (c : Code) (s : State) : Sound (¬ s.Ready) (Memory.wf s.mem = true) (execCpyg c s) := copyInstr_sound ..
theorem execCpys_sound (c : Code) (s : State) : Sound (¬ s.Ready) (Memory.wf s.mem = true) (execCpys c s) := copyInstr_sound ..
theorem execCpyAdd_sound (c : Code) (s : State) : Sound (¬ s.Ready) (Memory.wf s.mem = true) (execCpyAdd c s) := copyInstr_sound ..
theorem execQfence_sound (c : Code) (s : State) :
    Sound (¬ s.Ready) (Memory.wf s.mem = true) (execQfence c s) := runInstr_sound fun e cw he hcw => by
  dsimp only
  (repeat' split) <;> simp +contextual
theorem execCopyCommandStart_sound (s : State) : Sound (False) (Memory.wf s.mem = true) (execCopyCommandStart s) := by
  unfold execCopyCommandStart
  dsimp only
  (repeat' split) <;> simp +contextual
theorem execCopyCommandComplete_sound (s : State) : Sound (False) (Memory.wf s.mem = true) (execCopyCommandComplete s) := by
  unfold execCopyCommandComplete
  dsimp only
  (repeat' split) <;> simp +contextual
theorem execCpyCtlReset_sound (s : State) : Sound (False) (Memory.wf s.mem = true) (execCpyCtlReset s) := fun hm => by simp [hm]
theorem execCpyCtlClrerr_sound (s : State) : Sound (False) (Memory.wf s.mem = true) (execCpyCtlClrerr s) := fun hm => by simp [hm]

/-! ### Of Infuser -/

theorem execJpass_sound (c : Code) (s : State) :
    Sound (¬ s.Ready) (Memory.wf s.mem = true) (execJpass c s) := runInstr_sound fun e cw he hcw => sound_ite (sound_finish.2 id) (jIssue_sound hcw id fun w => by
  refine sound_ite (jRefuse_sound id) ?_
  split
  · exact jRefuse_sound id
  · dsimp only
    split
    · exact jRefuse_sound id
    · exact sound_ite id fun hm => by simpa using hm)
theorem execJbit_sound (c : Code) (s : State) :
    Sound (¬ s.Ready) (Memory.wf s.mem = true) (execJbit c s) := runInstr_sound fun e cw he hcw => sound_ite (sound_finish.2 id) (jIssue_sound hcw id fun w => by
  refine sound_ite (jRefuse_sound id) ?_
  split
  · exact jRefuse_sound id
  · exact sound_ite id fun hm => by simpa using hm)
theorem execJstream_sound (c : Code) (s : State) :
    Sound (¬ s.Ready) (Memory.wf s.mem = true) (execJstream c s) := runInstr_sound fun e cw he hcw => sound_ite (sound_finish.2 id) (jIssue_sound hcw id fun w => by
  dsimp only
  split
  · exact jRefuse_sound id
  · exact sound_ite id fun hm => by simpa using hm)
theorem execBatchComplete_sound (s : State) : Sound (False) (Memory.wf s.mem = true) (execBatchComplete s) := by
  unfold execBatchComplete
  split
  · exact fun hm => wf_ite (by simp [hm]) hm
  · exact id
theorem execJbatch_sound (c : Code) (s : State) :
    Sound (¬ s.Ready) (Memory.wf s.mem = true) (execJbatch c s) := runInstr_sound fun e cw he hcw => by
  dsimp only
  (repeat' split) <;> simp +contextual
theorem execJwait_sound (c : Code) (s : State) :
    Sound (¬ s.Ready) (Memory.wf s.mem = true) (execJwait c s) := runInstr_sound fun e cw he hcw => by
  dsimp only
  (repeat' split) <;> simp +contextual
theorem execJdrain_sound (c : Code) (s : State) :
    Sound (¬ s.Ready) (Memory.wf s.mem = true) (execJdrain c s) := runInstr_sound fun e cw he hcw => jIssue_sound hcw id fun w => by
  refine sound_ite (jRefuse_sound id) ?_
  split
  · exact jRefuse_sound id
  · exact sound_ite id fun hm => by simpa using hm
theorem execJcfg_sound (c : Code) (s : State) :
    Sound (¬ s.Ready) (Memory.wf s.mem = true) (execJcfg c s) := runInstr_sound fun e cw he hcw => by
  rw [hcw]
  refine sound_ite id (access_sound id (initCheck_sound id fun u hu => ?_))
  refine sound_ite (jRefuse_sound hu) (sound_ite (sound_finish.2 fun hm => by simpa using hu hm) (sound_ite hu fun hm => ?_))
  simp [hu hm]
theorem execJclr_sound (c : Code) (s : State) :
    Sound (¬ s.Ready) (Memory.wf s.mem = true) (execJclr c s) := runInstr_sound fun e cw he hcw => by
  dsimp only
  split <;> simp +contextual
theorem execJqry_sound (c : Code) (s : State) :
    Sound (¬ s.Ready) (Memory.wf s.mem = true) (execJqry c s) := runInstr_sound fun e cw he hcw => by
  dsimp only
  split <;> simp +contextual

/-! ### Of Passes -/

theorem infuserEvent_sound (kind : JOpKind) (run : State → Nat → Nat → JOp → State) (s : State)
    (hrun : ∀ u d c o, Memory.wf u.mem = true → Memory.wf (run u d c o).mem = true) :
    Sound False (Memory.wf s.mem = true) (infuserEvent kind run s) := by
  have hsettle : ∀ d c, Memory.wf s.mem = true → Memory.wf (s.jSettle d c).mem = true := fun d c hm => by simp [hm]
  unfold infuserEvent
  dsimp only
  split
  · refine fun hm => wf_ite (State.jSettle_wf _ _ _ ?_) (hsettle _ _ hm)
    rw [State.engRest_mem]
    exact hrun _ _ _ _ (hsettle _ _ hm)
  · exact hsettle _ _
theorem execQuarterOperation_sound (s : State) :
    Sound (False) (Memory.wf s.mem = true) (execQuarterOperation s) := infuserEvent_sound _ _ _ fun _ _ _ _ hm => by simp [hm]
theorem execBitmapStep_sound (s : State) :
    Sound (False) (Memory.wf s.mem = true) (execBitmapStep s) := infuserEvent_sound _ _ _ fun _ _ _ _ hm => by simp [hm]
theorem execStreamJoin_sound (s : State) :
    Sound (False) (Memory.wf s.mem = true) (execStreamJoin s) := infuserEvent_sound _ _ _ fun _ _ _ _ hm => by simp [hm]

/-! ### Of Drain -/

theorem execDrainOperation_sound (s : State) :
    Sound (False) (Memory.wf s.mem = true) (execDrainOperation s) := infuserEvent_sound _ _ _ fun _ _ _ _ hm => by simp [hm]
theorem execDrainComplete_sound (s : State) :
    Sound (False) (Memory.wf s.mem = true) (execDrainComplete s) := infuserEvent_sound _ _ _ fun u d c o hm => wf_ite hm (by simp [hm])
theorem execJsave_sound (c : Code) (s : State) :
    Sound (¬ s.Ready) (Memory.wf s.mem = true) (execJsave c s) := runInstr_sound fun e cw he hcw => by
  rw [hcw]
  dsimp only
  split
  · exact jRefuse_sound id
  · refine sound_ite (jRefuse_sound id) (sound_ite id ?_)
    split
    · exact fun hm => by simp [hm]
    · split
      · next h =>
        have hmem := congrArg (fun x : Option EngFault × State => Memory.wf x.2.mem) h
        exact areaFault_sound fun hm => by simpa using hmem ▸ State.globWrites_wf _ _ _ _ hm
      · next h =>
        have hmem := congrArg (fun x : Option EngFault × State => Memory.wf x.2.mem) h
        exact sound_result.2 fun hm => by simpa using hmem ▸ State.globWrites_wf _ _ _ _ hm
theorem execJload_sound (c : Code) (s : State) :
    Sound (¬ s.Ready) (Memory.wf s.mem = true) (execJload c s) := runInstr_sound fun e cw he hcw => by
  rw [hcw]
  dsimp only
  split
  · exact jRefuse_sound id
  · refine sound_ite (jRefuse_sound id) (sound_ite id ?_)
    split
    · exact fun hm => by simp [hm]
    · have hread := State.engRead_mem s (e.ownRegion true).eng cw .glob attrR (e.srcA 0 64) (8 * cw.cfg.caddy + 4096)
      split
      · next h => rw [h] at hread; exact areaFault_sound fun hm => hread ▸ hm
      · next h =>
        rw [h] at hread
        refine sound_ite id ?_
        split
        · next h2 => exact areaFault_sound fun hm => by rw [State.tailCounts_eq_mem h2]; exact hread ▸ hm
        · next h2 =>
          split
          · next h3 =>
            exact areaFault_sound fun hm => by rw [State.savedTables_eq_mem h3, State.tailCounts_eq_mem h2]; exact hread ▸ hm
          · next h3 =>
            have hmem := (State.savedTables_eq_mem h3).trans ((State.tailCounts_eq_mem h2).trans hread)
            exact fun hm => by simp [hmem, hm]

/-! ### Of Events -/

theorem execActiveSetReplacement_sound (s : State) : Sound (False) (Memory.wf s.mem = true) (execActiveSetReplacement s) := by
  unfold execActiveSetReplacement
  dsimp only
  (repeat' split) <;> simp +contextual
theorem execMrgWaitExpiry_sound (s : State) : Sound (False) (Memory.wf s.mem = true) (execMrgWaitExpiry s) := by
  unfold execMrgWaitExpiry
  dsimp only
  (repeat' split) <;> simp +contextual
theorem execTrapEntry_sound (s : State) : Sound (False) (Memory.wf s.mem = true) (execTrapEntry s) := by
  unfold execTrapEntry
  dsimp only
  (repeat' split) <;> simp +contextual
theorem execSpmaxOverrun_sound (s0 : State) : Sound (False) (Memory.wf s0.mem = true) (execSpmaxOverrun s0) := by
  unfold execSpmaxOverrun
  dsimp only
  (repeat' split) <;> simp +contextual

/-! ### Of Links -/

theorem execFlitCloseTimeout_sound (lk : LinkId) (s : State) : Sound (False) (Memory.wf s.mem = true) (execFlitCloseTimeout lk s) := by
  unfold execFlitCloseTimeout
  dsimp only
  (repeat' split) <;> simp +contextual
theorem execDataFlitReceive_sound (lk : LinkId) (flit : List Byte) (s : State) :
    Sound (False) (Memory.wf s.mem = true) (execDataFlitReceive lk flit s) := fun hm => hm
theorem execControlFlitReceive_sound (lk : LinkId) (flit : List Byte) (s : State) :
    Sound (False) (Memory.wf s.mem = true) (execControlFlitReceive lk flit s) := fun hm => hm
theorem execAckTimeout_sound (lk : LinkId) (s : State) : Sound (False) (Memory.wf s.mem = true) (execAckTimeout lk s) := by
  unfold execAckTimeout
  split <;> intro hm <;> simp [hm]
theorem execReplayTimeout_sound (lk : LinkId) (s : State) : Sound (False) (Memory.wf s.mem = true) (execReplayTimeout lk s) := by
  unfold execReplayTimeout
  dsimp only
  (repeat' split) <;> simp +contextual
theorem execNakRepeat_sound (lk : LinkId) (s : State) : Sound (False) (Memory.wf s.mem = true) (execNakRepeat lk s) := by
  unfold execNakRepeat
  dsimp only
  (repeat' split) <;> simp +contextual
theorem execPodPacketArrival_sound (port : Nat) (p : Packet) (s : State) :
    Sound (False) (Memory.wf s.mem = true) (execPodPacketArrival port p s) := fun hm => by simp [hm]

/-! ### Of Failures -/

theorem execPassengerFatalError_sound (sock : BitVec 5) (cause : W16) (detail : List Byte) (s : State) :
    Sound (False) (Memory.wf s.mem = true) (execPassengerFatalError sock cause detail s) := by
  unfold execPassengerFatalError
  dsimp only
  (repeat' split) <;> simp +contextual
theorem execThermalSample_sound (die : BitVec 3) (temp : Byte) (s : State) :
    Sound (False) (Memory.wf s.mem = true) (execThermalSample die temp s) := by
  unfold execThermalSample
  dsimp only
  (repeat' split) <;> simp +contextual
theorem execRetrainDone_sound (lk : LinkId) (fail : W64) (s : State) :
    Sound (False) (Memory.wf s.mem = true) (execRetrainDone lk fail s) := by
  unfold execRetrainDone
  refine sound_ite id ?_
  split
  · exact fun hm => by simpa using hm
  · exact fun hm => by simp [hm]
theorem execRetrainFailed_sound (lk : LinkId) (fail : W64) (s : State) :
    Sound (False) (Memory.wf s.mem = true) (execRetrainFailed lk fail s) := by
  unfold execRetrainFailed
  split <;> intro hm <;> simp [hm]

/-! ### Of Save -/

theorem execCrewSave_sound (s : State) : Sound (False) (Memory.wf s.mem = true) (execCrewSave s) := by
  unfold execCrewSave
  dsimp only
  (repeat' split) <;> simp +contextual

/-! ### Of Place -/

theorem execPlacementRound_sound (s : State) : Sound (False) (Memory.wf s.mem = true) (execPlacementRound s) := by
  unfold execPlacementRound
  dsimp only
  (repeat' split) <;> simp +contextual
theorem execCrewRetire_sound (s : State) : Sound (False) (Memory.wf s.mem = true) (execCrewRetire s) := by
  unfold execCrewRetire
  dsimp only
  (repeat' split) <;> simp +contextual

/-! ### Of Start -/

theorem execClaimWindowClose_sound (s : State) : Sound (False) (Memory.wf s.mem = true) (execClaimWindowClose s) := by
  unfold execClaimWindowClose
  split <;> intro hm <;> simp [hm]
theorem execHandoverTimeout_sound (s : State) : Sound (False) (Memory.wf s.mem = true) (execHandoverTimeout s) := by
  unfold execHandoverTimeout
  dsimp only
  (repeat' split) <;> simp +contextual
theorem execFlashWriteDone_sound (s : State) : Sound (False) (Memory.wf s.mem = true) (execFlashWriteDone s) := by
  unfold execFlashWriteDone
  split <;> intro hm <;> simp [hm]
theorem execAttestationReportDone_sound (s : State) : Sound (False) (Memory.wf s.mem = true) (execAttestationReportDone s) := by
  unfold execAttestationReportDone
  dsimp only
  (repeat' split) <;> simp +contextual
theorem execStartStepComplete_sound (ok : BitVec 26) (s : State) : Sound (False) (Memory.wf s.mem = true) (execStartStepComplete ok s) := by
  unfold execStartStepComplete
  dsimp only
  (repeat' split) <;> simp +contextual
theorem execStartStepTimeout_sound (s : State) : Sound (False) (Memory.wf s.mem = true) (execStartStepTimeout s) := by
  unfold execStartStepTimeout
  dsimp only
  (repeat' split) <;> simp +contextual
theorem execPowerOn_sound (s : State) : Sound (False) (Memory.wf s.mem = true) (execPowerOn s) := fun _ => by
  have hreset : Memory.wf State.reset.mem = true := rfl
  rw [State.beginStart_mem]
  exact hreset

/-! ### Of Master -/

theorem master_sound (s : State) (cand : BitVec 2) (sock off : Nat) (v : W64) :
    Sound (False) (Memory.wf s.mem = true) (s.master cand sock off v) := by
  intro hm
  unfold State.regWrite
  split
  · exact hm
  · (repeat' split) <;> simp [hm]
theorem execControlRegisterWrite_sound (cand : BitVec 2) (sock : BitVec 5) (off val : W64) (s : State) :
    Sound (False) (Memory.wf s.mem = true) (execControlRegisterWrite cand sock off val s) := fun hm => by simp [hm]
theorem execBootCtlCold_sound (cand : BitVec 2) (s : State) :
    Sound (False) (Memory.wf s.mem = true) (execBootCtlCold cand s) := fun hm => by simp [hm]
theorem execBootCtlWarm_sound (cand : BitVec 2) (s : State) :
    Sound (False) (Memory.wf s.mem = true) (execBootCtlWarm cand s) := fun hm => by simp [hm]
theorem execClaim_sound (cand : BitVec 2) (s : State) : Sound (False) (Memory.wf s.mem = true) (execClaim cand s) := fun hm => by simp [hm]
theorem execHandoverRelease_sound (cand : BitVec 2) (s : State) :
    Sound (False) (Memory.wf s.mem = true) (execHandoverRelease cand s) := fun hm => by simp [hm]
theorem execHandoverAccept_sound (cand : BitVec 2) (s : State) :
    Sound (False) (Memory.wf s.mem = true) (execHandoverAccept cand s) := fun hm => by simp [hm]
theorem execAttestationRequest_sound (cand : BitVec 2) (s : State) :
    Sound (False) (Memory.wf s.mem = true) (execAttestationRequest cand s) := fun hm => by simp [hm]
theorem execAttestationDoneWrite_sound (cand k : BitVec 2) (s : State) :
    Sound (False) (Memory.wf s.mem = true) (execAttestationDoneWrite cand k s) := fun hm => by simp [hm]
theorem execCreate_sound (cand : BitVec 2) (ctx : B6) (val : W64) (s : State) :
    Sound (False) (Memory.wf s.mem = true) (execCreate cand ctx val s) := fun hm => by simp [hm]
theorem execDestroy_sound (cand : BitVec 2) (ctx : B6) (val : W64) (s : State) :
    Sound (False) (Memory.wf s.mem = true) (execDestroy cand ctx val s) := fun hm => by simp [hm]
theorem execCtxUnparkAll_sound (cand : BitVec 2) (ctx : B6) (s : State) :
    Sound (False) (Memory.wf s.mem = true) (execCtxUnparkAll cand ctx s) := fun hm => by simp [hm]
theorem execCtxPreemptWrite_sound (cand : BitVec 2) (ctx : B6) (val : W64) (s : State) :
    Sound (False) (Memory.wf s.mem = true) (execCtxPreemptWrite cand ctx val s) := fun hm => by simp [hm]
theorem execCtxResumeWrite_sound (cand : BitVec 2) (ctx : B6) (val : W64) (s : State) :
    Sound (False) (Memory.wf s.mem = true) (execCtxResumeWrite cand ctx val s) := fun hm => by simp [hm]
theorem execDispCancelWrite_sound (cand : BitVec 2) (ctx : B6) (val : W64) (s : State) :
    Sound (False) (Memory.wf s.mem = true) (execDispCancelWrite cand ctx val s) := fun hm => by simp [hm]
theorem execCtxDiescrWrite_sound (cand : BitVec 2) (die : BitVec 3) (ctx : B6) (val : W64) (s : State) :
    Sound (False) (Memory.wf s.mem = true) (execCtxDiescrWrite cand die ctx val s) := fun hm => by simp [hm]
theorem execLinkCtlRetrain_sound (cand : BitVec 2) (lk : LinkId) (s : State) :
    Sound (False) (Memory.wf s.mem = true) (execLinkCtlRetrain cand lk s) := fun hm => by simp [hm]
theorem execLinkCtlClrcnt_sound (cand : BitVec 2) (lk : LinkId) (s : State) :
    Sound (False) (Memory.wf s.mem = true) (execLinkCtlClrcnt cand lk s) := fun hm => by simp [hm]
theorem execTimeCtlApply_sound (cand : BitVec 2) (sock : BitVec 5) (s : State) :
    Sound (False) (Memory.wf s.mem = true) (execTimeCtlApply cand sock s) := fun hm => by simp [hm]
theorem execOpcapWrite_sound (cand : BitVec 2) (die : BitVec 3) (val : W64) (s : State) :
    Sound (False) (Memory.wf s.mem = true) (execOpcapWrite cand die val s) := fun hm => by simp [hm]
theorem execPwrPkgcapWrite_sound (cand : BitVec 2) (val : W64) (s : State) :
    Sound (False) (Memory.wf s.mem = true) (execPwrPkgcapWrite cand val s) := fun hm => by simp [hm]
theorem execEvqHeadWrite_sound (cand : BitVec 2) (val : W64) (s : State) :
    Sound (False) (Memory.wf s.mem = true) (execEvqHeadWrite cand val s) := fun hm => by simp [hm]
theorem execEvqLogackWrite_sound (cand : BitVec 2) (sock : BitVec 5) (val : W64) (s : State) :
    Sound (False) (Memory.wf s.mem = true) (execEvqLogackWrite cand sock val s) := fun hm => by simp [hm]
theorem execCrewScrchkClrlog_sound (cand : BitVec 2) (c : CrewRef) (s : State) :
    Sound (False) (Memory.wf s.mem = true) (execCrewScrchkClrlog cand c s) := fun hm => by simp [hm]
theorem mgmt_sound (s : State) (m : MgmtMsg) : Sound (False) (Memory.wf s.mem = true) (s.mgmt m) := fun hm => by simp [hm]
theorem execMgmtRegisterRead_sound (msg : MgmtMsg) (s : State) :
    Sound (False) (Memory.wf s.mem = true) (execMgmtRegisterRead msg s) := fun hm => by simp [hm]
theorem execMgmtRegisterWrite_sound (msg : MgmtMsg) (s : State) :
    Sound (False) (Memory.wf s.mem = true) (execMgmtRegisterWrite msg s) := fun hm => by simp [hm]
theorem execMgmtBlockWrite_sound (msg : MgmtMsg) (s : State) :
    Sound (False) (Memory.wf s.mem = true) (execMgmtBlockWrite msg s) := fun hm => by simp [hm]
theorem execFirmwareStage_sound (msg : MgmtMsg) (s : State) :
    Sound (False) (Memory.wf s.mem = true) (execFirmwareStage msg s) := fun hm => by simp [hm]
theorem execFirmwareCommit_sound (msg : MgmtMsg) (s : State) :
    Sound (False) (Memory.wf s.mem = true) (execFirmwareCommit msg s) := fun hm => by simp [hm]
theorem execCrread_sound (h : PktHdr) (off : W64) (s : State) :
    Sound (False) (Memory.wf s.mem = true) (execCrread h off s) := fun hm => by simp [hm]
theorem execCrwrite_sound (h : PktHdr) (off val : W64) (s : State) : Sound (False) (Memory.wf s.mem = true) (execCrwrite h off val s) := by
  unfold execCrwrite
  split <;> intro hm <;> simp [hm]
theorem execCrreply_sound (h : PktHdr) (status : Byte) (val : W64) (s : State) :
    Sound (False) (Memory.wf s.mem = true) (execCrreply h status val s) := fun hm => hm
theorem execEvent_sound (_h : PktHdr) (record : List Byte) (s : State) :
    Sound (False) (Memory.wf s.mem = true) (execEvent _h record s) := fun hm => by simp [hm]

end Sys2Proof.Machine
end

section
/-!
Every step answers soundly: what an instruction or an event does, by its arm, and what the agenda's turn does before and around it.
-/
namespace Sys2Proof

/-! ## What only a front context fetches -/

theorem checkFields_band {r : Raw} {fm : Form} {e : Ext} (h : checkFields false r fm e = none) : isFrontOnly r.opc.toNat = false := by
  unfold checkFields at h
  simp only [Bool.false_eq_true, if_false] at h
  split_ifs at h with hreserved hkinds hvalues
  simp only [Bool.not_eq_true', Bool.not_eq_false, Bool.and_eq_true] at hvalues
  simpa using hvalues.1.2

theorem checkRaw_band {r : Raw} {fm : Form} (h : checkRaw false r = .ok fm) : isFrontOnly r.opc.toNat = false := by
  unfold checkRaw at h
  split at h
  · cases h
  · split at h
    · cases h
    · split_ifs at h
      split at h
      · cases h
      · next hf => exact checkFields_band hf

end Sys2Proof

namespace Sys2Proof.Machine

theorem floop_front {front : Bool} {c : Code} (h : (Instr.floop c).encodable front = true) : front = true := by
  cases front with
  | true => rfl
  | false =>
    simp only [Instr.encodable, Instr.code, Bool.and_eq_true] at h
    obtain ⟨⟨-, hacc⟩, -⟩ := h
    exact absurd (checkRaw_band (Code.accepted_iff.1 hacc)) (by simp [Code.toRaw, isFrontOnly])

/-! ## Instructions and events -/

/-- Where an instruction may find no thread: it is no event, and its thread does not run, or cannot fetch it. -/
def Stuck (i : Instr) (s : State) : Prop := i.code ≠ none ∧ ¬ (s.Ready ∧ i.encodable s.cur.band.isNone = true)

theorem stuck_of {i : Instr} {s : State} {x : Nat × Code} (hi : i.code = some x) (h : ¬ s.Ready) : Stuck i s :=
  ⟨by simp [hi], fun hr => h hr.1⟩

/-- `FLOOP` is fetched by a front context only. -/
theorem stuck_floop (c : Code) (s : State) (h : ¬ (s.Ready ∧ s.cur.band = none)) : Stuck (.floop c) s := by
  refine ⟨by simp [Instr.code], fun hr => h ⟨hr.1, ?_⟩⟩
  exact Option.isNone_iff_eq_none.1 (floop_front hr.2)

theorem exec_sound (i : Instr) (s : State) : Sound (Stuck i s) (Memory.wf s.mem = true) (exec i s) := by
  cases i with
  | bootCtlCold cand => exact (execBootCtlCold_sound cand s).mono False.elim id
  | bootCtlWarm cand => exact (execBootCtlWarm_sound cand s).mono False.elim id
  | claim cand => exact (execClaim_sound cand s).mono False.elim id
  | handoverRelease cand => exact (execHandoverRelease_sound cand s).mono False.elim id
  | handoverAccept cand => exact (execHandoverAccept_sound cand s).mono False.elim id
  | attestationRequest cand => exact (execAttestationRequest_sound cand s).mono False.elim id
  | attestationDoneWrite cand k => exact (execAttestationDoneWrite_sound cand k s).mono False.elim id
  | mgmtRegisterRead msg => exact (execMgmtRegisterRead_sound msg s).mono False.elim id
  | mgmtRegisterWrite msg => exact (execMgmtRegisterWrite_sound msg s).mono False.elim id
  | mgmtBlockWrite msg => exact (execMgmtBlockWrite_sound msg s).mono False.elim id
  | firmwareStage msg => exact (execFirmwareStage_sound msg s).mono False.elim id
  | firmwareCommit msg => exact (execFirmwareCommit_sound msg s).mono False.elim id
  | crread h off => exact (execCrread_sound h off s).mono False.elim id
  | crwrite h off val => exact (execCrwrite_sound h off val s).mono False.elim id
  | crreply h status val => exact (execCrreply_sound h status val s).mono False.elim id
  | controlRegisterWrite cand sock off val => exact (execControlRegisterWrite_sound cand sock off val s).mono False.elim id
  | create cand ctx val => exact (execCreate_sound cand ctx val s).mono False.elim id
  | destroy cand ctx val => exact (execDestroy_sound cand ctx val s).mono False.elim id
  | ctxUnparkAll cand ctx => exact (execCtxUnparkAll_sound cand ctx s).mono False.elim id
  | ctxPreemptWrite cand ctx val => exact (execCtxPreemptWrite_sound cand ctx val s).mono False.elim id
  | ctxResumeWrite cand ctx val => exact (execCtxResumeWrite_sound cand ctx val s).mono False.elim id
  | dispCancelWrite cand ctx val => exact (execDispCancelWrite_sound cand ctx val s).mono False.elim id
  | ctxDiescrWrite cand die ctx val => exact (execCtxDiescrWrite_sound cand die ctx val s).mono False.elim id
  | linkCtlRetrain cand lk => exact (execLinkCtlRetrain_sound cand lk s).mono False.elim id
  | linkCtlClrcnt cand lk => exact (execLinkCtlClrcnt_sound cand lk s).mono False.elim id
  | timeCtlApply cand sock => exact (execTimeCtlApply_sound cand sock s).mono False.elim id
  | opcapWrite cand die val => exact (execOpcapWrite_sound cand die val s).mono False.elim id
  | pwrPkgcapWrite cand val => exact (execPwrPkgcapWrite_sound cand val s).mono False.elim id
  | powerWindow avgW => exact (execPowerWindow_sound avgW s).mono False.elim id
  | thermalSample die temp => exact (execThermalSample_sound die temp s).mono False.elim id
  | passengerFatalError sock cause detail => exact (execPassengerFatalError_sound sock cause detail s).mono False.elim id
  | evqHeadWrite cand val => exact (execEvqHeadWrite_sound cand val s).mono False.elim id
  | evqLogackWrite cand sock val => exact (execEvqLogackWrite_sound cand sock val s).mono False.elim id
  | flitCloseTimeout lk => exact (execFlitCloseTimeout_sound lk s).mono False.elim id
  | dataFlitReceive lk flit => exact (execDataFlitReceive_sound lk flit s).mono False.elim id
  | controlFlitReceive lk flit => exact (execControlFlitReceive_sound lk flit s).mono False.elim id
  | ackTimeout lk => exact (execAckTimeout_sound lk s).mono False.elim id
  | replayTimeout lk => exact (execReplayTimeout_sound lk s).mono False.elim id
  | nakRepeat lk => exact (execNakRepeat_sound lk s).mono False.elim id
  | retrainDone lk fail => exact (execRetrainDone_sound lk fail s).mono False.elim id
  | retrainFailed lk fail => exact (execRetrainFailed_sound lk fail s).mono False.elim id
  | podPacketArrival port p => exact (execPodPacketArrival_sound port p s).mono False.elim id
  | read h b => exact (execRead_sound h b s).mono False.elim id
  | write h b => exact (execWrite_sound h b s).mono False.elim id
  | atomic h b => exact (execAtomic_sound h b s).mono False.elim id
  | coll h b => exact (execColl_sound h b s).mono False.elim id
  | collres h b => exact (execCollres_sound h b s).mono False.elim id
  | data h status bytes => exact (execData_sound h status bytes s).mono False.elim id
  | ack h status => exact (execAck_sound h status s).mono False.elim id
  | old h status val => exact (execOld_sound h status val s).mono False.elim id
  | deferredFault acc => exact (execDeferredFault_sound acc s).mono False.elim id
  | permreq h va ts => exact (execPermreq_sound h va ts s).mono False.elim id
  | permreply h b => exact (execPermreply_sound h b s).mono False.elim id
  | ready h page sz => exact (execReady_sound h page sz s).mono False.elim id
  | unpark h => exact (execUnpark_sound h s).mono False.elim id
  | launchTokenWrite addr bytes => exact (execLaunchTokenWrite_sound addr bytes s).mono False.elim id
  | token h q tok => exact (execToken_sound h q tok s).mono False.elim id
  | tokenForwardTimeout q => exact (execTokenForwardTimeout_sound q s).mono False.elim id
  | notice h g q cw lo => exact (execNotice_sound h g q cw lo s).mono False.elim id
  | recpart h g hi => exact (execRecpart_sound h g hi s).mono False.elim id
  | podseq h n => exact (execPodseq_sound h n s).mono False.elim id
  | health h mask => exact (execHealth_sound h mask s).mono False.elim id
  | rangereq h g => exact (execRangereq_sound h g s).mono False.elim id
  | mirrorack h g first => exact (execMirrorack_sound h g first s).mono False.elim id
  | range h b => exact (execRange_sound h b s).mono False.elim id
  | retire h b => exact (execRetire_sound h b s).mono False.elim id
  | sweep h g n => exact (execSweep_sound h g n s).mono False.elim id
  | sweepreply h b => exact (execSweepreply_sound h b s).mono False.elim id
  | cancel h g => exact (execCancel_sound h g s).mono False.elim id
  | barrier h b => exact (execBarrier_sound h b s).mono False.elim id
  | stealRound die g => exact (execStealRound_sound die g s).mono False.elim id
  | stealRoundWaitExpiry die g => exact (execStealRoundWaitExpiry_sound die g s).mono False.elim id
  | stealreq h g => exact (execStealreq_sound h g s).mono False.elim id
  | grant h g k => exact (execGrant_sound h g k s).mono False.elim id
  | stealrec h g pos record => exact (execStealrec_sound h g pos record s).mono False.elim id
  | refuse h g => exact (execRefuse_sound h g s).mono False.elim id
  | stealack h g k => exact (execStealack_sound h g k s).mono False.elim id
  | enqArrival h b => exact (execEnqArrival_sound h b s).mono False.elim id
  | enqack h r g => exact (execEnqack_sound h r g s).mono False.elim id
  | credit h r g => exact (execCredit_sound h r g s).mono False.elim id
  | bounce h b => exact (execBounce_sound h b s).mono False.elim id
  | execWrite c => exact (execExecWrite_sound c s).mono (stuck_of rfl) id
  | nestWrite c => exact (execNestWrite_sound c s).mono (stuck_of rfl) id
  | crewMergeWrite c => exact (execCrewMergeWrite_sound c s).mono (stuck_of rfl) id
  | crewScrchkClrlog cand c => exact (execCrewScrchkClrlog_sound cand c s).mono False.elim id
  | nop c => exact (execNop_sound c s).mono (stuck_of rfl) id
  | iadd c => exact (execIadd_sound c s).mono (stuck_of rfl) id
  | isub c => exact (execIsub_sound c s).mono (stuck_of rfl) id
  | iadds c => exact (execIadds_sound c s).mono (stuck_of rfl) id
  | isubs c => exact (execIsubs_sound c s).mono (stuck_of rfl) id
  | imul c => exact (execImul_sound c s).mono (stuck_of rfl) id
  | imulh c => exact (execImulh_sound c s).mono (stuck_of rfl) id
  | imad c => exact (execImad_sound c s).mono (stuck_of rfl) id
  | imulq c => exact (execImulq_sound c s).mono (stuck_of rfl) id
  | iabs c => exact (execIabs_sound c s).mono (stuck_of rfl) id
  | imin c => exact (execImin_sound c s).mono (stuck_of rfl) id
  | imax c => exact (execImax_sound c s).mono (stuck_of rfl) id
  | ineg c => exact (execIneg_sound c s).mono (stuck_of rfl) id
  | ishl c => exact (execIshl_sound c s).mono (stuck_of rfl) id
  | ishr c => exact (execIshr_sound c s).mono (stuck_of rfl) id
  | ishra c => exact (execIshra_sound c s).mono (stuck_of rfl) id
  | andb c => exact (execAndb_sound c s).mono (stuck_of rfl) id
  | orb c => exact (execOrb_sound c s).mono (stuck_of rfl) id
  | xorb c => exact (execXorb_sound c s).mono (stuck_of rfl) id
  | notb c => exact (execNotb_sound c s).mono (stuck_of rfl) id
  | andn c => exact (execAndn_sound c s).mono (stuck_of rfl) id
  | bsel c => exact (execBsel_sound c s).mono (stuck_of rfl) id
  | popc c => exact (execPopc_sound c s).mono (stuck_of rfl) id
  | clz c => exact (execClz_sound c s).mono (stuck_of rfl) id
  | ctz c => exact (execCtz_sound c s).mono (stuck_of rfl) id
  | brev c => exact (execBrev_sound c s).mono (stuck_of rfl) id
  | bfx c => exact (execBfx_sound c s).mono (stuck_of rfl) id
  | bfi c => exact (execBfi_sound c s).mono (stuck_of rfl) id
  | isetp c => exact (execIsetp_sound c s).mono (stuck_of rfl) id
  | mov c => exact (execMov_sound c s).mono (stuck_of rfl) id
  | movi c => exact (execMovi_sound c s).mono (stuck_of rfl) id
  | sel c => exact (execSel_sound c s).mono (stuck_of rfl) id
  | cvti c => exact (execCvti_sound c s).mono (stuck_of rfl) id
  | lea c => exact (execLea_sound c s).mono (stuck_of rfl) id
  | setix c => exact (execSetix_sound c s).mono (stuck_of rfl) id
  | bra c => exact (execBra_sound c s).mono (stuck_of rfl) id
  | brx c => exact (execBrx_sound c s).mono (stuck_of rfl) id
  | call c => exact (execCall_sound c s).mono (stuck_of rfl) id
  | ret c => exact (execRet_sound c s).mono (stuck_of rfl) id
  | exit c => exact (execExit_sound c s).mono (stuck_of rfl) id
  | ifb c => exact (execIfb_sound c s).mono (stuck_of rfl) id
  | elseb c => exact (execElseb_sound c s).mono (stuck_of rfl) id
  | endif c => exact (execEndif_sound c s).mono (stuck_of rfl) id
  | if3 c => exact (execIf3_sound c s).mono (stuck_of rfl) id
  | elsef c => exact (execElsef_sound c s).mono (stuck_of rfl) id
  | elseu c => exact (execElseu_sound c s).mono (stuck_of rfl) id
  | endif3 c => exact (execEndif3_sound c s).mono (stuck_of rfl) id
  | loopb c => exact (execLoopb_sound c s).mono (stuck_of rfl) id
  | brk c => exact (execBrk_sound c s).mono (stuck_of rfl) id
  | cont c => exact (execCont_sound c s).mono (stuck_of rfl) id
  | endloop c => exact (execEndloop_sound c s).mono (stuck_of rfl) id
  | mrg c => exact (execMrg_sound c s).mono (stuck_of rfl) id
  | rgn c => exact (execRgn_sound c s).mono (stuck_of rfl) id
  | pand c => exact (execPand_sound c s).mono (stuck_of rfl) id
  | por c => exact (execPor_sound c s).mono (stuck_of rfl) id
  | pxor c => exact (execPxor_sound c s).mono (stuck_of rfl) id
  | pnot c => exact (execPnot_sound c s).mono (stuck_of rfl) id
  | pdec c => exact (execPdec_sound c s).mono (stuck_of rfl) id
  | pmov c => exact (execPmov_sound c s).mono (stuck_of rfl) id
  | dqpop c => exact (execDqpop_sound c s).mono (stuck_of rfl) id
  | dqbr c => exact (execDqbr_sound c s).mono (stuck_of rfl) id
  | shfl c => exact (execShfl_sound c s).mono (stuck_of rfl) id
  | vote c => exact (execVote_sound c s).mono (stuck_of rfl) id
  | redi c => exact (execRedi_sound c s).mono (stuck_of rfl) id
  | scani c => exact (execScani_sound c s).mono (stuck_of rfl) id
  | rdlane c => exact (execRdlane_sound c s).mono (stuck_of rfl) id
  | wrlane c => exact (execWrlane_sound c s).mono (stuck_of rfl) id
  | sop c => exact (execSop_sound c s).mono (stuck_of rfl) id
  | smovi c => exact (execSmovi_sound c s).mono (stuck_of rfl) id
  | sbr c => exact (execSbr_sound c s).mono (stuck_of rfl) id
  | floop c => exact (execFloop_sound c s).mono (stuck_floop c s) id
  | dqpush c => exact (execDqpush_sound c s).mono (stuck_of rfl) id
  | fend c => exact (execFend_sound c s).mono (stuck_of rfl) id
  | fadd c => exact (execFadd_sound c s).mono (stuck_of rfl) id
  | fsub c => exact (execFsub_sound c s).mono (stuck_of rfl) id
  | fmul c => exact (execFmul_sound c s).mono (stuck_of rfl) id
  | ffma c => exact (execFfma_sound c s).mono (stuck_of rfl) id
  | fsqr c => exact (execFsqr_sound c s).mono (stuck_of rfl) id
  | fhull c => exact (execFhull_sound c s).mono (stuck_of rfl) id
  | fisect c => exact (execFisect_sound c s).mono (stuck_of rfl) id
  | flb c => exact (execFlb_sound c s).mono (stuck_of rfl) id
  | fub c => exact (execFub_sound c s).mono (stuck_of rfl) id
  | fmid c => exact (execFmid_sound c s).mono (stuck_of rfl) id
  | frad c => exact (execFrad_sound c s).mono (stuck_of rfl) id
  | fwid c => exact (execFwid_sound c s).mono (stuck_of rfl) id
  | fmag c => exact (execFmag_sound c s).mono (stuck_of rfl) id
  | fmig c => exact (execFmig_sound c s).mono (stuck_of rfl) id
  | fmk c => exact (execFmk_sound c s).mono (stuck_of rfl) id
  | fbis c => exact (execFbis_sound c s).mono (stuck_of rfl) id
  | fcmp c => exact (execFcmp_sound c s).mono (stuck_of rfl) id
  | fneg c => exact (execFneg_sound c s).mono (stuck_of rfl) id
  | fabs c => exact (execFabs_sound c s).mono (stuck_of rfl) id
  | fmin c => exact (execFmin_sound c s).mono (stuck_of rfl) id
  | fmax c => exact (execFmax_sound c s).mono (stuck_of rfl) id
  | fdiv c => exact (execFdiv_sound c s).mono (stuck_of rfl) id
  | fdivp c => exact (execFdivp_sound c s).mono (stuck_of rfl) id
  | fsqrt c => exact (execFsqrt_sound c s).mono (stuck_of rfl) id
  | frcp c => exact (execFrcp_sound c s).mono (stuck_of rfl) id
  | frsqrt c => exact (execFrsqrt_sound c s).mono (stuck_of rfl) id
  | fexp2 c => exact (execFexp2_sound c s).mono (stuck_of rfl) id
  | flog2 c => exact (execFlog2_sound c s).mono (stuck_of rfl) id
  | fsinpi c => exact (execFsinpi_sound c s).mono (stuck_of rfl) id
  | fcospi c => exact (execFcospi_sound c s).mono (stuck_of rfl) id
  | ftanh c => exact (execFtanh_sound c s).mono (stuck_of rfl) id
  | fpown c => exact (execFpown_sound c s).mono (stuck_of rfl) id
  | fcvt c => exact (execFcvt_sound c s).mono (stuck_of rfl) id
  | fcoll c => exact (execFcoll_sound c s).mono (stuck_of rfl) id
  | fq8 c => exact (execFq8_sound c s).mono (stuck_of rfl) id
  | ld c => exact (execLd_sound c s).mono (stuck_of rfl) id
  | st c => exact (execSt_sound c s).mono (stuck_of rfl) id
  | atom c => exact (execAtom_sound c s).mono (stuck_of rfl) id
  | cas c => exact (execCas_sound c s).mono (stuck_of rfl) id
  | atomFadd c => exact (execAtomFadd_sound c s).mono (stuck_of rfl) id
  | atomFmaxa c => exact (execAtomFmaxa_sound c s).mono (stuck_of rfl) id
  | amaxswap c => exact (execAmaxswap_sound c s).mono (stuck_of rfl) id
  | fence c => exact (execFence_sound c s).mono (stuck_of rfl) id
  | fenceDrain c => exact (execFenceDrain_sound c s).mono (stuck_of rfl) id
  | bar c => exact (execBar_sound c s).mono (stuck_of rfl) id
  | arrive c => exact (execArrive_sound c s).mono (stuck_of rfl) id
  | await c => exact (execAwait_sound c s).mono (stuck_of rfl) id
  | rmcast c => exact (execRmcast_sound c s).mono (stuck_of rfl) id
  | rred c => exact (execRred_sound c s).mono (stuck_of rfl) id
  | cpy c => exact (execCpy_sound c s).mono (stuck_of rfl) id
  | cpyg c => exact (execCpyg_sound c s).mono (stuck_of rfl) id
  | cpys c => exact (execCpys_sound c s).mono (stuck_of rfl) id
  | cpyAdd c => exact (execCpyAdd_sound c s).mono (stuck_of rfl) id
  | qfence c => exact (execQfence_sound c s).mono (stuck_of rfl) id
  | emit c => exact (execEmit_sound c s).mono (stuck_of rfl) id
  | split c => exact (execSplit_sound c s).mono (stuck_of rfl) id
  | tend c => exact (execTend_sound c s).mono (stuck_of rfl) id
  | enq c => exact (execEnq_sound c s).mono (stuck_of rfl) id
  | enqA c => exact (execEnqA_sound c s).mono (stuck_of rfl) id
  | launch c => exact (execLaunch_sound c s).mono (stuck_of rfl) id
  | gcancel c => exact (execGcancel_sound c s).mono (stuck_of rfl) id
  | gstatus c => exact (execGstatus_sound c s).mono (stuck_of rfl) id
  | jpass c => exact (execJpass_sound c s).mono (stuck_of rfl) id
  | jbit c => exact (execJbit_sound c s).mono (stuck_of rfl) id
  | jstream c => exact (execJstream_sound c s).mono (stuck_of rfl) id
  | jbatch c => exact (execJbatch_sound c s).mono (stuck_of rfl) id
  | jwait c => exact (execJwait_sound c s).mono (stuck_of rfl) id
  | jdrain c => exact (execJdrain_sound c s).mono (stuck_of rfl) id
  | jcfg c => exact (execJcfg_sound c s).mono (stuck_of rfl) id
  | jclr c => exact (execJclr_sound c s).mono (stuck_of rfl) id
  | jqry c => exact (execJqry_sound c s).mono (stuck_of rfl) id
  | jsave c => exact (execJsave_sound c s).mono (stuck_of rfl) id
  | jload c => exact (execJload_sound c s).mono (stuck_of rfl) id
  | csrr c => exact (execCsrr_sound c s).mono (stuck_of rfl) id
  | csrw c => exact (execCsrw_sound c s).mono (stuck_of rfl) id
  | bkpt c => exact (execBkpt_sound c s).mono (stuck_of rfl) id
  | strap c => exact (execStrap_sound c s).mono (stuck_of rfl) id
  | tretResume c => exact (execTretResume_sound c s).mono (stuck_of rfl) id
  | tretSkip c => exact (execTretSkip_sound c s).mono (stuck_of rfl) id
  | tretWriteSkip c => exact (execTretWriteSkip_sound c s).mono (stuck_of rfl) id
  | tretRetryRegion c => exact (execTretRetryRegion_sound c s).mono (stuck_of rfl) id
  | tretKillLanes c => exact (execTretKillLanes_sound c s).mono (stuck_of rfl) id
  | tretKillBand c => exact (execTretKillBand_sound c s).mono (stuck_of rfl) id
  | event h record => exact (execEvent_sound h record s).mono False.elim id
  | startStepComplete ok => exact (execStartStepComplete_sound ok s).mono False.elim id
  | powerOn => exact (execPowerOn_sound s).mono False.elim id
  | startStepTimeout => exact (execStartStepTimeout_sound s).mono False.elim id
  | claimWindowClose => exact (execClaimWindowClose_sound s).mono False.elim id
  | handoverTimeout => exact (execHandoverTimeout_sound s).mono False.elim id
  | attestationReportDone => exact (execAttestationReportDone_sound s).mono False.elim id
  | tokenTake => exact (execTokenTake_sound s).mono False.elim id
  | flashWriteDone => exact (execFlashWriteDone_sound s).mono False.elim id
  | palLeaseExpiry => exact (execPalLeaseExpiry_sound s).mono False.elim id
  | crewRetire => exact (execCrewRetire_sound s).mono False.elim id
  | bandFormation => exact (execBandFormation_sound s).mono False.elim id
  | flushAgeExpiry => exact (execFlushAgeExpiry_sound s).mono False.elim id
  | take => exact (execTake_sound s).mono False.elim id
  | activeSetReplacement => exact (execActiveSetReplacement_sound s).mono False.elim id
  | mrgWaitExpiry => exact (execMrgWaitExpiry_sound s).mono False.elim id
  | multicastWindowClose => exact (execMulticastWindowClose_sound s).mono False.elim id
  | trapEntry => exact (execTrapEntry_sound s).mono False.elim id
  | spmaxOverrun => exact (execSpmaxOverrun_sound s).mono False.elim id
  | crewSave => exact (execCrewSave_sound s).mono False.elim id
  | quarterOperation => exact (execQuarterOperation_sound s).mono False.elim id
  | bitmapStep => exact (execBitmapStep_sound s).mono False.elim id
  | streamJoin => exact (execStreamJoin_sound s).mono False.elim id
  | drainOperation => exact (execDrainOperation_sound s).mono False.elim id
  | drainComplete => exact (execDrainComplete_sound s).mono False.elim id
  | placementRound => exact (execPlacementRound_sound s).mono False.elim id
  | spillPageReturn => exact (execSpillPageReturn_sound s).mono False.elim id
  | opPointChangeDone => exact (execOpPointChangeDone_sound s).mono False.elim id
  | map => exact (execMap_sound s).mono False.elim id
  | unmap => exact (execUnmap_sound s).mono False.elim id
  | unmapWaitExpiry => exact (execUnmapWaitExpiry_sound s).mono False.elim id
  | setp => exact (execSetp_sound s).mono False.elim id
  | copyCommandStart => exact (execCopyCommandStart_sound s).mono False.elim id
  | copyCommandComplete => exact (execCopyCommandComplete_sound s).mono False.elim id
  | batchComplete => exact (execBatchComplete_sound s).mono False.elim id
  | cpyCtlReset => exact (execCpyCtlReset_sound s).mono False.elim id
  | cpyCtlClrerr => exact (execCpyCtlClrerr_sound s).mono False.elim id

/-- Settles O58: no arm refuses, an event never faults, and an instruction does only without a thread, a crew or a grid. -/
theorem nothingRefused : Obligations.NothingRefused := by
  have hnext : ∀ {i : Instr} {s : State}, ¬ Stuck i s → ∃ t, exec i s = .next t := by
    intro i s hok
    have h := exec_sound i s
    cases ho : exec i s with
    | next t => exact ⟨t, rfl⟩
    | fault r => rw [ho] at h; exact absurd h hok
    | refused r => rw [ho] at h; exact h.elim
  unfold Obligations.NothingRefused
  refine ⟨fun i s r ho => ?_, fun i s hi => hnext fun h => h.1 hi, fun i s b cw henc hb hcw hrun hgrid => hnext fun h => ?_⟩
  · have h := exec_sound i s
    rw [ho] at h
    exact h
  · exact h.2 ⟨⟨cw, b, hcw, hb, hrun, hgrid⟩, henc⟩

/-! ## Steps -/

theorem exec_wf {i : Instr} {s t : State} (h : exec i s = .next t) (hm : Memory.wf s.mem = true) : Memory.wf t.mem = true := by
  have hs := exec_sound i s
  rw [h] at hs
  exact hs hm

theorem State.issue_wf {s t : State} {th : ThreadRef} {i : Instr} (h : s.issue th i = .next t) (hm : Memory.wf s.mem = true) :
    Memory.wf t.mem = true := by
  unfold State.issue at h
  split at h
  · next he =>
    split at h <;> cases h
    · simpa using hm
    · exact exec_wf he hm
  · next he =>
    split at h <;> cases h
    · exact hm
    · exact exec_wf he hm
  · next => exact exec_wf h hm

/-- Settles O60: what the turn of the agenda does, and the instruction or event that it then runs, keep the form. -/
theorem canonicalMemoryKept : Obligations.CanonicalMemoryKept := by
  unfold Obligations.CanonicalMemoryKept KeptByStep State.MemCanonical
  intro s t hm h
  unfold step State.runTurn at h
  have hturn : Memory.wf (s.nextTurn.2.turn s.nextTurn.1).1.mem = true := State.turn_wf _ _ (by simpa using hm)
  split at h
  · next he => cases h; rw [he] at hturn; exact hturn
  · next he _ => rw [he] at hturn; exact State.issue_wf h hturn
  · next he _ => rw [he] at hturn; exact exec_wf h hturn

end Sys2Proof.Machine
end

section
/-!
What the integer instructions answer, chapter 13: one lemma for those that give each acting lane a function of its three sources, and the moves
and comparisons, which write more than an integer.
-/
namespace Sys2Proof.Machine

/-! ## Integer arithmetic and bits, R316 to R320 and R324 -/

/-- An instruction of the integer pipe gives each acting lane its function of the three sources in the type of `TYPE`. -/
theorem IntEffect.of_alu {opc : Nat} {mk : Code → Instr} {v : Env → Nat → Int} (f : Code → ITy → Int → Int → Int → Int)
    (hexec : ∀ c s, exec (mk c) s = aluInstr opc c s (f c)) (hv : ∀ e l, f e.c e.ity (e.intA l) (e.intB l) (e.intC l) = v e l) :
    IntEffect opc mk v := by
  intro c s e h
  obtain rfl := h.code
  obtain rfl : (fun e l => f e.c e.ity (e.intA l) (e.intB l) (e.intC l)) = v := funext₂ hv
  rw [hexec, aluInstr, runInstr_of h]
  exact Env.result_answers h.1 (.refl s) _ rfl

/-- Settles O1: each instruction of Table 13.1 is its function of the sources in every acting lane. -/
theorem integerArithmetic : Obligations.IntegerArithmetic := by
  unfold Obligations.IntegerArithmetic
  refine ⟨.of_alu (fun _ t a b _ => t.wrap (a + b)) (fun _ _ => rfl) fun _ _ => rfl,
    .of_alu (fun _ t a b _ => t.wrap (a - b)) (fun _ _ => rfl) fun _ _ => rfl,
    .of_alu (fun _ t a b _ => t.sat (a + b)) (fun _ _ => rfl) fun _ _ => rfl,
    .of_alu (fun _ t a b _ => t.sat (a - b)) (fun _ _ => rfl) fun _ _ => rfl,
    .of_alu (fun _ t a b _ => t.wrap (a * b)) (fun _ _ => rfl) fun _ _ => rfl,
    .of_alu (fun _ t a b _ => t.wrap (a * b / 2 ^ t.bits)) (fun _ _ => rfl) fun _ _ => rfl,
    .of_alu (fun _ t a b d => t.wrap (a * b + d)) (fun _ _ => rfl) fun _ _ => rfl,
    .of_alu (fun c t a b _ => t.sat (roundShift (a * b) (c.mods.toNat % 64) (c.rmode == 1))) (fun _ _ => rfl) fun _ _ => rfl,
    .of_alu (fun _ t a _ _ => iabsOp t a) (fun _ _ => rfl) fun _ _ => rfl,
    .of_alu (fun _ _ a b _ => if a ≤ b then a else b) (fun _ _ => rfl) fun _ _ => (min_def _ _).symm,
    .of_alu (fun _ _ a b _ => if a ≤ b then b else a) (fun _ _ => rfl) fun _ _ => (max_def _ _).symm,
    .of_alu (fun _ t a _ _ => t.wrap (-a)) (fun _ _ => rfl) fun _ _ => rfl,
    .of_alu (fun c t a b _ => t.wrap (a + b * 2 ^ (c.mods.toNat % 8))) (fun _ _ => rfl) fun _ _ => rfl⟩

/-- Bit i of a field, as the model reads it from the field's number. -/
theorem getLsbD_iff_div {w : Nat} (x : BitVec w) (i : Nat) : x.getLsbD i = true ↔ x.toNat / 2 ^ i % 2 = 1 := by
  rw [BitVec.getLsbD, Nat.testBit_eq_decide_div_mod_eq, decide_eq_true_iff]

theorem exec_cvti (c : Code) (s : State) : exec (.cvti c) s = execCvti c s := rfl

/-- Settles O2: the operations on the w bits of the sources, and the conversion between integer types. -/
theorem integerBits : Obligations.IntegerBits := by
  unfold Obligations.IntegerBits
  refine ⟨.of_alu (fun _ t a b _ => ishlOp t a b) (fun _ _ => rfl) fun _ _ => rfl,
    .of_alu (fun _ t a b _ => ishrOp t a b) (fun _ _ => rfl) fun _ _ => rfl,
    .of_alu (fun _ t a b _ => ishraOp t a b) (fun _ _ => rfl) fun _ _ => rfl,
    .of_alu (fun _ t a b _ => bitsAnd t a b) (fun _ _ => rfl) fun _ _ => rfl,
    .of_alu (fun _ t a b _ => bitsOr t a b) (fun _ _ => rfl) fun _ _ => rfl,
    .of_alu (fun _ t a b _ => bitsXor t a b) (fun _ _ => rfl) fun _ _ => rfl,
    .of_alu (fun _ t a _ _ => bitsNot t a) (fun _ _ => rfl) fun _ _ => rfl,
    .of_alu (fun _ t a b _ => bitsAndn t a b) (fun _ _ => rfl) fun _ _ => rfl,
    .of_alu (fun _ t a b d => bselOp t a b d) (fun _ _ => rfl) fun _ _ => rfl,
    .of_alu (fun _ t a _ _ => t.wrap (popcNat t.bits (t.bitsOf a))) (fun _ _ => rfl) fun _ _ => rfl,
    .of_alu (fun _ t a _ _ => t.wrap (clzNat t.bits (t.bitsOf a))) (fun _ _ => rfl) fun _ _ => rfl,
    .of_alu (fun _ t a _ _ => t.wrap (ctzNat t.bits (t.bitsOf a))) (fun _ _ => rfl) fun _ _ => rfl,
    .of_alu (fun _ t a _ _ => t.wrap (brevNat t.bits (t.bitsOf a))) (fun _ _ => rfl) fun _ _ => rfl,
    .of_alu (fun _ t a b _ => bfxOp t a b) (fun _ _ => rfl) fun _ _ => rfl,
    .of_alu (fun _ t a b d => bfiOp t a b d) (fun _ _ => rfl) fun _ _ => rfl, ?_⟩
  intro c s e h
  obtain rfl := h.code
  rw [exec_cvti, execCvti, runInstr_of h]
  simp only [getLsbD_iff_div]
  exact Env.result_answers h.1 (.refl s) _ rfl

/-! ## Moves, selects and comparisons -/

theorem exec_nop (c : Code) (s : State) : exec (.nop c) s = execNop c s := rfl
theorem exec_isetp (c : Code) (s : State) : exec (.isetp c) s = execIsetp c s := rfl
theorem exec_movi (c : Code) (s : State) : exec (.movi c) s = execMovi c s := rfl
theorem exec_sel (c : Code) (s : State) : exec (.sel c) s = execSel c s := rfl
theorem exec_mov (c : Code) (s : State) : exec (.mov c) s = execMov c s := rfl
theorem exec_setix (c : Code) (s : State) : exec (.setix c) s = execSetix c s := rfl
theorem exec_pmov (c : Code) (s : State) : exec (.pmov c) s = execPmov c s := rfl

/-- What an instruction that ends in one result answers: its meaning with the fields that its environment holds. -/
theorem answers_of_result {opc : Nat} {c : Code} {s : State} {e : Env} {o : Out} {p q : Pend} (h : Issues opc c s e)
    (ho : o = e.result p s) (hp : p = q) (hf : q.flag = e.flag) : Answers e s o q := by
  subst ho hp
  exact Env.result_answers h.1 (.refl s) _ hf

/-- Settles O3: each instruction ends in the one result that its case of the statement names; `NOP` in none. -/
theorem movesAndCompares : Obligations.MovesAndCompares := by
  unfold Obligations.MovesAndCompares
  refine ⟨fun c s e h => ?_, fun c s e h => ?_, fun c s e h => ?_, fun c s e h => ?_, fun c s e h htype => ?_, fun c s e h htype => ?_,
    fun c s e h k hk => ?_, fun c s e h hmode => ?_, fun c s e h hmode => ?_, fun c s e h hmode => ?_⟩ <;> obtain rfl := h.code
  · rw [exec_nop, execNop, runInstr_of h]
    exact Env.finish_goes h.1 (.refl s) e.next e.b
  · rw [exec_isetp, execIsetp, runInstr_of h]
    exact Env.result_answers h.1 (.refl s) _ rfl
  · rw [exec_movi, execMovi, runInstr_of h]
    exact Env.result_answers h.1 (.refl s) _ rfl
  · rw [exec_sel, execSel, runInstr_of h]
    refine answers_of_result h rfl (congrArg (e.intPend e.ity) (List.map_congr_left fun l _ => congrArg (Prod.mk l) ?_)) rfl
    cases hp : e.pred 3 e.c.srcc l <;> simp [hp, Env.intA, Env.intB, Env.ity]
  · rw [exec_mov, execMov, runInstr_of h]
    simp only [htype, if_true]
    exact Env.result_answers h.1 (.refl s) _ rfl
  · rw [exec_mov, execMov, runInstr_of h]
    simp only [Nat.not_le.2 htype, if_false]
    refine answers_of_result h rfl ?_ rfl
    rw [Env.intResult, Env.intPend, List.map_map]
    rfl
  · rw [exec_setix, execSetix, runInstr_of h]
    simp only [hk]
    exact Env.result_answers h.1 (.refl s) _ rfl
  all_goals
    rw [exec_pmov, execPmov, runInstr_of h]
    simp only [hmode]
    exact Env.result_answers h.1 (.refl s) _ rfl

end Sys2Proof.Machine
end

section
/-!
What the interval instructions answer, chapter 14: one lemma for those of the float pipe and one for those of the transcendental and convert
pipe, whose results are functions of their first sources, and the instructions that write more than one result.
-/
namespace Sys2Proof.Machine

/-! ## The sources of an interval instruction -/

@[simp] theorem Env.ivs_status (e : Env) (n l : Nat) : stIf (e.ivs n l).2 stIll = e.illFormed n l := by
  simp only [Env.ivs, Env.illFormed, List.any_map, Function.comp_def]

@[simp] theorem Env.iv_status (e : Env) (l : Nat) : stIf (e.iv 1 l).2 stIll = e.illFormed 1 l := by
  simp [Env.illFormed]

/-- The latency of the float pipe, of Table 7.2, as a condition on the multiplicands. -/
theorem Env.ivLat_eq (e : Env) (n m : Nat) :
    (if (decide (0 < m) && e.ls.any fun l => !((e.ivs n l).1.take m).all signKnown) = true then 6 else 4) + e.modCycles = e.ivLat n m := by
  unfold Env.ivLat
  congr 1
  simp

/-- An instruction of the float pipe gives each acting lane its function of its first n sources. -/
theorem IvEffect.of_ivFixed {opc n m : Nat} {mk : Code → Instr} {r : Env → Nat → Res} (f : Fmt → List Ivl → Res)
    (hexec : ∀ c s, exec (mk c) s = ivFixed opc n m c s f) (hr : ∀ e l, f e.fmt (e.ivs n l).1 = r e l) : IvEffect opc n m mk r := by
  intro c s e h
  obtain rfl := h.code
  obtain rfl : (fun e l => f e.fmt (e.ivs n l).1) = r := funext₂ hr
  rw [hexec, ivFixed, runInstr_of h]
  simp only [Env.ivs_status, Env.ivLat_eq]
  exact Env.result_answers h.1 (Env.occupy_same ..) _ rfl

theorem Env.transOut_answers {opc : Nat} {c : Code} {s : State} {e : Env} (h : Issues opc c s e) (words : Nat) (rs : List (Nat × Res))
    (more : List (Nat × W64)) :
    Answers e s (e.transOut words rs more s) { e.ivOut none words rs with
      writes := (e.ivOut none words rs).writes ++ if e.c.nw then [] else more } :=
  Env.result_answers h.1 (Env.occupy_same ..) _ rfl

theorem Env.transOut_answers_nil {opc : Nat} {c : Code} {s : State} {e : Env} (h : Issues opc c s e) (words : Nat) (rs : List (Nat × Res)) :
    Answers e s (e.transOut words rs [] s) (e.ivOut none words rs) := by
  simpa using Env.transOut_answers h words rs []

theorem Env.transOut_answers_of {opc : Nat} {c : Code} {s : State} {e : Env} (h : Issues opc c s e) {words : Nat} {rs rs' : List (Nat × Res)}
    (hrs : rs = rs') : Answers e s (e.transOut words rs [] s) (e.ivOut none words rs') :=
  hrs ▸ Env.transOut_answers_nil h words rs

/-- An instruction of the transcendental and convert pipe gives each acting lane its function of its first n sources. -/
theorem IvVariedEffect.of_ivVaried {opc n : Nat} {mk : Code → Instr} {r : Env → Nat → Res} (f : Fmt → List Ivl → Res)
    (hexec : ∀ c s, exec (mk c) s = ivVaried opc n c s f) (hr : ∀ e l, f e.fmt (e.ivs n l).1 = r e l) :
    IvVariedEffect opc n mk Env.words r := by
  intro c s e h
  obtain rfl := h.code
  obtain rfl : (fun e l => f e.fmt (e.ivs n l).1) = r := funext₂ hr
  rw [hexec, ivVaried, runInstr_of h]
  simp only [Env.ivs_status]
  exact Env.transOut_answers_nil h _ _

theorem answers_of_occupied {opc : Nat} {c : Code} {s : State} {e : Env} {o : Out} {p q : Pend} {n : Nat} (h : Issues opc c s e)
    (ho : o = e.result p (e.occupy false n s)) (hp : p = q) (hf : q.flag = e.flag) : Answers e s o q := by
  subst ho hp
  exact Env.result_answers h.1 (Env.occupy_same ..) _ hf

/-! ## Arithmetic, set operations and bounds -/

/-- Settles O4: the five operations of the float pipe are the set images of their sources, rounded outward. -/
theorem intervalArithmetic : Obligations.IntervalArithmetic := by
  unfold Obligations.IntervalArithmetic
  exact ⟨.of_ivFixed (fun f v => f.image v ⟨ivAdd (arg v 0) (arg v 1), false⟩) (fun _ _ => rfl) fun _ _ => rfl,
    .of_ivFixed (fun f v => f.image v ⟨ivAdd (arg v 0) (ivNeg (arg v 1)), false⟩) (fun _ _ => rfl) fun _ _ => rfl,
    .of_ivFixed (fun f v => f.image v ⟨ivMul (arg v 0) (arg v 1), false⟩) (fun _ _ => rfl) fun _ _ => rfl,
    .of_ivFixed (fun f v => f.image v ⟨ivAdd (ivMul (arg v 0) (arg v 1)) (arg v 2), false⟩) (fun _ _ => rfl) fun _ _ => rfl,
    .of_ivFixed (fun f v => f.image v ⟨ivSqr (arg v 0), false⟩) (fun _ _ => rfl) fun _ _ => rfl⟩

/-- The half of a splittable interval that `MODS`[0] names. -/
def Env.halfOf (e : Env) (l : Nat) : Option Ivl := (e.fmt.halves (e.ivA l)).map fun h => if e.c.mods.getLsbD 0 then h.2 else h.1

/-- What `FBIS` makes of a lane: its half, or the interval itself, and whether it could be halved. -/
theorem Env.bisected_eq (e : Env) (l : Nat) :
    (match e.fmt.halves (e.iv 1 l).1 with
      | some h => (l, (⟨e.fmt.pair (if e.c.mods.toNat % 2 = 0 then h.1 else h.2), stIf (e.iv 1 l).2 stIll⟩ : Res), Tri.t)
      | none => (l, (⟨e.fmt.pair (e.iv 1 l).1, stIf (e.iv 1 l).2 stIll⟩ : Res), Tri.f)) =
    (l, ⟨e.fmt.pair ((e.halfOf l).getD (e.ivA l)), e.illFormed 1 l⟩, triOfBool (e.halfOf l).isSome) := by
  unfold Env.halfOf Env.ivA
  have hbit : e.c.mods.getLsbD 0 = true ↔ ¬ e.c.mods.toNat % 2 = 0 := by rw [getLsbD_iff_div]; omega
  cases e.fmt.halves (e.iv 1 l).1 with
  | none => simp [triOfBool]
  | some h => by_cases hm : e.c.mods.toNat % 2 = 0 <;> simp only [hbit, hm, triOfBool, Option.map_some, Option.getD_some,
      Option.isSome_some, if_true, if_false, not_true, not_false_iff, Env.iv_status]

/-- What `FBIS` writes of its lanes: the bits, and whether each could be halved. -/
def Env.bisectPend (e : Env) (rs : List (Nat × Res × Tri)) : Pend :=
  let raw := rs.map fun r => (r.1, r.2.1.bits)
  let preds := if e.c.mods.toNat / 2 % 2 = 1 && !e.c.nw then Env.predWrites e.c.srcc (rs.map fun r => (r.1, r.2.2)) else []
  e.fixed (4 + e.modCycles) (e.laneWrites e.words raw ++ preds) (e.latchW e.words raw) (statusOf (rs.map fun r => (r.1, r.2.1)))

/-- The test of emptiness looks at its first operand alone. -/
theorem ivCmp_seven (a b : Ivl) : ivCmp 7 a b = ivCmp 7 a .empty := by cases a <;> cases b <;> rfl

theorem exec_fbis (c : Code) (s : State) : exec (.fbis c) s = execFbis c s := rfl
theorem exec_fcmp (c : Code) (s : State) : exec (.fcmp c) s = execFcmp c s := rfl

/-- Settles O5: the operations of Table 14.4 are functions of their sources; `FBIS` and `FCMP` also write predicates. -/
theorem intervalSets : Obligations.IntervalSets := by
  unfold Obligations.IntervalSets
  refine ⟨.of_ivFixed (fun f v => ⟨f.pair ((arg v 0).hull (arg v 1)), 0⟩) (fun _ _ => rfl) fun _ _ => rfl,
    .of_ivFixed (fun f v => ⟨f.pair (ivIsect (arg v 0) (arg v 1)), stIf (!(v.any Ivl.isEmpty) && (ivIsect (arg v 0) (arg v 1)).isEmpty) stEmpty⟩)
      (fun _ _ => rfl) fun e l => ?_,
    .of_ivFixed (fun f v => f.pt (lowerOf (arg v 0))) (fun _ _ => rfl) fun _ _ => rfl,
    .of_ivFixed (fun f v => f.pt (upperOf (arg v 0))) (fun _ _ => rfl) fun _ _ => rfl,
    .of_ivFixed (fun f v => f.pt ((f.mid (arg v 0)).map .fin)) (fun _ _ => rfl) fun _ _ => rfl,
    .of_ivFixed (fun f v => f.rad (arg v 0)) (fun _ _ => rfl) fun _ _ => rfl,
    .of_ivFixed (fun f v => f.wid (arg v 0)) (fun _ _ => rfl) fun _ _ => rfl,
    .of_ivFixed (fun f v => f.pt (ivMag (arg v 0))) (fun _ _ => rfl) fun _ _ => rfl,
    .of_ivFixed (fun f v => f.pt (ivMig (arg v 0))) (fun _ _ => rfl) fun _ _ => rfl,
    .of_ivFixed (fun f v => f.mkPair (arg v 0) (arg v 1)) (fun _ _ => rfl) fun _ _ => rfl,
    .of_ivFixed (fun f v => ⟨f.pair (ivNeg (arg v 0)), 0⟩) (fun _ _ => rfl) fun _ _ => rfl,
    .of_ivFixed (fun f v => ⟨f.pair (ivAbs (arg v 0)), 0⟩) (fun _ _ => rfl) fun _ _ => rfl,
    .of_ivFixed (fun f v => ⟨f.pair (ivMin (arg v 0) (arg v 1)), 0⟩) (fun _ _ => rfl) fun _ _ => rfl,
    .of_ivFixed (fun f v => ⟨f.pair (ivMax (arg v 0) (arg v 1)), 0⟩) (fun _ _ => rfl) fun _ _ => rfl, fun c s e h => ?_, fun c s e h => ?_⟩
  · have hv : (e.ivs 2 l).1 = [e.ivA l, e.ivB l] := rfl
    simp [hv, arg]
  · rw [exec_fbis, execFbis, runInstr_of h]
    obtain rfl := h.code
    refine answers_of_occupied h rfl ((congrArg e.bisectPend (List.map_congr_left fun l _ => e.bisected_eq l)).trans ?_) rfl
    have hcond : (decide (e.c.mods.toNat / 2 % 2 = 1) && !e.c.nw) = true ↔ e.c.mods.getLsbD 1 = true ∧ e.c.nw = false := by
      rw [getLsbD_iff_div]; simp
    simp only [Env.bisectPend, Env.ivResult, List.map_map, Function.comp_def, hcond, BitVec.ofNat_eq_ofNat, BitVec.zero_or]
    rfl
  · rw [exec_fcmp, execFcmp, runInstr_of h]
    obtain rfl := h.code
    refine answers_of_occupied h rfl ?_ rfl
    have hcmp : ∀ l, ivCmp (e.c.mods.toNat % 8) (arg (e.ivs (if e.c.mods.toNat % 8 = 7 then 1 else 2) l).1 0)
        (arg (e.ivs (if e.c.mods.toNat % 8 = 7 then 1 else 2) l).1 1) = ivCmp (e.c.mods.toNat % 8) (e.ivA l) (e.ivB l) := by
      intro l
      split
      · next h7 => rw [h7, ivCmp_seven _ (e.ivB l)]; rfl
      · rfl
    simp only [Env.ivs_status, hcmp, List.map_map, Function.comp_def, List.foldl_map, Env.predResult, Env.ivResult, statusOf,
      BitVec.ofNat_eq_ofNat, BitVec.zero_or]
    rfl

theorem exec_fpown (c : Code) (s : State) : exec (.fpown c) s = execFpown c s := rfl
theorem exec_fdivp (c : Code) (s : State) : exec (.fdivp c) s = execFdivp c s := rfl

/-- Settles O6: all but two are functions of their sources; `FPOWN` also reads an exponent, and `FDIVP` writes a second piece. -/
theorem transcendentalFunctions : Obligations.TranscendentalFunctions := by
  unfold Obligations.TranscendentalFunctions
  refine ⟨.of_ivVaried (fun f v => f.image v (ivDiv (arg v 0) (arg v 1))) (fun _ _ => rfl) fun _ _ => rfl,
    .of_ivVaried (fun f v => f.image v (ivSqrt (arg v 0))) (fun _ _ => rfl) fun _ _ => rfl,
    .of_ivVaried (fun f v => f.image v (ivDiv (Ivl.point Q.one) (arg v 0))) (fun _ _ => rfl) fun _ _ => rfl,
    .of_ivVaried (fun f v => f.image v (ivRsqrt (arg v 0))) (fun _ _ => rfl) fun _ _ => rfl,
    .of_ivVaried (fun f v => f.image v (ivExp2 (arg v 0))) (fun _ _ => rfl) fun _ _ => rfl,
    .of_ivVaried (fun f v => f.image v (ivLog2 (arg v 0))) (fun _ _ => rfl) fun _ _ => rfl,
    .of_ivVaried (fun f v => f.image v (ivSinpi (arg v 0))) (fun _ _ => rfl) fun _ _ => rfl,
    .of_ivVaried (fun f v => f.image v (ivCospi (arg v 0))) (fun _ _ => rfl) fun _ _ => rfl,
    .of_ivVaried (fun f v => f.image v (ivTanh (arg v 0))) (fun _ _ => rfl) fun _ _ => rfl, fun c s e h => ?_, fun c s e h => ?_⟩
  · rw [exec_fpown, execFpown, runInstr_of h]
    obtain rfl := h.code
    simp only [Env.iv_status]
    exact Env.transOut_answers_nil h _ _
  · rw [exec_fdivp, execFdivp, runInstr_of h]
    obtain rfl := h.code
    simp only [Env.ivs_status]
    simp only [List.map_map, Function.comp_def, List.flatMap_map]
    exact Env.transOut_answers h _ _ _

/-! ## Conversions, R372 to R374 -/

theorem exec_fcvt (c : Code) (s : State) : exec (.fcvt c) s = execFcvt c s := rfl
theorem exec_fcoll (c : Code) (s : State) : exec (.fcoll c) s = execFcoll c s := rfl
theorem exec_fq8 (c : Code) (s : State) : exec (.fq8 c) s = execFq8 c s := rfl

/-- A band has at most 64 lanes. -/
theorem Env.lt_of_mem_ls {e : Env} {l : Nat} (h : l ∈ e.ls) : l < 64 := List.mem_range.1 (List.mem_filter.1 h).1

/-- The scale that `FQ8` finds for a block of 32 lanes. -/
def Env.autoScale (e : Env) (blk : Nat) : Nat :=
  scaleCode (amaxOf e.fmt ((e.ls.filter fun k => k / 32 == blk).map e.ivA)) (largestOf (e.c.mods.toNat % 32) (e.c.mods.toNat / 32 % 2 == 1))

/-- Two blocks cover the lanes. -/
theorem Env.autoScale_eq (e : Env) {l : Nat} (hl : l ∈ e.ls) : [e.autoScale 0, e.autoScale 1].getD (l / 32) 127 = e.autoScale (l / 32) := by
  have hlt := Env.lt_of_mem_ls hl
  obtain h0 | h1 : l / 32 = 0 ∨ l / 32 = 1 := by omega
  · rw [h0]; rfl
  · rw [h1]; rfl

/-- Settles O7: each conversion is its function of the sources; the scale that `FQ8` finds itself is that of the lane's block of 32. -/
theorem conversions : Obligations.Conversions := by
  unfold Obligations.Conversions
  refine ⟨fun c s e h => ?_, fun c s e h => ?_, fun c s e h hgiven => ?_, fun c s e h hauto => ?_⟩ <;> obtain rfl := h.code
  · rw [exec_fcvt, execFcvt, runInstr_of h]
    exact Env.transOut_answers_nil h _ _
  · rw [exec_fcoll, execFcoll, runInstr_of h]
    simp only [Env.iv_status]
    exact Env.transOut_answers_nil h _ _
  · rw [exec_fq8, execFq8, runInstr_of h]
    simp only [Env.iv_status, hgiven, Nat.zero_ne_one, if_false]
    exact Env.transOut_answers_nil h _ _
  · rw [exec_fq8, execFq8, runInstr_of h]
    simp only [Env.iv_status, hauto, if_true]
    exact Env.transOut_answers_of h (List.map_congr_left fun l hl => congrArg (fun x =>
      let r := e.fmt.quant (e.c.mods.toNat % 32) (e.c.mods.toNat / 32 % 2 == 1) x (e.ivA l)
      (l, ({ r with st := r.st ||| e.illFormed 1 l } : Res))) (e.autoScale_eq hl))

end Sys2Proof.Machine
end

section
/-!
Control flow, chapter 13: branches, the divergence counters, the loops of the front context and the decision queue.
-/
namespace Sys2Proof.Machine

/-! ## Branches, R329, R330 and R344 -/

theorem exec_bra (c : Code) (s : State) : exec (.bra c) s = execBra c s := rfl
theorem exec_brx (c : Code) (s : State) : exec (.brx c) s = execBrx c s := rfl
theorem exec_call (c : Code) (s : State) : exec (.call c) s = execCall c s := rfl
theorem exec_ret (c : Code) (s : State) : exec (.ret c) s = execRet c s := rfl
theorem exec_sbr (c : Code) (s : State) : exec (.sbr c) s = execSbr c s := rfl

theorem Env.taken_iff (e : Env) : e.taken = true ↔ e.front ∨ e.lanes = e.b.exec := by
  simp [Env.taken]

/-- Settles O8: a branch ends at its target where it is taken, and `CALL` with the next address on its way. -/
theorem branches : Obligations.Branches := by
  unfold Obligations.Branches
  refine ⟨fun c s e h => ?_, fun c s e h => ?_, fun c s e h htaken => ?_, fun c s e h htaken => ?_, fun c s e h => ?_, fun c s e h => ?_⟩
  · rw [exec_bra, execBra, runInstr_of h]
    simp only [Env.taken_iff]
    exact Env.finish_goes h.1 (.refl s) _ e.b
  · rw [exec_brx, execBrx, runInstr_of h]
    simp only [Env.taken_iff]
    exact Env.finish_goes h.1 (.refl s) _ e.b
  · rw [exec_call, execCall, runInstr_of h, if_pos (e.taken_iff.2 htaken)]
    exact Env.pend_ends h.1 (.refl s) e.target e.b _ rfl
  · rw [exec_call, execCall, runInstr_of h, if_neg fun ht => htaken (e.taken_iff.1 ht)]
    exact Env.finish_goes h.1 (.refl s) e.next e.b
  · rw [exec_ret, execRet, runInstr_of h]
    exact Env.finish_goes h.1 (.refl s) e.indirect e.b
  · rw [exec_sbr, execSbr, runInstr_of h]
    exact Env.finish_goes h.1 (.refl s) _ e.b

/-! ## Tables written more than once -/

theorem Tbl.set_set {α : Type} (t : Tbl α) (k : Nat) (x y : α) : (t.set k x).set k y = t.set k y := by
  induction t with
  | nil => simp [Tbl.set]
  | cons p t ih =>
    obtain ⟨k', v⟩ := p
    simp only [Tbl.set]
    split_ifs with hlt heq
    · simp [Tbl.set]
    · simp [Tbl.set, heq]
    · simp [Tbl.set, hlt, heq, ih]

theorem Tbl.set_comm {α : Type} (t : Tbl α) {j k : Nat} (h : j ≠ k) (x y : α) : (t.set j x).set k y = (t.set k y).set j x := by
  induction t with
  | nil => grind [Tbl.set]
  | cons p t ih => grind [Tbl.set]

/-! ## The divergence counters, Table 7.3 -/

@[simp] theorem Band.setCount_width (b : Band) (l n : Nat) : (b.setCount l n).width = b.width := rfl

/-- Setting the counters changes the table of the counters alone. -/
theorem Band.setCounts_eq (b : Band) (f : Nat → Nat) : b.setCounts f = { b with r := { b.r with
    nest := b.alive.foldl (fun t l => t.set l (BitVec.ofNat 8 (f l))) b.r.nest } } := by
  unfold Band.setCounts
  generalize b.alive = ls
  induction ls generalizing b with
  | nil => rfl
  | cons l ls ih => rw [List.foldl_cons, List.foldl_cons, ih]; rfl

theorem Band.alive_setCounts (b : Band) (f : Nat → Nat) : (b.setCounts f).alive = b.alive := by
  rw [Band.setCounts_eq]; rfl

theorem Band.alive_nodup (b : Band) : b.alive.Nodup := List.nodup_range.filter _

/-- A table reads, at a key, what the last pass over a list of distinct keys has written there. -/
theorem Tbl.get_foldl_set {α : Type} (d : α) (v : Nat → α) (ls : List Nat) (t : Tbl α) (k : Nat) :
    (ls.foldl (fun t l => t.set l (v l)) t).get d k = if k ∈ ls then v k else t.get d k := by
  induction ls generalizing t with
  | nil => simp
  | cons l ls ih =>
    rw [List.foldl_cons, ih]
    by_cases hk : k = l
    · subst hk; simp [Tbl.get_set_self]
    · simp [hk, Tbl.get_set_ne]

/-- Of two passes over the same distinct keys the second stays. -/
theorem Tbl.foldl_set_foldl_set {α : Type} (v w : Nat → α) {ls : List Nat} (h : ls.Nodup) (t : Tbl α) :
    ls.foldl (fun t l => t.set l (w l)) (ls.foldl (fun t l => t.set l (v l)) t) = ls.foldl (fun t l => t.set l (w l)) t := by
  have hset : ∀ (ls : List Nat) (l : Nat) (x : α) (t : Tbl α), l ∉ ls →
      (ls.foldl (fun t l => t.set l (v l)) t).set l x = ls.foldl (fun t l => t.set l (v l)) (t.set l x) := by
    intro ls l x
    induction ls with
    | nil => intro t _; rfl
    | cons k ls ih =>
      intro t hl
      rw [List.foldl_cons, List.foldl_cons, ih _ fun h => hl (List.mem_cons_of_mem _ h),
        Tbl.set_comm _ (Ne.symm (List.ne_of_not_mem_cons hl))]
  induction ls generalizing t with
  | nil => rfl
  | cons l ls ih =>
    obtain ⟨hl, hls⟩ := List.nodup_cons.1 h
    simp only [List.foldl_cons]
    rw [hset ls l _ _ hl, Tbl.set_set, ih hls]

theorem Band.setCounts_setCounts (b : Band) (f g : Nat → Nat) : (b.setCounts f).setCounts g = b.setCounts g := by
  rw [Band.setCounts_eq (b.setCounts f), Band.alive_setCounts, Band.setCounts_eq b g, Band.setCounts_eq b f]
  simp only [Tbl.foldl_set_foldl_set _ _ b.alive_nodup]

/-- What the counters read once they are set. -/
theorem Band.count_setCounts (b : Band) (f : Nat → Nat) (l : Nat) :
    (b.setCounts f).count l = if l ∈ b.alive then f l % 256 else b.count l := by
  rw [Band.setCounts_eq, Band.count, Tbl.get_foldl_set]
  split <;> simp [Band.count]

theorem Band.count_setCounts_of_le (b : Band) {f : Nat → Nat} {l : Nat} (hl : l ∈ b.alive) (hf : f l ≤ 255) : (b.setCounts f).count l = f l := by
  rw [Band.count_setCounts, if_pos hl, Nat.mod_eq_of_lt (by omega)]

theorem Band.setCounts_congr {b : Band} {f g : Nat → Nat} (h : ∀ l ∈ b.alive, f l = g l) : b.setCounts f = b.setCounts g := by
  rw [Band.setCounts_eq, Band.setCounts_eq, List.foldl_ext]
  intro t l hl
  rw [h l hl]

theorem Band.anyUpTo_iff (b : Band) (d : Nat) : b.anyUpTo d = true ↔ ∃ l ∈ b.alive, b.count l ≤ d := by
  simp [Band.anyUpTo]

/-! ## Masks -/

theorem maskNat_succ (n : Nat) (p : Nat → Bool) : maskNat (n + 1) p = if p n then maskNat n p + 2 ^ n else maskNat n p := by
  simp [maskNat, List.range_succ]

theorem maskNat_lt (n : Nat) (p : Nat → Bool) : maskNat n p < 2 ^ n := by
  induction n with
  | zero => simp [maskNat]
  | succ n ih =>
    rw [maskNat_succ, Nat.pow_succ]
    split <;> omega

theorem testBit_maskNat (n : Nat) (p : Nat → Bool) (i : Nat) : (maskNat n p).testBit i = (decide (i < n) && p i) := by
  induction n with
  | zero => simp [maskNat]
  | succ n ih =>
    have hlt := maskNat_lt n p
    rw [maskNat_succ]
    obtain hi | rfl | hi := Nat.lt_trichotomy i n
    · have hsucc : i < n + 1 := by omega
      split
      · rw [Nat.add_comm, Nat.testBit_two_pow_add_gt hi, ih]; simp [hi, hsucc]
      · rw [ih]; simp [hi, hsucc]
    · split
      · next h => rw [Nat.add_comm, Nat.testBit_two_pow_add_eq, ih]; simp [h]
      · next h => rw [ih]; simp [h]
    · rw [Nat.testBit_lt_two_pow]
      · simp [show ¬ i < n + 1 by omega]
      · have hle : 2 ^ (n + 1) ≤ 2 ^ i := Nat.pow_le_pow_right (by decide) hi
        rw [Nat.pow_succ] at hle
        split <;> omega

theorem getLsbD_maskOf (n : Nat) (p : Nat → Bool) {i : Nat} (hi : i < 64) : (maskOf n p).getLsbD i = (decide (i < n) && p i) := by
  rw [maskOf, BitVec.getLsbD_ofNat, testBit_maskNat]
  simp [hi]

theorem maskOf_eq_zero {n : Nat} {p : Nat → Bool} (h : ∀ i < n, p i = false) : maskOf n p = 0 := by
  apply BitVec.eq_of_getLsbD_eq
  intro i hi
  rw [getLsbD_maskOf n p hi]
  by_cases hn : i < n <;> simp [hn, h]

/-! ## Loops, R333 and R334 -/

theorem exec_brk (c : Code) (s : State) : exec (.brk c) s = leaveLoop 0x4D 2 c s := rfl
theorem exec_cont (c : Code) (s : State) : exec (.cont c) s = leaveLoop 0x4E 1 c s := rfl
theorem exec_endloop (c : Code) (s : State) : exec (.endloop c) s = execEndloop c s := rfl

/-- The counters of a first execution, none of which passes 255, where those of lanes above 63 stay. -/
theorem Env.recount_eq {e : Env} {f : Nat → Nat → Nat} (honly : e.b.only = none) (hle : ∀ l ∈ e.b.alive, f l (e.b.count l) ≤ 255)
    (hhigh : ∀ l, 64 ≤ l → f l (e.b.count l) = e.b.count l) : e.recount f = (e.b.setCounts fun l => f l (e.b.count l), 0) := by
  have hnew : ∀ l, (if (e.b.only.getD (BitVec.allOnes 64)).getLsbD l then f l (e.b.count l) else e.b.count l) = f l (e.b.count l) := by
    intro l
    rw [honly, Option.getD_none, BitVec.getLsbD_allOnes]
    by_cases hl : l < 64
    · simp [hl]
    · simp [hl, hhigh l (Nat.le_of_not_lt hl)]
  simp only [Env.recount, hnew, Prod.mk.injEq]
  refine ⟨Band.setCounts_congr fun l hl => if_neg (Nat.not_lt.2 (hle l hl)), maskOf_eq_zero fun l _ => ?_⟩
  by_cases hl : l ∈ e.b.alive
  · simp [hle l hl]
  · simp [hl]

/-- `BRK` and `CONT` set their lanes' counters to `step` + d, and leave where no lane holds one up to d. -/
theorem leaveLoop_goes {opc step : Nat} {c : Code} {s : State} {e : Env} (h : Issues opc c s e) (honly : e.b.only = none)
    (n : Nat → Nat) (hn : ∀ l, n l = if e.lanes.getLsbD l then step + c.srca.bits.toNat % 256 else e.b.count l)
    (hle : ∀ l ∈ e.b.alive, n l ≤ 255) :
    Goes e s (leaveLoop opc step c s) (if ∃ l ∈ e.b.alive, n l ≤ c.srca.bits.toNat % 256 then e.next else e.target)
      (e.b.setCounts fun l => if ∃ l ∈ e.b.alive, n l ≤ c.srca.bits.toNat % 256 then n l else n l - c.srca.bits.toNat % 256) := by
  have hrecount : e.recount (fun l m => if e.lanes.getLsbD l then step + c.srca.bits.toNat % 256 else m) = (e.b.setCounts n, 0) := by
    obtain rfl : n = fun l => if e.lanes.getLsbD l then step + c.srca.bits.toNat % 256 else e.b.count l := funext hn
    refine Env.recount_eq honly hle fun l hl => ?_
    rw [BitVec.getLsbD_of_ge _ _ hl]
    rfl
  have hany : (e.b.setCounts n).anyUpTo (c.srca.bits.toNat % 256) = true ↔ ∃ l ∈ e.b.alive, n l ≤ c.srca.bits.toNat % 256 := by
    rw [Band.anyUpTo_iff, Band.alive_setCounts]
    refine exists_congr fun l => and_congr_right fun hl => ?_
    rw [Band.count_setCounts_of_le _ hl (hle l hl)]
  have hlower : ((e.b.setCounts n).setCounts fun l => (e.b.setCounts n).count l - c.srca.bits.toNat % 256) =
      e.b.setCounts fun l => n l - c.srca.bits.toNat % 256 := by
    rw [Band.setCounts_setCounts]
    exact Band.setCounts_congr fun l hl => by rw [Band.count_setCounts_of_le _ hl (hle l hl)]
  rw [leaveLoop, runInstr_of h]
  simp only [hrecount, hany, hlower, ne_eq, not_true_eq_false, if_false]
  by_cases hex : ∃ l ∈ e.b.alive, n l ≤ c.srca.bits.toNat % 256
  · simp only [hex, if_true]
    exact Env.finish_goes h.1 (.refl s) e.next _
  · simp only [hex, if_false]
    exact Env.finish_goes h.1 (.refl s) e.target _

/-- Settles O10: the counters that `BRK`, `CONT` and `ENDLOOP` leave, and where they go. -/
theorem loops : Obligations.Loops := by
  unfold Obligations.Loops
  refine ⟨?_, fun c s e h => ?_⟩
  · rintro mk opc step (⟨rfl, rfl, rfl⟩ | ⟨rfl, rfl, rfl⟩) c s e h honly d n hle
    · rw [exec_brk]
      exact leaveLoop_goes h honly n (fun _ => rfl) hle
    · rw [exec_cont]
      exact leaveLoop_goes h honly n (fun _ => rfl) hle
  · intro n
    have hbound : ∀ l, n l ≤ 255 := fun l => by
      have hcount : e.b.count l < 256 := BitVec.isLt _
      have hn : n l = if e.b.count l = 1 then 0 else e.b.count l := rfl
      rw [hn]; split <;> omega
    have hany : (e.b.setCounts n).anyUpTo 0 = true ↔ ∃ l ∈ e.b.alive, n l = 0 := by
      rw [Band.anyUpTo_iff, Band.alive_setCounts]
      refine exists_congr fun l => and_congr_right fun hl => ?_
      rw [Band.count_setCounts_of_le _ hl (hbound l), Nat.le_zero]
    have hlower : ((e.b.setCounts n).setCounts fun l => (e.b.setCounts n).count l - 2) = e.b.setCounts fun l => n l - 2 := by
      rw [Band.setCounts_setCounts]
      exact Band.setCounts_congr fun l hl => by rw [Band.count_setCounts_of_le _ hl (hbound l)]
    rw [exec_endloop, execEndloop, runInstr_of h]
    change Goes e s (if (e.b.setCounts n).anyUpTo 0 = true then e.finish e.target (e.b.setCounts n) s
      else e.finish e.next ((e.b.setCounts n).setCounts fun l => (e.b.setCounts n).count l - 2) s) _ _
    simp only [hany, hlower]
    by_cases hex : ∃ l ∈ e.b.alive, n l = 0
    · simp only [hex, if_true]
      exact Env.finish_goes h.1 (.refl s) e.target _
    · simp only [hex, if_false]
      exact Env.finish_goes h.1 (.refl s) e.next _

end Sys2Proof.Machine
end

section
/-!
What the issue of an instruction leaves of its thread, and the end of an instruction that has changed its own thread before it.
-/
namespace Sys2Proof.Machine

/-! ## The thread as it issues -/

/-- A thread but for its registers, its issue state and the results on their way: what landing results and a choice of half leave. -/
def Band.lasting (b : Band) : Band := { b with r := BandRegs.reset, x := Exec.reset, flags := [], pends := [], clob := [] }

@[simp] theorem Band.lasting_flagDown (b : Band) (f : Option Nat) : (b.flagDown f).lasting = b.lasting := by cases f <;> rfl

@[simp] theorem Band.lasting_addStatus (b : Band) (at_ : Nat) (st : BitVec 6) : (b.addStatus at_ st).lasting = b.lasting := by
  unfold Band.addStatus
  split <;> rfl

@[simp] theorem Band.lasting_land (b : Band) (now free : Nat) (p : Pend) : (b.land now free p).lasting = b.lasting := by
  unfold Band.land
  rw [Band.lasting_flagDown, Band.lasting_addStatus]
  rfl

theorem Band.lasting_settleN (now n free : Nat) (b : Band) : (Band.settleN now n free b).lasting = b.lasting := by
  induction n generalizing free b with
  | zero => rfl
  | succ n ih =>
    unfold Band.settleN
    split
    · rw [ih, Band.lasting_land]
    · rfl

@[simp] theorem Band.lasting_settle (b : Band) (now free : Nat) : (b.settle now free).lasting = b.lasting := Band.lasting_settleN ..

@[simp] theorem Band.lasting_loseLatches (b : Band) : b.loseLatches.lasting = b.lasting := rfl

@[simp] theorem Band.lasting_onHalf (b : Band) (k : Option Nat) : (b.onHalf k).lasting = b.lasting := by
  unfold Band.onHalf
  split
  · split <;> rfl
  · rfl

@[simp] theorem State.lasting_issuing (s : State) (t : ThreadRef) (b : Band) : (s.issuing t b).lasting = b.lasting := by
  unfold State.issuing
  dsimp only
  split <;> simp

/-- The thread that an instruction sees is the one that `cur` names, with its due results landed. -/
theorem mkEnv_lasting {opc : Nat} {c : Code} {s : State} {e : Env} (h : mkEnv opc c s = some e) :
    ∃ b0 cw, s.crewOf e.t.crew = some cw ∧ cw.thread e.t.band = some b0 ∧ b0.running = true ∧ e.b.lasting = b0.lasting := by
  obtain ⟨b0, cw, hc, ht, hr, het, -, -, hb, -⟩ := mkEnv_spec h
  refine ⟨b0, cw, by rw [het]; exact hc, ?_, hr, by rw [hb]; simp⟩
  rw [State.thread, hc] at ht
  rw [het]
  exact ht

/-! ## The end of an instruction that has changed its own thread -/

/-- An environment in which the same instruction stands at the same place. -/
structure Env.Same (e e' : Env) : Prop where
  t : e'.t = e.t
  c : e'.c = e.c
  front : e'.front = e.front
  pc : e'.b.x.pc = e.b.x.pc

theorem Env.Same.refl (e : Env) : e.Same e := ⟨rfl, rfl, rfl, rfl⟩

theorem Env.Same.lands {e e' : Env} (h : e.Same e') (s : State) (pc : PCW) : e'.lands s pc = e.lands s pc := by
  unfold Env.lands
  rw [h.t, h.c, h.front, h.pc]

theorem Env.Same.flag {e e' : Env} (h : e.Same e') : e'.flag = e.flag := by
  unfold Env.flag
  rw [h.c]

section
variable {opc : Nat} {c : Code} {s s' : State} {e e' : Env}

theorem Env.Same.commit_ends (k : e.Same e') (h : mkEnv opc c s = some e) (hs : SameCrews s s')
    (pc : PCW) (b1 b : Band) (ps : List Pend) (hpc : b.x.pc = pc) (hp : b.pends = b1.pends ++ ps)
    (hf : b.flags = (b1.flagUp e.flag).flags) (hb : SameThread b1 b) : Ends e s (.next (e'.commit b s')) pc b1 ps := by
  have ht : (s'.thread e'.t).isSome := by rw [k.t, hs.thread]; exact mkEnv_thread h
  obtain ⟨h1, h2, h3⟩ := e'.commit_spec b s' ht (by rw [k.front, k.t]; exact mkEnv_front h)
  rw [k.t] at h1 h2
  exact ⟨_, _, rfl, h1, by rw [hpc, k.lands, Env.lands_of_same hs], hp, hf, hb, hs.out.trans h3, SameOthers.of_same hs h2⟩

theorem Env.Same.pend_ends (k : e.Same e') (h : mkEnv opc c s = some e) (hs : SameCrews s s') (pc : PCW) (b1 : Band) (p : Pend)
    (hf : p.flag = e.flag) : Ends e s (.next (e'.commit ((e'.advance pc b1).pend p) s')) pc b1 [p] := by
  apply k.commit_ends h hs <;> rw [Band.pend_eq]
  · rfl
  · rfl
  · simp only [hf]; cases e.flag <;> rfl
  · simp only [hf]; cases e.flag <;> rfl

end

end Sys2Proof.Machine
end

section
/-!
The decision queue and the front context, R159, R160 and R345 to R348.
-/
namespace Sys2Proof.Machine

/-! ## The decision queue, R159 and R347 -/

theorem Tbl.mem_of_find? {α : Type} {t : Tbl α} {k : Nat} {v : α} (h : t.find? k = some v) : (k, v) ∈ t := by
  induction t with
  | nil => cases h
  | cons p t ih =>
    obtain ⟨k', w⟩ := p
    unfold Tbl.find? at h
    split_ifs at h with heq hlt
    · cases h; subst heq; exact List.mem_cons_self
    · exact List.mem_cons_of_mem _ (ih h)

theorem foldl_min_le_init {α : Type} (p : α → Bool) (f : α → Nat) (l : List α) (n : Nat) :
    l.foldl (fun m x => if p x then min m (f x) else m) n ≤ n :=
  foldl_keeps (P := (· ≤ n)) (Nat.le_refl n) fun m x hm => by split <;> omega

/-- A running minimum over the members that have a property is below each of them. -/
theorem foldl_min_le {α : Type} (p : α → Bool) (f : α → Nat) {l : List α} {x : α} (hx : x ∈ l) (hp : p x = true) (n : Nat) :
    l.foldl (fun m x => if p x then min m (f x) else m) n ≤ f x := by
  induction l generalizing n with
  | nil => cases hx
  | cons y l ih =>
    rw [List.foldl_cons]
    obtain rfl | hmem := List.mem_cons.1 hx
    · refine (foldl_min_le_init p f l _).trans ?_
      simp [hp]
    · exact ih hmem _

/-- The entries that every running band has popped make room; the entry at the position of a running band stays at its place. -/
theorem Crew.dqFree_get {cw : Crew} {k : Nat} {b : Band} (hb : cw.bands.find? k = some b) (hrun : b.running = true)
    (hpos : cw.dqBase ≤ b.dqPos) : cw.dqFree.dq[b.dqPos - cw.dqFree.dqBase]? = cw.dq[b.dqPos - cw.dqBase]? := by
  have hle := foldl_min_le (fun x : Nat × Band => x.2.running) (fun x => x.2.dqPos) (Tbl.mem_of_find? hb) hrun
    (cw.dqBase + cw.dq.length)
  unfold Crew.dqFree
  dsimp only at hle ⊢
  rw [List.getElem?_drop]
  congr 1
  omega

theorem exec_dqpop (c : Code) (s : State) : exec (.dqpop c) s = execDqpop c s := rfl
theorem exec_dqbr (c : Code) (s : State) : exec (.dqbr c) s = execDqbr c s := rfl

/-- A pop goes on with the entry at the position of its band, which advances. -/
theorem Env.pop_eq {opc : Nat} {c : Code} {s : State} {e : Env} {cw : Crew} {v : W64} (h : mkEnv opc c s = some e) (hcw : CrewAt e s cw)
    (hfront : e.front = false) (hbase : cw.dqBase ≤ e.b.dqPos) (hv : cw.dq[e.b.dqPos - cw.dqBase]? = some v) (k : W64 → Env → Out) :
    e.pop s k = k v { e with b := { e.b with dqPos := e.b.dqPos + 1 } } := by
  obtain ⟨b0, w, hw, hth, hrun, hlast⟩ := mkEnv_lasting h
  unfold CrewAt at hcw
  cases hcw.symm.trans hw
  have hpos : e.b.dqPos = b0.dqPos := by simpa only [Band.lasting] using congrArg Band.dqPos hlast
  rw [mkEnv_front h] at hfront
  cases hband : e.t.band with
  | none => simp [hband] at hfront
  | some n =>
    rw [hband] at hth
    rw [hpos] at hbase hv
    have hget := Crew.dqFree_get hth hrun hbase
    unfold Env.pop
    simp only [hcw, List.getElem?_toArray, hpos, hget, hv]

/-- Settles O17: both pops go on with the entry, `DQBR` to the place that its lowest bit names. -/
theorem decisionPop : Obligations.DecisionPop := by
  unfold Obligations.DecisionPop
  intro c s e cw v hcw hfront hbase hv
  have hsame : e.Same { e with b := { e.b with dqPos := e.b.dqPos + 1 } } := ⟨rfl, rfl, rfl, rfl⟩
  refine ⟨fun h => ?_, fun h => ?_⟩
  · rw [exec_dqpop, execDqpop, runInstr_of h, Env.pop_eq h.1 hcw hfront hbase hv]
    exact hsame.pend_ends h.1 (.refl s) e.next _ _ rfl
  · rw [exec_dqbr, execDqbr, runInstr_of h, Env.pop_eq h.1 hcw hfront hbase hv]
    exact hsame.pend_ends h.1 (.refl s) _ _ _ rfl

end Sys2Proof.Machine
end

section
/-!
Two statements about control flow that fail: where a thread has more lanes than any band, and where a band executes an instruction of the front
context. No fetched instruction reaches either state, but the statements speak of them too.
-/
namespace Sys2Proof.Machine

/-- A small machine, that of log 2, whose current thread is its band. -/
def smallBand : State := { State.reset.placeCode [] with cur := ⟨0, 0, 0, some 0⟩ }

/-- An instruction without guard, flag or modifier. -/
def bareCode : Code :=
  { dist := 0, wait := 0, setf := 15, gpred := 0, gmode := 0, nw := false, dst := .slot 0, srca := .slot 0, srcb := .slot 0,
    srcc := .slot 0, form := .a, mods := 0, xlane := 0, hold := 0, rmode := 0, type := 0, payload := 0, annex := none }

/-- What a test of the environment finds holds of the instruction that issues. -/
theorem issues_of_any {opc : Nat} {c : Code} {s : State} {p : Env → Bool}
    (h : (mkEnv opc c s).any (fun e => e.decodeTrap.isNone && p e) = true) : ∃ e, Issues opc c s e ∧ p e = true := by
  obtain ⟨e, he, hp⟩ := (Option.any_eq_true _ _).1 h
  rw [Bool.and_eq_true, Option.isNone_iff_eq_none] at hp
  exact ⟨e, ⟨he, hp.1⟩, hp.2⟩

theorem SameThread.r {b1 b : Band} (h : SameThread b1 b) : b.r = b1.r := by
  unfold SameThread at h
  rw [← h]

/-! ## A 65th lane: Table 7.3 -/

/-- A band of 65 lanes. -/
def wideBand : State := smallBand.updThread smallBand.cur fun b => { b with width := 65 }

/-- What `IFB` makes of a counter, Table 7.3. -/
def ifCount (e : Env) (l n : Nat) : Nat := if 0 < n then n + 1 else if e.lanes.getLsbD l then 0 else 1

/-- By the table the counter of lane 64 is then 1, since the mask of the acting lanes has no bit for it. -/
theorem wideBand_issues : (mkEnv 0x45 bareCode wideBand).any (fun e => e.decodeTrap.isNone && (e.b.only.isNone &&
    e.b.alive.all (fun l => decide (ifCount e l (e.b.count l) ≤ 255)) &&
    (e.b.setCounts fun l => ifCount e l (e.b.count l)).count 64 == 1 && e.t == wideBand.cur)) = true := by decide +kernel

/-- The model leaves it at 0. -/
theorem wideBand_ifb : (match exec (.ifb bareCode) wideBand with
    | .next t => (t.thread wideBand.cur).any fun b => b.count 64 == 0
    | _ => false) = true := by decide +kernel

/-- Refutes O9: `IFB` in a thread of 65 lanes leaves the counter of lane 64 as it was, where the statement has it rise. A band has at most
64 lanes, which the statement does not ask for. -/
theorem not_divergence : ¬ Obligations.Divergence := by
  unfold Obligations.Divergence
  rintro ⟨hif, -⟩
  obtain ⟨e, he, hp⟩ := issues_of_any wideBand_issues
  simp only [Bool.and_eq_true, Option.isNone_iff_eq_none, List.all_eq_true, decide_eq_true_eq, beq_iff_eq] at hp
  obtain ⟨⟨⟨honly, hle⟩, hcount⟩, ht⟩ := hp
  obtain ⟨t, b, hexec, hb, -, -, -, hsame, -, -⟩ := hif bareCode wideBand e he honly hle
  have hr : b.r = (e.b.setCounts fun l => ifCount e l (e.b.count l)).r := hsame.r
  have h0 := wideBand_ifb
  rw [hexec] at h0
  rw [ht] at hb
  simp only [hb, Option.any_some, beq_iff_eq] at h0
  have h1 : b.count 64 = 1 := by rw [← hcount, Band.count, Band.count, hr]
  omega

/-! ## FLOOP in a band: R345 -/

/-- A band at an instruction at which a loop of its front context ends. -/
def bandAtLoopEnd : State :=
  (smallBand.updThread smallBand.cur fun b => { b with r := { b.r with uni := [(3, 1)] } }).updCrew smallBand.cur.crew fun cw =>
    { cw with front := cw.front.map fun f => { f with loops := [{ left := 2, count := 2, first := 0, last := f.th.x.pc, again := false }] } }

/-- `FLOOP` with its count in a uniform register. -/
def floopCode : Code := { bareCode with srca := .uni 3 }

/-- By the statement the open loop has one iteration fewer once the thread has passed its end. -/
theorem bandAtLoopEnd_issues : (mkEnv 0x73 floopCode bandAtLoopEnd).any (fun e => e.decodeTrap.isNone && (e.srcA 0 32 == 1 &&
    (e.t == bandAtLoopEnd.cur && ((bandAtLoopEnd.crewOf e.t.crew).bind Crew.front).any fun f =>
      decide (f.loops.length < 2) && (loopStep e.b.x.pc e.next f.loops).1.map HwLoop.left == [1]))) = true := by decide +kernel

/-- The model steps the loops of a front context only. -/
theorem bandAtLoopEnd_floop : (match exec (.floop floopCode) bandAtLoopEnd with
    | .next t => ((t.crewOf bandAtLoopEnd.cur.crew).bind Crew.front).any fun f => f.loops.map HwLoop.left == [1, 2]
    | _ => false) = true := by decide +kernel

/-- Refutes O15: a `FLOOP` that a band executes at the end of a loop of its front context leaves that loop's count, where the statement has
it lowered. Only a front context fetches `FLOOP`, which the statement does not ask for. -/
theorem not_frontContext : ¬ Obligations.FrontContext := by
  unfold Obligations.FrontContext
  rintro ⟨hloop, -⟩
  obtain ⟨e, he, hp⟩ := issues_of_any bandAtLoopEnd_issues
  simp only [Bool.and_eq_true, beq_iff_eq] at hp
  obtain ⟨hcount, ht, hf⟩ := hp
  obtain ⟨f, hfront, hf⟩ := (Option.any_eq_true _ _).1 hf
  obtain ⟨cw, hcw, hfront⟩ := Option.bind_eq_some_iff.1 hfront
  simp only [Bool.and_eq_true, decide_eq_true_eq, beq_iff_eq] at hf
  obtain ⟨hlen, hstep⟩ := hf
  obtain ⟨u, t, cw', f', -, hexec, hcw', hf', hloops, -⟩ := (hloop floopCode bandAtLoopEnd e cw f he hcw hfront (by omega)).1 hlen
  have h1 := bandAtLoopEnd_floop
  rw [hexec] at h1
  rw [ht] at hcw'
  simp only [hcw', hf', hloops, Option.bind_some, Option.any_some, List.map_cons, hstep, hcount] at h1
  exact absurd h1 (by decide)

end Sys2Proof.Machine
end

section
/-!
The cross-lane pipe and the operations on uniform registers, R337 to R342.
-/
namespace Sys2Proof.Machine

/-! ## Cross-lane instructions -/

theorem exec_shfl (c : Code) (s : State) : exec (.shfl c) s = execShfl c s := rfl
theorem exec_vote (c : Code) (s : State) : exec (.vote c) s = execVote c s := rfl
theorem exec_redi (c : Code) (s : State) : exec (.redi c) s = execRedi c s := rfl
theorem exec_scani (c : Code) (s : State) : exec (.scani c) s = execScani c s := rfl
theorem exec_rdlane (c : Code) (s : State) : exec (.rdlane c) s = execRdlane c s := rfl
theorem exec_wrlane (c : Code) (s : State) : exec (.wrlane c) s = execWrlane c s := rfl

section
variable {opc : Nat} {c : Code} {s : State} {e : Env} (h : Issues opc c s e)
include h

theorem Env.crossUni_answers (v : Nat) : Answers e s (e.crossUni v s) (e.crossResult v) := Env.result_answers h.1 (.refl s) _ rfl

theorem Env.crossLanes_answers (words : Nat) (v : Nat → Nat) :
    Answers e s (e.crossLanes words (e.ls.map fun l => (l, v l)) s) (e.wordsResult e.xLat words v) :=
  Env.result_answers h.1 (.refl s) _ rfl

theorem answers_of_cross {words : Nat} {v : Nat → Nat} {raw : List (Nat × Nat)} (hraw : raw = e.ls.map fun l => (l, v l)) :
    Answers e s (e.crossLanes words raw s) (e.wordsResult e.xLat words v) := hraw ▸ Env.crossLanes_answers h words v

/-- A result goes to a uniform register, or to a slot in every acting lane. -/
theorem Env.cross_answers (c' : Code) (u words v : Nat) :
    Answers e s (match uniOf e.front c'.dst with
      | some _ => e.crossUni u s
      | none => e.crossLanes words (e.ls.map fun l => (l, v)) s)
      (if (uniOf e.front c'.dst).isSome then e.crossResult u else e.wordsResult e.xLat words fun _ => v) := by
  cases uniOf e.front c'.dst with
  | some n => exact Env.crossUni_answers h u
  | none => exact Env.crossLanes_answers h words fun _ => v

end

/-- The set of a vote, by number, R338. -/
theorem voteCounts_iff (n : Nat) (p : Tri) : voteCounts (n % 4) p = true ↔
    match n % 4 with | 0 => p = .t | 1 => p = .f | 2 => p = .u | _ => p ≠ .f := by
  obtain hn | hn | hn | hn : n % 4 = 0 ∨ n % 4 = 1 ∨ n % 4 = 2 ∨ n % 4 = 3 := by omega
  all_goals rw [hn]; cases p <;> simp [voteCounts]

/-- A reduction's function and its start, Table 13.5. -/
theorem redOp_redId {t : ITy} {n : Nat} {op : Int → Int → Int} {id : Int} (h : match n with
    | 0 => op = (fun x y => t.wrap (x + y)) ∧ id = 0
    | 1 => op = min ∧ id = t.max
    | 2 => op = max ∧ id = t.min
    | 3 => op = bitsAnd t ∧ id = t.wrap (2 ^ t.bits - 1)
    | 4 => op = bitsOr t ∧ id = 0
    | 5 => op = bitsXor t ∧ id = 0
    | _ => False) : redOp n t = op ∧ redId n t = id := by
  split at h
  · obtain ⟨rfl, rfl⟩ := h; exact ⟨rfl, rfl⟩
  · obtain ⟨rfl, rfl⟩ := h; exact ⟨funext₂ fun x y => (min_def x y).symm, rfl⟩
  · obtain ⟨rfl, rfl⟩ := h; exact ⟨funext₂ fun x y => (max_def x y).symm, rfl⟩
  · obtain ⟨rfl, rfl⟩ := h; exact ⟨rfl, rfl⟩
  · obtain ⟨rfl, rfl⟩ := h; exact ⟨rfl, rfl⟩
  · obtain ⟨rfl, rfl⟩ := h; exact ⟨rfl, rfl⟩
  · exact h.elim

/-- The mask of a vote has exactly the bits that its condition names. -/
theorem maskOf_eq_of_bits {p : Nat → Bool} {mask : BitVec 64} (h : ∀ l, l < 64 → (mask.getLsbD l = true ↔ p l = true)) : maskOf 64 p = mask := by
  apply BitVec.eq_of_getLsbD_eq
  intro l hl
  rw [getLsbD_maskOf 64 p hl, Bool.eq_iff_iff, h l hl]
  simp [hl]

/-- Settles O12: each instruction of the pipe ends in the result that its case of the statement names. -/
theorem crossLane : Obligations.CrossLane := by
  unfold Obligations.CrossLane
  refine ⟨fun c s e h => ?_, fun c s e h mask hmask => ?_, fun ex c s e op id hop => ⟨fun h => ?_, fun h hex => ?_⟩, fun c s e h => ?_,
    fun c s e h => ?_⟩ 
  · obtain rfl := h.code
    have hown : ∀ l, (e.c.mods.toNat % 2 == 1 && (match e.xsrc l with | some k => !e.b.active k | none => false)) = true ↔
        e.c.mods.getLsbD 0 = true ∧ ∃ k, e.xsrc l = some k ∧ e.b.active k = false := fun l => by
      rw [getLsbD_iff_div]
      cases e.xsrc l <;> simp
    rw [exec_shfl, execShfl, runInstr_of h]
    refine answers_of_cross h (List.map_congr_left fun l _ => ?_)
    simp only [← hown] <;> rfl
  · obtain rfl := h.code
    rw [exec_vote, execVote, runInstr_of h]
    have hm : maskOf 64 (fun l => e.lanes.getLsbD l && voteCounts (e.c.mods.toNat / 4 % 4) (e.pred 1 e.c.srca l)) = mask :=
      maskOf_eq_of_bits fun l hl => by rw [hmask l hl, Bool.and_eq_true, voteCounts_iff] <;> rfl
    have hv : (match e.c.mods.toNat % 4 with
        | 0 => if mask.toNat = 0 then 0 else 1
        | 1 => if mask.toNat = e.lanes.toNat then 1 else 0
        | _ => mask.toNat) = if e.c.mods.toNat % 4 = 0 then (if mask = 0 then 0 else 1)
          else if e.c.mods.toNat % 4 = 1 then (if mask = e.lanes then 1 else 0) else mask.toNat := by
      have h0 : mask.toNat = 0 ↔ mask = 0 := by rw [← BitVec.toNat_inj]; rfl
      split <;> simp_all [BitVec.toNat_inj]
    simp only [hm]
    rw [← hv]
    exact Env.cross_answers h e.c _ 1 _
  · obtain rfl := h.code
    obtain ⟨rfl, rfl⟩ := redOp_redId hop
    rw [exec_redi, execRedi, runInstr_of h]
    exact Env.cross_answers h e.c _ _ _
  · obtain rfl := h.code
    obtain ⟨rfl, rfl⟩ := redOp_redId hop
    rw [exec_scani, execScani, runInstr_of h]
    have hbit : (e.c.mods.toNat / 8 % 2 == 1) = ex := by
      rw [← hex, Bool.eq_iff_iff, beq_iff_eq]
      exact (getLsbD_iff_div e.c.mods 3).symm
    simp only [hbit]
    exact Env.crossLanes_answers h _ _
  · obtain rfl := h.code
    rw [exec_rdlane, execRdlane, runInstr_of h]
    exact Env.crossUni_answers h _
  · obtain rfl := h.code
    rw [exec_wrlane, execWrlane, runInstr_of h]
    exact Env.result_answers h.1 (.refl s) _ rfl

/-! ## SOP, Table 13.6 -/

theorem exec_sop (c : Code) (s : State) : exec (.sop c) s = execSop c s := rfl

/-- Settles O13: the operation that `MODS` names, of the two sources. -/
theorem uniformOperations : Obligations.UniformOperations := by
  unfold Obligations.UniformOperations
  intro c s e h v hv
  obtain rfl := h.code
  have hval : sopVal (e.c.mods.toNat % 32) e.ity (e.intA 0) (e.intB 0) = v (e.intA 0) (e.intB 0) := by
    split at hv
    case h_19 => exact hv.elim
    all_goals
      next hn =>
        rw [hn, hv]
        simp [sopVal, min_def, max_def]
  rw [exec_sop, execSop, runInstr_of h]
  exact hval ▸ Env.result_answers h.1 (.refl s) _ rfl

end Sys2Proof.Machine
end

section
/-!
Fixed words and the fixed state: what some words of chapter 12 decode to, and what the registers hold right after reset.
-/
namespace Sys2Proof.Machine

/-- What a test of the decoder's answer finds holds of the instruction decoded. -/
theorem decodes_of_test {front : Bool} {bs : List Byte} {p : Instr → Bool} {len : Nat}
    (h : (match decode front bs with
      | .ok d => p d.instr && d.len == len
      | .error _ => false) = true) : ∃ d, decode front bs = .ok d ∧ p d.instr = true ∧ d.len = len := by
  split at h
  case h_1 d hd =>
    rw [Bool.and_eq_true, beq_iff_eq] at h
    exact ⟨d, hd, h⟩
  case h_2 => exact absurd h (by decide)

/-- Settles O55: each word, decoded by evaluation. -/
theorem decodeOfSpecWords : Obligations.DecodeOfSpecWords := by
  unfold Obligations.DecodeOfSpecWords
  intro is
  have test : ∀ {front bs p len}, _ → is front bs p len := @decodes_of_test
  clear_value is
  refine ⟨test ?_, test ?_, test ?_, test ?_, test ?_, test ?_, test ?_, test ?_⟩ <;> decide +kernel

/-! ## Reset -/

section
variable {r : Reg} {n : Nat}

/-- A register reads what its number is at reset. -/
theorem State.regValue_of (h : State.reset.regNat r = n) : State.reset.regValue r = BitVec.ofNat 64 n := congrArg _ h

/-- The words of a die at reset, whichever die is read. -/
theorem regNat_reset_die (d : Nat) : State.reset.regNat (.pwrStatus d) = Die.reset.pwr.reg ∧
    State.reset.regNat (.pwrCtl d) = Die.reset.pwr.opcap.toNat := ⟨rfl, rfl⟩

/-- The words of a context at reset, whichever context is read. -/
theorem regNat_reset_ctx (c : Nat) : State.reset.regNat (.ctxLeaseMax c) = Ctx.reset.lease.toNat ∧
    State.reset.regNat (.ctxPreemptLimit c) = Ctx.reset.preLimit.toNat ∧ State.reset.regNat (.numNbv c) = Ctx.reset.nbv.toNat ∧
    State.reset.regNat (.poolFlush c) = Ctx.reset.flush.toNat ∧ State.reset.regNat (.poolEnqres c) = Ctx.reset.enqres.toNat :=
  ⟨rfl, rfl, rfl, rfl, rfl⟩

/-- The words of a module or pod port at reset, whichever link is read. -/
theorem regNat_reset_link (lk : LinkId) : State.reset.regNat (.linkStatus lk) = Link.reset.statusReg ∧
    State.reset.regNat (.linkSeq lk) = Link.reset.seqReg ∧ State.reset.regNat (.linkErrthr lk) = Link.reset.regs.errThr.toNat ∧
    State.reset.regNat (.linkErrcnt lk) = Link.reset.regs.retrains.toNat * 2 ^ 48 + Link.reset.regs.protErr.toNat * 2 ^ 32
      + Link.reset.regs.crcErr.toNat ∧
    State.reset.regNat (.linkLanemap lk) = Link.reset.regs.laneMap.toNat := ⟨rfl, rfl, rfl, rfl, rfl⟩

/-- The word of a launch queue at reset, whichever is read. -/
theorem regNat_reset_queue (c q : Nat) : State.reset.regNat (.dispQstat c q) =
    LaunchQ.reset.drops.toNat * 2 ^ 16 + LaunchQ.reset.toks.length := rfl

/-- The rate of time of a socket at reset, whichever is read. -/
theorem regNat_reset_rate (k : Nat) : State.reset.regNat (.timeRate k) = TimeConv.reset.rate.toNat := rfl

/-- A number at reset, by evaluation of a term without the register's index. -/
theorem State.regValue_eval {m : Nat} (h : State.reset.regNat r = m) (hm : m = n) : State.reset.regValue r = BitVec.ofNat 64 n :=
  State.regValue_of (h.trans hm)

end

/-- Settles O59: each register's value at reset. -/
theorem resetState : Obligations.ResetState := by
  unfold Obligations.ResetState
  refine ⟨rfl, rfl, rfl, rfl, rfl, rfl, rfl, rfl, rfl, rfl, rfl, rfl, rfl, rfl, rfl, rfl, rfl, ?losts, ?ctxs, ?power, ?links, ?clocks⟩
  case losts => exact fun k => ⟨rfl, rfl, rfl⟩
  case ctxs =>
    intro c
    obtain ⟨lease, limit, nbv, flush, enqres⟩ := regNat_reset_ctx c
    exact ⟨State.regValue_eval lease (by decide +kernel), State.regValue_eval limit (by decide +kernel),
      State.regValue_eval nbv (by decide +kernel), State.regValue_eval flush (by decide +kernel),
      State.regValue_eval enqres (by decide +kernel), fun q => State.regValue_eval (regNat_reset_queue c q) (by decide +kernel)⟩
  case power =>
    intro d
    obtain ⟨status, ctl⟩ := regNat_reset_die d
    exact ⟨State.regValue_eval status (by decide +kernel), State.regValue_eval ctl (by decide +kernel)⟩
  case links =>
    intro lk
    obtain ⟨status, seq, thr, cnt, map⟩ := regNat_reset_link lk
    exact ⟨State.regValue_eval status (by decide +kernel), State.regValue_eval seq (by decide +kernel),
      State.regValue_eval thr (by decide +kernel), State.regValue_eval cnt (by decide +kernel),
      State.regValue_eval map (by decide +kernel)⟩
  case clocks => exact fun k => ⟨rfl, rfl, rfl, State.regValue_eval (regNat_reset_rate k) (by decide +kernel)⟩

end Sys2Proof.Machine
end

section
/-!
A step is the turn that the agenda has next: what each kind of turn does before the meaning of its instruction.
-/
namespace Sys2Proof.Machine

/-- The turn at the head of the agenda is the one that a step runs. -/
theorem step_of_agenda {s : State} {turn : Turn} {rest : List Turn} (h : s.agenda = turn :: rest) :
    step s = { s with agenda := rest }.runTurn turn := by
  unfold step State.nextTurn
  rw [h]

/-! ## Turns of a thread -/

/-- The turn of a thread that may issue runs the instruction that it picks. -/
theorem State.runTurn_issue {s v : State} {t : ThreadRef} {i : Instr} (hd : s.dieRuns t.die = true) (hf : s.frontBlocked t = false)
    (hp : s.pick t = (v, some i)) : s.runTurn (.issue t) = v.issue t i := by
  have ht : s.turn (.issue t) = (v, some i) := by simp [State.turn, hd, hf, hp]
  unfold State.runTurn
  rw [ht]

/-- An instruction whose sources need no cycles of collection does what it does. -/
theorem State.issue_at_once {s : State} {t : ThreadRef} {i : Instr} (h : (s.collecting t i).1 = false) : s.issue t i = exec i s := by
  unfold State.issue
  rcases hc : s.collecting t i with ⟨now, end_⟩
  rw [hc] at h
  subst h
  rfl

/-- One whose collection has not begun begins it, where the instruction would go on. -/
theorem State.issue_collects {s w : State} {t : ThreadRef} {i : Instr} (h : s.collecting t i = (true, none)) (hw : exec i s = .next w) :
    s.issue t i = .next (if s.gotOn w t = true then s.collect t i else w) := by
  unfold State.issue
  rw [h, hw]
  exact (apply_ite Host.Outcome.next ..).symm

/-- One whose collection has begun waits for its end, where the instruction would go on. -/
theorem State.issue_collected {s w : State} {t : ThreadRef} {i : Instr} {at_ : Nat} (h : s.collecting t i = (true, some at_))
    (hw : exec i s = .next w) : s.issue t i = .next (if s.cyc t.die < at_ ∧ s.gotOn w t = true then s else w) := by
  unfold State.issue
  rw [h, hw]
  simp only [Bool.and_eq_true, decide_eq_true_eq]
  exact (apply_ite Host.Outcome.next ..).symm

/-- A thread whose bytes decode, and which nothing keeps from issuing them, runs what they decode to. -/
theorem State.next_run {u : State} {t : ThreadRef} {cw : Crew} {b0 : Band} {bs more : List Byte} {d : Decoded} {opc : Nat} {c : Code}
    (hcw : u.crewOf t.crew = some cw) (hth : u.thread t = some b0) (hr : (b0.settle (u.cyc t.die) u.free).running = true)
    (hs : (b0.settle (u.cyc t.die) u.free).stopped = false) (hp : (b0.settle (u.cyc t.die) u.free).pending = none)
    (hc : cw.ctl.cancelled = false) (hsr : (b0.settle (u.cyc t.die) u.free).stopReq = none)
    (hpk : (b0.settle (u.cyc t.die) u.free).parked = none) (ho : (b0.settle (u.cyc t.die) u.free).x.phase.isOpen = true)
    (ha : (b0.settle (u.cyc t.die) u.free).asking u t (handleCtx cw.cfg.handle) = false)
    (hfront : t.band.isNone = true → (b0.settle (u.cyc t.die) u.free).frontHeld = false ∧
      (u.coreOf t.die t.core).sel.frontAt ≠ some (u.cyc t.die))
    (hband : t.band.isNone = false → u.barTrap t cw (b0.settle (u.cyc t.die) u.free) = none ∧
      (b0.settle (u.cyc t.die) u.free).bpHit = false ∧ (u.coreOf t.die t.core).inSet t = true ∧
      ∃ k, u.halfFor t (b0.settle (u.cyc t.die) u.free) (u.cyc t.die) = some k ∧
        pipeBusy (u.coreOf t.die t.core).sel opc k (u.cyc t.die) = false ∧ portTaken (u.coreOf t.die t.core).sel opc (u.cyc t.die) = false)
    (hcode : u.codeAt t.die t.core (handleCtx cw.cfg.handle) (b0.settle (u.cyc t.die) u.free).x.pc = (.bytes bs, more))
    (hd : decode t.band.isNone bs = .ok d) (hi : d.instr.code = some (opc, c))
    (hm : (b0.settle (u.cyc t.die) u.free).mayIssue c (u.cyc t.die) = true) : u.next t = .run d := by
  have hov : u.overdue t cw (b0.settle (u.cyc t.die) u.free) = false := by rw [State.overdue, hsr]
  unfold State.next State.nextIf
  rw [hcw, hth]
  cases hf : t.band.isNone with
  | true =>
    obtain ⟨hheld, hat⟩ := hfront hf
    rw [hf] at hd
    simp [hr, hs, hp, hc, hsr, hpk, ho, ha, hheld, hov, hcode, hd, hi, hm, hat]
  | false =>
    obtain ⟨hbar, hbp, hset, k, hhalf, hpipe, hport⟩ := hband hf
    rw [hf] at hd
    simp [hr, hs, hp, hc, hsr, hpk, ho, ha, hbar, hbp, hov, hcode, hd, hi, hm, hset, hhalf, hpipe, hport]

/-- A change of a core moves no die's clock. -/
@[simp] theorem State.cyc_updCore (s : State) (d c : Nat) (f : Core → Core) (k : Nat) : (s.updCore d c f).cyc k = s.cyc k := by
  by_cases h : k = d
  · subst h; simp [State.cyc, State.updCore, State.setCore, State.updDie]
  · simp [State.cyc, State.updCore, State.setCore, State.updDie, State.dieOf_setDie_ne _ _ h]

@[simp] theorem State.cyc_withCur (s : State) (t : ThreadRef) (k : Nat) : (s.withCur t).cyc k = s.cyc k := rfl

@[simp] theorem State.cyc_keepFetched (s : State) (t : ThreadRef) (k : Nat) : (s.keepFetched t).cyc k = s.cyc k := by
  unfold State.keepFetched
  split
  · dsimp only
    split
    · rfl
    · split <;> simp
  · rfl

/-- What picking a thread that runs its instruction gives. -/
theorem State.pick_run {s : State} {t : ThreadRef} {d : Decoded} (h : ((s.poll t).barPoll t).next t = .run d) :
    s.pick t = (((((s.poll t).barPoll t).keepFetched t).withCur t), some d.instr) := by
  unfold State.pick
  simp only [h]

/-! ## Events -/

/-- An event that may happen does what it does. -/
theorem State.runTurn_event {s : State} {at_ : ThreadRef} {unit : Nat} {i : Instr} (hc : i.code = none)
    (hd : Instr.onDie i = true → s.dieRuns at_.die = true) (hs : s.inSafeMode = true → Instr.inSafe i = true) :
    s.runTurn (.event at_ unit i) = exec i { s with cur := at_, unit := unit } := by
  have hm : s.mayHappen at_ i = true := by
    unfold State.mayHappen
    rw [hc, Option.isNone_none, Bool.true_and, Bool.and_eq_true, Bool.or_eq_true, Bool.or_eq_true, Bool.not_eq_true', Bool.not_eq_true']
    refine ⟨?_, ?_⟩
    · cases h : Instr.onDie i with
      | true => exact .inr (hd h)
      | false => exact .inl rfl
    · cases h : s.inSafeMode with
      | true => exact .inr (hs h)
      | false => exact .inl rfl
  unfold State.runTurn State.turn
  simp [hm]

/-! ## Packets -/

theorem any_sameRoute {qs : List Packet} {p : Packet} (h : ∀ q ∈ qs, Packet.sameRoute q p = false) :
    qs.any (fun q => Packet.sameRoute q p) = false := List.any_eq_false.2 fun q hq => by simp [h q hq]

/-- A packet that has the ring before it enters the ring. -/
theorem State.runTurn_deliver_ring {s : State} {n : Nat} {p : Packet} (hp : s.net[n]? = some p)
    (hq : ∀ q ∈ s.net.take n, Packet.sameRoute q p = false) (hl : s.tooLate p = false) (hr : Packet.onRing p = true)
    (hne : s.ringJoin p.hdr.srcSock.toNat ≠ s.ringEnd p) : s.runTurn (.deliver n) =
      .next { s with net := s.net.eraseIdx n, ring := s.ring ++ [(s.ringNext (s.ringJoin p.hdr.srcSock.toNat) (s.ringEnd p), p)] } := by
  simp [State.runTurn, State.turn, State.deliver, hp, any_sameRoute hq, hl, hr, hne]

/-- A packet that is the first of its route, and has no way by the ring before it, arrives. -/
theorem State.runTurn_deliver {s : State} {n : Nat} {p : Packet} (hp : s.net[n]? = some p)
    (hq : ∀ q ∈ s.net.take n, Packet.sameRoute q p = false) (hl : s.tooLate p = false)
    (hr : Packet.onRing p = false ∨
      (s.ringJoin p.hdr.srcSock.toNat = s.ringEnd p ∧ ∀ x ∈ s.ring, Packet.sameRoute x.2 p = false))
    (ht : s.takesPackets p.hdr.dstSock.toNat = true) :
    s.runTurn (.deliver n) = exec (Packet.instr p) { s with net := s.net.eraseIdx n } := by
  have ht' : State.takesPackets { s with net := s.net.eraseIdx n } p.hdr.dstSock.toNat = true := ht
  have hturn : s.turn (.deliver n) = ({ s with net := s.net.eraseIdx n }, some (Packet.instr p)) := by
    rcases hr with hr | ⟨hend, hring⟩
    · simp [State.turn, State.deliver, State.arrives, hp, any_sameRoute hq, hl, hr, ht']
    · have hring' : ∀ a b, (a, b) ∈ s.ring → Packet.sameRoute b p = false := fun a b h => hring (a, b) h
      simp [State.turn, State.deliver, State.arrives, hp, any_sameRoute hq, hl, hend, ht']
      exact fun _ => hring'
  unfold State.runTurn
  rw [hturn]

/-- A packet on the ring goes on to the next die where none of its route stands before it. -/
theorem State.runTurn_hop_on {s : State} {n d : Nat} {p : Packet} (hx : s.ring[n]? = some (d, p)) (hd : d ≠ s.ringEnd p)
    (ho : ∀ x ∈ (s.ring.take n).filter fun x => Packet.sameRoute x.2 p, x.1 ≠ d) :
    s.runTurn (.hop n) = .next { s with ring := s.ring.set n (s.ringNext d (s.ringEnd p), p) } := by
  have hany : ((s.ring.take n).filter fun x => Packet.sameRoute x.2 p).any (fun x => x.1 == d) = false :=
    List.any_eq_false.2 fun x h => by simpa using ho x h
  have hturn : s.turn (.hop n) = ({ s with ring := s.ring.set n (s.ringNext d (s.ringEnd p), p) }, none) := by
    unfold State.turn State.hop
    simp only [hx, hd, if_false, hany, Bool.false_eq_true] <;> rfl
  unfold State.runTurn
  rw [hturn]

/-- At its last die a packet that is the first of its route arrives. -/
theorem State.runTurn_hop_end {s : State} {n d : Nat} {p : Packet} (hx : s.ring[n]? = some (d, p)) (hd : d = s.ringEnd p)
    (ho : ((s.ring.take n).filter fun x => Packet.sameRoute x.2 p) = []) (hl : s.tooLate p = false)
    (ht : s.takesPackets p.hdr.dstSock.toNat = true) :
    s.runTurn (.hop n) = exec (Packet.instr p) { s with ring := s.ring.eraseIdx n } := by
  have ht' : State.takesPackets { s with ring := s.ring.eraseIdx n } p.hdr.dstSock.toNat = true := ht
  have hturn : s.turn (.hop n) = ({ s with ring := s.ring.eraseIdx n }, some (Packet.instr p)) := by
    unfold State.turn State.hop
    simp only [hx, hd, if_true, ho, List.isEmpty_nil, hl, Bool.not_false, Bool.and_self, State.arrives, ht'] <;> rfl
  unfold State.runTurn
  rw [hturn]

/-- Settles O57: each kind of turn by its own lemma. -/
theorem stepRunsDecoded : Obligations.StepRunsDecoded := by
  unfold Obligations.StepRunsDecoded
  refine ⟨?issue, ?event, ?deliver, ?hop⟩
  case issue =>
    intro s rest t cw b0 bs more d opc c s0 u now b ctx front sel v i
    intro hag hdie hfb hcw hth hr hs hp hc hsr hpk ho ha hfront hband hcode hd hi hm
    have hrun : s0.pick t = (v, some i) :=
      State.pick_run (State.next_run hcw hth hr hs hp hc hsr hpk ho ha hfront hband hcode hd hi hm)
    have hstep : step s = v.issue t i := (step_of_agenda hag).trans (State.runTurn_issue hdie hfb hrun)
    refine ⟨fun h => hstep.trans (State.issue_at_once h), fun h w hw => hstep.trans (State.issue_collects h hw),
      fun at_ w h hw => hstep.trans ?_⟩
    have hcyc : v.cyc t.die = now := (State.cyc_withCur ..).trans (State.cyc_keepFetched ..)
    rw [← hcyc]
    exact State.issue_collected h hw
  case event => exact fun s rest at_ unit i hag hc hd hs => (step_of_agenda hag).trans (State.runTurn_event hc hd hs)
  case deliver =>
    intro s rest n p s1 from_ end_ hag hp hq hl
    exact ⟨fun hr hne => (step_of_agenda hag).trans (State.runTurn_deliver_ring hp hq hl hr hne),
      fun hr ht => (step_of_agenda hag).trans (State.runTurn_deliver hp hq hl hr ht)⟩
  case hop =>
    intro s rest n d p hag hx older end_
    exact ⟨fun hd ho => (step_of_agenda hag).trans (State.runTurn_hop_on hx hd ho),
      fun hd ho hl ht => (step_of_agenda hag).trans (State.runTurn_hop_end hx hd ho hl ht)⟩

end Sys2Proof.Machine
end

section
/-!
The bytes of the scratch spaces: what a stored byte reads back as, what stays, what an atomic makes of its location, and what a read of
uninitialised words does.
-/
namespace Sys2Proof.Machine

/-! ## Clearing memory -/

theorem Memory.clear_cons (k : Nat) (v : Byte) (m : List Host.Cell) (a n : Nat) : Memory.clear ((k, v) :: m) a n =
    if k < a ∨ a + n ≤ k then (k, v) :: Memory.clear m a n else Memory.clear m a n := by
  simp [Memory.clear, List.filter_cons]

/-- Cleared keys read as 0, and the others as before. -/
theorem Memory.read_clear_from (a n j : Nat) (m : List Host.Cell) : ∀ {lo : Option Nat}, Memory.wfFrom lo m = true →
    Memory.read (Memory.clear m a n) j = if a ≤ j ∧ j < a + n then 0 else Memory.read m j := by
  induction m with
  | nil => intro lo _; simp [Memory.clear, Memory.read]
  | cons c m ih =>
    intro lo h
    obtain ⟨k, v⟩ := c
    obtain ⟨-, hv, hm⟩ := Memory.wfFrom_cons.1 h
    rw [Memory.clear_cons]
    by_cases hk : k < a ∨ a + n ≤ k
    · rw [if_pos hk, Memory.read, Memory.read, ih hm]
      by_cases hj : a ≤ j ∧ j < a + n
      · have hne : j ≠ k := by omega
        simp [hj, hne]
      · simp only [hj, if_false]
    · rw [if_neg hk, ih hm, Memory.read]
      by_cases hj : a ≤ j ∧ j < a + n
      · simp only [hj, and_self, if_true]
      · have hne : j ≠ k := by omega
        simp only [hj, hne, if_false]
        split
        · exact Memory.read_below hm (by omega)
        · rfl

theorem Memory.read_clear {m : List Host.Cell} (h : Memory.wf m = true) (a n j : Nat) :
    Memory.read (Memory.clear m a n) j = if a ≤ j ∧ j < a + n then 0 else Memory.read m j := Memory.read_clear_from a n j m h

/-! ## Storing a byte -/

section
variable {s : State} {d : Nat} {p : Spot} (v : Byte)

/-- A byte stored in an initialised word, or in a space that has none, is written and nothing else changes. -/
theorem State.putSpot_valid (h : s.validAt d p.word = true) : s.putSpot d p v = s.writeKey p.key [v] := by
  unfold State.putSpot
  split
  · rfl
  · rw [if_pos h]

/-- A byte stored in an uninitialised word initialises it: its other bytes are cleared. -/
theorem State.putSpot_invalid {w : Nat × Nat} (hw : p.word = some w) (h : s.validAt d p.word = false) :
    s.putSpot d p v = ((s.clearKey (coreKey d w.1 (4 * w.2)) 4).writeKey p.key [v]).updCore d w.1
      fun c => { c with valid := c.valid.set w.2 true } := by
  unfold State.putSpot
  rw [hw]
  rw [hw] at h
  simp only [h, Bool.false_eq_true, if_false]

theorem State.validAt_writeKey (w : Option (Nat × Nat)) (k : Nat) (bs : List Byte) : (s.writeKey k bs).validAt d w = s.validAt d w := by
  cases w <;> rfl

theorem State.read_writeKey_byte (hs : s.MemCanonical) (k j : Nat) :
    Memory.read (s.writeKey k [v]).mem j = if j = k then v else Memory.read s.mem j := by
  split
  · next h => rw [h]; exact Memory.read_write_self hs k v
  · next h => exact Memory.read_write_ne hs v h

/-- What memory holds after a byte is stored: the byte, in an uninitialised word zeros beside it, and what it held elsewhere. -/
theorem State.read_putSpot (hs : s.MemCanonical)
    (hal : ∀ c w, p.word = some (c, w) → p.key / 4 = coreKey d c (4 * w) / 4 ∧ coreKey d c (4 * w) % 4 = 0) (k : Nat) :
    Memory.read (s.putSpot d p v).mem k =
      if k = p.key then v else if k / 4 = p.key / 4 ∧ s.validAt d p.word = false then 0 else Memory.read s.mem k := by
  cases h : s.validAt d p.word with
  | true =>
    rw [State.putSpot_valid v h, State.read_writeKey_byte v hs]
    simp
  | false =>
    match hw : p.word with
    | none => rw [hw] at h; exact absurd h (by simp [State.validAt])
    | some (c, w) =>
      obtain ⟨hkey, halign⟩ := hal c w hw
      have hclear : (s.clearKey (coreKey d c (4 * w)) 4).MemCanonical := Memory.wf_clear hs _ _
      rw [State.putSpot_invalid v hw h, State.updCore_mem, State.read_writeKey_byte v hclear]
      have hread : Memory.read (s.clearKey (coreKey d c (4 * w)) 4).mem k = _ := Memory.read_clear hs (coreKey d c (4 * w)) 4 k
      rw [hread]
      congr 1
      simp only [and_true]
      exact if_congr (by omega) rfl rfl

/-- After a byte is stored its word is initialised. -/
theorem State.validAt_putSpot : (s.putSpot d p v).validAt d p.word = true := by
  cases h : s.validAt d p.word with
  | true => rw [State.putSpot_valid v h, State.validAt_writeKey, h]
  | false =>
    match hw : p.word with
    | none => rfl
    | some (c, w) =>
      rw [State.putSpot_invalid v hw h]
      simp [State.validAt, State.updCore]

theorem State.putSpot_canonical (hs : s.MemCanonical) : (s.putSpot d p v).MemCanonical := State.putSpot_wf s d p v hs

end

/-- Settles O22: what memory holds after the store, at the key of the byte, in its word and elsewhere. -/
theorem scratchBytes : Obligations.ScratchBytes := by
  unfold Obligations.ScratchBytes
  intro s d p v hs hal
  have hread := State.read_putSpot v hs hal
  refine ⟨State.putSpot_canonical v hs, ?_, State.validAt_putSpot v, fun q hq hw hk => ?_, fun k hk hout => ?_⟩
  · rw [State.getSpot, if_pos (State.validAt_putSpot v), hread, if_pos rfl]
  · rw [State.getSpot, State.getSpot, hw, if_pos (State.validAt_putSpot v), hread, if_neg hq]
    cases s.validAt d p.word <;> simp [hk]
  · rw [hread, if_neg hk, if_neg]
    rintro ⟨h4, hval⟩
    rcases hout with h | h
    · exact h h4
    · rw [hval] at h; exact absurd h (by decide)

/-! ## What an atomic makes of its location -/

/-- Bytes written back as the number that they stand for are themselves. -/
theorem leBytes_leNat (bs : List Byte) : leBytes bs.length (leNat bs) = bs := by
  induction bs with
  | nil => rfl
  | cons b bs ih =>
    have hb : b.toNat < 256 := b.isLt
    rw [List.length_cons, leBytes, leNat]
    congr 1
    · apply BitVec.eq_of_toNat_eq
      rw [BitVec.toNat_ofNat]
      omega
    · rw [show (b.toNat + 256 * leNat bs) / 256 = leNat bs by omega, ih]

theorem leNat_lt (bs : List Byte) : leNat bs < 2 ^ (8 * bs.length) := by
  induction bs with
  | nil => decide
  | cons b bs ih =>
    have hb : b.toNat < 256 := b.isLt
    have hp : 2 ^ (8 * (bs.length + 1)) = 256 * 2 ^ (8 * bs.length) := by rw [Nat.mul_add, Nat.pow_add]; omega
    rw [List.length_cons, leNat, hp]
    omega

theorem atomBytes_leNat (bs : List Byte) : atomBytes bs.length (leNat bs) = bs := by
  rw [atomBytes, Nat.mod_eq_of_lt (leNat_lt bs), leBytes_leNat]

@[simp] theorem State.getScr_length (s : State) (r : CrewRef) (cw : Crew) (sp : Space) (laneCtx off n : Nat) :
    (s.getScr r cw sp laneCtx off n).length = n := by simp [State.getScr]

section
variable (e : Env) (cw : Crew) (sp : Space) (m : MemOp) (t : Touch) (s : State)

/-- An atomic answers the old bytes. -/
theorem Env.scratchAtomic_old :
    (e.scratchAtomic cw sp m t s).1 = s.getScr e.t.crew cw sp (e.laneCtx cw t.lane) t.addr.toNat m.len := by
  unfold Env.scratchAtomic
  dsimp only
  split <;> rfl

/-- It writes its result, but an amax update without an operand. -/
theorem Env.scratchAtomic_new (h : m.op = 9 → m.operands.find? t.lane ≠ none) : (e.scratchAtomic cw sp m t s).2.2 =
    s.putScr e.t.crew cw sp (e.laneCtx cw t.lane) t.addr.toNat (atomBytes m.len
      (atomResult m.op m.len m.signed (leNat (s.getScr e.t.crew cw sp (e.laneCtx cw t.lane) t.addr.toNat m.len))
        (m.operands.get 0 t.lane).toNat (m.expects.get 0 t.lane).toNat).1) := by
  unfold Env.scratchAtomic
  dsimp only
  rw [if_neg]
  rintro ⟨hop, hnone⟩
  exact h hop (Option.isNone_iff_eq_none.1 hnone)

/-- An amax update without an operand writes its location back. -/
theorem Env.scratchAtomic_absent (hop : m.op = 9) (h : m.operands.find? t.lane = none) : (e.scratchAtomic cw sp m t s).2.2 =
    s.putScr e.t.crew cw sp (e.laneCtx cw t.lane) t.addr.toNat (atomBytes m.len
      (leNat (s.getScr e.t.crew cw sp (e.laneCtx cw t.lane) t.addr.toNat m.len))) := by
  have hb := atomBytes_leNat (s.getScr e.t.crew cw sp (e.laneCtx cw t.lane) t.addr.toNat m.len)
  rw [State.getScr_length] at hb
  unfold Env.scratchAtomic
  dsimp only
  rw [hb, if_pos ⟨hop, by rw [h]; rfl⟩]

end

/-- The result of an interval addition at one of the three widths. -/
theorem atomResult_fadd {len : Nat} {f : Fmt} (h : (len = 4 ∧ f = f16) ∨ (len = 8 ∧ f = f32) ∨ (len = 16 ∧ f = f64)) (signed : Bool)
    (old x y : Nat) : (atomResult 8 len signed old x y).1 =
      (f.image [(f.readPair old).1, (f.readPair x).1] ⟨ivAdd (f.readPair old).1 (f.readPair x).1, false⟩).bits := by
  rcases h with ⟨rfl, rfl⟩ | ⟨rfl, rfl⟩ | ⟨rfl, rfl⟩ <;> rfl

/-- Settles O24: Table 15.6, an operation at a time. -/
theorem atomicOperations : Obligations.AtomicOperations := by
  unfold Obligations.AtomicOperations
  intro e cw sp m t s ty bytes old x puts r
  have new : ∀ {n k : Nat}, m.op = n → n ≠ 9 → (atomResult n m.len m.signed old x (m.expects.get 0 t.lane).toNat).1 = k →
      r.2.2 = puts k := by
    intro n k hop hn hk
    rw [← hk, ← hop]
    exact e.scratchAtomic_new cw sp m t s fun h => absurd (hop.symm.trans h) hn
  refine ⟨e.scratchAtomic_old cw sp m t s, fun h => new h (by decide) rfl, fun h => new h (by decide) ?min,
    fun h => new h (by decide) ?max, fun h => new h (by decide) rfl, fun h => new h (by decide) rfl, fun h => new h (by decide) rfl,
    fun h => new h (by decide) rfl, fun h => new h (by decide) rfl, fun h f hf => new h (by decide) (atomResult_fadd hf ..),
    fun h => ?amax, fun h => new h (by decide) rfl⟩
  case min => exact congrArg ty.bitsOf (min_def (ty.read old) (ty.read x)).symm
  case max => exact congrArg ty.bitsOf (max_def (ty.read old) (ty.read x)).symm
  case amax =>
    split
    · next hnone => exact e.scratchAtomic_absent cw sp m t s h hnone
    · next hsome =>
      have hput := e.scratchAtomic_new cw sp m t s fun _ => hsome
      rw [h] at hput
      exact hput

/-! ## Reads of uninitialised words -/

/-- Settles O26: the branches of the initialisation test. -/
theorem uninitialisedReads : Obligations.UninitialisedReads := by
  unfold Obligations.UninitialisedReads
  intro e s cw sp ts k l a rest hu
  have hsp : sp = .core ∨ sp = .clus := by
    by_contra hsp
    rw [Env.uninits, if_neg hsp] at hu
    exact absurd hu (by simp)
  refine ⟨hsp, fun hlog => ⟨maskOf 64 fun i => ((l, a) :: rest).any fun x => x.1 == i, ?_, fun i hi => ?_⟩, fun hlog => ?_⟩
  · unfold Env.initCheck
    rw [hu, hlog]
    rcases hsp with rfl | rfl <;> rfl
  · rw [getLsbD_maskOf 64 _ hi]
    simp only [hi, decide_true, Bool.true_and, List.any_cons, Bool.or_eq_true, beq_iff_eq, List.any_eq_true]
    rw [eq_comm]
  · unfold Env.initCheck
    rw [hu, hlog]
    rfl

end Sys2Proof.Machine
end

section
/-!
The end of an instruction in an environment of its own making: one whose region was opened first, or whose free choices were counted on, in
a state that the instruction has already changed outside its crews.
-/
namespace Sys2Proof.Machine

/-- The environment's thread is there, and it is a front context exactly where it has no band. -/
structure Env.Placed (e : Env) (s : State) : Prop where
  thread : (s.thread e.t).isSome
  front : e.front = e.t.band.isNone

section
variable {e e' : Env} {s s' : State}

theorem Env.Placed.of_mkEnv {opc : Nat} {c : Code} (h : mkEnv opc c s = some e) : e.Placed s := ⟨mkEnv_thread h, mkEnv_front h⟩

theorem Env.Placed.same (h : e.Placed s) (k : e.Same e') : e'.Placed s :=
  ⟨by rw [k.t]; exact h.thread, by rw [k.front, k.t]; exact h.front⟩

/-- It is so in every state with the same crews. -/
theorem Env.Placed.crews (h : e.Placed s) (hc : ∀ r, s'.crewOf r = s.crewOf r) : e.Placed s' :=
  ⟨by unfold State.thread; rw [hc]; exact h.thread, h.front⟩

/-- The end of an instruction, in whatever environment that stands at the same place. -/
theorem Env.Same.ends (k : e.Same e') {o : Out} {pc : PCW} {b1 : Band} {ps : List Pend} (h : Ends e s o pc b1 ps) :
    Ends e' s o pc b1 ps := by
  obtain ⟨t, b, ho, ht, hpc, hp, hf, hb, hout, hothers⟩ := h
  exact ⟨t, b, ho, by rw [k.t]; exact ht, by rw [k.lands]; exact hpc, hp, by rw [k.flag]; exact hf, hb, hout, by rw [k.t]; exact hothers⟩

theorem Env.Same.endsNew (k : e.Same e') {o : Out} {pc : PCW} {b1 : Band} {ps : List Pend} (h : EndsNew e s o pc b1 ps) :
    EndsNew e' s o pc b1 ps := by
  obtain ⟨t, b, ho, ht, hpc, hp, hf, hb, hr, hout, hothers⟩ := h
  exact ⟨t, b, ho, by rw [k.t]; exact ht, by rw [k.lands]; exact hpc, hp, by rw [k.flag]; exact hf, hb, hr, hout, by rw [k.t]; exact hothers⟩

/-- The end of an instruction whose thread differs from `b1` in issue state, flags and results only. -/
theorem Env.Placed.commit_ends (h : e.Placed s) (pc : PCW) (b1 b : Band) (ps : List Pend) (hpc : b.x.pc = pc)
    (hp : b.pends = b1.pends ++ ps) (hf : b.flags = (b1.flagUp e.flag).flags) (hb : SameThread b1 b) :
    Ends e s (.next (e.commit b s)) pc b1 ps := by
  obtain ⟨h1, h2, h3⟩ := e.commit_spec b s h.thread h.front
  exact ⟨_, _, rfl, h1, by rw [hpc], hp, hf, hb, h3, h2⟩

theorem Env.Placed.pend_ends (h : e.Placed s) (pc : PCW) (b1 : Band) (p : Pend) (hf : p.flag = e.flag) :
    Ends e s (.next (e.commit ((e.advance pc b1).pend p) s)) pc b1 [p] := by
  apply h.commit_ends <;> rw [Band.pend_eq]
  · rfl
  · rfl
  · simp only [hf]; cases e.flag <;> rfl
  · simp only [hf]; cases e.flag <;> rfl

/-- An instruction that ends without a result, and leaves its thread as `b1` but for its issue state. -/
theorem Env.Placed.finish_goes (h : e.Placed s) (pc : PCW) (b1 b : Band) (hx : { b with x := b1.x } = b1) :
    Goes e s (e.finish pc b s) pc b1 := by
  have hb : b = { b1 with x := b.x } := by rw [← hx]
  generalize b.x = x at hb
  subst hb
  unfold Goes Env.flagOnly Env.finish Env.done
  cases hf : e.flag with
  | none =>
    apply h.commit_ends
    · rfl
    · simp [Env.advance]
    · simp [hf, Band.flagUp, Env.advance]
    · rfl
  | some f =>
    apply h.commit_ends <;> dsimp only <;> rw [Band.pend_eq]
    · rfl
    · rfl
    · have hfix : (e.fixed 1 [] none 0).flag = e.flag := rfl
      rw [hfix, hf]
      rfl
    · rfl

/-- The thread after an instruction without a result: its issue state is that of the band that it leaves, moved on. -/
theorem Env.Placed.done_thread (h : e.Placed s) (pc : PCW) (b : Band) :
    ∃ b', (e.done pc b s).thread e.t = some b' ∧ b'.x = { (e.advance pc b).x with pc := e.lands s pc } := by
  unfold Env.done
  cases e.flag with
  | none => exact ⟨_, (e.commit_spec _ s h.thread h.front).1, rfl⟩
  | some f =>
    refine ⟨_, (e.commit_spec _ s h.thread h.front).1, ?_⟩
    rw [Band.pend_eq]
    rfl

/-- The end of a committing instruction. -/
theorem Env.Placed.commitNew_ends (h : e.Placed s) (free : Nat) (pc : PCW) (b1 b : Band) (ps : List Pend) (hpc : b.x.pc = pc)
    (hp : b.pends = b1.pends ++ ps) (hf : b.flags = (b1.flagUp e.flag).flags) (hb : SameThread b1 b) :
    EndsNew e s (.next (e.commitNew free b s)) pc b1 ps := by
  obtain ⟨h1, h2, h3⟩ := e.commit_spec b s h.thread h.front
  generalize hb' : ({ b with x := { b.x with pc := e.lands s b.x.pc } } : Band) = b' at h1
  have hsame : SameThread b1 b' := by subst hb'; unfold SameThread at hb ⊢; rw [← hb]
  have hpends : b'.pends = b1.pends ++ ps := by subst hb'; exact hp
  have hflags : b'.flags = (b1.flagUp e.flag).flags := by subst hb'; exact hf
  have hat : b'.x.pc = e.lands s pc := by subst hb'; rw [← hpc]
  refine ⟨_, b'.openRegion free b'.x.pc, rfl, ?_, ?_, ?_, ?_, ?_, ?_, ?_, ?_⟩
  · show ((e.commit b s).updThread e.t fun b => b.openRegion free b.x.pc).thread e.t = _
    rw [State.thread_updThread, if_pos rfl, h1]; rfl
  · rw [Band.openRegion_same]; exact hat
  · rw [Band.openRegion_same]; exact hpends
  · rw [Band.openRegion_same]; exact hflags
  · rw [Band.openRegion_same]
    unfold SameThread at hsame ⊢
    rw [← hsame]
  · have htrap : b1.trapPriv = b'.trapPriv := by unfold SameThread at hsame; rw [← hsame]
    have hregion : b1.region = b'.region := by unfold SameThread at hsame; rw [← hsame]
    rw [htrap, hregion]
    unfold Band.openRegion
    by_cases hv : b'.trapPriv <;> simp [hv]
  · exact h3.trans ((SameOutside.updThread ..).trans (SameOutside.free ..))
  · exact h2.trans (SameOthers.updThread _ _ _)

theorem Env.Placed.pendNew_ends (h : e.Placed s) (free : Nat) (pc : PCW) (b1 : Band) (p : Pend) (hf : p.flag = e.flag) :
    EndsNew e s (.next (e.commitNew free ((e.advance pc b1).pend p) s)) pc b1 [p] := by
  apply h.commitNew_ends <;> rw [Band.pend_eq]
  · rfl
  · rfl
  · simp only [hf]; cases e.flag <;> rfl
  · simp only [hf]; cases e.flag <;> rfl

/-- A committing instruction that needs no acknowledgement. -/
theorem Env.Placed.committedEnd_goes (h : e.Placed s) (b1 : Band) : GoesNew e s (e.committedEnd b1 s) e.next b1 := by
  unfold GoesNew Env.flagOnly Env.committedEnd
  cases hf : e.flag with
  | none =>
    apply h.commitNew_ends
    · rfl
    · simp [Env.advance]
    · simp [hf, Band.flagUp, Env.advance]
    · rfl
  | some f => exact h.pendNew_ends _ _ _ _ rfl

end

/-! ## A region of an instruction's own -/

/-- An environment in which the instruction has opened its own region is at the same place. -/
theorem Env.same_ownRegion (e : Env) (own : Bool) : e.Same (e.ownRegion own) := by
  unfold Env.ownRegion
  split
  · exact ⟨rfl, rfl, rfl, by rw [Band.openRegion_same]⟩
  · exact .refl e

end Sys2Proof.Machine
end

section
/-!
Regions and merging: RGN and MRG.
-/
namespace Sys2Proof.Machine

theorem exec_rgn (c : Code) (s : State) : exec (.rgn c) s = execRgn c s := rfl
theorem exec_mrg (c : Code) (s : State) : exec (.mrg c) s = execMrg c s := rfl

/-- An instruction that also changes the issue state of its thread, where it stands aside, ends as before. -/
theorem Ends.updThread {e : Env} {s t : State} {pc : PCW} {b1 : Band} {ps : List Pend} (h : Ends e s (.next t) pc b1 ps)
    (f : Exec → Exec) (hf : ∀ x, (f x).pc = x.pc) : Ends e s (.next (t.updThread e.t fun b => { b with x := f b.x })) pc b1 ps := by
  obtain ⟨t', b, ho, ht, hpc, hp, hfl, hb, hout, hothers⟩ := h
  obtain rfl : t = t' := by injection ho
  refine ⟨_, { b with x := f b.x }, rfl, ?_, (hf _).trans hpc, hp, hfl, hb, hout.trans (SameOutside.updThread ..),
    hothers.trans (SameOthers.updThread _ _ _)⟩
  rw [State.thread_updThread, if_pos rfl, ht, Option.map_some]

/-- With no result on its way the registers have landed. -/
theorem Band.landed_of_nil {b : Band} (h : b.pends = []) (free : Nat) : b.landed free = b.r := by
  unfold Band.landed
  rw [h]
  rfl

/-- The band as `RGN` leaves it: its region opened here, and its working set that of the command word. -/
def Env.rgnBand (e : Env) : Band :=
  let b := e.b.openRegion (e.free + e.used) e.b.x.pc
  { b with x := { b.x with workSet := rgnSlots e.c.payload e.regs, near := nearFill (rgnSlots e.c.payload e.regs) } }

theorem Env.rgnBand_same (e : Env) : { e.rgnBand with x := e.b.x } = { e.b with region := if e.b.trapPriv then e.b.region
    else { restart := e.b.x.pc, tag := e.b.region.tag + 1, snap := e.b.landed (e.free + e.used), stores := 0 } } := by
  unfold Env.rgnBand Band.openRegion
  cases h : e.b.trapPriv with
  | true => rfl
  | false =>
    simp only [Bool.false_eq_true, if_false]
    rw [h]

theorem exec_rgn_of {c : Code} {s : State} {e : Env} (h : Issues 0x51 c s e) (hc : e.b.committed = true) :
    exec (.rgn c) s = { e with free := e.free + 65 }.finish e.next e.rgnBand s := by
  have hcode : e.c = c := h.code
  rw [exec_rgn, execRgn, runInstr_of h, hc, Env.rgnBand, hcode]
  rfl

theorem exec_rgn_goes {c : Code} {s : State} {e : Env} (h : Issues 0x51 c s e) (hc : e.b.committed = true) :
    Goes e s (exec (.rgn c) s) e.next { e.b with region := if e.b.trapPriv then e.b.region
      else { restart := e.b.x.pc, tag := e.b.region.tag + 1, snap := e.b.landed (e.free + e.used), stores := 0 } } := by
  have hsame : e.Same { e with free := e.free + 65 } := ⟨rfl, rfl, rfl, rfl⟩
  rw [exec_rgn_of h hc]
  exact ((Env.Placed.of_mkEnv h.1).same hsame).finish_goes e.next _ e.rgnBand e.rgnBand_same

theorem exec_rgn_workSet {c : Code} {s : State} {e : Env} (h : Issues 0x51 c s e) (hc : e.b.committed = true) :
    ∃ t b, exec (.rgn c) s = .next t ∧ t.thread e.t = some b ∧ b.x.workSet = rgnSlots c.payload e.regs := by
  have hcode : e.c = c := h.code
  have hsame : e.Same { e with free := e.free + 65 } := ⟨rfl, rfl, rfl, rfl⟩
  obtain ⟨b, hb, hx⟩ := ((Env.Placed.of_mkEnv h.1).same hsame).done_thread e.next e.rgnBand
  refine ⟨_, b, exec_rgn_of h hc, hb, ?_⟩
  rw [← hcode, hx]
  rfl

/-- Settles O18: `RGN` by its end, `MRG` by whether the band is a candidate. -/
theorem regionsAndMerging : Obligations.RegionsAndMerging := by
  unfold Obligations.RegionsAndMerging
  refine ⟨fun c s e h hc => ?rgn, fun c s e cw h hcw hc hflags hjq => ?mrg⟩
  case rgn =>
    obtain ⟨t, b, hexec, hb, hwork⟩ := exec_rgn_workSet h hc
    exact ⟨t, b, _, hexec, hb, hwork, fun hp => Band.landed_of_nil hp _, exec_rgn_goes h hc⟩
  case mrg =>
    have hcw' : s.crewOf e.t.crew = some cw := hcw
    have hf : (e.b.flags.any fun f => f.2 != 0) = false := List.any_eq_false.2 fun f hf => by simp [hflags f hf]
    have hj : ((s.coreOf e.t.die e.t.core).jq ++ cw.ctl.jsaved).any (fun o => o.thread == e.t) = false :=
      List.any_eq_false.2 fun o ho => by simp [hjq o ho]
    refine ⟨fun hcand => ?_, fun hcand hpartner => ?_⟩
    · have hexec : exec (.mrg c) s = e.committedEnd e.b s := by
        rw [exec_mrg, execMrg, runInstr_of h]
        simp [hcw', hc, hf, hj, hcand]
      rw [hexec]
      exact Env.committedEnd_goes h.1 (SameCrews.refl s) e.b
    · have hexec : exec (.mrg c) s = .next ((e.done e.b.x.pc e.b s).updThread e.t fun b =>
          { b with x := { b.x with phase := .merging e.now } }) := by
        rw [exec_mrg, execMrg, runInstr_of h]
        simp [hcw', hc, hf, hj, hcand, hpartner]
      have hdone : Goes e s (.next (e.done e.b.x.pc e.b s)) e.b.x.pc e.b := Env.finish_goes h.1 (SameCrews.refl s) e.b.x.pc e.b
      refine ⟨by rw [hexec]; exact hdone.updThread (fun x => { x with phase := .merging e.now }) fun _ => rfl, ?_⟩
      obtain ⟨t', b, ho, hb, -⟩ := hdone
      obtain rfl : e.done e.b.x.pc e.b s = t' := by injection ho
      refine ⟨_, { b with x := { b.x with phase := .merging e.now } }, hexec, ?_, rfl⟩
      rw [State.thread_updThread, if_pos rfl, hb, Option.map_some]

end Sys2Proof.Machine
end

section
/-!
EXIT and TEND: what the end of lanes, of tasks and of a band does to the thread and to the live work of its grid.
-/
namespace Sys2Proof.Machine

theorem exec_exit (c : Code) (s : State) : exec (.exit c) s = execExit c s := rfl
theorem exec_tend (c : Code) (s : State) : exec (.tend c) s = execTend c s := rfl

/-! ## The dies under packets and counters -/

@[simp] theorem State.toPod_getD_dies (s : State) (iod : Nat) (p : Packet) : ((s.toPod iod p).getD s).dies = s.dies := by
  unfold State.toPod
  cases s.podPortFor iod p.hdr <;> rfl

@[simp] theorem State.send_dies (s : State) (h : PktHdr) (b : Body) : (s.send h b).dies = s.dies := by
  unfold State.send
  split
  · rfl
  · exact State.toPod_getD_dies ..

@[simp] theorem State.barSend_dies (s : State) (d : Nat) (h : Handle) (tgt : Nat × Nat) (kind roster gen : Nat) (cpl br : Bool) :
    (s.barSend d h tgt kind roster gen cpl br).dies = s.dies := State.send_dies ..

@[simp] theorem State.barArrive_dies (s : State) (d : Nat) (h : Handle) (kind roster gen : Nat) :
    (s.barArrive d h kind roster gen).dies = s.dies := by
  unfold State.barArrive
  split
  · exact State.barSend_dies ..
  · rfl

@[simp] theorem State.barNudge_dies (s : State) (d : Nat) (h : Handle) : (s.barNudge d h).dies = s.dies := by
  unfold State.barNudge
  exact foldl_keeps (P := fun x : State => x.dies = s.dies) rfl fun x y hx => by rw [State.barArrive_dies, hx]

theorem State.dieOf_of_dies {s t : State} (h : t.dies = s.dies) (d : Nat) : t.dieOf d = s.dieOf d := by unfold State.dieOf; rw [h]

theorem State.crewOf_of_dies {s t : State} (h : t.dies = s.dies) (r : CrewRef) : t.crewOf r = s.crewOf r := by
  unfold State.crewOf State.coreOf
  rw [State.dieOf_of_dies h]

theorem State.thread_of_dies {s t : State} (h : t.dies = s.dies) (u : ThreadRef) : t.thread u = s.thread u := by
  unfold State.thread
  rw [State.crewOf_of_dies h]

theorem State.gridDie_of_rest {s t : State} {d : Nat} (h : (t.dieOf d).rest = (s.dieOf d).rest) (g : Handle) :
    t.gridDie d g = s.gridDie d g := by
  have hd : (t.dieOf d).disp = (s.dieOf d).disp := by
    have := congrArg Die.disp h
    exact this
  unfold State.gridDie
  rw [hd]

/-- A change of a die that keeps its cores changes no crew. -/
theorem State.crewOf_updDie (s : State) (d : Nat) (f : Die → Die) (hf : ∀ x, (f x).cores = x.cores) (r : CrewRef) :
    (s.updDie d f).crewOf r = s.crewOf r := by
  unfold State.crewOf State.coreOf State.updDie
  by_cases h : r.die = d
  · rw [h, State.dieOf_setDie, hf]
  · rw [State.dieOf_setDie_ne _ _ h]

theorem State.thread_updDie (s : State) (d : Nat) (f : Die → Die) (hf : ∀ x, (f x).cores = x.cores) (t : ThreadRef) :
    (s.updDie d f).thread t = s.thread t := by
  unfold State.thread
  rw [State.crewOf_updDie s d f hf]

@[simp] theorem State.crewOf_liveSub (s : State) (d : Nat) (h : Handle) (n : Nat) (r : CrewRef) :
    (s.liveSub d h n).crewOf r = s.crewOf r := by
  unfold State.liveSub State.updGridDie State.updDisp
  apply State.crewOf_updDie
  intro x
  rfl

@[simp] theorem State.thread_liveSub (s : State) (d : Nat) (h : Handle) (n : Nat) (t : ThreadRef) :
    (s.liveSub d h n).thread t = s.thread t := by
  unfold State.liveSub State.updGridDie State.updDisp
  apply State.thread_updDie
  intro x
  rfl

theorem State.gridDie_liveSub (s : State) (d : Nat) (h : Handle) (n : Nat) :
    (s.liveSub d h n).gridDie d h = { s.gridDie d h with live := (s.gridDie d h).live - n } := by
  simp [State.liveSub, State.updGridDie, State.updDisp, State.updDie, State.gridDie]

/-! ## Writes that reach the registers of a crew -/

/-- A state that differs in no thread, in no die but for its cores, and in no crew's launch. -/
structure CtlOnly (s t : State) : Prop where
  thread : ∀ u, t.thread u = s.thread u
  cfg : ∀ r, (t.crewOf r).map Crew.cfg = (s.crewOf r).map Crew.cfg
  die : ∀ d, (t.dieOf d).rest = (s.dieOf d).rest

theorem CtlOnly.refl (s : State) : CtlOnly s s := ⟨fun _ => rfl, fun _ => rfl, fun _ => rfl⟩

theorem CtlOnly.trans {s t u : State} (h : CtlOnly s t) (k : CtlOnly t u) : CtlOnly s u :=
  ⟨fun v => (k.thread v).trans (h.thread v), fun r => (k.cfg r).trans (h.cfg r), fun d => (k.die d).trans (h.die d)⟩

theorem CtlOnly.foldl {α : Type} {f : State → α → State} (h : ∀ s x, CtlOnly s (f s x)) (l : List α) (s : State) :
    CtlOnly s (l.foldl f s) := foldl_keeps (P := fun t => CtlOnly s t) (.refl s) fun t x ht => ht.trans (h t x)

theorem State.rest_updCrew (s : State) (r : CrewRef) (f : Crew → Crew) (d : Nat) : ((s.updCrew r f).dieOf d).rest = (s.dieOf d).rest := by
  unfold State.updCrew
  split
  · exact State.rest_setCore ..
  · rfl

@[simp] theorem State.gridDie_setThread (s : State) (t : ThreadRef) (b : Band) (d : Nat) (h : Handle) :
    (s.setThread t b).gridDie d h = s.gridDie d h := State.gridDie_of_rest (State.rest_updCrew ..) h

/-- A change of a crew that keeps its threads. -/
theorem State.thread_updCrew (s : State) (r : CrewRef) (f : Crew → Crew) (hf : ∀ w n, (f w).thread n = w.thread n) (u : ThreadRef) :
    (s.updCrew r f).thread u = s.thread u := by
  unfold State.thread
  rw [State.crewOf_updCrew]
  by_cases h : u.crew = r
  · rw [if_pos h, h]
    cases s.crewOf r with
    | none => rfl
    | some w => exact hf w u.band
  · rw [if_neg h]

/-- A change of a crew's registers. -/
theorem CtlOnly.updCtl (s : State) (r : CrewRef) (f : CrewCtl → CrewCtl) : CtlOnly s (s.updCrew r fun w => { w with ctl := f w.ctl }) := by
  refine ⟨State.thread_updCrew s r _ fun w n => ?_, fun q => ?_, State.rest_updCrew s r _⟩
  · cases n <;> rfl
  · rw [State.crewOf_updCrew]
    split
    · next h =>
      rw [h]
      cases s.crewOf r <;> rfl
    · rfl

theorem State.performCsr_ctl (s : State) (r : CrewRef) (w : Nat × W64) : CtlOnly s (s.performCsr r w) := by
  unfold State.performCsr
  split
  · exact .updCtl s r fun x => { x with mergePct := mergePctOf w.2.toNat }
  · split
    · exact .updCtl s r fun x => { x with scrchkLog := w.2.getLsbD 0, wlogCnt := if w.2.getLsbD 1 then 0 else x.wlogCnt }
    · refine CtlOnly.trans (.foldl (fun t ch => ?_) _ s) (.foldl (fun t ch => ?_) _ _)
      · split
        · unfold State.cpyReset
          split
          · exact .updCtl t r fun x => { x with cpy := x.cpy.modify ch fun y => { y with bytes := 0 } }
          · exact .refl t
        · exact .refl t
      · split
        · exact .updCtl t r fun x => { x with cpy := x.cpy.modify ch fun y => { y with err := 0 } }
        · exact .refl t

/-! ## The end of tasks, R138 -/

/-- The tasks that are over: those of lanes that have left, once the band has committed. -/
def Band.overTasks (b : Band) : BitVec 64 := if b.committed then b.tasks &&& b.r.exited else 0

/-- The band without them. -/
def Band.afterTasks (b : Band) : Band := { b.exitForGood b.overTasks with tasks := b.tasks &&& ~~~b.overTasks }

theorem Band.exitForGood_zero (b : Band) : b.exitForGood 0 = b := by simp [Band.exitForGood]

theorem and_not_zero (x : BitVec 64) : x &&& ~~~0 = x := by
  rw [show (~~~0 : BitVec 64) = BitVec.allOnes 64 from rfl, BitVec.and_allOnes]

theorem Band.afterTasks_of_zero {b : Band} (h : b.overTasks = 0) : b.afterTasks = b := by
  have htasks : b.tasks &&& ~~~0 = b.tasks := and_not_zero b.tasks
  unfold Band.afterTasks
  rw [h, Band.exitForGood_zero, htasks]

theorem Band.overTasks_sub (b : Band) : b.r.exited ||| b.overTasks = b.r.exited := by
  unfold Band.overTasks
  split
  · ext i hi
    simp
  · simp

theorem Band.afterTasks_r (b : Band) : b.afterTasks.r = b.r := by
  show { b.r with exited := b.r.exited ||| b.overTasks } = b.r
  rw [Band.overTasks_sub]

section
variable {s : State} {t : ThreadRef} {b : Band} {cw : Crew}

/-- The end of tasks changes the thread and the live work of the grid, and no more. -/
theorem State.tasksEnd_eq (hb : s.thread t = some b) (hcw : s.crewOf t.crew = some cw) (hq : b.requeue = 0) :
    s.tasksEnd t = if b.overTasks = 0 then s
      else (s.setThread t b.afterTasks).liveSub t.die cw.cfg.handle (popCount b.overTasks) := by
  have hdone : b.tasks &&& b.r.exited &&& ~~~b.requeue = b.tasks &&& b.r.exited := by rw [hq]; exact and_not_zero _
  unfold State.tasksEnd
  rw [hcw, hb]
  dsimp only
  rw [hdone]
  unfold Band.afterTasks Band.overTasks
  cases hc : b.committed with
  | false => simp
  | true => simp

theorem State.tasksEnd_thread (hb : s.thread t = some b) (hcw : s.crewOf t.crew = some cw) (hq : b.requeue = 0) (u : ThreadRef) :
    (s.tasksEnd t).thread u = if u = t then some b.afterTasks else s.thread u := by
  rw [State.tasksEnd_eq hb hcw hq]
  split
  · next h =>
    rw [Band.afterTasks_of_zero h]
    split
    · next hu => rw [hu, hb]
    · rfl
  · rw [State.thread_liveSub, State.thread_setThread _ _ _ _ (by rw [hb]; rfl)]

theorem State.tasksEnd_live (hb : s.thread t = some b) (hcw : s.crewOf t.crew = some cw) (hq : b.requeue = 0) :
    ((s.tasksEnd t).gridDie t.die cw.cfg.handle).live = (s.gridDie t.die cw.cfg.handle).live - popCount b.overTasks := by
  rw [State.tasksEnd_eq hb hcw hq]
  split
  · next h => rw [h]; rfl
  · rw [State.gridDie_liveSub, State.gridDie_setThread]

theorem State.tasksEnd_cfg (hb : s.thread t = some b) (hcw : s.crewOf t.crew = some cw) (hq : b.requeue = 0) :
    ((s.tasksEnd t).crewOf t.crew).map Crew.cfg = some cw.cfg := by
  rw [State.tasksEnd_eq hb hcw hq]
  split
  · rw [hcw]; rfl
  · rw [State.crewOf_liveSub, State.setThread, State.crewOf_updCrew, if_pos rfl, hcw]
    cases t.band <;> rfl

/-! ## The end of a band, R331 -/

theorem Band.overTasks_of_left {b : Band} (h : b.tasks &&& b.r.exited = 0) : b.overTasks = 0 := by
  unfold Band.overTasks
  split
  · exact h
  · rfl

/-- A band without a task of a lane that has left, and without a requeue, ends: its own tasks stay as they are. -/
theorem State.endBand_spec (hb : s.thread t = some b) (hcw : s.crewOf t.crew = some cw) (hq : b.requeue = 0)
    (hleft : b.tasks &&& b.r.exited = 0) :
    (∀ u, (s.endBand t).thread u = if u = t then some b.ended else s.thread u) ∧
    ((s.endBand t).gridDie t.die cw.cfg.handle).live = (s.gridDie t.die cw.cfg.handle).live := by
  have hctl := CtlOnly.foldl (fun (x : State) w => State.performCsr_ctl x t.crew w) (b.pends.filterMap fun p => p.csr) s
  obtain ⟨s1, hs1⟩ : ∃ s1, (b.pends.filterMap fun p => p.csr).foldl (fun (x : State) w => x.performCsr t.crew w) s = s1 := ⟨_, rfl⟩
  rw [hs1] at hctl
  have hend : s.endBand t = ((s1.setThread t b.ended).tasksEnd t).barNudge t.die cw.cfg.handle := by
    unfold State.endBand
    rw [hcw, hb, ← hs1]
    simp [hq]
  have hthread : ∀ u, (s1.setThread t b.ended).thread u = if u = t then some b.ended else s.thread u := by
    intro u
    rw [State.thread_setThread _ _ _ _ (by rw [hctl.thread, hb]; rfl), hctl.thread]
  obtain ⟨cw1, hcw1⟩ : ∃ cw1, (s1.setThread t b.ended).crewOf t.crew = some cw1 := by
    have h := hctl.cfg t.crew
    rw [State.setThread, State.crewOf_updCrew, if_pos rfl]
    cases hc : s1.crewOf t.crew with
    | none => rw [hc, hcw] at h; exact absurd h (by simp)
    | some w => exact ⟨_, rfl⟩
  have hsame : (s1.setThread t b.ended).tasksEnd t = s1.setThread t b.ended := by
    have hb1 : (s1.setThread t b.ended).thread t = some b.ended := by rw [hthread, if_pos rfl]
    have hover : b.ended.overTasks = 0 := Band.overTasks_of_left hleft
    rw [State.tasksEnd_eq hb1 hcw1 hq, if_pos hover]
  rw [hend, hsame]
  refine ⟨fun u => ?_, ?_⟩
  · rw [State.thread_of_dies (State.barNudge_dies ..), hthread]
  · have hdie : ((s1.setThread t b.ended).dieOf t.die).rest = (s.dieOf t.die).rest := (State.rest_updCrew ..).trans (hctl.die _)
    have hgrid : ∀ x : State, (x.barNudge t.die cw.cfg.handle).gridDie t.die cw.cfg.handle = x.gridDie t.die cw.cfg.handle := by
      intro x
      unfold State.gridDie
      rw [State.dieOf_of_dies (State.barNudge_dies ..)]
    rw [hgrid, State.gridDie_of_rest hdie]

theorem State.endIfEmpty_stays (hb : s.thread t = some b) (h : b.alive ≠ []) : s.endIfEmpty t = s := by
  unfold State.endIfEmpty
  rw [hb]
  simp [h]

theorem State.endIfEmpty_ends (hb : s.thread t = some b) (hr : b.running = true) (h : b.alive = []) (hq : b.requeue = 0)
    (hc : b.committed = true) : s.endIfEmpty t = s.endBand t := by
  unfold State.endIfEmpty
  rw [hb]
  simp [h, hr, hq, hc]

/-! ## Lanes exit -/

theorem Band.afterTasks_left {b : Band} (hc : b.committed = true) : b.afterTasks.tasks &&& b.afterTasks.r.exited = 0 := by
  rw [Band.afterTasks_r]
  show b.tasks &&& ~~~b.overTasks &&& b.r.exited = 0
  unfold Band.overTasks
  rw [if_pos hc]
  ext i hi
  simp
  intro h1 h2
  rcases h2 with h | h
  · rw [h1] at h; exact absurd h (by decide)
  · exact h

/-- The band after its lanes have left: its tasks are over, and it has ended where no lane is left. -/
def Band.afterExit (b : Band) (m : BitVec 64) : Band :=
  let b1 := (b.exitLanes m).afterTasks
  if b1.alive = [] then b1.ended else b1

theorem Band.afterTasks_alive (b : Band) : b.afterTasks.alive = b.alive := by
  have h : b.afterTasks.gone = b.gone := by
    funext l
    unfold Band.gone
    rw [Band.afterTasks_r]
    rfl
  unfold Band.alive
  rw [h]
  rfl

/-- Lanes exit: the thread without them, and the live work less the tasks that end. -/
theorem State.exitLanes_spec (m : BitVec 64) (hb : s.thread t = some b) (hcw : s.crewOf t.crew = some cw) (hq : b.requeue = 0)
    (hr : b.running = true) (hc : (b.exitLanes m).alive = [] → b.committed = true) :
    (∀ u, (s.exitLanes t m).thread u = if u = t then some (b.afterExit m) else s.thread u) ∧
    ((s.exitLanes t m).gridDie t.die cw.cfg.handle).live =
      (s.gridDie t.die cw.cfg.handle).live - popCount (b.exitLanes m).overTasks := by
  have hset : s.updThread t (fun b => b.exitLanes m) = s.setThread t (b.exitLanes m) := by
    unfold State.updThread
    rw [hb]
  have hb1 : (s.setThread t (b.exitLanes m)).thread t = some (b.exitLanes m) := by
    rw [State.thread_setThread _ _ _ _ (by rw [hb]; rfl), if_pos rfl]
  have hcw1 : (s.setThread t (b.exitLanes m)).crewOf t.crew = some (cw.setThread t.band (b.exitLanes m)) := by
    rw [State.setThread, State.crewOf_updCrew, if_pos rfl, hcw, Option.map_some]
  have hcfg : (cw.setThread t.band (b.exitLanes m)).cfg = cw.cfg := by cases t.band <;> rfl
  obtain ⟨s2, hs2⟩ : ∃ s2, (s.setThread t (b.exitLanes m)).tasksEnd t = s2 := ⟨_, rfl⟩
  have hthread := State.tasksEnd_thread hb1 hcw1 hq
  have hlive := State.tasksEnd_live hb1 hcw1 hq
  have hcfg2 := State.tasksEnd_cfg hb1 hcw1 hq
  rw [hs2] at hthread hlive hcfg2
  rw [hcfg] at hlive hcfg2
  rw [State.gridDie_setThread] at hlive
  have hthread' : ∀ u, s2.thread u = if u = t then some (b.exitLanes m).afterTasks else s.thread u := by
    intro u
    rw [hthread, State.thread_setThread _ _ _ _ (by rw [hb]; rfl)]
    split <;> rfl
  have hb2 : s2.thread t = some (b.exitLanes m).afterTasks := by rw [hthread', if_pos rfl]
  have hexit : s.exitLanes t m = s2.endIfEmpty t := by rw [State.exitLanes, hset, hs2]
  unfold Band.afterExit
  dsimp only
  rw [hexit]
  by_cases he : (b.exitLanes m).afterTasks.alive = []
  · have hcom : b.committed = true := hc (by rw [← Band.afterTasks_alive]; exact he)
    obtain ⟨cw2, hcw2, hcw2cfg⟩ := Option.map_eq_some_iff.1 hcfg2
    obtain ⟨hend, hendLive⟩ := State.endBand_spec hb2 hcw2 hq (Band.afterTasks_left hcom)
    rw [hcw2cfg] at hendLive
    rw [if_pos he, State.endIfEmpty_ends hb2 hr he hq hcom]
    refine ⟨fun u => ?_, by rw [hendLive, hlive]⟩
    rw [hend, hthread']
    split <;> rfl
  · rw [if_neg he, State.endIfEmpty_stays hb2 he]
    exact ⟨hthread', hlive⟩

end

theorem Band.afterExit_r (b : Band) (m : BitVec 64) : (b.afterExit m).r = (b.exitLanes m).r := by
  unfold Band.afterExit
  dsimp only
  split
  · exact Band.afterTasks_r _
  · exact Band.afterTasks_r _

theorem Band.afterExit_tasks (b : Band) (m : BitVec 64) : (b.afterExit m).tasks = b.tasks &&& ~~~(b.exitLanes m).overTasks := by
  unfold Band.afterExit
  dsimp only
  split <;> rfl

theorem mkEnv_running {opc : Nat} {c : Code} {s : State} {e : Env} (h : mkEnv opc c s = some e) : e.b.running = true := by
  obtain ⟨b0, cw, -, -, hr, hl⟩ := mkEnv_lasting h
  have hrun : e.b.lasting.running = b0.lasting.running := congrArg Band.running hl
  exact hrun.trans hr

/-- What `EXIT` and `TEND` do once their waits are over. -/
theorem exits_of {opc : Nat} {c : Code} {s : State} {e : Env} {cw : Crew} {o : Out} (h : Issues opc c s e) (hcw : CrewAt e s cw)
    (hq : e.b.requeue = 0) (hc : (e.b.exitLanes e.lanes).alive = [] → e.b.committed = true)
    (ho : o = .next ((e.done e.next e.b s).exitLanes e.t e.lanes)) :
    ∃ t b, o = .next t ∧ t.thread e.t = some b ∧ b.r.exited = e.b.r.exited ||| e.lanes ∧ b.r.nest = e.b.r.nest ∧
      b.r.preds = e.b.r.preds ∧ b.r.slots = e.b.r.slots ∧ b.r.uni = e.b.r.uni ∧
      t.mem = s.mem ∧ SameOthers e.t s t ∧
      (t.gridDie e.t.die cw.cfg.handle).live = (s.gridDie e.t.die cw.cfg.handle).live
        - popCount (if e.b.committed then e.b.tasks &&& (e.b.r.exited ||| e.lanes) else 0) ∧
      b.tasks = e.b.tasks &&& ~~~(if e.b.committed then e.b.tasks &&& (e.b.r.exited ||| e.lanes) else 0) ∧
      (if (e.b.exitLanes e.lanes).alive = [] then b.running = false else b.running = true ∧ b.x.pc = e.lands s e.next) := by
  obtain ⟨t', b, ht', hb, hpc, -, -, hsame, hout, hothers⟩ := Env.finish_goes h.1 (SameCrews.refl s) e.next e.b
  obtain rfl : e.done e.next e.b s = t' := by injection ht'
  generalize hs1 : e.done e.next e.b s = s1 at hb hout hothers ho
  obtain ⟨hr, hwidth, hrun, hreq, htasks, haccs, hwaits⟩ : b.r = e.b.r ∧ b.width = e.b.width ∧ b.running = e.b.running ∧
      b.requeue = e.b.requeue ∧ b.tasks = e.b.tasks ∧ b.accs = e.b.accs ∧ b.waits = e.b.waits := by
    unfold SameThread at hsame
    rw [← hsame]
    exact ⟨rfl, rfl, rfl, rfl, rfl, rfl, rfl⟩
  have hcom : b.committed = e.b.committed := by unfold Band.committed; rw [haccs, hwaits]
  have hexitR : (b.exitLanes e.lanes).r = (e.b.exitLanes e.lanes).r := by unfold Band.exitLanes; rw [hr]
  have halive : (b.exitLanes e.lanes).alive = (e.b.exitLanes e.lanes).alive := by
    have hw : (b.exitLanes e.lanes).width = (e.b.exitLanes e.lanes).width := hwidth
    unfold Band.alive Band.gone
    rw [hexitR, hw]
  have hover : (b.exitLanes e.lanes).overTasks = if e.b.committed then e.b.tasks &&& (e.b.r.exited ||| e.lanes) else 0 := by
    have hc' : (b.exitLanes e.lanes).committed = e.b.committed := hcom
    have ht' : (b.exitLanes e.lanes).tasks = e.b.tasks := htasks
    unfold Band.overTasks
    rw [hc', ht', hexitR]
    rfl
  obtain ⟨cw1, hcw1, hcfg⟩ : ∃ cw1, s1.crewOf e.t.crew = some cw1 ∧ cw1.cfg = cw.cfg := by
    have hrest := hout.crew e.t.crew
    rw [show s.crewOf e.t.crew = some cw from hcw] at hrest
    obtain ⟨cw1, h1, h2⟩ := Option.map_eq_some_iff.1 hrest
    have hcfg : cw1.rest.cfg = cw.rest.cfg := by rw [h2]
    exact ⟨cw1, h1, hcfg⟩
  obtain ⟨hthread, hlive⟩ := State.exitLanes_spec e.lanes hb hcw1 (hreq.trans hq) (hrun.trans (mkEnv_running h.1))
    (by rw [halive, hcom]; exact hc)
  rw [hcfg, hover, State.gridDie_of_rest (hout.die _)] at hlive
  have hright := Band.afterExit_r b e.lanes
  refine ⟨_, b.afterExit e.lanes, ho, by rw [hthread, if_pos rfl], ?_, ?_, ?_, ?_, ?_, ?_, ?_, hlive, ?_, ?_⟩
  · rw [hright, hexitR]; rfl
  · rw [hright, hexitR]; rfl
  · rw [hright, hexitR]; rfl
  · rw [hright, hexitR]; rfl
  · rw [hright, hexitR]; rfl
  · rw [State.exitLanes_mem]; exact hout.mem
  · intro u hu
    rw [hthread, if_neg hu]
    exact hothers u hu
  · rw [Band.afterExit_tasks, hover, htasks]
  · unfold Band.afterExit
    dsimp only
    rw [Band.afterTasks_alive, halive]
    split
    · rfl
    · exact ⟨hrun.trans (mkEnv_running h.1), hpc⟩

/-- Settles O19: `EXIT` and `TEND` pass their waits, and then end their lanes. -/
theorem exits : Obligations.Exits := by
  unfold Obligations.Exits
  intro mk opc hmk c s e cw h hcw _ hq hwait
  rcases hmk with ⟨rfl, rfl⟩ | ⟨rfl, rfl⟩
  · refine exits_of h hcw hq (fun ha => hwait (.inl ha)) ?_
    have hgo : (((e.b.exitLanes e.lanes).alive.isEmpty || (e.b.tasks &&& e.lanes) != 0) && !e.b.committed) = false := by
      rw [Bool.and_eq_false_iff]
      by_cases hends : (e.b.exitLanes e.lanes).alive = [] ∨ e.b.tasks &&& e.lanes ≠ 0
      · have hc := hwait (hends.imp id .inl)
        exact .inr (by rw [hc]; rfl)
      · rw [not_or, not_not] at hends
        exact .inl (by simp [hends.1, hends.2])
    rw [exec_exit, execExit, runInstr_of h]
    dsimp only
    rw [hgo]
    rfl
  · have hc := hwait (.inr (.inr rfl))
    refine exits_of h hcw hq (fun _ => hc) ?_
    rw [exec_tend, execTend, runInstr_of h, hc]
    rfl

end Sys2Proof.Machine
end

section
/-!
Loads, stores and atomics in a scratch space: what the course of an access does once its tests have passed.
-/
namespace Sys2Proof.Machine

theorem exec_ld (c : Code) (s : State) : exec (.ld c) s = execLd c s := rfl
theorem exec_st (c : Code) (s : State) : exec (.st c) s = execSt c s := rfl

/-! ## Crews under scratch bytes -/

@[simp] theorem State.crewOf_writeKey (s : State) (k : Nat) (bs : List Byte) (r : CrewRef) : (s.writeKey k bs).crewOf r = s.crewOf r := rfl

@[simp] theorem State.crewOf_putSpot (s : State) (d : Nat) (p : Spot) (v : Byte) (r : CrewRef) :
    (s.putSpot d p v).crewOf r = s.crewOf r := by
  cases h : s.validAt d p.word with
  | true => rw [State.putSpot_valid v h, State.crewOf_writeKey]
  | false =>
    match hw : p.word with
    | none => rw [hw] at h; exact absurd h (by simp [State.validAt])
    | some (c, w) =>
      rw [State.putSpot_invalid v hw h]
      apply State.crewOf_updCore
      exact fun _ => rfl

@[simp] theorem State.crewOf_putScr (s : State) (r : CrewRef) (cw : Crew) (sp : Space) (laneCtx off : Nat) (bs : List Byte) (q : CrewRef) :
    (s.putScr r cw sp laneCtx off bs).crewOf q = s.crewOf q := by
  unfold State.putScr
  exact foldl_keeps (P := fun x : State => x.crewOf q = s.crewOf q) rfl fun x y hx => by rw [State.crewOf_putSpot, hx]

@[simp] theorem Env.crewOf_scratchAtomic (e : Env) (cw : Crew) (sp : Space) (m : MemOp) (t : Touch) (s : State) (r : CrewRef) :
    (e.scratchAtomic cw sp m t s).2.2.crewOf r = s.crewOf r := by
  unfold Env.scratchAtomic
  dsimp only
  split <;> exact State.crewOf_putScr ..

theorem Env.crewOf_scratch (e : Env) (cw : Crew) (sp : Space) (m : MemOp) (ts : List Touch) (s : State) (r : CrewRef) :
    (e.scratch cw sp m ts s).2.2.crewOf r = s.crewOf r := by
  induction ts generalizing s with
  | nil => rfl
  | cons t ts ih =>
    unfold Env.scratch
    split
    · dsimp only; rw [ih, Env.crewOf_scratchAtomic]
    · rw [ih, State.crewOf_putScr]
    · exact ih s

/-! ## Performing a scratch access -/

section
variable (e : Env) (cw : Crew) (sp : Space) {m : MemOp} (ts : List Touch) (s : State)

/-- A load reads the bytes of each lane, and changes nothing. -/
theorem Env.scratch_load (h : m.kind = .load) : e.scratch cw sp m ts s =
    (ts.map fun t => (t.lane, if sp = .clus then s.mcRead e.t.crew cw (ThreadRef.reader e.t) t.addr.toNat m.len
      else s.getScr e.t.crew cw sp (e.laneCtx cw t.lane) t.addr.toNat m.len), 0, s) := by
  induction ts with
  | nil => rfl
  | cons t ts ih =>
    unfold Env.scratch
    rw [h]
    dsimp only
    rw [ih]
    rfl

/-- A store writes the bytes of each lane in turn. -/
theorem Env.scratch_store (h : m.kind = .store) : e.scratch cw sp m ts s = ([], 0, ts.foldl (fun s t =>
    s.putScr e.t.crew cw sp (e.laneCtx cw t.lane) t.addr.toNat (m.data.get [] t.lane)) s) := by
  induction ts generalizing s with
  | nil => rfl
  | cons t ts ih =>
    unfold Env.scratch
    rw [h]
    exact ih _

end

/-- What a scratch access leaves on its way. -/
def Env.scratchPend (e : Env) (m : MemOp) (r : List (Nat × List Byte) × BitVec 6 × State) : Pend :=
  let vals := r.1.map fun x => (x.1, m.dest.value x.2)
  let st := vals.foldl (fun st v => st ||| v.2.st) (m.status ||| r.2.1)
  if m.kind = .store then e.fixed 1 [] none st else e.varied (vals.flatMap fun v => m.dest.writes v.1 v.2.bits) none st

theorem Env.scratchPend_flag (e : Env) (m : MemOp) (r : List (Nat × List Byte) × BitVec 6 × State) : (e.scratchPend m r).flag = e.flag := by
  unfold Env.scratchPend
  dsimp only
  split <;> rfl

/-- A scratch access whose words are initialised is performed at issue. -/
theorem Env.scratchNow_eq (e : Env) (cw : Crew) (sp : Space) (m : MemOp) (committing : Bool) (ts : List Touch) (s : State)
    (h : m.kind ≠ .store → e.uninits s cw sp ts = []) : e.scratchNow cw sp m committing ts s =
    .next (let r := e.scratch cw sp m ts s
      let b := (e.advance e.next e.b).pend (e.scratchPend m r)
      let u := if committing then e.commitNew (e.free + e.used) b r.2.2 else e.commit b r.2.2
      if m.acquire && decide (3 ≤ Code.scope e.c) then u.l1Acquire e.t.die e.t.core else u) := by
  have hcheck : ∀ k : State → Out, e.initCheck s cw sp (if m.kind = .store then [] else ts) k = k s := by
    intro k
    unfold Env.initCheck
    by_cases hk : m.kind = .store
    · rw [if_pos hk, show e.uninits s cw sp [] = [] by unfold Env.uninits; split <;> rfl]
    · rw [if_neg hk, h hk]
  unfold Env.scratchNow
  rw [hcheck]
  rfl

/-! ## The course of an access -/

/-- Whether an access commits its region before it: an atomic or a release does. -/
def MemOp.commits (m : MemOp) : Bool := m.kind == .atomic || m.release

/-- Every byte lies in FREE pages of `glob` space, where an access orders nothing. -/
def Env.plain (e0 : Env) (s : State) (cw : Crew) (m : MemOp) : Bool :=
  decide (Code.space e0.c = .glob) && !(e0.touches m.len).isEmpty && e0.allFree s cw (e0.touches m.len)

/-- The access with its orderings settled. -/
def Env.ordered (e0 : Env) (s : State) (cw : Crew) (m : MemOp) : MemOp :=
  { m with acquire := m.acquire && !e0.plain s cw m, release := m.release && !e0.plain s cw m }

/-- The course of an access whose orderings are settled. -/
def Env.course (e0 : Env) (s : State) (cw : Crew) (m : MemOp) : Out :=
  let sp := Code.space e0.c
  let ts := e0.touches m.len
  if e0.b.memHeld then waits s
  else if m.commits && !(if m.release then e0.b.quiet else e0.b.committed) then waits s
  else
    let e := e0.ownRegion (m.release || e0.front)
    if ts.isEmpty then (if m.commits then e.committedEnd e.b s else e.finish e.next e.b s)
    else e.access s cw sp m.align m.kind m.need ts
      (if sp = .glob then e.globAccess cw m m.commits ts s else e.scratchAccess cw sp m m.commits ts s)

theorem Env.mem_course {e0 : Env} {s : State} {cw : Crew} (hcw : s.crewOf e0.t.crew = some cw) (m : MemOp) :
    e0.mem m s = e0.course s cw (e0.ordered s cw m) := by
  unfold Env.mem
  rw [hcw]
  rfl

theorem Env.touches_isEmpty {e : Env} (h : e.ls ≠ []) (len : Nat) : (e.touches len).isEmpty = false := by
  unfold Env.touches
  rw [List.isEmpty_map]
  exact List.isEmpty_eq_false_iff.2 h

/-- An access whose waits are over and whose tests pass is done. -/
theorem Env.course_ok {e0 : Env} {s : State} {cw : Crew} {m : MemOp} (hheld : e0.b.memHeld = false) (hls : e0.ls ≠ [])
    (hcommit : m.commits = true → (if m.release then e0.b.quiet else e0.b.committed) = true)
    (hcheck : (e0.ownRegion (m.release || e0.front)).check s cw (Code.space e0.c) m.align m.kind m.need (e0.touches m.len) = .ok) :
    e0.course s cw m = if Code.space e0.c = .glob
      then (e0.ownRegion (m.release || e0.front)).globAccess cw m m.commits (e0.touches m.len) s
      else (e0.ownRegion (m.release || e0.front)).scratchAccess cw (Code.space e0.c) m m.commits (e0.touches m.len) s := by
  have hwait : (m.commits && !(if m.release then e0.b.quiet else e0.b.committed)) = false := by
    cases hk : m.commits with
    | false => rfl
    | true => rw [hcommit hk]; rfl
  unfold Env.course
  dsimp only
  rw [hheld, hwait, Env.touches_isEmpty hls]
  unfold Env.access
  rw [hcheck]
  rfl

/-- An access to a scratch space whose waits are over and whose tests pass is performed. -/
theorem Env.mem_scratch {e0 : Env} {m : MemOp} {s : State} {cw : Crew} (hcw : s.crewOf e0.t.crew = some cw)
    (hsp : Code.space e0.c ≠ .glob) (hheld : e0.b.memHeld = false) (hls : e0.ls ≠ [])
    (hcommit : m.commits = true → (if m.release then e0.b.quiet else e0.b.committed) = true)
    (hcheck : (e0.ownRegion (m.release || e0.front)).check s cw (Code.space e0.c) m.align m.kind m.need (e0.touches m.len) = .ok) :
    e0.mem m s = (e0.ownRegion (m.release || e0.front)).scratchAccess cw (Code.space e0.c) m m.commits (e0.touches m.len) s := by
  have hplain : e0.plain s cw m = false := by simp [Env.plain, hsp]
  have hm : e0.ordered s cw m = m := by simp [Env.ordered, hplain]
  rw [Env.mem_course hcw, hm, Env.course_ok hheld hls hcommit hcheck, if_neg hsp]

end Sys2Proof.Machine
end

section
/-!
LD, ST and the atomics on a scratch space.
-/
namespace Sys2Proof.Machine

/-! ## Tables by lane -/

theorem lanesOf_sorted (m : BitVec 64) : (lanesOf m).Pairwise (· < ·) := List.Pairwise.filter _ List.pairwise_lt_range

theorem Tbl.find?_map_of_mem {α : Type} (f : Nat → α) {ls : List Nat} (hs : ls.Pairwise (· < ·)) {l : Nat} (h : l ∈ ls) :
    Tbl.find? (ls.map fun l => (l, f l)) l = some (f l) := by
  induction ls with
  | nil => exact absurd h (by simp)
  | cons k ls ih =>
    rw [List.pairwise_cons] at hs
    rw [List.map_cons, Tbl.find?]
    rcases List.mem_cons.1 h with rfl | h
    · simp
    · have hlt := hs.1 l h
      rw [if_neg (by omega), if_neg (by omega), ih hs.2 h]

theorem Tbl.get_eq_find? {α : Type} (d : α) (t : Tbl α) (k : Nat) : t.get d k = (Tbl.find? t k).getD d := by
  induction t with
  | nil => rfl
  | cons x t ih =>
    obtain ⟨j, v⟩ := x
    rw [Tbl.get, Tbl.find?]
    split
    · rfl
    · split
      · rfl
      · exact ih

theorem Tbl.get_map_of_mem {α : Type} (d : α) (f : Nat → α) {ls : List Nat} (hs : ls.Pairwise (· < ·)) {l : Nat} (h : l ∈ ls) :
    Tbl.get d (ls.map fun l => (l, f l)) l = f l := by rw [Tbl.get_eq_find?, Tbl.find?_map_of_mem f hs h, Option.getD_some]

/-! ## Stores -/

/-- The operation of a store. -/
def Env.storeOp (e : Env) (c : Code) : MemOp :=
  let d := e.ls.map fun l => (l, e.storeData l)
  { MemOp.base .store (Code.memLen c) c with
    data := d.map (fun x => (x.1, x.2.1)), status := d.foldl (fun st x => st ||| x.2.2) 0 }

theorem Env.storeOp_data {e : Env} {c : Code} {l : Nat} (h : l ∈ e.ls) : (e.storeOp c).data.get [] l = (e.storeData l).1 := by
  unfold Env.storeOp
  dsimp only
  rw [List.map_map]
  exact Tbl.get_map_of_mem [] (fun l => (e.storeData l).1) (lanesOf_sorted _) h

theorem Env.storeOp_status (e : Env) (c : Code) : (e.storeOp c).status = e.ls.foldl (fun st l => st ||| (e.storeData l).2) 0 := by
  unfold Env.storeOp
  dsimp only
  rw [List.foldl_map]

/-- The state after the bytes of each acting lane are stored, lane by lane. -/
theorem Env.scratch_storeOp (e0 : Env) (own : Bool) (s : State) (cw : Crew) (c : Code) (sp : Space) :
    (e0.ownRegion own).scratch cw sp (e0.storeOp c) (e0.touches (Code.memLen c)) s = ([], 0, e0.ls.foldl (fun t l =>
      t.putScr (e0.ownRegion own).t.crew cw sp ((e0.ownRegion own).laneCtx cw l) (e0.addr l).toNat (e0.storeData l).1) s) := by
  rw [Env.scratch_store _ _ _ _ _ rfl]
  unfold Env.touches
  rw [List.foldl_map]
  congr 2
  exact List.foldl_ext _ _ _ fun t l hl => by rw [Env.storeOp_data hl]

/-- Settles O21: the store is performed at issue, and its thread ends as the rules of the end of an instruction say. -/
theorem scratchStores : Obligations.ScratchStores := by
  unfold Obligations.ScratchStores
  intro c s e0 cw h hcw hsp hord hheld hls rel e sp hcheck t p
  have hcode : e0.c = c := h.code
  have hscratch := Env.scratch_storeOp e0 (rel || e0.front) s cw c sp
  have hexec : (rel = true → e0.b.quiet = true) → exec (.st c) s = .next (if rel
      then e.commitNew (e.free + e.used) ((e.advance e.next e.b).pend p) t else e.commit ((e.advance e.next e.b).pend p) t) := by
    intro hquiet
    have hmem : e0.mem (e0.storeOp c) s = e.scratchAccess cw sp (e0.storeOp c) rel (e0.touches (Code.memLen c)) s := by
      have hspace : Code.space e0.c = sp := by rw [hcode]
      rw [Env.mem_scratch hcw (by rw [hspace]; exact hsp) hheld hls (fun hk => by
        have hrel : rel = true := hk
        exact (if_pos (c := (e0.storeOp c).release = true) hrel).trans (hquiet hrel)) (by rw [hspace]; exact hcheck), hspace]
      rfl
    have hkind : ¬(sp = .clus ∧ (e0.storeOp c).kind = .load) := fun hk => absurd hk.2 (by show ¬ AccKind.store = .load; decide)
    have hpend : e.scratchPend (e0.storeOp c) ([], 0, t) = p := by
      show e.fixed 1 [] none ((e0.storeOp c).status ||| 0) = p
      rw [Env.storeOp_status, show ∀ x : BitVec 6, x ||| 0 = x from fun x => BitVec.or_zero]
    have hacq : ((e0.storeOp c).acquire && decide (3 ≤ Code.scope e.c)) = false := by
      have : (e0.storeOp c).acquire = false := by
        show (Code.ord c % 2 == 1) = false
        rw [hord]
        rfl
      rw [this, Bool.false_and]
    rw [exec_st, execSt, runInstr_of h]
    refine Eq.trans hmem ?_
    unfold Env.scratchAccess
    rw [if_neg hkind, Env.scratchNow_eq _ _ _ _ _ _ _ (fun hne => absurd rfl hne)]
    dsimp only
    rw [hscratch, hacq, hpend]
    rfl
  have hplaced : e.Placed t := ((Env.Placed.of_mkEnv h.1).same (Env.same_ownRegion e0 _)).crews fun r =>
    foldl_keeps (P := fun x : State => x.crewOf r = s.crewOf r) rfl fun x l hx => by rw [State.crewOf_putScr, hx]
  refine ⟨fun hrel => ?_, fun hrel hquiet => ?_⟩
  · rw [hexec (fun hr => absurd (hrel.symm.trans hr) (by decide)), if_neg (by rw [hrel]; decide)]
    exact hplaced.pend_ends _ _ p rfl
  · rw [hexec (fun _ => hquiet), if_pos hrel]
    exact hplaced.pendNew_ends _ _ _ p rfl

/-! ## Loads -/

/-- The operation of a load. -/
def Env.loadOp (e : Env) (c : Code) : MemOp :=
  { MemOp.base .load (Code.memLen c) c with
    dest := e.destOf (typeWords c.type) (memBytes c.type) (intSigned c.type.toNat) c.rmode.toNat
      (if 0xC ≤ c.type.toNat then c.type.toNat else 0) }

/-- An access to a scratch space that waits for no multicast window leaves those that it has read. -/
theorem Env.scratchAccess_eq {e : Env} {cw : Crew} {sp : Space} {m : MemOp} {committing : Bool} {ts : List Touch} {s u : State}
    (hm : sp = .clus → m.kind = .load → s.mcHeld e.t.crew cw (ThreadRef.reader e.t) (ts.map fun t => t.addr.toNat) = none)
    (hu : e.scratchNow cw sp m committing ts s = .next u) : e.scratchAccess cw sp m committing ts s =
    .next (if sp = .clus ∧ m.kind = .load then u.mcLeaves e.t.crew cw (ThreadRef.reader e.t) (ts.map fun t => t.addr.toNat) else u) := by
  unfold Env.scratchAccess
  dsimp only
  split
  · next h => rw [hm h.1 h.2, hu]
  · exact hu

/-- Settles O20: the load is performed at issue. -/
theorem scratchLoads : Obligations.ScratchLoads := by
  unfold Obligations.ScratchLoads
  intro c s e0 cw h hcw hsp hord hheld hls e sp ts offs hcheck hinit hwin d v
  have hcode : e0.c = c := h.code
  have hspace : Code.space e0.c = sp := by rw [hcode]
  have hrel : (e0.loadOp c).release = false := decide_eq_false (by omega)
  have hown : ((e0.loadOp c).release || e0.front) = e0.front := by rw [hrel, Bool.false_or]
  have hcommits : (e0.loadOp c).commits = false := by
    show (AccKind.load == AccKind.atomic || (e0.loadOp c).release) = false
    rw [hrel]
    rfl
  have hmem : e0.mem (e0.loadOp c) s = e.scratchAccess cw sp (e0.loadOp c) false ts s := by
    rw [Env.mem_scratch hcw (by rw [hspace]; exact hsp) hheld hls (fun hk => absurd (hcommits.symm.trans hk) (by decide))
      (by rw [hspace, hown]; exact hcheck), hspace, hown, hcommits]
    rfl
  obtain ⟨p, hp⟩ : ∃ p, p = e.varied (ts.flatMap fun t => d.writes t.lane (v t).bits) none
    (ts.foldl (fun st t => st ||| (v t).st) 0) := ⟨_, rfl⟩
  have hpend : e.scratchPend (e0.loadOp c) (e.scratch cw sp (e0.loadOp c) ts s) = p := by
    rw [Env.scratch_load _ _ _ _ _ rfl, hp]
    show e.varied _ none _ = _
    rw [List.map_map, List.flatMap_map, List.foldl_map]
    show e.varied ((e0.touches (Code.memLen c)).flatMap _) none ((e0.touches (Code.memLen c)).foldl _ _) =
      e.varied ((e0.touches (Code.memLen c)).flatMap _) none ((e0.touches (Code.memLen c)).foldl _ _)
    unfold Env.touches
    rw [List.flatMap_map, List.flatMap_map, List.foldl_map, List.foldl_map]
    congr 2
    exact show (0 : BitVec 6) ||| 0 = 0 by decide
  have hnow : e.scratchNow cw sp (e0.loadOp c) false ts s =
      .next (let u := e.commit ((e.advance e.next e.b).pend p) s
        if Code.ord c = 1 ∧ 3 ≤ Code.scope c then u.l1Acquire e.t.die e.t.core else u) := by
    rw [Env.scratchNow_eq _ _ _ _ _ _ _ (fun _ => hinit)]
    dsimp only
    rw [hpend, Env.scratch_load _ _ _ _ _ rfl]
    have hc : Code.scope e.c = Code.scope c := by rw [(Env.same_ownRegion e0 e0.front).c, hcode]
    have hacq : ((e0.loadOp c).acquire && decide (3 ≤ Code.scope e.c)) = decide (Code.ord c = 1 ∧ 3 ≤ Code.scope c) := by
      have : (e0.loadOp c).acquire = decide (Code.ord c = 1) := by
        show (Code.ord c % 2 == 1) = _
        rw [Nat.mod_eq_of_lt hord]
        rfl
      rw [this, hc, Bool.decide_and]
    rw [hacq]
    simp only [Bool.false_eq_true, if_false, decide_eq_true_eq]
  have hplaced : e.Placed s := (Env.Placed.of_mkEnv h.1).same (Env.same_ownRegion e0 _)
  have hends : Answers e s (.next (e.commit ((e.advance e.next e.b).pend p) s)) p := hplaced.pend_ends _ _ p (by rw [hp]; rfl)
  have hexec : exec (.ld c) s = e.scratchAccess cw sp (e0.loadOp c) false ts s := by
    rw [exec_ld, execLd, runInstr_of h]
    exact hmem
  have hsame : (e.commit ((e.advance e.next e.b).pend p) s).mem = s.mem := by
    obtain ⟨t, b, ho, -, -, -, -, -, hout, -⟩ := hends
    injection ho with ho
    rw [ho]
    exact hout.mem
  subst hp
  refine ⟨_, _, hexec.trans (Env.scratchAccess_eq (fun hc _ => hwin hc) hnow), ?_, hends, ?_⟩
  · dsimp only
    split <;> split <;> simp
  · dsimp only
    have hkind : (sp = .clus ∧ (e0.loadOp c).kind = .load) = (sp = .clus) := by
      rw [show (e0.loadOp c).kind = .load from rfl]
      simp
    simp only [hkind]
    rfl

end Sys2Proof.Machine
end

section
/-!
The atomics on a scratch space.
-/
namespace Sys2Proof.Machine

theorem exec_atom (c : Code) (s : State) : exec (.atom c) s = execAtom c s := rfl
theorem exec_cas (c : Code) (s : State) : exec (.cas c) s = execCas c s := rfl
theorem exec_atomFadd (c : Code) (s : State) : exec (.atomFadd c) s = execAtomFadd c s := rfl
theorem exec_atomFmaxa (c : Code) (s : State) : exec (.atomFmaxa c) s = execAtomFmaxa c s := rfl
theorem exec_amaxswap (c : Code) (s : State) : exec (.amaxswap c) s = execAmaxswap c s := rfl

/-- A table that leaves some lanes out. -/
theorem Tbl.find?_filterMap_of_mem {α β : Type} (g : Nat → Option α) (f : α → β) {ls : List Nat} (hs : ls.Pairwise (· < ·)) {l : Nat}
    (h : l ∈ ls) : Tbl.find? (ls.filterMap fun l => (g l).map fun a => (l, f a)) l = (g l).map f := by
  have later : ∀ {ks : List Nat}, (∀ k ∈ ks, l < k) → Tbl.find? (ks.filterMap fun l => (g l).map fun a => (l, f a)) l = none := by
    intro ks hk
    induction ks with
    | nil => rfl
    | cons k ks ih =>
      have hlt := hk k (by simp)
      rw [List.filterMap_cons]
      cases g k with
      | none => exact ih fun j hj => hk j (by simp [hj])
      | some a => rw [Option.map_some, Tbl.find?, if_neg (by omega), if_pos hlt]
  induction ls with
  | nil => exact absurd h (by simp)
  | cons k ls ih =>
    rw [List.pairwise_cons] at hs
    rw [List.filterMap_cons]
    rcases List.mem_cons.1 h with rfl | hl
    · cases hg : g l with
      | none => exact later hs.1
      | some a => simp [Tbl.find?]
    · have hlt := hs.1 l hl
      cases hg : g k with
      | none => exact ih hs.2 hl
      | some a => rw [Option.map_some, Tbl.find?, if_neg (by omega), if_neg (by omega), ih hs.2 hl]

/-- The operation of an atomic, Table 15.6. -/
def atomOp (c : Code) (op len : Nat) (signed : Bool) (operands expects : Tbl W128) (dest : AccDest) (status : BitVec 6) : MemOp :=
  { MemOp.base .atomic len c with
    align := len, op := op, signed := signed, operands := operands, expects := expects, dest := dest, status := status }

theorem Env.find?_operandsC (e : Env) (len : Nat) {l : Nat} (h : l ∈ e.ls) :
    (e.operandsC len).find? l = (some (e.srcC l (8 * len))).map (BitVec.ofNat 128) :=
  Tbl.find?_map_of_mem (fun l => BitVec.ofNat 128 (e.srcC l (8 * len))) (lanesOf_sorted _) h

/-- Source C of `ATOM.FMAXA` by lane, and whether it is ill-formed. -/
def Env.views (e : Env) (c : Code) : List (Nat × Ivl × Bool) :=
  e.ls.map fun l => (l, (viewFmt c.type.toNat).readPair (e.srcC l (2 * (viewFmt c.type.toNat).width)))

/-- The magnitudes of source C by lane, none for Empty. -/
def Env.magnitudes (e : Env) (c : Code) : Tbl W128 :=
  (e.views c).filterMap fun x => (magWord x.2.1).map fun m => (x.1, BitVec.ofNat 128 m)

def Env.magnitudeStatus (e : Env) (c : Code) : BitVec 6 := (e.views c).foldl (fun st x => st ||| stIf x.2.2 stIll) 0

theorem Env.find?_magnitudes (e : Env) (c : Code) {l : Nat} (h : l ∈ e.ls) : (e.magnitudes c).find? l =
    (magWord ((viewFmt c.type.toNat).readPair (e.srcC l (2 * (viewFmt c.type.toNat).width))).1).map (BitVec.ofNat 128) := by
  unfold Env.magnitudes Env.views
  rw [List.filterMap_map]
  exact Tbl.find?_filterMap_of_mem
    (fun l => magWord ((viewFmt c.type.toNat).readPair (e.srcC l (2 * (viewFmt c.type.toNat).width))).1) _ (lanesOf_sorted _) h

/-- An atomic on a scratch space, once its waits are over and its tests pass. -/
theorem Env.mem_atomOp {opc : Nat} {c : Code} {s : State} {e0 : Env} {cw : Crew} (op len : Nat) (signed : Bool)
    (operands expects : Tbl W128) (dest : AccDest) (status : BitVec 6) (h : Issues opc c s e0) (hcw : CrewAt e0 s cw)
    (hsp : Code.space c ≠ .glob) (hheld : e0.b.memHeld = false)
    (hcommit : (if 2 ≤ Code.ord c then e0.b.quiet else e0.b.committed) = true) (hls : e0.ls ≠ [])
    (hcheck : (e0.ownRegion (decide (2 ≤ Code.ord c) || e0.front)).check s cw (Code.space c) len .atomic
      (fun a => attrR a && attrW a && attrA a) (e0.touches len) = .ok)
    (hinit : (e0.ownRegion (decide (2 ≤ Code.ord c) || e0.front)).uninits s cw (Code.space c) (e0.touches len) = []) :
    let e := e0.ownRegion (decide (2 ≤ Code.ord c) || e0.front)
    let m := atomOp c op len signed operands expects dest status
    ∃ u t st, e0.mem m s = .next t ∧
      (let r := e.scratch cw (Code.space c) m (e0.touches len) s
       EndsNew e r.2.2 (.next u) e.next e.b [e.varied (r.1.flatMap fun x => dest.writes x.1 (dest.value x.2).bits) none st]) ∧
      t = if Code.ord c % 2 = 1 ∧ 3 ≤ Code.scope c then u.l1Acquire e.t.die e.t.core else u := by
  intro e m
  have hcode : e0.c = c := h.code
  have hspace : Code.space e0.c = Code.space c := by rw [hcode]
  have hmem : e0.mem m s = e.scratchAccess cw (Code.space c) m true (e0.touches len) s := by
    rw [Env.mem_scratch hcw (by rw [hspace]; exact hsp) hheld hls (fun _ => ?_) (by rw [hspace]; exact hcheck), hspace]
    · rfl
    · have hite : (if m.release = true then e0.b.quiet else e0.b.committed) = if 2 ≤ Code.ord c then e0.b.quiet else e0.b.committed :=
        if_congr decide_eq_true_iff rfl rfl
      exact hite.trans hcommit
  obtain ⟨r, hr⟩ : ∃ r, e.scratch cw (Code.space c) m (e0.touches len) s = r := ⟨_, rfl⟩
  have hscope : Code.scope e.c = Code.scope c := by rw [(Env.same_ownRegion e0 _).c, hcode]
  have hplaced : e.Placed r.2.2 := ((Env.Placed.of_mkEnv h.1).same (Env.same_ownRegion e0 _)).crews fun q => by
    rw [← hr]; exact Env.crewOf_scratch ..
  have hpend : e.scratchPend m r = e.varied (r.1.flatMap fun x => dest.writes x.1 (dest.value x.2).bits) none
      ((r.1.map fun x => (x.1, dest.value x.2)).foldl (fun st v => st ||| v.2.st) (status ||| r.2.1)) := by
    show e.varied _ none _ = _
    rw [List.flatMap_map]
    rfl
  refine ⟨e.commitNew (e.free + e.used) ((e.advance e.next e.b).pend (e.scratchPend m r)) r.2.2, _, _, ?_,
    by dsimp only; rw [hr, ← hpend]; exact hplaced.pendNew_ends _ _ _ _ (Env.scratchPend_flag ..), rfl⟩
  · rw [hmem, Env.scratchAccess_eq (fun _ hk => absurd hk (by show ¬ AccKind.atomic = .load; decide))
      (Env.scratchNow_eq _ _ _ _ _ _ _ fun _ => hinit)]
    rw [if_neg (fun hk => absurd hk.2 (by show ¬ AccKind.atomic = .load; decide)), hr]
    dsimp only
    have hacq : (m.acquire && decide (3 ≤ Code.scope e.c)) = decide (Code.ord c % 2 = 1 ∧ 3 ≤ Code.scope c) := by
      rw [hscope, Bool.decide_and]
      rfl
    rw [hacq]
    simp only [if_true, decide_eq_true_eq]
    rfl

/-- Settles O23: each atomic by its operation. -/
theorem scratchAtomics : Obligations.ScratchAtomics := by
  unfold Obligations.ScratchAtomics
  intro mk opc op len signed operand expect dest c s e0 cw w sg hmk h hcw hsp hheld hcommit hls e sp ts hcheck hinit
  rcases hmk with ⟨rfl, rfl, rfl, rfl, rfl, rfl, rfl, rfl⟩ | ⟨rfl, rfl, rfl, rfl, rfl, rfl, rfl, rfl⟩ |
    ⟨rfl, rfl, rfl, rfl, rfl, rfl, rfl, rfl⟩ | ⟨rfl, rfl, rfl, rfl, rfl, rfl, rfl, rfl⟩ | ⟨rfl, rfl, rfl, rfl, rfl, rfl, rfl, rfl⟩
  case inl =>
    obtain ⟨u, t, st, hmem, hends, ht⟩ := Env.mem_atomOp c.rmode.toNat w sg (e0.operandsC w) []
      (e0.destOf (typeWords c.type) w sg 0 0) 0 h hcw hsp hheld hcommit hls hcheck hinit
    refine ⟨_, u, t, st, rfl, rfl, rfl, rfl, fun l hl => e0.find?_operandsC w hl, fun hc => absurd hc (by decide), ?_, hends, ht⟩
    rw [exec_atom, execAtom, runInstr_of h]
    unfold Env.atomic
    rw [h.code]
    exact hmem
  case inr.inl =>
    obtain ⟨u, t, st, hmem, hends, ht⟩ := Env.mem_atomOp 7 w sg (e0.operandsC w)
      (e0.ls.map fun l => (l, BitVec.ofNat 128 (e0.srcD l (8 * w)))) (e0.destOf (typeWords c.type) w sg 0 0) 0
      h hcw hsp hheld hcommit hls hcheck hinit
    refine ⟨_, u, t, st, rfl, rfl, rfl, rfl, fun l hl => e0.find?_operandsC w hl, fun _ l hl =>
      Tbl.get_map_of_mem 0 (fun l => BitVec.ofNat 128 (e0.srcD l (8 * w))) (lanesOf_sorted _) hl, ?_, hends, ht⟩
    rw [exec_cas, execCas, runInstr_of h]
    unfold Env.atomic
    rw [h.code]
    exact hmem
  case inr.inr.inl =>
    obtain ⟨u, t, st, hmem, hends, ht⟩ := Env.mem_atomOp 8 w false (e0.operandsC w) []
      (e0.destOf (typeWords c.type) w false 0 c.type.toNat) 0 h hcw hsp hheld hcommit hls hcheck hinit
    refine ⟨_, u, t, st, rfl, rfl, rfl, rfl, fun l hl => e0.find?_operandsC w hl, fun hc => absurd hc (by decide), ?_, hends, ht⟩
    rw [exec_atomFadd, execAtomFadd, runInstr_of h]
    exact hmem
  case inr.inr.inr.inl =>
    obtain ⟨u, t, st, hmem, hends, ht⟩ := Env.mem_atomOp 9 4 false (e0.magnitudes c) []
      (e0.destOf 1 4 false 0 0) (e0.magnitudeStatus c) h hcw hsp hheld hcommit hls hcheck hinit
    refine ⟨_, u, t, st, rfl, rfl, rfl, rfl, fun l hl => e0.find?_magnitudes c hl, fun hc => absurd hc (by decide), ?_, hends, ht⟩
    rw [exec_atomFmaxa, execAtomFmaxa, runInstr_of h]
    exact hmem
  case inr.inr.inr.inr =>
    obtain ⟨u, t, st, hmem, hends, ht⟩ := Env.mem_atomOp 10 4 false (e0.operandsC 4) [] (e0.destOf 1 4 false 0 0) 0
      h hcw hsp hheld hcommit hls hcheck hinit
    refine ⟨_, u, t, st, rfl, rfl, rfl, rfl, fun l hl => e0.find?_operandsC 4 hl, fun hc => absurd hc (by decide), ?_, hends, ht⟩
    rw [exec_amaxswap, execAmaxswap, runInstr_of h]
    exact hmem

end Sys2Proof.Machine
end

section
/-!
A statement about `glob` accesses that fails: an access of no bytes. No fetched instruction has its type code, but the statement speaks of it.
-/
namespace Sys2Proof.Machine

/-- `LD` from `glob` space with type code 15, which stands for no type and takes no bytes. -/
def emptyLoad : Code := { bareCode with type := 15 }

/-- It issues in the small machine, at address 0, where its tests pass. -/
theorem emptyLoad_issues : (mkEnv 0xB0 emptyLoad smallBand).any (fun e => e.decodeTrap.isNone && (!e.b.memHeld && !e.ls.isEmpty &&
    e.t == smallBand.cur && e.b.accs.isEmpty && (smallBand.crewOf e.t.crew).any fun cw =>
      (e.ownRegion e.front).check smallBand cw .glob 1 .load attrR (e.touches 0) == .ok)) = true := by decide +kernel

/-- The access has a piece without a byte. -/
theorem emptyLoad_piece : (match exec (.ld emptyLoad) smallBand with
    | .next t => (t.thread smallBand.cur).any fun b => b.accs.any fun a => a.pieces.any fun p => p.len == 0
    | _ => false) = true := by decide +kernel

theorem SameThread.accs {b1 b : Band} (h : SameThread b1 b) : b.accs = b1.accs := by
  unfold SameThread at h
  rw [← h]

theorem Env.accs_ownRegion (e : Env) (own : Bool) : (e.ownRegion own).b.accs = e.b.accs := by
  unfold Env.ownRegion
  split
  · show (e.b.openRegion _ _).accs = e.b.accs
    rw [Band.openRegion_same]
  · rfl

/-- Refutes O25: the access of a load of type code 15 has a piece without a byte, where the statement has every piece hold one. -/
theorem not_globAccesses : ¬ Obligations.GlobAccesses := by
  unfold Obligations.GlobAccesses
  intro hall
  obtain ⟨e, he, hp⟩ := issues_of_any emptyLoad_issues
  simp only [Bool.and_eq_true, Bool.not_eq_true', List.isEmpty_iff, beq_iff_eq, Option.any_eq_true] at hp
  obtain ⟨⟨⟨⟨hheld, hls⟩, ht⟩, haccs⟩, cw, hcw, hcheck⟩ := hp
  obtain ⟨a, t, b, -, -, -, -, -, -, hpieces, -, hends, hexec, -, -, hb, -⟩ := hall .ld 0xB0 0 1 .load attrR emptyLoad smallBand e cw
    (.inl ⟨rfl, rfl, rfl, rfl, rfl, rfl⟩) he hcw rfl hheld (by intro h; rw [h] at hls; exact absurd hls (by decide))
    (fun h => absurd (show false = true from h) (by decide)) hcheck (fun h => absurd h (by decide))
  obtain ⟨t', b', hexec', hb', -, -, -, hsame, -, -⟩ := hends
  obtain rfl : t = t' := by rw [hexec] at hexec'; injection hexec'
  obtain rfl : b = b' := by
    have h : some b = some b' := hb.symm.trans hb'
    injection h
  have hone : b.accs = [a] := by
    rw [hsame.accs]
    show (e.ownRegion _).b.accs ++ [a] = [a]
    rw [Env.accs_ownRegion, haccs]
    rfl
  have hmodel := emptyLoad_piece
  rw [hexec] at hmodel
  have hb0 : t.thread smallBand.cur = some b := by rw [← ht, ← (Env.same_ownRegion e _).t]; exact hb
  simp only [hb0, Option.any_some, hone, List.any_cons, List.any_nil, Bool.or_false, List.any_eq_true, beq_iff_eq] at hmodel
  obtain ⟨p, hp, hlen⟩ := hmodel
  obtain ⟨-, hpos, -⟩ := hpieces p hp
  omega

end Sys2Proof.Machine
end

section
/-!
Ordering and bringing threads together: fences, barriers and arrival counters.
-/
namespace Sys2Proof.Machine

theorem exec_fence (c : Code) (s : State) : exec (.fence c) s = execFence c s := rfl
theorem exec_fenceDrain (c : Code) (s : State) : exec (.fenceDrain c) s = execFenceDrain c s := rfl
theorem exec_bar (c : Code) (s : State) : exec (.bar c) s = execBar c s := rfl
theorem exec_arrive (c : Code) (s : State) : exec (.arrive c) s = execArrive c s := rfl
theorem exec_await (c : Code) (s : State) : exec (.await c) s = execAwait c s := rfl

/-! ## Threads under a drop of L1 lines -/

theorem Tbl.find?_mapVal {α β : Type} (t : Tbl α) (f : α → β) (k : Nat) :
    Tbl.find? (t.map fun x => (x.1, f x.2)) k = (Tbl.find? t k).map f := by
  induction t with
  | nil => rfl
  | cons x t ih =>
    rw [List.map_cons, Tbl.find?, Tbl.find?, ih]
    split
    · rfl
    · split <;> rfl

/-- A crew whose accesses no longer install the lines that a drop names. -/
def Crew.dropHits (f : B6 → Nat → Bool → Bool) (w : Crew) : Crew :=
  let hit := fun (p : Piece) => f (effCtx (handleCtx w.cfg.handle) p.va) (p.va / 64) (p.kind == .free)
  { w with bands := w.bands.map fun b => (b.1, b.2.noInstall hit), front := w.front.map fun fr => { fr with th := fr.th.noInstall hit } }

theorem Core.l1Drop_crews (c : Core) (f : B6 → Nat → Bool → Bool) :
    (c.l1Drop f).crews = c.crews.map fun w => (w.1, w.2.dropHits f) := rfl

theorem Crew.thread_dropHits (f : B6 → Nat → Bool → Bool) (w : Crew) (n : Option Nat) :
    ((w.dropHits f).thread n).isSome = (w.thread n).isSome := by
  cases n with
  | none =>
    unfold Crew.thread Crew.dropHits
    cases w.front with
    | none => rfl
    | some fr =>
      cases he : fr.ended <;> simp [he]
  | some k =>
    have hfind := Tbl.find?_mapVal w.bands
      (fun b => b.noInstall fun p => f (effCtx (handleCtx w.cfg.handle) p.va) (p.va / 64) (p.kind == .free)) k
    show ((Tbl.find? (w.dropHits f).bands k)).isSome = (Tbl.find? w.bands k).isSome
    exact (congrArg Option.isSome hfind).trans Option.isSome_map

/-- Dropping lines marks accesses of threads that are there. -/
theorem State.thread_l1Drop_isSome (s : State) (d c : Nat) (f : B6 → Nat → Bool → Bool) {t : ThreadRef} (h : (s.thread t).isSome) :
    ((s.l1Drop d c f).thread t).isSome := by
  unfold State.thread State.crewOf at h ⊢
  by_cases hd : t.crew.die = d ∧ t.crew.core = c
  · obtain ⟨hdie, hcore⟩ := hd
    rw [hdie, hcore] at h ⊢
    rw [State.l1Drop, State.updCore, State.coreOf_setCore, Core.l1Drop_crews, Tbl.find?_mapVal _ (Crew.dropHits f)]
    cases hw : Tbl.find? (s.coreOf d c).crews t.crew.slot with
    | none => rw [hw] at h; exact absurd h (by simp)
    | some w =>
      rw [hw] at h
      exact (Crew.thread_dropHits f w t.band).trans h
  · rw [State.l1Drop, State.updCore, State.coreOf_setCore_ne _ _ hd]
    exact h

theorem Env.Placed.l1Drop {e : Env} {s : State} (h : e.Placed s) (d c : Nat) (f : B6 → Nat → Bool → Bool) : e.Placed (s.l1Drop d c f) :=
  ⟨State.thread_l1Drop_isSome s d c f h.thread, h.front⟩

theorem State.l1_l1Drop (s : State) (d c : Nat) (f : B6 → Nat → Bool → Bool) :
    ((s.l1Drop d c f).coreOf d c).l1 = (s.coreOf d c).l1.filter fun l => !f l.ctx l.line l.free := by
  rw [State.l1Drop, State.updCore, State.coreOf_setCore]
  rfl

/-! ## Fences -/

/-- A fence other than `.ACQ`, once every earlier access is performed. -/
theorem Env.fence_quiet {e : Env} (hq : e.b.quiet = true) {kind scope : Nat} (hk : kind ≠ 0) (s : State) : e.fence kind scope s =
    e.committedEnd e.b (if kind = 2 ∧ 3 ≤ scope then s.l1Acquire e.t.die e.t.core
      else if kind = 3 then s.l1Drain e.t.die e.t.core else s) := by
  unfold Env.fence
  rw [if_neg hk, hq]
  rfl

/-- A waiter that an instruction leaves behind, whose end clears the flag. -/
theorem Env.Placed.wait_ends {e : Env} {s : State} (h : e.Placed s) (w : Waiter) :
    Ends e s (.next (e.commit { (e.advance e.next e.b).flagUp e.flag with
      waits := ((e.advance e.next e.b).flagUp e.flag).waits ++ [w] } s)) e.next { e.b with waits := e.b.waits ++ [w] } [] := by
  apply h.commit_ends
  · cases e.flag <;> rfl
  · cases e.flag <;> exact (List.append_nil _).symm
  · cases e.flag <;> rfl
  · cases e.flag <;> rfl

/-- Settles O27: each fence by its kind. -/
theorem fences : Obligations.Fences := by
  unfold Obligations.Fences
  refine ⟨fun c s e h hk => ?acq, fun c s e h hq => ?quiet, fun s d c => ?lines⟩
  case acq =>
    refine ⟨_, { id := e.id, flag := e.flag, pc := e.b.x.pc, kind := .fence (c.srca.bits.toNat % 8) e.id }, ?_, rfl,
      (Env.Placed.of_mkEnv h.1).wait_ends _⟩
    rw [exec_fence, execFence, runInstr_of h, hk]
    rfl
  case quiet =>
    have hplaced := Env.Placed.of_mkEnv h.1
    have hexec : ∀ k, c.srca.bits.toNat / 8 % 4 = k → k ≠ 0 → exec (.fence c) s = e.committedEnd e.b
        (if k = 2 ∧ 3 ≤ c.srca.bits.toNat % 8 then s.l1Acquire e.t.die e.t.core
          else if k = 3 then s.l1Drain e.t.die e.t.core else s) := by
      intro k hk h0
      rw [exec_fence, execFence, runInstr_of h, hk]
      exact Env.fence_quiet hq h0 s
    refine ⟨fun hk => ?_, fun hk => ?_, ?_⟩
    · rw [hexec 1 hk (by decide)]
      exact hplaced.committedEnd_goes e.b
    · rw [hexec 2 hk (by decide)]
      simp only [true_and]
      split
      · exact (hplaced.l1Drop _ _ _).committedEnd_goes e.b
      · exact hplaced.committedEnd_goes e.b
    · rw [exec_fenceDrain, execFenceDrain, runInstr_of h, Env.fence_quiet hq (by decide)]
      exact (hplaced.l1Drop _ _ _).committedEnd_goes e.b
  case lines =>
    refine ⟨rfl, rfl, fun l => ?_, fun l => ?_⟩
    · rw [State.l1Acquire, State.l1_l1Drop]
      simp
    · rw [State.l1Drain, State.l1_l1Drop]
      simp

/-! ## Barriers -/

/-- Looking again at a barrier changes no more of a thread than its region and its issue state, and only where it is complete. -/
theorem State.barPoll_spec {s : State} {t : ThreadRef} {b : Band} {w : BarWait} (hb : s.thread t = some b) (hp : b.x.phase = .barrier w) :
    (∀ u, u ≠ t → (s.barPoll t).thread u = s.thread u) ∧
    ∃ b', (s.barPoll t).thread t = some b' ∧ b'.x.pc = b.x.pc ∧ b'.gens = b.gens ∧ b'.r = b.r ∧ b'.accs = b.accs ∧
      (b'.x.phase = .fresh ∨ b'.x.phase = .barrier w) := by
  have hset : ∀ b2 : Band, ∀ u, State.thread (s.setThread t b2) u = if u = t then some b2 else s.thread u :=
    fun b2 u => State.thread_setThread s t u b2 (by rw [hb]; rfl)
  cases hc : s.crewOf t.crew with
  | none =>
    have hsame : s.barPoll t = s := by unfold State.barPoll; rw [hc]
    rw [hsame]
    exact ⟨fun _ _ => rfl, b, hb, rfl, rfl, rfl, rfl, .inr hp⟩
  | some cw =>
    have hpoll : s.barPoll t = if s.barDoneFor t cw w && !s.barBroken cw.cfg.handle w.kind (barId cw.cfg w.kind w.roster) w.gen
        then { s.setThread t { b.openRegion s.free b.x.pc with x := { (b.openRegion s.free b.x.pc).x with phase := .fresh } } with
          free := s.free + 65 } else s := by
      unfold State.barPoll
      rw [hc, hb]
      dsimp only
      rw [hp]
    rw [hpoll]
    split
    · refine ⟨fun u hu => (hset _ u).trans (if_neg hu), _, (hset _ t).trans (if_pos rfl), ?_, ?_, ?_, ?_, .inl rfl⟩
      · show (b.openRegion s.free b.x.pc).x.pc = _
        rw [Band.openRegion_same]
      · show (b.openRegion s.free b.x.pc).gens = _
        rw [Band.openRegion_same]
      · show (b.openRegion s.free b.x.pc).r = _
        rw [Band.openRegion_same]
      · show (b.openRegion s.free b.x.pc).accs = _
        rw [Band.openRegion_same]
    · exact ⟨fun _ _ => rfl, b, hb, rfl, rfl, rfl, rfl, .inr hp⟩

/-- What `BAR` does once its band has committed, in a roster that lists its crew. -/
theorem exec_bar_of {c : Code} {s : State} {e : Env} {cw : Crew} (h : Issues 0xB8 c s e) (hcw : CrewAt e s cw)
    (hc : e.b.committed = true) {kind roster : Nat} (hk : c.srca.bits.toNat % 4 = kind)
    (hr : (if kind = 2 then e.srcB 0 32 else 0) = roster) (hm : kind = 2 → cw.cfg.rosters.contains roster = true) :
    ∃ t b, exec (.bar c) s = .next t ∧ t.thread e.t = some b ∧ b.x.pc = e.lands s e.next ∧
      b.gen kind roster = e.b.gen kind roster + 1 ∧ b.r = e.b.r ∧ b.accs = e.b.accs ∧ t.mem = s.mem ∧ SameOthers e.t s t ∧
      (b.x.phase = .fresh ∨ ∃ w, b.x.phase = .barrier w ∧ w.kind = kind ∧ w.roster = roster ∧ w.gen = e.b.gen kind roster ∧
        w.pc = e.b.x.pc) := by
  obtain ⟨w, hw⟩ : ∃ w, w = BarWait.mk kind roster (e.b.gen kind roster) e.b.x.pc c.annex.isSome := ⟨_, rfl⟩
  obtain ⟨b1, hb1⟩ : ∃ b1 : Band, b1 = { e.b with gens := e.b.gens.set (256 * kind + roster) (e.b.gen kind roster + 1) } := ⟨_, rfl⟩
  have hdone : Goes e s (.next (e.done e.next b1 s)) e.next b1 := Env.finish_goes h.1 (SameCrews.refl s) e.next b1
  have hwait := hdone.updThread (fun x => { x with phase := .barrier w }) fun _ => rfl
  obtain ⟨t1, b2, ho1, hb2, hpc, -, -, hsame, hout, hothers⟩ := hwait
  obtain ⟨t0, b0, ho0, hb0, -⟩ := hdone
  obtain rfl : e.done e.next b1 s = t0 := by injection ho0
  generalize hs2 : (e.done e.next b1 s).updThread e.t (fun b => { b with x := { b.x with phase := .barrier w } }) = s2 at ho1
  obtain rfl : s2 = t1 := by injection ho1
  have hphase : b2.x.phase = .barrier w := by
    rw [← hs2, State.thread_updThread, if_pos rfl, hb0, Option.map_some] at hb2
    injection hb2 with hb2
    rw [← hb2]
  obtain ⟨s3, hs3⟩ : ∃ s3, s3 = if 2 ≤ kind then s2.barArrive e.t.die cw.cfg.handle kind roster (e.b.gen kind roster) else s2 := ⟨_, rfl⟩
  have hdies : s3.dies = s2.dies := by
    rw [hs3]
    split
    · exact State.barArrive_dies ..
    · rfl
  have hmem : s3.mem = s.mem := by
    rw [← hout.mem, hs3]
    split
    · exact State.barArrive_mem ..
    · rfl
  have hexec : exec (.bar c) s = .next (s3.barPoll e.t) := by
    have hcw' : s.crewOf e.t.crew = some cw := hcw
    have hin : ¬(kind = 2 ∧ cw.notMember roster) := by
      rintro ⟨h2, hn⟩
      unfold Crew.notMember at hn
      rw [hm h2] at hn
      exact absurd hn (by decide)
    rw [exec_bar, execBar, runInstr_of h, hcw']
    dsimp only
    rw [hk, hr, if_neg hin, hc, hs3, ← hs2, hb1, hw]
    rfl
  obtain ⟨hrest, b3, hb3, hpc3, hgens, hr3, haccs, hph⟩ := State.barPoll_spec ((State.thread_of_dies hdies _).trans hb2) hphase
  obtain ⟨hgens2, hr2, haccs2⟩ : b2.gens = b1.gens ∧ b2.r = b1.r ∧ b2.accs = b1.accs := by
    unfold SameThread at hsame
    rw [← hsame]
    exact ⟨rfl, rfl, rfl⟩
  refine ⟨_, b3, hexec, hb3, hpc3.trans hpc, ?_, ?_, ?_, ?_, fun u hu => ?_, ?_⟩
  · unfold Band.gen
    rw [hgens, hgens2, hb1]
    exact Tbl.get_set_self ..
  · rw [hr3, hr2, hb1]
  · rw [haccs, haccs2, hb1]
  · rw [State.barPoll_mem]; exact hmem
  · rw [hrest u hu, State.thread_of_dies hdies]; exact hothers u hu
  · refine hph.imp id fun hp => ⟨w, hp, ?_⟩
    rw [hw]
    exact ⟨rfl, rfl, rfl, rfl⟩

/-! ## Arrival counters -/

/-- The space of the counters and the counters themselves, by the instruction's fields. -/
theorem Env.ctrSpace_of {e : Env} {c : Code} (h : e.c = c) : e.ctrSpace = if c.mods.getLsbD 0 then .clus else .core := by
  unfold Env.ctrSpace
  rw [h]

theorem Env.counters_isEmpty {e : Env} (h : e.ls ≠ []) : e.counters.isEmpty = false := by
  unfold Env.counters
  rw [List.isEmpty_map]
  exact List.isEmpty_eq_false_iff.2 h

theorem Env.ls_ownRegion (e : Env) (own : Bool) : (e.ownRegion own).ls = e.ls := by
  unfold Env.ownRegion
  split <;> rfl

/-- The operation of `ARRIVE`: an addition of source B to four bytes, whose old value goes nowhere. -/
def Env.arriveOp (e : Env) (c : Code) : MemOp :=
  { MemOp.base .atomic 4 c with acquire := false, release := false, operands := e.ls.map fun l => (l, BitVec.ofNat 128 (e.srcB l 32)) }

/-- An access whose value goes nowhere writes no register. -/
theorem Env.arrive_scratchNow {e : Env} {cw : Crew} {sp : Space} {c : Code} {ts : List Touch} {s : State} (hp : e.Placed s)
    (hu : e.uninits s cw sp ts = []) : ∃ st, EndsNew e (e.scratch cw sp (e.arriveOp c) ts s).2.2
      (e.scratchNow cw sp (e.arriveOp c) true ts s) e.next e.b [e.varied [] none st] := by
  obtain ⟨r, hr⟩ : ∃ r, e.scratch cw sp (e.arriveOp c) ts s = r := ⟨_, rfl⟩
  have hplaced : e.Placed r.2.2 := hp.crews fun q => by rw [← hr]; exact Env.crewOf_scratch ..
  have hpend : e.scratchPend (e.arriveOp c) r = e.varied [] none
      ((r.1.map fun x => (x.1, AccDest.discard.value x.2)).foldl (fun st v => st ||| v.2.st) (0 ||| r.2.1)) := by
    show e.varied _ none _ = e.varied _ none _
    congr 1
    rw [List.flatMap_eq_nil_iff]
    exact fun _ _ => rfl
  rw [Env.scratchNow_eq _ _ _ _ _ _ _ fun _ => hu]
  dsimp only
  rw [hr, hpend]
  exact ⟨_, hplaced.pendNew_ends _ _ _ _ rfl⟩

/-- Settles O28: `BAR` by what looking at its barrier does, `ARRIVE` and `AWAIT` by their tests. -/
theorem meetings : Obligations.Meetings := by
  unfold Obligations.Meetings
  refine ⟨fun c s e cw h hcw hc => exec_bar_of h hcw hc rfl rfl, fun c s e0 cw hcw hheld hls => ?counters⟩
  case counters =>
    intro e sp ts counts
    have hcw' : s.crewOf e0.t.crew = some cw := hcw
    have hne : e.counters.isEmpty = false := Env.counters_isEmpty (by rw [Env.ls_ownRegion]; exact hls)
    have hts : e.counters = ts := by
      unfold Env.counters
      rw [Env.ls_ownRegion]
    refine ⟨fun h hc hcheck hinit => ?arrive, fun h hcheck hinit => ?await⟩
    case arrive =>
      have hspace : e.ctrSpace = sp := Env.ctrSpace_of (((Env.same_ownRegion e0 _).c).trans h.code)
      have hplaced : e.Placed s := (Env.Placed.of_mkEnv h.1).same (Env.same_ownRegion e0 _)
      obtain ⟨st, hends⟩ := Env.arrive_scratchNow (c := c) hplaced hinit
      refine ⟨e.arriveOp c, st, rfl, rfl, rfl, fun l hl => ?_, ?_⟩
      · show Tbl.find? (e.ls.map fun l => (l, BitVec.ofNat 128 (e.srcB l 32))) l = _
        rw [Env.ls_ownRegion]
        exact Tbl.find?_map_of_mem (fun l => BitVec.ofNat 128 (e.srcB l 32)) (lanesOf_sorted _) hl
      · have hexec : exec (.arrive c) s = e.scratchNow cw sp (e.arriveOp c) true counts s := by
          have hstop : (e0.b.memHeld || !e0.b.committed) = false := by rw [hheld, hc]; rfl
          rw [exec_arrive, execArrive, runInstr_of h, hcw']
          dsimp only
          rw [hstop]
          show (if e.counters.isEmpty = true then _ else _) = _
          rw [hne, hspace, hts]
          show e.access s cw sp 8 .atomic attrR ts _ = _
          unfold Env.access
          rw [hcheck]
          exact if_neg fun hk => absurd hk.2 (by show ¬ AccKind.atomic = .load; decide)
        rw [hexec]
        exact hends
    case await =>
      have hspace : e.ctrSpace = sp := Env.ctrSpace_of (((Env.same_ownRegion e0 _).c).trans h.code)
      have hplaced : e.Placed s := (Env.Placed.of_mkEnv h.1).same (Env.same_ownRegion e0 _)
      refine ⟨_, { id := e.id, flag := e.flag, pc := e.b.x.pc, kind := .await (c.mods.getLsbD 0) (ts.map fun t => (t.lane, t.addr.toNat)) },
        ?_, rfl, hplaced.wait_ends _⟩
      have hclus : (sp == .clus) = c.mods.getLsbD 0 := by
        show ((if c.mods.getLsbD 0 then Space.clus else .core) == .clus) = _
        cases c.mods.getLsbD 0 <;> rfl
      rw [exec_await, execAwait, runInstr_of h, hcw']
      dsimp only
      rw [hheld]
      show (if e.counters.isEmpty = true then _ else _) = _
      rw [hne, hspace, hts]
      show e.access s cw sp 8 .load attrR ts _ = _
      unfold Env.access Env.initCheck
      rw [hcheck, hinit, hclus]

end Sys2Proof.Machine
end

section
/-!
Roster collectives and copy commands: what their issue leaves in the engines' queues, and the end of an instruction that changes its core.
-/
namespace Sys2Proof.Machine

theorem exec_rmcast (c : Code) (s : State) : exec (.rmcast c) s = collective 0xBB false c s := rfl
theorem exec_rred (c : Code) (s : State) : exec (.rred c) s = collective 0xBC true c s := rfl
theorem exec_cpy (c : Code) (s : State) : exec (.cpy c) s = copyInstr 0xD0 .cpy c s := rfl
theorem exec_cpyg (c : Code) (s : State) : exec (.cpyg c) s = copyInstr 0xD1 .cpyg c s := rfl
theorem exec_cpys (c : Code) (s : State) : exec (.cpys c) s = copyInstr 0xD2 .cpys c s := rfl
theorem exec_cpyAdd (c : Code) (s : State) : exec (.cpyAdd c) s = copyInstr 0xD3 .cpyAdd c s := rfl
theorem exec_qfence (c : Code) (s : State) : exec (.qfence c) s = execQfence c s := rfl

/-! ## An instruction that changes its core -/

/-- Two states that agree outside the threads agree after one change of a core that keeps its crews. -/
theorem SameOutside.updCore_both {s t : State} (h : SameOutside s t) (d c : Nat) {f g : Core → Core}
    (hf : ∀ x, (f x).crews = x.crews) (hg : ∀ x, (g x).crews = x.crews) (hr : (g (t.coreOf d c)).rest = (f (s.coreOf d c)).rest) :
    SameOutside (s.updCore d c f) (t.updCore d c g) := by
  refine ⟨h.time, h.mem, h.host, h.links, h.podrt, h.timeConv, h.ctxs, h.ctrls, h.disp, h.barDone, h.colls, h.net, h.ring, fun k => ?_,
    fun d' c' => ?_, fun r => ?_⟩
  · unfold State.updCore
    rw [State.rest_setCore, State.rest_setCore, h.die]
  · unfold State.updCore
    by_cases hk : d' = d ∧ c' = c
    · rw [hk.1, hk.2, State.coreOf_setCore, State.coreOf_setCore, hr]
    · rw [State.coreOf_setCore_ne _ _ hk, State.coreOf_setCore_ne _ _ hk, h.core]
  · rw [State.crewOf_updCore _ _ _ _ hf, State.crewOf_updCore _ _ _ _ hg, h.crew]

/-- The end of an instruction, with a change of a core in the state before and in the state after. -/
theorem Ends.updCore_both {e : Env} {s t : State} {pc : PCW} {b1 : Band} {ps : List Pend} (h : Ends e s (.next t) pc b1 ps) (d c : Nat)
    {f g : Core → Core} (hf : ∀ x, (f x).crews = x.crews) (hg : ∀ x, (g x).crews = x.crews) (hg' : ∀ x, (g x).rest = (g x.rest).rest)
    (hr : (g (s.coreOf d c)).rest = (f (s.coreOf d c)).rest) : Ends e (s.updCore d c f) (.next (t.updCore d c g)) pc b1 ps := by
  obtain ⟨t', b, ho, ht, hpc, hp, hfl, hb, hout, hothers⟩ := h
  obtain rfl : t = t' := by injection ho
  refine ⟨_, b, rfl, ?_, ?_, hp, hfl, hb, hout.updCore_both d c hf hg ?_, fun u hu => ?_⟩
  · rw [State.thread_updCore _ _ _ _ hg, ht]
  · rw [hpc]
    unfold Env.lands
    rw [State.crewOf_updCore _ _ _ _ hf]
  · rw [hg', hout.core, ← hg', hr]
  · rw [State.thread_updCore _ _ _ _ hf, State.thread_updCore _ _ _ _ hg, hothers u hu]

/-! ## Copy commands -/

/-- The entry that a copy command or a fence leaves in a channel. -/
def Env.copyCmd (e : Env) (op : CopyOp) (s : State) : CopyCmd :=
  let o := field e.c.payload.toNat 48 5
  let u := fun (n : Nat) => e.uni 3 0 n
  { op := op, seq := (s.coreOf e.t.die e.t.core).seq, slot := e.t.slot, thread := e.t, waitId := e.id, pc := e.b.x.pc, cmd := e.c.payload,
    recAddr := BitVec.ofNat 64 (e.srcA 0 64), dense := BitVec.ofNat 64 (e.srcB 0 64),
    origin := [u o % 2 ^ 32, u o / 2 ^ 32, u (o + 1) % 2 ^ 32, u (o + 1) / 2 ^ 32, u (o + 2) % 2 ^ 32],
    idxOff := u (field e.c.payload.toNat 19 5) % 2 ^ 32, st := .queued, rcd := none, idx := [], pos := 0, buf := [], logged := false,
    status := 0 }

/-- It enters the channel behind what stands there, and the thread goes on with a wait. -/
theorem Env.Placed.copyQueue_waits {e : Env} {s : State} (h : e.Placed s) (ch : Nat) (op : CopyOp) :
    Waits e (s.updCore e.t.die e.t.core fun x => { x with copy := x.copy.modify ch fun q => q ++ [e.copyCmd op s], seq := x.seq + 1 })
      (.next (e.copyQueue ch op s)) e.b .copy := by
  refine ⟨{ id := e.id, flag := e.flag, pc := e.b.x.pc, kind := .copy }, rfl, rfl, rfl, rfl, ?_⟩
  unfold Env.copyQueue
  refine Ends.updCore_both ?_ e.t.die e.t.core (fun _ => rfl) (fun _ => rfl) (fun _ => rfl) rfl
  apply h.commit_ends
  · dsimp only
    split <;> cases e.flag <;> rfl
  · cases e.flag <;> exact (List.append_nil _).symm
  · cases e.flag <;> rfl
  · cases e.flag <;> rfl

/-- A copy command whose wait is over and whose channel has room. -/
theorem copyInstr_of {opc : Nat} {op : CopyOp} {c : Code} {s : State} {e : Env} (h : Issues opc c s e) (hl : e.lanes ≠ 0)
    (hc : op = .cpyAdd → e.b.committed = true)
    (hroom : ((s.coreOf e.t.die e.t.core).copy.getD (field c.payload.toNat 62 2) []).length < 16) :
    copyInstr opc op c s = .next (e.copyQueue (field c.payload.toNat 62 2) op s) := by
  have hwait : ¬(op = .cpyAdd ∧ !e.b.committed) := by
    rintro ⟨hop, hn⟩
    rw [hc hop] at hn
    exact absurd hn (by decide)
  unfold copyInstr
  rw [runInstr_of h]
  dsimp only
  rw [if_neg hwait, if_neg hl, if_neg (by omega)]

/-- The operation of a fence in the Infuser's queue. -/
def Env.qfenceOp (e : Env) (c : Code) (s : State) : JOp :=
  JOp.make (.qfence (c.srca.bits.toNat % 32)) (s.coreOf e.t.die e.t.core).seq e.t e.id e.b.x.pc (BitVec.ofNat 64 (c.toRaw 0xD4).base)

theorem qfence_queues {c : Code} {s : State} {e : Env} (h : Issues 0xD4 c s e) (hx : c.srcb.bits.toNat % 8 = 0)
    (hroom : (s.coreOf e.t.die e.t.core).jq.length < 32) : Queues e s (exec (.qfence c) s) e.b .infuser [e.qfenceOp c s] := by
  have hexec : exec (.qfence c) s = .next ((e.commit { (e.advance e.next e.b).flagUp e.flag with
      waits := ((e.advance e.next e.b).flagUp e.flag).waits ++ [{ id := e.id, flag := e.flag, pc := e.b.x.pc, kind := .infuser }] } s).updCore
        e.t.die e.t.core fun k => { k with jq := k.jq ++ [e.qfenceOp c s], seq := (s.coreOf e.t.die e.t.core).seq + 1 }) := by
    rw [exec_qfence, execQfence, runInstr_of h]
    dsimp only
    rw [if_pos hx, if_neg (by omega)]
    rfl
  rw [hexec]
  refine ⟨_, rfl, rfl, rfl, rfl, Ends.updCore_both ((Env.Placed.of_mkEnv h.1).wait_ends _) e.t.die e.t.core (fun _ => rfl)
    (fun _ => rfl) (fun _ => rfl) rfl⟩

/-- Settles O30: a copy command and a fence enter their queue. -/
theorem copyCommands : Obligations.CopyCommands := by
  unfold Obligations.CopyCommands
  refine ⟨?copy, ?fence⟩
  case copy =>
    intro mk opc op hmk c s e h hl hc ch core hroom
    have hexec : exec (mk c) s = .next (e.copyQueue ch op s) := by
      rcases hmk with ⟨rfl, rfl, rfl⟩ | ⟨rfl, rfl, rfl⟩ | ⟨rfl, rfl, rfl⟩ | ⟨rfl, rfl, rfl⟩
      · rw [exec_cpy]; exact copyInstr_of h hl hc hroom
      · rw [exec_cpyg]; exact copyInstr_of h hl hc hroom
      · rw [exec_cpys]; exact copyInstr_of h hl hc hroom
      · rw [exec_cpyAdd]; exact copyInstr_of h hl hc hroom
    rw [hexec]
    exact ⟨e.copyCmd op s, rfl, congrArg Code.payload h.code, rfl, rfl, rfl, rfl, rfl, rfl, rfl, rfl,
      (Env.Placed.of_mkEnv h.1).copyQueue_waits ch op⟩
  case fence =>
    intro c s e h x op core
    refine ⟨fun hx hroom => ?queue, fun hx hroom => ?channel⟩
    case queue => exact ⟨e.qfenceOp c s, rfl, rfl, rfl, qfence_queues h hx hroom⟩
    case channel =>
      have hexec : exec (.qfence c) s = .next (e.copyQueue (x - 1) (.qfence op) s) := by
        rw [exec_qfence, execQfence, runInstr_of h]
        dsimp only
        rw [if_neg hx, if_neg (show ¬ 16 ≤ (core.copy.getD (x - 1) []).length by omega)]
      rw [hexec]
      exact ⟨e.copyCmd (.qfence op) s, rfl, rfl, rfl, (Env.Placed.of_mkEnv h.1).copyQueue_waits (x - 1) (.qfence op)⟩

/-! ## Roster collectives -/

@[simp] theorem State.send_colls (s : State) (h : PktHdr) (b : Body) : (s.send h b).colls = s.colls := by
  unfold State.send State.toPod
  split
  · rfl
  · cases s.podPortFor (podTable h.srcSock.toNat) h <;> rfl

theorem State.collSend_keeps (s : State) (d : Nat) (h : Handle) (tgt : Nat × Nat) (st : BitVec 6) (rred : Bool)
    (roster gen lin : Nat) (result : Bool) (bs : List Byte) :
    (s.collSend d h tgt st rred roster gen lin result bs).dies = s.dies ∧ (s.collSend d h tgt st rred roster gen lin result bs).colls = s.colls := by
  unfold State.collSend
  refine foldl_keeps (P := fun x : State => x.dies = s.dies ∧ x.colls = s.colls) ⟨rfl, rfl⟩ fun x p hx => ?_
  unfold State.sendTo
  rw [State.send_dies, State.send_colls]
  exact hx

/-- The generation counter of a roster's collectives: reductions and multicasts are counted apart. -/
def collCounter (roster : Nat) (rred : Bool) : Nat := 2 * roster + if rred then 1 else 0

/-- The state after a collective is counted, noted as issued, broken where its command differs, and sent. -/
def Env.collIssued (e : Env) (cw : Crew) (i : CollIssue) (differs : Bool) (give : List Byte) (home : State → Nat × Nat) (s : State) : State :=
  let n := collCounter i.roster i.rred
  let s2 := s.updCrew e.t.crew fun x => { x with ctl := { x.ctl with collGens := x.ctl.collGens.set n (i.gen + 1) } }
  let s3 := { s2 with colls := s2.colls ++ [i] }
  let s4 := if differs then s3.breakAll i.handle [(if i.rred then 5 else 4, i.roster, i.gen)] else s3
  s4.collSend e.t.die i.handle (home s4) 0 i.rred i.roster i.gen cw.cfg.lin false give

theorem Env.collIssued_spec (e : Env) (cw : Crew) (i : CollIssue) (differs : Bool) (give : List Byte) (home : State → Nat × Nat)
    (s : State) {x : Crew} (hx : s.crewOf e.t.crew = some x) :
    (∀ u, (e.collIssued cw i differs give home s).thread u = s.thread u) ∧ (e.collIssued cw i differs give home s).mem = s.mem ∧
    (e.collIssued cw i differs give home s).colls = s.colls ++ [i] ∧
    (e.collIssued cw i differs give home s).crewOf e.t.crew =
      some { x with ctl := { x.ctl with collGens := x.ctl.collGens.set (collCounter i.roster i.rred) (i.gen + 1) } } := by
  obtain ⟨s2, hs2⟩ : ∃ s2, s2 = s.updCrew e.t.crew fun x =>
    { x with ctl := { x.ctl with collGens := x.ctl.collGens.set (collCounter i.roster i.rred) (i.gen + 1) } } := ⟨_, rfl⟩
  obtain ⟨s4, hs4⟩ : ∃ s4 : State, s4 = if differs then
      ({ s2 with colls := s2.colls ++ [i] } : State).breakAll i.handle [(if i.rred then 5 else 4, i.roster, i.gen)]
    else { s2 with colls := s2.colls ++ [i] } := ⟨_, rfl⟩
  have hdies : s4.dies = s2.dies := by rw [hs4]; split <;> rfl
  have hmem : s4.mem = s2.mem := by rw [hs4]; split <;> rfl
  have hcolls : s4.colls = s2.colls ++ [i] := by rw [hs4]; split <;> rfl
  obtain ⟨hsendDies, hsendColls⟩ := s4.collSend_keeps e.t.die i.handle (home s4) 0 i.rred i.roster i.gen cw.cfg.lin false give
  have hissued : e.collIssued cw i differs give home s =
      s4.collSend e.t.die i.handle (home s4) 0 i.rred i.roster i.gen cw.cfg.lin false give := by
    rw [hs4, hs2]
    rfl
  have hctl : CtlOnly s s2 := by
    rw [hs2]
    exact CtlOnly.updCtl s e.t.crew fun x => { x with collGens := x.collGens.set (collCounter i.roster i.rred) (i.gen + 1) }
  rw [hissued]
  refine ⟨fun u => ?_, ?_, ?_, ?_⟩
  · rw [State.thread_of_dies (hsendDies.trans hdies), hctl.thread]
  · rw [State.collSend_mem, hmem, hs2, State.updCrew_mem]
  · rw [hsendColls, hcolls, hs2]
    congr 1
    unfold State.updCrew
    split <;> rfl
  · rw [State.crewOf_of_dies (hsendDies.trans hdies), hs2, State.crewOf_updCrew, if_pos rfl, hx, Option.map_some]

/-- What a collective notes as issued. -/
def Env.collNote (e : Env) (cw : Crew) (g : Grid) (rred : Bool) (c : Code) (s : State) : CollIssue :=
  let k := CollCmd.of rred c.payload.toNat
  { handle := g.handle, lin := cw.cfg.lin, rred := rred, roster := k.roster, gen := cw.ctl.collGens.get 0 (collCounter k.roster rred),
    cmd := c.payload, src := e.srcA 0 32, bytes := s.getScr e.t.crew cw .core 0 (e.srcA 0 32) k.len, thread := e.t, waitId := e.id, got := [] }

/-- Another crew has issued the same generation with another command. -/
def State.collDiffers (s : State) (i : CollIssue) : Bool :=
  s.colls.any fun x => x.handle == i.handle && x.rred == i.rred && x.roster == i.roster && x.gen == i.gen && x.cmd != i.cmd

/-- The crew contributes: every crew to a reduction, the root to a multicast. -/
def Crew.contributes (cw : Crew) (g : Grid) (rred : Bool) (c : Code) : Bool :=
  let k := CollCmd.of rred c.payload.toNat
  rred || (g.rosters.getD k.roster []).getD k.root 0 == cw.cfg.lin

/-- A collective whose operands lie in the crew's space issues. -/
theorem collective_of {opc : Nat} {rred : Bool} {c : Code} {s : State} {e : Env} {cw : Crew} {g : Grid} (h : Issues opc c s e)
    (hcw : CrewAt e s cw) (hg : s.gridOf cw.cfg.handle = some g) (hl : e.lanes ≠ 0) (hheld : e.b.memHeld = false)
    (hm : cw.cfg.rosters.contains (CollCmd.of rred c.payload.toNat).roster = true)
    (hroot : (CollCmd.of rred c.payload.toNat).root < (g.rosters.getD (CollCmd.of rred c.payload.toNat).roster []).length)
    (hdst : (CollCmd.of rred c.payload.toNat).doff + (CollCmd.of rred c.payload.toNat).len ≤ cw.cfg.scrKB * 1024)
    (hsrc : e.srcA 0 32 + (CollCmd.of rred c.payload.toNat).len ≤ cw.cfg.scrKB * 1024) (hal : e.srcA 0 32 % 16 = 0)
    (hinit : rred = true ∨ (g.rosters.getD (CollCmd.of rred c.payload.toNat).roster []).getD (CollCmd.of rred c.payload.toNat).root 0 =
      cw.cfg.lin → e.uninits s cw .core [⟨lowestLane e.lanes, (e.srcA 0 32 : Nat), (CollCmd.of rred c.payload.toNat).len⟩] = []) :
    collective opc rred c s = .next (e.collIssued cw (e.collNote cw g rred c s) (s.collDiffers (e.collNote cw g rred c s))
      (if cw.contributes g rred c then (e.collNote cw g rred c s).bytes else [])
      (fun s4 => s4.collHome g (CollCmd.of rred c.payload.toNat).roster)
      (e.commit { (e.advance e.next e.b).flagUp e.flag with waits := ((e.advance e.next e.b).flagUp e.flag).waits ++
        [{ id := e.id, flag := e.flag, pc := e.b.x.pc, kind := .coll }] } s)) := by
  have hcw' : s.crewOf e.t.crew = some cw := hcw
  have hmember : ¬ cw.notMember (CollCmd.of rred c.payload.toNat).roster = true := by
    unfold Crew.notMember
    rw [hm]
    exact Bool.false_ne_true
  have hgo : ∀ k : State → Out, (if cw.contributes g rred c then e.initCheck s cw .core
      [⟨lowestLane e.lanes, (e.srcA 0 32 : Nat), (CollCmd.of rred c.payload.toNat).len⟩] k else k s) = k s := by
    intro k
    split
    · next hgive =>
      unfold Crew.contributes at hgive
      rw [Bool.or_eq_true, beq_iff_eq] at hgive
      unfold Env.initCheck
      rw [hinit hgive]
    · rfl
  unfold collective
  rw [runInstr_of h, hcw']
  dsimp only
  rw [hg]
  dsimp only
  rw [if_neg hl, hheld, if_neg Bool.false_ne_true, if_neg hmember, if_neg (by omega), if_neg (by omega)]
  refine Eq.trans (hgo _) ?_
  rfl

/-- Settles O29: the collective is counted, noted and sent, and its thread waits. -/
theorem rosterCollectives : Obligations.RosterCollectives := by
  unfold Obligations.RosterCollectives
  intro rred c s e cw g h hcw hg k members src n hl hheld hm hroot hdst hsrc hal hinit
  have hexec : (if rred then exec (.rred c) s else exec (.rmcast c) s) = collective (if rred then 0xBC else 0xBB) rred c s := by
    cases rred <;> rfl
  have hissue := collective_of h hcw hg hl hheld hm hroot hdst hsrc hal hinit
  obtain ⟨t, b, ho, hb, hpc, -, -, hsame, hout, hothers⟩ := (Env.Placed.of_mkEnv h.1).wait_ends
    { id := e.id, flag := e.flag, pc := e.b.x.pc, kind := .coll }
  injection ho with ho
  rw [ho] at hissue
  generalize s.collDiffers (e.collNote cw g rred c s) = differs at hissue
  generalize (if cw.contributes g rred c then (e.collNote cw g rred c s).bytes else []) = give at hissue
  generalize (fun s4 : State => s4.collHome g (CollCmd.of rred c.payload.toNat).roster) = home at hissue
  obtain ⟨x, hx, hctl⟩ : ∃ x, t.crewOf e.t.crew = some x ∧ x.ctl = cw.ctl := by
    have hrest := hout.crew e.t.crew
    rw [show s.crewOf e.t.crew = some cw from hcw] at hrest
    obtain ⟨x, h1, h2⟩ := Option.map_eq_some_iff.1 hrest
    have hctl : x.rest.ctl = cw.rest.ctl := by rw [h2]
    exact ⟨x, h1, hctl⟩
  obtain ⟨hthread, hmem, hcolls, hcrew⟩ := e.collIssued_spec cw (e.collNote cw g rred c s) differs give home t hx
  obtain ⟨hwaits, hr⟩ : b.waits = e.b.waits ++ [{ id := e.id, flag := e.flag, pc := e.b.x.pc, kind := .coll }] ∧ b.r = e.b.r := by
    unfold SameThread at hsame
    have hwaits := congrArg Band.waits hsame
    have hr := congrArg Band.r hsame
    exact ⟨hwaits, hr⟩
  have hrun : exec (if rred then .rred c else .rmcast c) s = .next (e.collIssued cw (e.collNote cw g rred c s) differs give home t) := by
    rw [← hissue, ← hexec]
    cases rred <;> rfl
  refine ⟨_, b, _, e.collNote cw g rred c s, _, hrun, (hthread _).trans hb, hpc, hwaits, rfl, rfl, hr, hmem.trans hout.mem,
    fun u hu => by rw [hthread]; exact hothers u hu, hcolls.trans (by rw [hout.colls]), rfl, rfl, rfl, rfl, rfl, rfl, rfl, hcrew, ?_⟩
  exact Tbl.get_set_self ..

end Sys2Proof.Machine
end

section
/-!
EMIT and SPLIT: records enter the windows of their crews, and no thread changes.
-/
namespace Sys2Proof.Machine

theorem exec_emit (c : Code) (s : State) : exec (.emit c) s = execEmit c s := rfl
theorem exec_split (c : Code) (s : State) : exec (.split c) s = execSplit c s := rfl

/-! ## Crews under events, counters and rings -/

@[simp] theorem State.updSockEv_dies (s : State) (k : Nat) (f : SockEv → SockEv) : (s.updSockEv k f).dies = s.dies := rfl
@[simp] theorem State.evLost_dies (s : State) (k : Nat) : (s.evLost k).dies = s.dies := rfl



theorem State.storeBy_dies (key : State → Nat → Option Nat) (s : State) (pa : Nat) (bs : List Byte) :
    (s.storeBy key pa bs).dies = s.dies := by
  induction bs generalizing s pa with
  | nil => rfl
  | cons b bs ih =>
    unfold State.storeBy
    split
    · exact ih ..
    · exact ih ..

@[simp] theorem State.hostWrite_dies (s : State) (pa : Nat) (bs : List Byte) : (s.hostWrite pa bs).dies = s.dies := by
  rw [State.hostWrite_eq_storeBy]
  exact State.storeBy_dies ..

@[simp] theorem State.postRecord_dies (s : State) (r : List Byte) : (s.postRecord r).dies = s.dies := by
  unfold State.postRecord
  dsimp only
  split
  · split
    · rfl
    · simp
  · split
    · rfl
    · simp

@[simp] theorem State.report_dies (s : State) (sock : Nat) (fatal : Bool) (ctx : Option B6) (cause : Nat) (grid : Handle)
    (detail : List Byte) : (s.report sock fatal ctx cause grid detail).dies = s.dies := by
  unfold State.report
  dsimp only
  split <;> simp

/-- The crews of two states are the same. -/
structure KeepsCrews (s t : State) : Prop where
  crew : ∀ r, t.crewOf r = s.crewOf r

theorem KeepsCrews.refl (s : State) : KeepsCrews s s := ⟨fun _ => rfl⟩

theorem KeepsCrews.trans {s t u : State} (h : KeepsCrews s t) (k : KeepsCrews t u) : KeepsCrews s u :=
  ⟨fun r => (k.crew r).trans (h.crew r)⟩

theorem KeepsCrews.of_dies {s t : State} (h : t.dies = s.dies) : KeepsCrews s t := ⟨State.crewOf_of_dies h⟩

theorem KeepsCrews.updDie (s : State) (d : Nat) (f : Die → Die) (hf : ∀ x, (f x).cores = x.cores) : KeepsCrews s (s.updDie d f) :=
  ⟨State.crewOf_updDie s d f hf⟩

theorem KeepsCrews.updDisp (s : State) (d : Nat) (f : DieDisp → DieDisp) : KeepsCrews s (s.updDisp d f) :=
  KeepsCrews.updDie s d (fun x => { x with disp := f x.disp }) fun _ => rfl

theorem KeepsCrews.updGridDie (s : State) (d : Nat) (h : Handle) (f : GridDie → GridDie) : KeepsCrews s (s.updGridDie d h f) :=
  KeepsCrews.updDisp s d fun x => { x with grids := x.grids.set h.toNat (f (x.grids.get GridDie.reset h.toNat)) }

theorem KeepsCrews.updCtxDie (s : State) (d c : Nat) (f : CtxDie → CtxDie) : KeepsCrews s (s.updCtxDie d c f) :=
  KeepsCrews.updDie s d (fun x => { x with ctxs := x.ctxs.set c (f (s.ctxDie d c)) }) fun _ => rfl

theorem KeepsCrews.thread {s t : State} (h : KeepsCrews s t) (u : ThreadRef) : t.thread u = s.thread u := by
  unfold State.thread
  rw [h.crew]

theorem State.recordsLost_crews (s : State) (d : Nat) (h : Handle) (n : Nat) : KeepsCrews s (s.recordsLost d h n) := by
  unfold State.recordsLost
  refine KeepsCrews.trans (.of_dies (State.report_dies ..)) (KeepsCrews.trans (.updGridDie _ d h _) (.of_dies (State.updOwner_dies ..)))

theorem State.devWrite_crews {s t : State} {ctx : B6} {va : Nat} {bs : List Byte} (h : s.devWrite ctx va bs = .ok t) : KeepsCrews s t := by
  unfold State.devWrite at h
  split at h
  · injection h with h
    rw [← h]
    exact ⟨fun _ => rfl⟩
  · exact absurd h (by simp)

theorem State.ringPut_crews (s : State) (d : Nat) (h : Handle) (page slot : Nat) (new : Bool) (r : List Byte) :
    KeepsCrews s (s.ringPut d h page slot new r) := by
  unfold State.ringPut
  split
  · next s1 hw =>
    refine (State.devWrite_crews hw).trans (KeepsCrews.trans ?_ (.updGridDie _ d h _))
    split
    · exact .updCtxDie ..
    · exact .refl _
  · exact State.recordsLost_crews ..

theorem State.ringAppend_crews {s t : State} {d : Nat} {h : Handle} {me : Option PageWait} {r : List Byte}
    (ha : s.ringAppend d h me r = some t) : KeepsCrews s t := by
  unfold State.ringAppend at ha
  dsimp only at ha
  split at ha
  · injection ha with ha
    rw [← ha]
    exact State.ringPut_crews ..
  · obtain ⟨va, -, ht⟩ := Option.map_eq_some_iff.1 ha
    rw [← ht]
    exact State.ringPut_crews ..

theorem State.ringAppends_crews {s t : State} {d : Nat} {h : Handle} {me : Option PageWait} {rs : List (List Byte)}
    (ha : s.ringAppends d h me rs = some t) : KeepsCrews s t := by
  induction rs generalizing s with
  | nil => injection ha with ha; rw [← ha]; exact .refl s
  | cons r rs ih =>
    unfold State.ringAppends at ha
    split at ha
    · next s1 h1 => exact (State.ringAppend_crews h1).trans (ih ha)
    · exact absurd ha (by simp)

/-! ## Windows -/

theorem State.thread_setCrew_window (s : State) (c : CrewRef) {cw w : Crew} (hcw : s.crewOf c = some cw)
    (hw : ∀ n, w.thread n = cw.thread n) (u : ThreadRef) : (s.setCrew c w).thread u = s.thread u := by
  unfold State.thread
  by_cases h : u.crew = c
  · rw [h, State.crewOf_setCrew, hcw]
    exact hw u.band
  · rw [State.crewOf_setCrew_ne _ _ h]

theorem Crew.thread_push (cw : Crew) (now : Nat) (r : List Byte) (n : Option Nat) : (cw.push now r).thread n = cw.thread n := by
  cases n <;> rfl

theorem State.enterWindow_thread {s t : State} {c : CrewRef} {me : Option PageWait} {r : List Byte} (h : s.enterWindow c me r = some t)
    (u : ThreadRef) : t.thread u = s.thread u := by
  unfold State.enterWindow at h
  split at h
  · injection h with h
    rw [← h]
  · next cw hcw =>
    dsimp only at h
    split at h
    · exact (State.ringAppend_crews h).thread u
    · split at h
      · injection h with h
        rw [← h]
        exact State.thread_setCrew_window s c hcw (Crew.thread_push cw _ r) u
      · obtain ⟨s1, h1, ht⟩ := Option.map_eq_some_iff.1 h
        rw [← ht, State.thread_updCrew _ _ _ (fun w n => Crew.thread_push w _ r n), (State.ringAppends_crews h1).thread]
        exact State.thread_setCrew_window s c hcw (fun n => by cases n <;> rfl) u

theorem State.enterWindows_thread {s t : State} {c : CrewRef} {me : Option PageWait} {rs : List (List Byte)}
    (h : s.enterWindows c me rs = some t) (u : ThreadRef) : t.thread u = s.thread u := by
  induction rs generalizing s with
  | nil => injection h with h; rw [← h]
  | cons r rs ih =>
    unfold State.enterWindows at h
    split at h
    · next s1 h1 => rw [ih h, State.enterWindow_thread h1]
    · exact absurd h (by simp)

theorem State.liveAdd_crews (s : State) (d : Nat) (h : Handle) (n : Nat) : KeepsCrews s (s.liveAdd d h n) := .updGridDie ..
theorem State.pageGot_crews (s : State) (d : Nat) (h : Handle) (w : PageWait) : KeepsCrews s (s.pageGot d h w) := .updDisp ..

/-- Creating records changes no thread. -/
theorem Env.create_thread {e : Env} {cw : Crew} {rs : List (List Byte)} {s t : State} (h : e.create cw rs s = some t) (u : ThreadRef) :
    t.thread u = s.thread u := by
  unfold Env.create at h
  dsimp only at h
  split at h
  · injection h with h
    rw [← h]
  · obtain ⟨s1, h1, ht⟩ := Option.map_eq_some_iff.1 h
    rw [← ht, (State.pageGot_crews ..).thread, State.enterWindows_thread h1, (State.liveAdd_crews ..).thread]

/-! ## An order of the lanes -/

theorem freeInsert_perm (free x : Nat) (ls : List Nat) : (freeInsert free x ls).Perm (x :: ls) := by
  induction ls generalizing free with
  | nil => exact .refl _
  | cons y ys ih =>
    unfold freeInsert
    split
    · exact .refl _
    · exact ((ih (free + 1)).cons y).trans (List.Perm.swap x y ys)

theorem freeOrder_perm (free : Nat) (ls : List Nat) : (freeOrder free ls).Perm ls := by
  induction ls generalizing free with
  | nil => exact .refl _
  | cons x xs ih => exact (freeInsert_perm free x _).trans ((ih (free + 64)).cons x)

end Sys2Proof.Machine
end

section
/-!
EMIT and SPLIT: what each gives and leaves.
-/
namespace Sys2Proof.Machine

/-! ## EMIT -/

theorem mem_ls {e : Env} {l : Nat} : l ∈ e.ls ↔ l < 64 ∧ e.lanes.getLsbD l = true := by
  unfold Env.ls lanesOf
  rw [List.mem_filter, List.mem_range]

/-- A test that no acting lane fails gives the empty mask. -/
theorem Env.badLanes_eq_zero {e : Env} {p : Nat → Bool} (h : ∀ l ∈ e.ls, p l = false) :
    maskOf 64 (fun l => e.lanes.getLsbD l && p l) = 0 := by
  apply maskOf_eq_zero
  intro l hl
  cases hb : e.lanes.getLsbD l with
  | false => rfl
  | true => exact h l (mem_ls.2 ⟨hl, hb⟩)

theorem Env.Placed.of_threads {e : Env} {s t : State} (h : e.Placed s) (ht : ∀ u, t.thread u = s.thread u) : e.Placed t :=
  ⟨by rw [ht]; exact h.thread, h.front⟩

/-- What `EMIT` does once its waits are over and its records are valid and have room. -/
theorem emit_goes {c : Code} {s : State} {e : Env} {cw : Crew} (h : Issues 0xE0 c s e) (hcw : CrewAt e s cw) (hl : e.lanes ≠ 0)
    (hc : e.b.committed = true) (hp : cw.cfg.poolN ≠ 0) (hv : ∀ l ∈ e.ls, recValid (e.record l) = true)
    (hroom : ∀ order : List Nat, order.Perm e.ls → (e.create cw (order.map e.record) s).isSome) :
    ∃ (order : List Nat) (s1 : State), order.Perm e.ls ∧ e.create cw (order.map e.record) s = some s1 ∧
      GoesNew e s1 (exec (.emit c) s) e.next e.b := by
  have hperm := freeOrder_perm (e.free + e.used) e.ls
  obtain ⟨s1, hs1⟩ := Option.isSome_iff_exists.1 (hroom _ hperm)
  have hcw' : s.crewOf e.t.crew = some cw := hcw
  have hbad : maskOf 64 (fun l => e.lanes.getLsbD l && !recValid (e.record l)) = 0 :=
    Env.badLanes_eq_zero fun l hl => by rw [hv l hl]; rfl
  have hexec : exec (.emit c) s = { e with free := e.free + orderChoices }.committedEnd e.b s1 := by
    rw [exec_emit, execEmit, runInstr_of h, hcw']
    dsimp only
    rw [hc, if_neg (by decide), if_neg hl, if_neg hp, hbad, if_neg (by simp), hs1]
  have hsame : e.Same { e with free := e.free + orderChoices } := ⟨rfl, rfl, rfl, rfl⟩
  have hback : Env.Same { e with free := e.free + orderChoices } e := ⟨rfl, rfl, rfl, rfl⟩
  refine ⟨_, s1, hperm, hs1, ?_⟩
  rw [hexec]
  exact hback.endsNew ((((Env.Placed.of_mkEnv h.1).of_threads (Env.create_thread hs1)).same hsame).committedEnd_goes e.b)

/-! ## SPLIT -/

/-- A lane's interval can be halved. -/
def Env.half (e : Env) (l : Nat) : Option (Ivl × Ivl) := e.fmt.halves (e.ivA l)

/-- The record of the upper half of a lane's interval. -/
def Env.kid (e : Env) (s : State) (cw : Crew) (l : Nat) : List Byte :=
  match e.half l with
  | some h => e.child s cw l h.2
  | none => []

/-- The lanes whose interval can be halved. -/
def Env.kids (e : Env) : List Nat := e.ls.filter fun l => (e.half l).isSome

/-- The upper halves by lane. -/
def Env.uppers (e : Env) : List (Nat × Ivl) := e.ls.filterMap fun l => (e.half l).map fun h => (l, h.2)

theorem Env.uppers_lanes (e : Env) : e.uppers.map (fun x => x.1) = e.kids := by
  unfold Env.uppers Env.kids
  generalize e.ls = ls
  induction ls with
  | nil => rfl
  | cons l ls ih =>
    rw [List.filterMap_cons, List.filter_cons]
    cases e.half l with
    | none => simpa using ih
    | some h => simpa using ih

theorem Env.find?_uppers (e : Env) {l : Nat} {h : Ivl × Ivl} (hl : l ∈ e.ls) (hh : e.half l = some h) :
    e.uppers.find? (fun x => x.1 == l) = some (l, h.2) := by
  unfold Env.uppers
  generalize e.ls = ls at hl ⊢
  induction ls with
  | nil => exact absurd hl (by simp)
  | cons k ls ih =>
    rw [List.filterMap_cons]
    by_cases hk : k = l
    · rw [hk, hh]
      simp
    · have hl' : l ∈ ls := by
        rcases List.mem_cons.1 hl with h | h
        · exact absurd h.symm hk
        · exact h
      cases e.half k with
      | none => exact ih hl'
      | some g => simpa [hk] using ih hl'

/-- The records of some lanes that can be halved, in an order. -/
theorem Env.recs_eq (e : Env) (s : State) (cw : Crew) {order : List Nat} (h : ∀ l ∈ order, l ∈ e.kids) :
    (order.filterMap fun l => (e.uppers.find? fun x => x.1 == l).map fun x => e.child s cw l x.2) = order.map (e.kid s cw) := by
  induction order with
  | nil => rfl
  | cons l ls ih =>
    have hl := h l (by simp)
    unfold Env.kids at hl
    rw [List.mem_filter] at hl
    obtain ⟨g, hg⟩ := Option.isSome_iff_exists.1 hl.2
    rw [List.filterMap_cons, e.find?_uppers hl.1 hg, Option.map_some, List.map_cons, ih fun k hk => h k (by simp [hk])]
    unfold Env.kid
    rw [hg]

/-- What `SPLIT` leaves in its destination and, where it is told to, in its predicate. -/
def Env.splitWrites (e : Env) (c : Code) : List (Nat × W64) :=
  (e.ls.flatMap fun l => e.slotWrites c.dst l e.words (e.fmt.pair (match e.half l with | some h => h.1 | none => e.ivA l))) ++
    if c.mods.getLsbD 7 then e.ls.map fun l => (predKey l (c.mods.toNat / 16 % 8), BitVec.ofNat 64 (if (e.half l).isSome then 1 else 0))
    else []

theorem getLsbD_seven (m : BitVec 8) : (m.toNat / 128 = 1) ↔ m.getLsbD 7 = true := by
  have hm := m.isLt
  rw [BitVec.getLsbD, Nat.testBit_eq_decide_div_mod_eq]
  simp only [decide_eq_true_eq]
  omega

/-- What `SPLIT` does once its waits are over and its records have room. -/
theorem split_ends {c : Code} {s : State} {e : Env} {cw : Crew} (h : Issues 0xE1 c s e) (hcw : CrewAt e s cw) (hl : e.lanes ≠ 0)
    (hc : e.b.committed = true) (hp : cw.cfg.poolN ≠ 0)
    (hroom : ∀ order : List Nat, order.Perm e.kids → (e.create cw (order.map (e.kid s cw)) s).isSome) :
    ∃ (order : List Nat) (s1 : State) (st : BitVec 6), order.Perm e.kids ∧ e.create cw (order.map (e.kid s cw)) s = some s1 ∧
      EndsNew e s1 (exec (.split c) s) e.next e.b [e.varied (e.splitWrites c) none st] := by
  have hperm := freeOrder_perm (e.free + e.used) e.kids
  obtain ⟨s1, hs1⟩ := Option.isSome_iff_exists.1 (hroom _ hperm)
  have hcw' : s.crewOf e.t.crew = some cw := hcw
  have hrecs := e.recs_eq s cw (order := freeOrder (e.free + e.used) e.kids) fun l hl => (hperm.mem_iff).1 hl
  have hplaced := (Env.Placed.of_mkEnv h.1).of_threads (Env.create_thread hs1)
  obtain ⟨st, hexec⟩ : ∃ st, exec (.split c) s = .next (e.commitNew (e.free + e.used + orderChoices)
      ((e.advance e.next e.b).pend (e.varied (e.splitWrites c) none st)) s1) := by
    refine ⟨(e.ls.map fun l => (l, e.iv 1 l)).foldl (fun st p => st ||| stIf p.2.2 stIll) 0, ?_⟩
    have huppers : ((e.ls.map fun l => (l, e.iv 1 l)).map fun p => (p.1, e.fmt.halves p.2.1, p.2.1)).filterMap
        (fun x => x.2.1.map fun h => (x.1, h.2)) = e.uppers := by
      rw [List.map_map, List.filterMap_map]
      rfl
    rw [exec_split, execSplit, runInstr_of h, hcw']
    dsimp only
    rw [hc, if_neg (by decide), if_neg hl, if_neg hp, huppers, e.uppers_lanes, hrecs, hs1]
    dsimp only
    refine congrArg (fun w => Host.Outcome.next (e.commitNew (e.free + e.used + orderChoices)
      ((e.advance e.next e.b).pend (e.varied w none _)) s1)) ?_
    unfold Env.splitWrites
    rw [List.map_map, List.map_map, List.map_map, List.map_map, List.flatMap_map, if_congr (getLsbD_seven c.mods) rfl rfl]
    congr 1
    split
    · refine List.map_congr_left fun l _ => ?_
      show (_, BitVec.ofNat 64 (triNum (if (e.half l).isSome = true then Tri.t else Tri.f))) = _
      cases (e.half l).isSome <;> rfl
    · rfl
  exact ⟨_, s1, st, hperm, hs1, hexec ▸ hplaced.pendNew_ends _ _ _ _ rfl⟩

/-! ## Entering a window -/

/-- A record that has a bin, or may open one, in a window with room becomes its youngest. -/
theorem State.enterWindow_room {s : State} {c : CrewRef} {me : Option PageWait} {r : List Byte} {cw : Crew}
    (hcw : s.crewOf c = some cw) (hb : cw.hasBin r = true) (hr : cw.window.length < cw.cfg.poolN) :
    s.enterWindow c me r = some (s.setCrew c (cw.push (s.cyc c.die) r)) := by
  unfold State.enterWindow
  rw [hcw]
  dsimp only
  rw [hb, if_neg (by decide), if_pos hr]

theorem State.cyc_updDisp (s : State) (d : Nat) (f : DieDisp → DieDisp) (k : Nat) : (s.updDisp d f).cyc k = s.cyc k := by
  unfold State.cyc State.updDisp State.updDie
  by_cases h : k = d
  · rw [h, State.dieOf_setDie]
  · rw [State.dieOf_setDie_ne _ _ h]

theorem State.gridDie_updGridDie (s : State) (d : Nat) (h : Handle) (f : GridDie → GridDie) :
    (s.updGridDie d h f).gridDie d h = f (s.gridDie d h) := by
  simp [State.updGridDie, State.updDisp, State.updDie, State.gridDie]

theorem State.gridDie_pageGot (s : State) (d : Nat) (h : Handle) (w : PageWait) : (s.pageGot d h w).gridDie d h = s.gridDie d h := by
  unfold State.pageGot State.gridDie State.updDisp State.updDie
  rw [State.dieOf_setDie]

theorem State.gridDie_setCrew (s : State) (r : CrewRef) (w : Crew) (d : Nat) (h : Handle) : (s.setCrew r w).gridDie d h = s.gridDie d h := by
  have hrest : ((s.setCrew r w).dieOf d).rest = (s.dieOf d).rest := State.rest_setCore ..
  exact State.gridDie_of_rest hrest h

/-- One new record is counted and is the youngest of the window. -/
theorem Env.create_one {e : Env} {cw : Crew} {r : List Byte} {s : State} (hcw : CrewAt e s cw)
    (hc : (s.gridDie e.t.die cw.cfg.handle).cancelled = false) (hb : cw.hasBin r = true) (hr : cw.window.length < cw.cfg.poolN) :
    ∃ s1, e.create cw [r] s = some s1 ∧ s1.crewOf e.t.crew = some (cw.push (s.cyc e.t.die) r) ∧
      (s1.gridDie e.t.die cw.cfg.handle).live = (s.gridDie e.t.die cw.cfg.handle).live + 1 ∧ s1.mem = s.mem := by
  have hcw1 : (s.liveAdd e.t.die cw.cfg.handle 1).crewOf e.t.crew = some cw := ((State.liveAdd_crews ..).crew _).trans hcw
  have hcyc : (s.liveAdd e.t.die cw.cfg.handle 1).cyc e.t.die = s.cyc e.t.die := State.cyc_updDisp ..
  refine ⟨((s.liveAdd e.t.die cw.cfg.handle 1).setCrew e.t.crew (cw.push (s.cyc e.t.die) r)).pageGot e.t.die cw.cfg.handle e.pageWaiter,
    ?_, ?_, ?_, rfl⟩
  · unfold Env.create
    dsimp only
    rw [hc, if_neg (by decide)]
    show ((s.liveAdd e.t.die cw.cfg.handle 1).enterWindows e.t.crew (some e.pageWaiter) [r]).map _ = _
    unfold State.enterWindows
    rw [State.enterWindow_room hcw1 hb hr]
    show some _ = some _
    rw [show e.t.crew.die = e.t.die from rfl, hcyc]
  · rw [(State.pageGot_crews ..).crew, State.crewOf_setCrew]
  · rw [State.gridDie_pageGot, State.gridDie_setCrew, State.liveAdd, State.gridDie_updGridDie]

/-- Settles O31: `EMIT`, `SPLIT` and the entry of one record. -/
theorem taskCreation : Obligations.TaskCreation := by
  unfold Obligations.TaskCreation
  refine ⟨fun c s e cw h hcw hl hc hp hv hroom => emit_goes h hcw hl hc hp hv hroom, ?split, ?one⟩
  case split =>
    intro c s e cw h hcw hl hc hp half kid kids hroom left preds
    exact split_ends h hcw hl hc hp hroom
  case one =>
    intro e cw r s hcw hc hb hr
    obtain ⟨s1, hs1, hcw1, hlive, hmem⟩ := Env.create_one hcw hc hb hr
    exact ⟨s1, _, hs1, hcw1, rfl, hlive, hmem, rfl, rfl⟩

end Sys2Proof.Machine
end

section
/-!
ENQ and ENQ.A: the records of the lanes are sent one after another.
-/
namespace Sys2Proof.Machine

theorem exec_enq (c : Code) (s : State) : exec (.enq c) s = execEnq c s := rfl
theorem exec_enqA (c : Code) (s : State) : exec (.enqA c) s = execEnqA c s := rfl

/-! ## What sending leaves alone -/

theorem State.sendTo_keeps (s : State) (ctx : B6) (tag src : Nat) (dst : Nat × Nat) (b : Body) :
    (s.sendTo ctx tag src dst b).dies = s.dies ∧ (s.sendTo ctx tag src dst b).podrt = s.podrt ∧
    (s.sendTo ctx tag src dst b).mem = s.mem ∧ ∀ p ∈ s.net, p ∈ (s.sendTo ctx tag src dst b).net := by
  unfold State.sendTo State.send State.toPod
  dsimp only
  split
  · exact ⟨rfl, rfl, rfl, fun p hp => List.mem_append_left _ hp⟩
  · cases s.podPortFor _ _ <;> exact ⟨rfl, rfl, rfl, fun p hp => hp⟩

/-- A packet for this package stands in its network. -/
theorem State.sendTo_net {s : State} {dst : Nat × Nat} (h : dst.1 % 2 ^ 8 = s.pkg) (ctx : B6) (tag src : Nat) (b : Body) :
    ∃ p ∈ (s.sendTo ctx tag src dst b).net, p.hdr.dstSock.toNat = dst.2 % 2 ^ 5 ∧ p.body = b := by
  have hpkg : (BitVec.ofNat 8 dst.1).toNat = s.pkg := by rw [BitVec.toNat_ofNat]; exact h
  unfold State.sendTo State.send
  dsimp only
  rw [if_pos hpkg]
  exact ⟨_, List.mem_append_right _ (List.mem_singleton.2 rfl), BitVec.toNat_ofNat .., rfl⟩

theorem State.pkg_of_podrt {s t : State} (h : t.podrt = s.podrt) : t.pkg = s.pkg := by
  unfold State.pkg
  rw [h]

/-! ## Landing slots in use -/

theorem find?_filter_of_imp {α : Type} {p q : α → Bool} (h : ∀ x, q x = true → p x = true) (l : List α) :
    (l.filter p).find? q = l.find? q := by
  induction l with
  | nil => rfl
  | cons x l ih =>
    by_cases hp : p x = true
    · rw [List.filter_cons_of_pos hp, List.find?_cons, List.find?_cons, ih]
    · have hq : q x = false := by
        cases hq : q x with
        | true => exact absurd (h x hq) hp
        | false => rfl
      rw [List.filter_cons_of_neg hp, ih, List.find?_cons, hq]

theorem find?_filter_of_not {α : Type} {p q : α → Bool} (h : ∀ x, q x = true → p x = false) (l : List α) :
    (l.filter p).find? q = none := by
  rw [List.find?_eq_none]
  intro x hx hq
  rw [List.mem_filter, h x hq] at hx
  exact absurd hx.2 (by decide)

/-- An entry of a die's slots in use is for a destination of a context. -/
def isUse (c pkg die : Nat) (u : Nat × Nat × Nat × Nat) : Bool := u.1 == c && u.2.1 == pkg && u.2.2.1 == die

theorem isUse_iff {c pkg die : Nat} {u : Nat × Nat × Nat × Nat} : isUse c pkg die u = true ↔ u.1 = c ∧ u.2.1 = pkg ∧ u.2.2.1 = die := by
  simp [isUse, and_assoc]

theorem State.enqUsed_eq (s : State) (d c pkg die : Nat) : s.enqUsed d c pkg die =
    (((s.dieOf d).disp.enqUse.find? (isUse c pkg die)).map fun u => u.2.2.2).getD 0 := by
  unfold State.enqUsed
  show (match (s.dieOf d).disp.enqUse.find? (isUse c pkg die) with
    | some u => u.2.2.2
    | none => 0) = _
  cases (s.dieOf d).disp.enqUse.find? (isUse c pkg die) <;> rfl

theorem State.enqUse_setEnqUsed (s : State) (d c pkg die n : Nat) : ((s.setEnqUsed d c pkg die n).dieOf d).disp.enqUse =
    ((s.dieOf d).disp.enqUse.filter fun u => !isUse c pkg die u) ++ if n = 0 then [] else [(c, pkg, die, n)] := by
  unfold State.setEnqUsed State.updDisp State.updDie
  rw [State.dieOf_setDie]
  rfl

/-- The slots that a die uses at a destination are those that it was last told to use there. -/
theorem State.enqUsed_setEnqUsed (s : State) (d c pkg die n pkg' die' : Nat) : (s.setEnqUsed d c pkg die n).enqUsed d c pkg' die' =
    if pkg' = pkg ∧ die' = die then n else s.enqUsed d c pkg' die' := by
  rw [State.enqUsed_eq, State.enqUse_setEnqUsed, List.find?_append]
  by_cases h : pkg' = pkg ∧ die' = die
  · obtain ⟨rfl, rfl⟩ := h
    have hif : (if pkg' = pkg' ∧ die' = die' then n else s.enqUsed d c pkg' die') = n := if_pos ⟨rfl, rfl⟩
    rw [find?_filter_of_not fun u hu => by rw [hu]; rfl, Option.none_or, hif]
    cases n with
    | zero => rfl
    | succ n =>
      have hself : isUse c pkg' die' (c, pkg', die', n + 1) = true := isUse_iff.2 ⟨rfl, rfl, rfl⟩
      rw [if_neg (by omega), List.find?_cons, hself]
      rfl
  · have hno : ∀ u, isUse c pkg' die' u = true → isUse c pkg die u = false := by
      intro u hu
      obtain ⟨-, hp, hd⟩ := isUse_iff.1 hu
      rw [Bool.eq_false_iff]
      intro hu'
      obtain ⟨-, hp', hd'⟩ := isUse_iff.1 hu'
      exact h ⟨hp.symm.trans hp', hd.symm.trans hd'⟩
    have hlast : List.find? (isUse c pkg' die') (if n = 0 then [] else [(c, pkg, die, n)]) = none := by
      by_cases hn : n = 0
      · rw [if_pos hn]; rfl
      · rw [if_neg hn]
        rw [List.find?_eq_none]
        intro u hu hq
        rw [List.mem_singleton] at hu
        have hself : isUse c pkg die u = true := by rw [hu]; exact isUse_iff.2 ⟨rfl, rfl, rfl⟩
        rw [hno u hq] at hself
        exact absurd hself (by decide)
    rw [find?_filter_of_imp fun u hu => by rw [hno u hu]; rfl, hlast, Option.or_none, if_neg h, State.enqUsed_eq]

/-! ## Sending the records of the lanes -/

/-- The destination of a lane. -/
def Env.enqDst (e : Env) (l : Nat) : EnqDst := EnqDst.of (e.srcB l 32)

/-- Two lanes send to one place. -/
def Env.samePlace (e : Env) (l k : Nat) : Bool := (e.enqDst k).pkg == (e.enqDst l).pkg && (e.enqDst k).die == (e.enqDst l).die

/-- How many of some lanes send to a place. -/
def Env.sentTo (e : Env) (done : List Nat) (pkg die : Nat) : Nat :=
  (done.filter fun k => (e.enqDst k).pkg == pkg && (e.enqDst k).die == die).length

/-- What holds once the records of some lanes have been sent. -/
structure Env.Sent (e : Env) (cw : Crew) (ack : Bool) (s : State) (done : List Nat) (x : State × BitVec 64) : Prop where
  mem : x.1.mem = s.mem
  crews : KeepsCrews s x.1
  pkg : x.1.podrt = s.podrt
  live : (x.1.gridDie e.t.die cw.cfg.handle).live = (s.gridDie e.t.die cw.cfg.handle).live + done.length
  res : (x.1.gridDie e.t.die cw.cfg.handle).enqRes = (s.gridDie e.t.die cw.cfg.handle).enqRes
  used : ∀ pkg die, x.1.enqUsed e.t.die (handleCtx cw.cfg.handle).toNat pkg die =
    s.enqUsed e.t.die (handleCtx cw.cfg.handle).toNat pkg die + e.sentTo done pkg die
  mask : ∀ i, x.2.getLsbD i = true ↔ i < 64 ∧ i ∈ done
  net : ∀ l ∈ done, (e.enqDst l).pkg = s.pkg → ∃ p ∈ x.1.net, p.hdr.dstSock.toNat = (e.enqDst l).die % 2 ^ 5 ∧
    ∃ b, p.body = .enq b ∧ b.record = e.record l ∧ b.handle = cw.cfg.handle ∧ b.route.queue.toNat = (e.enqDst l).queue ∧
      b.route.ackReq = ack

theorem Env.Sent.none (e : Env) (cw : Crew) (ack : Bool) (s : State) : e.Sent cw ack s [] (s, 0) :=
  ⟨rfl, .refl s, rfl, rfl, rfl, fun _ _ => rfl, fun i => by simp, fun l hl => absurd hl (by simp)⟩

theorem EnqDst.pkg_lt (w : Nat) : (EnqDst.of w).pkg < 2 ^ 8 := Nat.mod_lt _ (by decide)
theorem EnqDst.queue_lt (w : Nat) : (EnqDst.of w).queue < 2 ^ 2 := Nat.mod_lt _ (by decide)

theorem State.enqUsed_of_disp {s t : State} {d : Nat} (h : (t.dieOf d).disp = (s.dieOf d).disp) (c pkg die : Nat) :
    t.enqUsed d c pkg die = s.enqUsed d c pkg die := by
  rw [State.enqUsed_eq, State.enqUsed_eq, h]

theorem State.gridDie_of_disp {s t : State} {d : Nat} (h : (t.dieOf d).disp = (s.dieOf d).disp) (g : Handle) :
    t.gridDie d g = s.gridDie d g := by
  unfold State.gridDie
  rw [h]

theorem State.disp_newTag (s : State) (d : Nat) (u : TagUse) : ((s.newTag d u).2.dieOf d).disp = (s.dieOf d).disp := by
  show ((s.updDie d _).dieOf d).disp = _
  unfold State.updDie
  rw [State.dieOf_setDie]

theorem State.gridDie_setEnqUsed (s : State) (d c pkg die n : Nat) (h : Handle) :
    (s.setEnqUsed d c pkg die n).gridDie d h = s.gridDie d h := by
  unfold State.setEnqUsed State.gridDie State.updDisp State.updDie
  rw [State.dieOf_setDie]

theorem State.enqUsed_liveAdd (s : State) (d : Nat) (h : Handle) (n c pkg die : Nat) :
    (s.liveAdd d h n).enqUsed d c pkg die = s.enqUsed d c pkg die := by
  unfold State.liveAdd State.updGridDie State.enqUsed State.updDisp State.updDie
  rw [State.dieOf_setDie]

theorem State.setEnqUsed_crews (s : State) (d c pkg die n : Nat) : KeepsCrews s (s.setEnqUsed d c pkg die n) := .updDisp ..

theorem State.newTag_crews (s : State) (d : Nat) (u : TagUse) : KeepsCrews s (s.newTag d u).2 :=
  KeepsCrews.updDie s d (fun x => { x with tags := x.tags.set (Tbl.gap 0 (s.dieOf d).tags) u }) fun _ => rfl

/-- A record is under way from a state: counted as live work, with its slot reserved and its packet sent. -/
structure Env.SentOne (e : Env) (cw : Crew) (ack : Bool) (s : State) (l : Nat) (t : State) : Prop where
  mem : t.mem = s.mem
  crews : KeepsCrews s t
  podrt : t.podrt = s.podrt
  live : (t.gridDie e.t.die cw.cfg.handle).live = (s.gridDie e.t.die cw.cfg.handle).live + 1
  res : (t.gridDie e.t.die cw.cfg.handle).enqRes = (s.gridDie e.t.die cw.cfg.handle).enqRes
  used : ∀ pkg die, t.enqUsed e.t.die (handleCtx cw.cfg.handle).toNat pkg die =
    if pkg = (e.enqDst l).pkg ∧ die = (e.enqDst l).die
    then s.enqUsed e.t.die (handleCtx cw.cfg.handle).toNat (e.enqDst l).pkg (e.enqDst l).die + 1
    else s.enqUsed e.t.die (handleCtx cw.cfg.handle).toNat pkg die
  net : ∀ p ∈ s.net, p ∈ t.net
  packet : (e.enqDst l).pkg = s.pkg → ∃ p ∈ t.net, p.hdr.dstSock.toNat = (e.enqDst l).die % 2 ^ 5 ∧
    ∃ b, p.body = .enq b ∧ b.record = e.record l ∧ b.handle = cw.cfg.handle ∧ b.route.queue.toNat = (e.enqDst l).queue ∧
      b.route.ackReq = ack

theorem Env.sendRecord_room {e : Env} {cw : Crew} {ack : Bool} {x : State × BitVec 64} (wait l : Nat)
    (hroom : x.1.enqUsed e.t.die (handleCtx cw.cfg.handle).toNat (e.enqDst l).pkg (e.enqDst l).die <
      (x.1.gridDie e.t.die cw.cfg.handle).enqRes) :
    e.SentOne cw ack x.1 l (e.sendRecord cw ack wait x l).1 ∧ (e.sendRecord cw ack wait x l).2 = x.2 ||| (1#64 <<< l) := by
  obtain ⟨s, m⟩ := x
  obtain ⟨s1, hs1⟩ : ∃ s1, s1 = (s.liveAdd e.t.die cw.cfg.handle 1).setEnqUsed e.t.die (handleCtx cw.cfg.handle).toNat (e.enqDst l).pkg
    (e.enqDst l).die (s.enqUsed e.t.die (handleCtx cw.cfg.handle).toNat (e.enqDst l).pkg (e.enqDst l).die + 1) := ⟨_, rfl⟩
  obtain ⟨n, hn⟩ : ∃ n, n = s1.newTag e.t.die (.enq e.t wait cw.cfg.handle (e.enqDst l).pkg (e.enqDst l).die) := ⟨_, rfl⟩
  obtain ⟨b, hb⟩ : ∃ b, b = EnqB.mk { queue := BitVec.ofNat 2 (e.enqDst l).queue, die := BitVec.ofNat 3 (e.enqDst l).die, ackReq := ack }
    cw.cfg.handle (e.record l) := ⟨_, rfl⟩
  have hsend : e.sendRecord cw ack wait (s, m) l = (n.2.sendTo (handleCtx cw.cfg.handle) n.1 e.t.die ((e.enqDst l).pkg, (e.enqDst l).die)
      (.enq b), m ||| (1#64 <<< l)) := by
    rw [hb, hn, hs1]
    exact if_neg (Nat.not_le.2 hroom)
  rw [hsend]
  refine ⟨?_, rfl⟩
  obtain ⟨hdies, hpodrt, hmem, hnet⟩ := n.2.sendTo_keeps (handleCtx cw.cfg.handle) n.1 e.t.die ((e.enqDst l).pkg, (e.enqDst l).die) (.enq b)
  have hkeep : KeepsCrews s n.2 := by
    rw [hn, hs1]
    exact (State.liveAdd_crews ..).trans ((State.setEnqUsed_crews ..).trans (State.newTag_crews ..))
  have hmem1 : n.2.mem = s.mem := by rw [hn, hs1]; rfl
  have hnet1 : n.2.net = s.net := by rw [hn, hs1]; rfl
  have hpod1 : n.2.podrt = s.podrt := by rw [hn, hs1]; rfl
  have hdisp1 : (n.2.dieOf e.t.die).disp = (s1.dieOf e.t.die).disp := by rw [hn]; exact State.disp_newTag ..
  generalize hu : n.2.sendTo (handleCtx cw.cfg.handle) n.1 e.t.die ((e.enqDst l).pkg, (e.enqDst l).die) (.enq b) = u at hdies hpodrt hmem hnet
  have hdisp : (u.dieOf e.t.die).disp = (s1.dieOf e.t.die).disp := by rw [State.dieOf_of_dies hdies]; exact hdisp1
  have hgrid : u.gridDie e.t.die cw.cfg.handle = { s.gridDie e.t.die cw.cfg.handle with
      live := (s.gridDie e.t.die cw.cfg.handle).live + 1, change := true, allRefused := false } := by
    rw [State.gridDie_of_disp hdisp, hs1, State.gridDie_setEnqUsed, State.liveAdd, State.gridDie_updGridDie]
  refine ⟨hmem.trans hmem1, hkeep.trans (.of_dies hdies), hpodrt.trans hpod1, by rw [hgrid], by rw [hgrid], ?used,
    fun p hp => hnet p (hnet1 ▸ hp), ?packet⟩
  case used =>
    intro pkg die
    rw [State.enqUsed_of_disp hdisp, hs1, State.enqUsed_setEnqUsed, State.enqUsed_liveAdd]
  case packet =>
    intro hpkg
    have hhere : ((e.enqDst l).pkg, (e.enqDst l).die).1 % 2 ^ 8 = n.2.pkg := by
      rw [State.pkg_of_podrt hpod1]
      exact (Nat.mod_eq_of_lt (EnqDst.pkg_lt _)).trans hpkg
    obtain ⟨p, hp, hsock, hbody⟩ := State.sendTo_net hhere (handleCtx cw.cfg.handle) n.1 e.t.die (.enq b)
    rw [hu] at hp
    refine ⟨p, hp, hsock, b, hbody, ?_, ?_, ?_, ?_⟩ <;> rw [hb]
    exact (BitVec.toNat_ofNat ..).trans (Nat.mod_eq_of_lt (EnqDst.queue_lt _))

theorem Env.sentTo_append (e : Env) (done : List Nat) (l pkg die : Nat) : e.sentTo (done ++ [l]) pkg die =
    e.sentTo done pkg die + if pkg = (e.enqDst l).pkg ∧ die = (e.enqDst l).die then 1 else 0 := by
  unfold Env.sentTo
  rw [List.filter_append, List.length_append, List.filter_cons]
  refine congrArg (_ + ·) ?_
  by_cases h : pkg = (e.enqDst l).pkg ∧ die = (e.enqDst l).die
  · obtain ⟨rfl, rfl⟩ := h
    simp
  · rw [if_neg h, if_neg]
    · rfl
    · simp only [Bool.and_eq_true, beq_iff_eq]
      exact fun k => h ⟨k.1.symm, k.2.symm⟩

/-- A lane whose reservation has room sends its record. -/
theorem Env.Sent.step {e : Env} {cw : Crew} {ack : Bool} {s : State} {done : List Nat} {x : State × BitVec 64}
    (h : e.Sent cw ack s done x) (wait l : Nat)
    (hroom : s.enqUsed e.t.die (handleCtx cw.cfg.handle).toNat (e.enqDst l).pkg (e.enqDst l).die +
      e.sentTo done (e.enqDst l).pkg (e.enqDst l).die < (s.gridDie e.t.die cw.cfg.handle).enqRes) :
    e.Sent cw ack s (done ++ [l]) (e.sendRecord cw ack wait x l) := by
  obtain ⟨k, hmask⟩ := e.sendRecord_room (cw := cw) (ack := ack) (x := x) wait l (by rw [h.res, h.used]; exact hroom)
  refine ⟨k.mem.trans h.mem, h.crews.trans k.crews, k.podrt.trans h.pkg, ?live, k.res.trans h.res, ?used, ?mask, ?net⟩
  case live =>
    rw [k.live, h.live, List.length_append]
    rfl
  case used =>
    intro pkg die
    rw [k.used, e.sentTo_append]
    split
    · next hp => rw [h.used, hp.1, hp.2]; rfl
    · exact h.used pkg die
  case mask =>
    intro i
    rw [hmask, BitVec.getLsbD_or, Bool.or_eq_true, h.mask, List.mem_append, List.mem_singleton, BitVec.getLsbD_shiftLeft]
    simp
    grind
  case net =>
    intro i hi hp
    rcases List.mem_append.1 hi with hi | hi
    · obtain ⟨p, hpn, hrest⟩ := h.net i hi hp
      exact ⟨p, k.net p hpn, hrest⟩
    · rw [List.mem_singleton.1 hi] at hp ⊢
      exact k.packet (hp.trans (State.pkg_of_podrt h.pkg).symm)

/-- Lanes whose reservations have room for them all send their records. -/
theorem Env.Sent.all {e : Env} {cw : Crew} {ack : Bool} {s : State} (wait : Nat) (ls done : List Nat) (x : State × BitVec 64)
    (h : e.Sent cw ack s done x)
    (hroom : ∀ l ∈ ls, s.enqUsed e.t.die (handleCtx cw.cfg.handle).toNat (e.enqDst l).pkg (e.enqDst l).die +
      e.sentTo (done ++ ls) (e.enqDst l).pkg (e.enqDst l).die ≤ (s.gridDie e.t.die cw.cfg.handle).enqRes) :
    e.Sent cw ack s (done ++ ls) (ls.foldl (e.sendRecord cw ack wait) x) := by
  induction ls generalizing done x with
  | nil => rw [List.append_nil]; exact h
  | cons l ls ih =>
    have happ : done ++ l :: ls = done ++ [l] ++ ls := by simp
    have hlast : e.sentTo (done ++ [l]) (e.enqDst l).pkg (e.enqDst l).die ≤
        e.sentTo (done ++ l :: ls) (e.enqDst l).pkg (e.enqDst l).die := by
      unfold Env.sentTo
      rw [happ, List.filter_append (done ++ [l]), List.length_append]
      exact Nat.le_add_right ..
    have hl := hroom l (by simp)
    rw [e.sentTo_append, if_pos ⟨rfl, rfl⟩] at hlast
    rw [happ]
    exact ih (done ++ [l]) _ (h.step wait l (by omega)) fun k hk => by rw [← happ]; exact hroom k (by simp [hk])

theorem Env.sentTo_perm {e : Env} {a b : List Nat} (h : a.Perm b) (pkg die : Nat) : e.sentTo a pkg die = e.sentTo b pkg die :=
  (h.filter _).length_eq

/-! ## The two instructions -/

/-- What an enqueue of all its lanes comes to. -/
def Env.enqueued (e : Env) (ack : Bool) (s : State) : Out :=
  let free := e.free + e.used + orderChoices
  let w : Waiter := { id := e.id, flag := if ack then e.flag else none, pc := e.b.x.pc, kind := .enq }
  let b0 := if !(ack || e.front) then e.b else { e.b with waits := e.b.waits ++ [w] }.flagUp w.flag
  let b1 := e.advance e.next b0
  let b2 := if ack then b1 else match e.flag with | some _ => b1.pend (e.fixed 1 [] none 0) | none => b1
  if ack || e.front then .next { e.commit { b2 with x := { b2.x with phase := .performed e.id } } s with free := free }
  else .next (e.commitNew free b2 s)

theorem enqueue_eq {e : Env} {ack : Bool} {s : State} {cw : Crew} {g : Grid} (hcw : CrewAt e s cw)
    (hg : s.gridOf cw.cfg.handle = some g) (hl : e.lanes ≠ 0) (hc : e.b.committed = true) (hp : e.b.x.phase = .fresh)
    (hok : ∀ l ∈ e.ls, (e.enqDst l).rsvd = false ∧ recValid (e.record l) = true ∧ s.enqRefused g (e.enqDst l) = false ∧
      (recNoSteal (e.record l) = true → (e.enqDst l).pkg = s.pkg ∧ (e.enqDst l).die = e.t.die))
    {x : State × BitVec 64} (hx : (freeOrder (e.free + e.used) e.ls).foldl (e.sendRecord cw ack e.id) (s, 0) = x)
    (hmask : x.2 = e.lanes) : e.enqueue ack s = e.enqueued ack x.1 := by
  have hcw' : s.crewOf e.t.crew = some cw := hcw
  have hbad : maskOf 64 (fun l => e.lanes.getLsbD l && ((e.enqDst l).rsvd || !recValid (e.record l) ||
      (recNoSteal (e.record l) && ((e.enqDst l).pkg != s.pkg || (e.enqDst l).die != e.t.die)))) = 0 := by
    refine Env.badLanes_eq_zero fun l hl => ?_
    obtain ⟨h1, h2, -, h4⟩ := hok l hl
    rw [h1, h2]
    cases hn : recNoSteal (e.record l) with
    | false => rfl
    | true =>
      obtain ⟨h5, h6⟩ := h4 hn
      simp [h5, h6]
  have hrefused : maskOf 64 (fun l => e.lanes.getLsbD l && s.enqRefused g (e.enqDst l)) = 0 :=
    Env.badLanes_eq_zero fun l hl => (hok l hl).2.2.1
  have htodo : e.lanes &&& ~~~(0 : BitVec 64) = e.lanes := by
    rw [show ~~~(0 : BitVec 64) = BitVec.allOnes 64 from rfl, BitVec.and_allOnes]
  unfold Env.enqueue
  rw [hcw']
  dsimp only
  rw [hg]
  dsimp only
  rw [hp]
  dsimp only
  rw [hc, htodo, if_neg (by decide), if_neg hl]
  refine (if_neg (fun k => k hbad)).trans ((if_neg (fun k => k hrefused)).trans ?_)
  show (if ((freeOrder (e.free + e.used) e.ls).foldl (e.sendRecord cw ack e.id) (s, 0)).2 = 0 then _
    else if ((freeOrder (e.free + e.used) e.ls).foldl (e.sendRecord cw ack e.id) (s, 0)).2 ≠ e.lanes then _ else _) = _
  subst hx
  rw [hmask, if_neg hl, if_neg (by simp)]
  rfl

theorem Env.sent_lanes {e : Env} {cw : Crew} {ack : Bool} {s : State} {order : List Nat} (ho : order.Perm e.ls) {x : State × BitVec 64}
    (h : e.Sent cw ack s order x) : x.2 = e.lanes := by
  apply BitVec.eq_of_getLsbD_eq
  intro i hi
  rw [Bool.eq_iff_iff, h.mask, ho.mem_iff, mem_ls]
  exact ⟨fun k => k.2.2, fun k => ⟨hi, hi, k⟩⟩

/-- The wait of an enqueue for its acknowledgements. -/
def Env.enqWait (e : Env) (ack : Bool) : Waiter := { id := e.id, flag := if ack then e.flag else none, pc := e.b.x.pc, kind := .enq }

/-- A committing instruction's end in a thread that waits for acknowledgements. -/
theorem Env.Placed.enqueued_held {e : Env} {s : State} (hp : e.Placed s) (ps : List Pend) (free : Nat) {b : Band} (hpc : b.x.pc = e.next)
    (hpends : b.pends = e.b.pends ++ ps) (hflags : b.flags = (e.b.flagUp e.flag).flags) (ack : Bool)
    (hb : SameThread { e.b with waits := e.b.waits ++ [e.enqWait ack] } b) :
    let o : Out := .next { e.commit { b with x := { b.x with phase := .performed e.id } } s with free := free }
    Ends e s o e.next { e.b with waits := e.b.waits ++ [e.enqWait ack] } ps ∧
      ∃ t b, o = .next t ∧ t.thread e.t = some b ∧ b.x.phase = .performed e.id := by
  obtain ⟨h1, h2, h3⟩ := e.commit_spec { b with x := { b.x with phase := .performed e.id } } s hp.thread hp.front
  refine ⟨⟨_, _, rfl, h1, ?_, hpends, ?_, hb, h3.trans (SameOutside.free ..), h2⟩, _, _, rfl, h1, rfl⟩
  · show e.lands s b.x.pc = _
    rw [hpc]
  · rw [hflags]
    cases e.flag <;> rfl

/-- What an enqueue ends in that waits for its acknowledgements. -/
theorem Env.enqueued_ends {e : Env} {s : State} (hp : e.Placed s) {ack : Bool} (hack : (ack || e.front) = true) :
    Ends e s (e.enqueued ack s) e.next { e.b with waits := e.b.waits ++ [e.enqWait ack] } (if ack then [] else e.flagOnly) ∧
      ∃ t b, e.enqueued ack s = .next t ∧ t.thread e.t = some b ∧ b.x.phase = .performed e.id := by
  unfold Env.enqueued
  dsimp only
  rw [if_pos hack]
  cases ack with
  | true =>
    refine hp.enqueued_held [] _ ?_ ?_ ?_ true ?_
    · cases e.flag <;> rfl
    · rw [List.append_nil]
      cases e.flag <;> rfl
    · cases e.flag <;> rfl
    · unfold Env.enqWait
      cases e.flag <;> rfl
  | false =>
    have hfront : (false || e.front) = true := hack
    rw [hfront]
    unfold Env.flagOnly
    cases hf : e.flag with
    | none =>
      refine hp.enqueued_held [] _ ?_ ?_ ?_ false ?_
      · rfl
      · exact (List.append_nil _).symm
      · rw [hf]; rfl
      · rfl
    | some f =>
      have hfix : (e.fixed 1 [] none 0).flag = some f := hf
      refine hp.enqueued_held [e.fixed 1 [] none 0] _ ?_ ?_ ?_ false ?_ <;> dsimp only <;> rw [Band.pend_eq]
      · rfl
      · rfl
      · simp only [hfix, hf]
        rfl
      · simp only [hfix]
        rfl

/-- What an enqueue of a band ends in that asks for no acknowledgement. -/
theorem Env.enqueued_goes {e : Env} {s : State} (hp : e.Placed s) (hfront : e.front = false) :
    EndsNew e s (e.enqueued false s) e.next e.b e.flagOnly := by
  unfold Env.enqueued Env.flagOnly
  rw [hfront]
  cases hf : e.flag with
  | none =>
    apply hp.commitNew_ends
    · rfl
    · exact (List.append_nil _).symm
    · rw [hf]; rfl
    · rfl
  | some f => exact hp.pendNew_ends _ _ _ _ rfl

/-- Settles O32: the records of the lanes are counted and sent, and the thread goes on. -/
theorem enqueues : Obligations.Enqueues := by
  unfold Obligations.Enqueues
  intro ack c s e cw g h hcw hg hl hc hp hd dst hok hroom
  have hperm := freeOrder_perm (e.free + e.used) e.ls
  have hsent : e.Sent cw ack s (freeOrder (e.free + e.used) e.ls)
      ((freeOrder (e.free + e.used) e.ls).foldl (e.sendRecord cw ack e.id) (s, 0)) := by
    have hall := Env.Sent.all e.id (freeOrder (e.free + e.used) e.ls) [] (s, 0) (.none e cw ack s) fun l hl => by
      rw [List.nil_append, Env.sentTo_perm hperm]
      exact hroom l (hperm.mem_iff.1 hl)
    rwa [List.nil_append] at hall
  generalize hx : (freeOrder (e.free + e.used) e.ls).foldl (e.sendRecord cw ack e.id) (s, 0) = x at hsent
  have hexec : (exec (if ack then .enqA c else .enq c) s) = e.enqueued ack x.1 := by
    refine Eq.trans ?_ (enqueue_eq hcw hg hl hc hp hok hx (Env.sent_lanes hperm hsent))
    cases ack with
    | true => exact (exec_enqA c s).trans (runInstr_of h ..)
    | false => exact (exec_enq c s).trans (runInstr_of h ..)
  have hplaced : e.Placed x.1 := (Env.Placed.of_mkEnv h.1).of_threads hsent.crews.thread
  refine ⟨x.1, e.enqWait ack, hsent.mem, ?live, rfl, fun l hl => hsent.net l (hperm.mem_iff.2 hl), ?ends⟩
  case live => rw [hsent.live, hperm.length_eq]
  case ends =>
    rw [hexec]
    by_cases hack : (ack || e.front) = true
    · rw [if_pos (by simpa using hack)]
      exact Env.enqueued_ends hplaced hack
    · rw [if_neg (by simpa using hack)]
      obtain ⟨rfl, hfront⟩ := Bool.or_eq_false_iff.1 (Bool.eq_false_iff.2 hack)
      exact hexec ▸ Env.enqueued_goes hplaced hfront

end Sys2Proof.Machine
end

section
/-!
LAUNCH, GCANCEL and GSTATUS.
-/
namespace Sys2Proof.Machine

theorem exec_launch (c : Code) (s : State) : exec (.launch c) s = execLaunch c s := rfl
theorem exec_gcancel (c : Code) (s : State) : exec (.gcancel c) s = execGcancel c s := rfl
theorem exec_gstatus (c : Code) (s : State) : exec (.gstatus c) s = execGstatus c s := rfl

/-! ## LAUNCH -/

theorem State.l2Touch_crews (s : State) (ctx : B6) (va sock : Nat) : KeepsCrews s (s.l2Touch ctx va sock) := by
  unfold State.l2Touch
  dsimp only
  split
  · exact .refl s
  · exact .updDie _ _ _ fun _ => rfl

/-- A home that reads changes no crew. -/
theorem State.homeRead_crews {s t : State} {ctx : B6} {va len sock st : Nat} {bs : List Byte}
    (h : s.homeRead ctx va len sock = (st, bs, t)) : KeepsCrews s t := by
  unfold State.homeRead at h
  split at h
  · obtain ⟨-, -, rfl⟩ := h
    exact State.l2Touch_crews ..
  · obtain ⟨-, -, rfl⟩ := h
    exact .refl s

/-- A token that arrives, or is dropped, changes no die. -/
theorem State.tokenArrive_dies (s : State) (c q : Nat) (b : List Byte) (w : Option (ThreadRef × Nat)) :
    (s.tokenArrive c q b w).1.dies = s.dies := by
  unfold State.tokenArrive State.countDrop State.updQueue
  dsimp only
  split <;> rfl

/-- A read of one's own whose page the lookaside holds and whose home answers goes on with the bytes. -/
theorem Env.ownRead_home {e : Env} {s s1 : State} {cw : Crew} {va len align : Nat} {bs : List Byte} {k : List Byte → State → Out}
    (hc : e.check s cw .glob align .load attrR [⟨lowestLane e.lanes, (va : Nat), len⟩] = .ok) (hf : s.foreign va = false) :
    let ctx := handleCtx cw.cfg.handle
    let a := match palFind (s.coreOf e.t.die e.t.core).pal ctx va s.timeCount with | some x => x.attr | none => 0
    s.homeRead ctx va len (s.homeSock ctx va (attrKind a) (attrDdr a)) = (0, bs, s1) → e.ownRead s cw (va : Nat) len align k = k bs s1 := by
  intro ctx a hr
  unfold Env.ownRead
  rw [hc]
  dsimp only
  rw [Int.toNat_natCast, hf, if_neg (by decide)]
  show (match s.homeRead ctx va len (s.homeSock ctx va (attrKind a) (attrDdr a)) with
    | (0, bs, s1) => k bs s1
    | _ => _) = _
  rw [hr]
  rfl

/-- A thread that waits for the handle of its launch. -/
theorem Env.Placed.launching_waits {e : Env} {s : State} (h : e.Placed s) (d : Nat) :
    let b1 := (e.advance e.next e.b).flagUp e.flag
    let w : Waiter := { id := e.id, flag := e.flag, pc := e.b.x.pc, kind := .launch d }
    let o : Out := .next (e.commit { b1 with waits := b1.waits ++ [w], x := { b1.x with phase := .launching e.id } } s)
    Waits e s o e.b (.launch d) ∧ ∃ t b, o = .next t ∧ t.thread e.t = some b ∧ b.x.phase = .launching e.id := by
  intro b1 w o
  refine ⟨⟨w, rfl, rfl, rfl, rfl, ?_⟩, _, _, rfl, (e.commit_spec _ s h.thread h.front).1, rfl⟩
  refine h.commit_ends _ _ _ _ ?_ ?_ ?_ ?_ <;> simp only [w, b1] <;> cases e.flag <;> simp [Band.flagUp, Env.advance, SameThread]

theorem launch_of {c : Code} {s s1 : State} {e0 : Env} {cw : Crew} {tok : List Byte} {d : Nat} (h : Issues 0xE5 c s e0) (hcw : CrewAt e0 s cw)
    (hc : e0.b.committed = true) (hd : uniOf e0.front c.dst = some d) (hlt : d < 64) :
    let e := e0.ownRegion true
    let va := e.srcA 0 64
    let q := e.srcB 0 64
    let ctx := handleCtx cw.cfg.handle
    let a := match palFind (s.coreOf e.t.die e.t.core).pal ctx va s.timeCount with | some x => x.attr | none => 0
    e.check s cw .glob 64 .load attrR [⟨lowestLane e.lanes, (va : Nat), 64⟩] = .ok → s.foreign va = false →
    s.homeRead ctx va 64 (s.homeSock ctx va (attrKind a) (attrDdr a)) = (0, tok, s1) →
    ∀ r, (if 64 ≤ q then (s1, false) else s1.tokenArrive ctx.toNat q tok (some (e.t, e.id))) = r →
      exec (.launch c) s = if r.2 then
        let b1 := (e.advance e.next e.b).flagUp e.flag
        .next (e.commit { b1 with waits := b1.waits ++ [{ id := e.id, flag := e.flag, pc := e.b.x.pc, kind := .launch d }],
                                  x := { b1.x with phase := .launching e.id } } r.1)
      else e.committedEnd { e.b with r := e.b.r.putKey (uniKey d) 0 } r.1 := by
  intro e va q ctx a hchk hf hr r hr1
  subst hr1
  have hcw' : s.crewOf e0.t.crew = some cw := hcw
  have hfront : e.front = e0.front := (e0.same_ownRegion true).front
  have hd' : (uniOf e.front c.dst).getD 64 = d := by rw [hfront, hd]; rfl
  rw [exec_launch, execLaunch, runInstr_of h, hcw']
  dsimp only
  rw [hc, if_neg (by decide)]
  refine (Env.ownRead_home hchk hf hr).trans ?_
  rw [hd', if_pos hlt]

/-! ## GSTATUS -/

theorem State.gridWord_none {s : State} {h : Handle} (hg : s.gridOf h = none) : s.gridWord h = 0 := by
  unfold State.gridWord
  rw [hg]

theorem State.gridWord_ended {s : State} {h : Handle} {g : Grid} {k : Nat} (hg : s.gridOf h = some g) (hk : g.own.st = .ended k) :
    s.gridWord h = completionWord k g.reason h := by
  unfold State.gridWord
  rw [hg]
  dsimp only
  rw [hk]

theorem State.gridWord_live {s : State} {h : Handle} {g : Grid} (hg : s.gridOf h = some g) (hl : g.own.isEnded = false) :
    (s.gridWord h).toNat = h.toNat := by
  unfold State.gridWord
  rw [hg]
  dsimp only
  split
  · next k hk =>
    rw [OwnerSt.isEnded, hk] at hl
    exact Bool.noConfusion hl
  · rw [BitVec.toNat_ofNat]
    exact Nat.mod_eq_of_lt (Nat.lt_of_lt_of_le h.isLt (by decide))

/-- Settles O33: what the three grid instructions do. -/
theorem gridInstructions : Obligations.GridInstructions := by
  unfold Obligations.GridInstructions
  refine ⟨?launch, ?cancel, ?status⟩
  case launch =>
    intro c s e0 cw tok s1 d h hcw hc hd hlt e va q ctx x a hchk hf hr r
    have hexec := launch_of h hcw hc hd hlt hchk hf hr
    have hplaced : e.Placed s1 := ((Env.Placed.of_mkEnv h.1).same (e0.same_ownRegion true)).crews (State.homeRead_crews hr).crew
    have hplaced' : e.Placed r.1 := hplaced.crews (State.crewOf_of_dies (State.tokenArrive_dies ..))
    refine ⟨fun hq hrt => ?_, fun hq hrf => ?_, fun hq => ?_⟩
    · rw [hexec r (if_neg (Nat.not_le.2 hq)), if_pos hrt]
      exact hplaced'.launching_waits d
    · rw [hexec r (if_neg (Nat.not_le.2 hq)), if_neg (by rw [hrf]; decide)]
      exact hplaced'.committedEnd_goes _
    · rw [hexec _ (if_pos hq), if_neg (fun k => Bool.noConfusion k)]
      exact hplaced.committedEnd_goes _
  case cancel =>
    intro c s e cw h hcw
    have hcw' : s.crewOf e.t.crew = some cw := hcw
    refine ⟨e.done e.next e.b s, (Env.Placed.of_mkEnv h.1).finish_goes e.next e.b e.b rfl, ?_⟩
    rw [exec_gcancel, execGcancel, runInstr_of h, hcw']
  case status =>
    intro c s e cw h hcw
    have hcw' : s.crewOf e.t.crew = some cw := hcw
    refine ⟨if handleCtx e.handle = handleCtx cw.cfg.handle then s.gridWord e.handle else 0, ?_, fun hne => if_neg hne, fun heq => ?_⟩
    · rw [exec_gstatus, execGstatus, runInstr_of h, hcw']
      exact Env.result_answers h.1 (.refl s) _ rfl
    · rw [if_pos heq]
      exact ⟨State.gridWord_none, fun g hg => ⟨fun k hk => State.gridWord_ended hg hk, State.gridWord_live hg⟩⟩

end Sys2Proof.Machine
end

section
/-!
The Infuser at issue: operations enter its queue, batches close, tables are configured.
-/
namespace Sys2Proof.Machine

theorem exec_jpass (c : Code) (s : State) : exec (.jpass c) s = execJpass c s := rfl
theorem exec_jbit (c : Code) (s : State) : exec (.jbit c) s = execJbit c s := rfl
theorem exec_jstream (c : Code) (s : State) : exec (.jstream c) s = execJstream c s := rfl
theorem exec_jbatch (c : Code) (s : State) : exec (.jbatch c) s = execJbatch c s := rfl
theorem exec_jwait (c : Code) (s : State) : exec (.jwait c) s = execJwait c s := rfl
theorem exec_jcfg (c : Code) (s : State) : exec (.jcfg c) s = execJcfg c s := rfl
theorem exec_jclr (c : Code) (s : State) : exec (.jclr c) s = execJclr c s := rfl
theorem exec_jqry (c : Code) (s : State) : exec (.jqry c) s = execJqry c s := rfl
theorem exec_jdrain (c : Code) (s : State) : exec (.jdrain c) s = execJdrain c s := rfl

/-! ## Entering the queue -/

/-- An operation enters the queue behind what stands there, with the next number. -/
def Core.enter (c : Core) (o : JOp) : Core := { c with jq := c.jq ++ [{ o with seq := c.seq }], seq := c.seq + 1 }

theorem Core.enterAll_crews (ops : List JOp) (c : Core) : (ops.foldl Core.enter c).crews = c.crews := by
  induction ops generalizing c with
  | nil => rfl
  | cons o ops ih => exact ih (c.enter o)

theorem Core.enterAll_rest (ops : List JOp) (c : Core) : (ops.foldl Core.enter c).rest = (ops.foldl Core.enter c.rest).rest := by
  have hcore : ∀ x : Core, (ops.foldl Core.enter x).rest = ops.foldl Core.enter x.rest := by
    induction ops with
    | nil => exact fun _ => rfl
    | cons o ops ih => exact fun x => ih (x.enter o)
  rw [hcore, hcore]
  rfl

/-- Operations enter the queue and the thread goes on with a wait. -/
theorem Env.Placed.jQueue_queues {e : Env} {s : State} (h : e.Placed s) (kind : WaitKind) (ops : List JOp) :
    Queues e s (.next (e.jQueue kind ops s)) e.b kind ops := by
  refine ⟨{ id := e.id, flag := e.flag, pc := e.b.x.pc, kind := kind }, rfl, rfl, rfl, rfl, ?_⟩
  unfold Env.jQueue
  refine Ends.updCore_both ?_ e.t.die e.t.core (Core.enterAll_crews ops) (Core.enterAll_crews ops) (Core.enterAll_rest ops) rfl
  apply h.commit_ends
  · dsimp only
    cases e.flag <;> (unfold Band.noteClob; rfl)
  · cases e.flag <;> exact (List.append_nil _).symm
  · cases e.flag <;> rfl
  · cases e.flag <;> rfl

/-- The queue has room for some operations more. -/
theorem Env.jFull_eq_false {e : Env} {s : State} {n : Nat} (h : (s.coreOf e.t.die e.t.core).jq.length + n ≤ 32) : e.jFull n s = false :=
  decide_eq_false (Nat.not_lt.2 h)

theorem State.badExtent_eq_none {s : State} {r : CrewRef} {cw : Crew} {xs : List (Space × Nat × Nat × Nat)}
    (h : ∀ x ∈ xs, s.extentOk r cw x.1 x.2.1 x.2.2.1 x.2.2.2 = true) : s.badExtent r cw xs = none := by
  induction xs with
  | nil => rfl
  | cons x xs ih =>
    unfold State.badExtent
    rw [if_pos (h x (by simp)), ih fun y hy => h y (by simp [hy])]

theorem Env.jIssue_of {e : Env} {s : State} {cw : Crew} (hcw : CrewAt e s cw) (hm : (cw.plan (field e.c.payload.toNat 60 4)).mode ≠ 0)
    (k : Crew → Out) : e.jIssue s k = k cw := by
  have hcw' : s.crewOf e.t.crew = some cw := hcw
  unfold Env.jIssue
  rw [hcw']
  exact if_neg hm

/-! ## Passes -/

theorem jpass_of {c : Code} {s : State} {e : Env} {cw : Crew} (h : Issues 0xF0 c s e) (hcw : CrewAt e s cw) (hl : e.lanes ≠ 0) :
    let tbl := field c.payload.toNat 60 4
    let o := e.jOp .pass tbl (e.jUnis 3 ++ e.maskReg)
    let rest := [(o.bsp, 16, o.ulo 0, 512 * o.esz)] ++
        (if o.scaled then e.ls.map (fun l => (o.asp, 1, o.uhi 0 + l, 1)) ++ [(o.bsp, 1, o.ulo 1, 16)] else [])
    let quarters := (List.range 8).filter fun q => e.ls.any fun l => l / 8 == q
    (cw.plan tbl).mode ≠ 0 → o.uhi 1 = 0 → coordsOk (o.u 2) = true →
    (∀ l ∈ e.ls, s.extentOk e.t.crew cw o.asp 16 (e.srcA l 32) (32 * o.esz) = true) →
    (∀ x ∈ rest, s.extentOk e.t.crew cw x.1 x.2.1 x.2.2.1 x.2.2.2 = true) →
    (s.coreOf e.t.die e.t.core).jq.length + quarters.length ≤ 32 →
    exec (.jpass c) s = .next (e.jQueue .infuser (quarters.map fun q =>
      { o with quarter := q, rows := (List.range 8).map fun i =>
          if e.lanes.getLsbD (8 * q + i) then some (e.srcA (8 * q + i) 32) else none }) s) := by
  intro tbl o rest quarters hm hu hco hrows hrest hroom
  have hm' : (cw.plan (field e.c.payload.toNat 60 4)).mode ≠ 0 := by rw [h.code]; exact hm
  have hbad : (e.ls.filter fun l => !s.extentOk e.t.crew cw o.asp 16 (e.srcA l 32) (32 * o.esz)) = [] := by
    rw [List.filter_eq_nil_iff]
    intro l hl hb
    rw [hrows l hl] at hb
    exact absurd hb (by decide)
  rw [exec_jpass, execJpass, runInstr_of h, if_neg hl, Env.jIssue_of hcw hm']
  dsimp only
  refine (if_neg ?_).trans ?_
  · rw [hu, hco]; decide
  · show (match (e.ls.filter fun l => !s.extentOk e.t.crew cw o.asp 16 (e.srcA l 32) (32 * o.esz)) with
      | l :: _ => _
      | [] => match s.badExtent e.t.crew cw rest with
        | some off => _
        | none => if e.jFull quarters.length s = true then _ else _) = _
    rw [hbad, State.badExtent_eq_none hrest, Env.jFull_eq_false hroom]
    rfl

theorem jbit_of {c : Code} {s : State} {e : Env} {cw : Crew} (h : Issues 0xF1 c s e) (hcw : CrewAt e s cw) (hl : e.lanes ≠ 0) :
    let tbl := field c.payload.toNat 60 4
    let o := e.jOp .bit tbl (e.jUnis 4 ++ e.maskReg)
    let k := o.klen
    let exts := [(o.asp, 16, o.ulo 0, 2 * k), (o.asp, 16, o.uhi 0, 16 * k * o.esz), (o.bsp, 16, o.ulo 1, 2 * k),
      (o.bsp, 16, o.uhi 1, 16 * k * o.esz)] ++ (if o.scaled then [(o.asp, 1, o.ulo 3, k / 2), (o.bsp, 1, o.uhi 3, k / 2)] else [])
    (cw.plan tbl).mode ≠ 0 → coordsOk (o.u 2) = true → (∀ x ∈ exts, s.extentOk e.t.crew cw x.1 x.2.1 x.2.2.1 x.2.2.2 = true) →
    (s.coreOf e.t.die e.t.core).jq.length < 32 → exec (.jbit c) s = .next (e.jQueue .infuser [o] s) := by
  intro tbl o k exts hm hco hexts hroom
  have hm' : (cw.plan (field e.c.payload.toNat 60 4)).mode ≠ 0 := by rw [h.code]; exact hm
  rw [exec_jbit, execJbit, runInstr_of h, if_neg hl, Env.jIssue_of hcw hm']
  refine (if_neg ?_).trans ?_
  · rw [hco]; decide
  · show (match s.badExtent e.t.crew cw exts with
      | some off => _
      | none => if e.jFull 1 s = true then _ else _) = _
    rw [State.badExtent_eq_none hexts, Env.jFull_eq_false (by omega)]
    rfl

theorem jstream_of {c : Code} {s : State} {e : Env} {cw : Crew} (h : Issues 0xF2 c s e) (hcw : CrewAt e s cw) (hl : e.lanes ≠ 0) :
    let tbl := field c.payload.toNat 60 4
    let o := e.jOp .stream tbl (e.jUnis 2)
    (cw.plan tbl).mode ≠ 0 → s.extentOk e.t.crew cw o.asp 16 (o.ulo 0) (16 * o.uhi 0) = true →
    s.extentOk e.t.crew cw o.bsp 16 (o.ulo 1) (16 * o.uhi 1) = true →
    (s.coreOf e.t.die e.t.core).jq.length < 32 → exec (.jstream c) s = .next (e.jQueue .infuser [o] s) := by
  intro tbl o hm ha hb hroom
  have hm' : (cw.plan (field e.c.payload.toNat 60 4)).mode ≠ 0 := by rw [h.code]; exact hm
  have hexts : s.badExtent e.t.crew cw [(o.asp, 16, o.ulo 0, 16 * o.uhi 0), (o.bsp, 16, o.ulo 1, 16 * o.uhi 1)] = none := by
    apply State.badExtent_eq_none
    simp [ha, hb]
  rw [exec_jstream, execJstream, runInstr_of h, if_neg hl, Env.jIssue_of hcw hm']
  show (match s.badExtent e.t.crew cw [(o.asp, 16, o.ulo 0, 16 * o.uhi 0), (o.bsp, 16, o.ulo 1, 16 * o.uhi 1)] with
      | some off => _
      | none => if e.jFull 1 s = true then _ else _) = _
  rw [hexts, Env.jFull_eq_false (by omega)]
  rfl

/-! ## Batches -/

/-- The operations of a thread that are in no batch join one. -/
def JOp.joins (t : ThreadRef) (n : Nat) (o : JOp) : JOp :=
  if o.thread == t && o.batch.isNone && o.kind.batched then { o with batch := some n } else o

/-- The band with its next batch closed and pending. -/
def Env.batchBand (e : Env) (n : Nat) : Band :=
  { e.b with batchNext := (n + 1) % 16, batchPend := e.b.batchPend.set n true,
             batchSt := (e.b.batchSt.set n (e.b.batchSt.get 0 16)).set 16 0 }

/-- The thread goes on with the batch's number on its way and a wait for the batch. -/
theorem Env.Placed.batch_ends {e : Env} {s : State} (h : e.Placed s) (n : Nat) :
    let close := fun (k : Core) => { k with jq := k.jq.map (JOp.joins e.t n) }
    let w : Waiter := { id := e.id, flag := e.flag, pc := e.b.x.pc, kind := .batch n }
    let p := { e.fixed 1 (e.uniWrites n) none 0 with flag := none }
    let b1 := (e.advance e.next (e.batchBand n)).flagUp e.flag
    Ends e (s.updCore e.t.die e.t.core close)
      (.next ((e.commit ({ b1 with waits := b1.waits ++ [w] }.pend p) s).updCore e.t.die e.t.core close)) e.next
      { e.batchBand n with waits := e.b.waits ++ [w] } [p] := by
  intro close w p b1
  refine Ends.updCore_both ?_ e.t.die e.t.core (fun _ => rfl) (fun _ => rfl) (fun _ => rfl) rfl
  apply h.commit_ends <;> rw [Band.pend_eq] <;> simp only [b1]
  · cases e.flag <;> rfl
  · cases e.flag <;> rfl
  · cases e.flag <;> rfl
  · cases e.flag <;> rfl

/-- Settles O34: passes, batches and the wait for a batch. -/
theorem infuserOperations : Obligations.InfuserOperations := by
  unfold Obligations.InfuserOperations
  refine ⟨?pass, ?bit, ?stream, ?batch, ?wait⟩
  case pass =>
    intro c s e cw h hcw hl tbl o rest quarters hm hu hco hrows hrest hroom
    rw [jpass_of h hcw hl hm hu hco hrows hrest hroom]
    exact (Env.Placed.of_mkEnv h.1).jQueue_queues ..
  case bit =>
    intro c s e cw h hcw hl tbl o k exts hm hco hexts hroom
    rw [jbit_of h hcw hl hm hco hexts hroom]
    exact (Env.Placed.of_mkEnv h.1).jQueue_queues ..
  case stream =>
    intro c s e cw h hcw hl tbl o hm ha hb hroom
    rw [jstream_of h hcw hl hm ha hb hroom]
    exact (Env.Placed.of_mkEnv h.1).jQueue_queues ..
  case batch =>
    intro c s e h hp n close
    refine ⟨_, _, _, rfl, rfl, rfl, rfl, (Env.Placed.of_mkEnv h.1).batch_ends n, ?_⟩
    rw [exec_jbatch, execJbatch, runInstr_of h]
    dsimp only
    rw [hp, if_neg (by decide)]
    rfl
  case wait =>
    intro c s e h hp
    rw [exec_jwait, execJwait, runInstr_of h]
    dsimp only
    rw [hp]
    exact (Env.Placed.of_mkEnv h.1).finish_goes e.next e.b e.b rfl

/-! ## Configuration and draining -/

theorem State.thread_setTable (s : State) (r : CrewRef) (t : Nat) (x : JTable) (u : ThreadRef) : (s.setTable r t x).thread u = s.thread u :=
  State.thread_updCrew s r _ (fun w n => by cases n <;> rfl) u

theorem State.thread_clearEntries (s : State) (r : CrewRef) (t : JTable) (u : ThreadRef) : (s.clearEntries r t).thread u = s.thread u := by
  unfold State.clearEntries
  split
  · rfl
  · apply State.thread_updCore
    exact fun _ => rfl

/-- Configuring a table changes no thread. -/
theorem State.thread_configure (s : State) (r : CrewRef) (t : Nat) (d : JTable) (u : ThreadRef) : (s.configure r t d).thread u = s.thread u := by
  unfold State.configure State.clearTable
  dsimp only
  split
  · rw [State.thread_setTable, State.thread_clearEntries]
  · split
    · exact State.thread_setTable ..
    · split
      · exact State.thread_setTable ..
      · rw [State.thread_setTable, State.thread_setTable, State.thread_clearEntries]

/-- The operation of `JCFG`. -/
def Env.cfgOp (e : Env) (c : Code) (desc : List Byte) : JOp :=
  { e.jOp .cfg (Code.tbl c) (match uniOf false c.srca with | some _ => [BitVec.ofNat 64 (e.srcA 0 64)] | none => []) with
    desc := desc, cmd := e.extWord }

/-- What `JCFG` does with a descriptor that may be read and breaks no limit. -/
theorem jcfg_of {c : Code} {s : State} {e : Env} {cw : Crew} (h : Issues 0xF6 c s e) (hcw : CrewAt e s cw)
    (hroom : (s.coreOf e.t.die e.t.core).jq.length < 32) (hheld : e.b.memHeld = false) :
    let ts : List Touch := [⟨lowestLane e.lanes, (e.srcA 0 32 : Nat), 64⟩]
    let desc := s.getScr e.t.crew cw .core 0 (e.srcA 0 32) 64
    let d := JTable.parse desc
    let plan := fun (w : Crew) => { w with planned := w.planned.set (Code.tbl c) d }
    e.check s cw .core 1 .load attrR ts = .ok → e.uninits s cw .core ts = [] → descBad cw (Code.tbl c) desc = false →
    exec (.jcfg c) s = if (cw.table (Code.tbl c)).stopped && (cw.table (Code.tbl c)).shape == d.shape
      then e.finish e.next e.b ((s.configure e.t.crew (Code.tbl c) d).updCrew e.t.crew plan)
      else .next (((e.jQueue .infuser [e.cfgOp c desc] s).updCrew e.t.crew plan).jSettle e.t.die e.t.core) := by
  intro ts desc d plan hchk huninit hbad
  have hcw' : s.crewOf e.t.crew = some cw := hcw
  have hfull : e.jFull 1 s = false := Env.jFull_eq_false (by omega)
  rw [exec_jcfg, execJcfg, runInstr_of h, hcw']
  dsimp only
  rw [hheld, hfull, Bool.and_false, Bool.or_self, if_neg (by decide)]
  have hchk' : e.check s cw .core 1 .load attrR [⟨lowestLane e.lanes, (e.srcA 0 32 : Nat), 64⟩] = .ok := hchk
  have huninit' : e.uninits s cw .core [⟨lowestLane e.lanes, (e.srcA 0 32 : Nat), 64⟩] = [] := huninit
  have hbad' : descBad cw (Code.tbl c) (s.getScr e.t.crew cw .core 0 (e.srcA 0 32) 64) = false := hbad
  unfold Env.access Env.initCheck
  rw [hchk', huninit']
  dsimp only
  rw [hbad', if_neg (by decide), hfull]
  rfl

/-- What `JDRAIN` does once its thread has committed, with operands in order and room in the queue. -/
theorem jdrain_of {c : Code} {s : State} {e : Env} {cw : Crew} (h : Issues 0xF5 c s e) (hcw : CrewAt e s cw)
    (hroom : (s.coreOf e.t.die e.t.core).jq.length < 32) (hc : e.b.committed = true) :
    let tbl := field c.payload.toNat 60 4
    let o := { e.jOp .drain tbl (e.jUnis 4) with readDone := true }
    (cw.plan tbl).mode ≠ 0 → coordsOk (o.u 1) = true → s.drainAddrs e.t.crew cw o = none →
    exec (.jdrain c) s = .next (Env.jQueue { e with b := e.b.openRegion (e.free + e.used) e.b.x.pc, free := e.free + 65 } .drain [o] s) := by
  intro tbl o hm hco haddr
  have hm' : (cw.plan (field e.c.payload.toNat 60 4)).mode ≠ 0 := by rw [h.code]; exact hm
  have hfull : e.jFull 1 s = false := Env.jFull_eq_false (by omega)
  rw [exec_jdrain, execJdrain, runInstr_of h, Env.jIssue_of hcw hm']
  refine (if_neg ?_).trans ?_
  · rw [hco]; decide
  · show (match s.drainAddrs e.t.crew cw o with
      | some a => _
      | none => if (!e.b.committed || e.jFull 1 s) = true then _ else _) = _
    rw [haddr, hc, hfull]
    rfl

theorem Env.Same.next {e e' : Env} (k : e.Same e') : e'.next = e.next := by
  unfold Env.next
  rw [k.pc, k.c]

theorem Env.Same.queues {e e' : Env} (k : e.Same e') {s : State} {o : Out} {b1 : Band} {kind : WaitKind} {ops : List JOp}
    (hid : e'.id = e.id) (h : Queues e s o b1 kind ops) :
    Queues e' s o b1 kind ops := by
  obtain ⟨w, hwid, hwf, hwpc, hwk, hends⟩ := h
  exact ⟨w, hwid.trans hid.symm, hwf.trans k.flag.symm, hwpc.trans k.pc.symm, hwk, by rw [k.t, k.next]; exact k.ends hends⟩

/-- Settles O35: `JCFG`, `JCLR`, `JQRY` and `JDRAIN`. -/
theorem infuserControl : Obligations.InfuserControl := by
  unfold Obligations.InfuserControl
  intro c s e cw hcw hroom ts desc d plan
  refine ⟨fun h hheld hchk huninit hbad => ⟨fun hst => ?now, fun hst => ?later⟩, fun h => ?clr, fun h n hn => ?qry, ?drain⟩
  case now =>
    rw [jcfg_of h hcw hroom hheld hchk huninit hbad, if_pos (by simpa using hst)]
    refine Env.Placed.finish_goes ((Env.Placed.of_mkEnv h.1).of_threads fun u => ?_) e.next e.b e.b rfl
    rw [State.thread_updCrew _ _ _ (fun w n => by cases n <;> rfl), State.thread_configure]
  case later =>
    refine ⟨_, e.cfgOp c desc, rfl, rfl, rfl, (Env.Placed.of_mkEnv h.1).jQueue_queues .infuser [e.cfgOp c desc], ?_⟩
    rw [jcfg_of h hcw hroom hheld hchk huninit hbad, if_neg (by simpa using hst)]
  case clr =>
    refine ⟨_, { e.jOp (.clr (c.mods.getLsbD 6)) (Code.tbl c) [] with cmd := e.extWord }, rfl, rfl,
      (Env.Placed.of_mkEnv h.1).jQueue_queues .infuser _, ?_⟩
    rw [exec_jclr, execJclr, runInstr_of h, Env.jFull_eq_false (by omega)]
    rfl
  case qry =>
    refine ⟨_, { e.jOp (.qry (immVal n).toNat) (Code.tbl c) [] with cmd := e.extWord, dst := uniOf false c.dst }, rfl, rfl, rfl,
      (Env.Placed.of_mkEnv h.1).jQueue_queues (.query ((uniOf false c.dst).toList.map uniKey)) _, ?_⟩
    rw [exec_jqry, execJqry, runInstr_of h, Env.jFull_eq_false (by omega), hn]
    rfl
  case drain =>
    intro h hc tbl o hm hco haddr
    have hb := Band.openRegion_same e.b (e.free + e.used) e.b.x.pc
    have hsame : e.Same { e with b := e.b.openRegion (e.free + e.used) e.b.x.pc, free := e.free + 65 } :=
      ⟨rfl, rfl, rfl, by show (e.b.openRegion _ _).x.pc = _; rw [hb]⟩
    have hback : Env.Same { e with b := e.b.openRegion (e.free + e.used) e.b.x.pc, free := e.free + 65 } e :=
      ⟨rfl, rfl, rfl, hsame.pc.symm⟩
    refine ⟨(e.b.openRegion (e.free + e.used) e.b.x.pc).region, fun ht => ?region, ?queue⟩
    case region =>
      unfold Band.openRegion
      rw [ht]
      exact ⟨rfl, rfl⟩
    case queue =>
      rw [jdrain_of h hcw hroom hc hm hco haddr, ← hb]
      exact hback.queues rfl (((Env.Placed.of_mkEnv h.1).same hsame).jQueue_queues .drain [o])

end Sys2Proof.Machine
end

section
/-!
JSAVE and JLOAD. The engine that reads and writes an area of a crew ends no thread.
-/
namespace Sys2Proof.Machine

theorem exec_jsave (c : Code) (s : State) : exec (.jsave c) s = execJsave c s := rfl
theorem exec_jload (c : Code) (s : State) : exec (.jload c) s = execJload c s := rfl

/-! ## No thread ends -/

/-- Every thread that is there stays. -/
structure ThreadsStay (s t : State) : Prop where
  isSome : ∀ u, (s.thread u).isSome → (t.thread u).isSome

theorem ThreadsStay.refl (s : State) : ThreadsStay s s := ⟨fun _ h => h⟩

theorem ThreadsStay.trans {s t u : State} (h : ThreadsStay s t) (k : ThreadsStay t u) : ThreadsStay s u :=
  ⟨fun v hv => k.isSome v (h.isSome v hv)⟩

theorem ThreadsStay.of_threads {s t : State} (h : ∀ u, t.thread u = s.thread u) : ThreadsStay s t := ⟨fun u hu => by rw [h]; exact hu⟩

theorem KeepsCrews.threadsStay {s t : State} (h : KeepsCrews s t) : ThreadsStay s t := .of_threads h.thread

theorem ThreadsStay.updCore (s : State) (d c : Nat) {f : Core → Core} (hf : ∀ x, (f x).crews = x.crews) : ThreadsStay s (s.updCore d c f) :=
  .of_threads (State.thread_updCore s d c f hf)

theorem ThreadsStay.l1Drop (s : State) (d c : Nat) (f : B6 → Nat → Bool → Bool) : ThreadsStay s (s.l1Drop d c f) :=
  ⟨fun _ => State.thread_l1Drop_isSome s d c f⟩

theorem Env.Placed.stay {e : Env} {s t : State} (h : e.Placed s) (k : ThreadsStay s t) : e.Placed t := ⟨k.isSome _ h.thread, h.front⟩

theorem ThreadsStay.foldl {α : Type} {f : State → α → State} (h : ∀ s a, ThreadsStay s (f s a)) (l : List α) (s : State) :
    ThreadsStay s (l.foldl f s) :=
  foldl_keeps (P := ThreadsStay s) (.refl s) fun t a k => k.trans (h t a)

/-! ## The engine of a crew's area -/

theorem State.updCtrl_crews (s : State) (n : Nat) (f : Ctrl → Ctrl) : KeepsCrews s (s.updCtrl n f) := .of_dies rfl
theorem State.setMem_crews (s : State) (m : List Host.Cell) : KeepsCrews s (s.setMem m) := .of_dies rfl

theorem State.wpalEnter_stay (s : State) (d c : Nat) (e : PalE) : ThreadsStay s (s.wpalEnter d c e) :=
  .of_threads (State.thread_updCore s d c _ fun _ => rfl)

theorem State.askRemote_stay (s : State) (d c : Nat) (asker : Nat × Nat × Nat) (ctx : B6) (va sock : Nat) (key sent : Body) (use : TagUse) :
    ThreadsStay s (s.askRemote d c asker ctx va sock key sent use).2 := by
  unfold State.askRemote
  split
  · exact .refl s
  · refine ((State.newTag_crews s d use).threadsStay.trans ?_).trans (KeepsCrews.of_dies (State.send_dies ..)).threadsStay
    exact ThreadsStay.updCore _ _ _ fun _ => rfl

theorem State.engAttr_stay (s : State) (g : Eng) (ctx : B6) (va : Nat) : ThreadsStay s (s.engAttr g ctx va).2 := by
  unfold State.engAttr
  dsimp only
  split
  · exact .refl s
  · split
    · split <;> next h => exact (congrArg Prod.snd h) ▸ State.askRemote_stay ..
    · split
      · exact .refl s
      · split
        · exact .refl s
        · show ThreadsStay s ((s.updCtrl _ _).wpalEnter _ _ _)
          exact (State.updCtrl_crews ..).threadsStay.trans (State.wpalEnter_stay ..)

theorem State.engPart_stay (s : State) (g : Eng) (ctx : B6) (need : W16 → Bool) (va n : Nat) : ThreadsStay s (s.engPart g ctx need va n).2 := by
  have hattr := s.engAttr_stay g ctx va
  have hrefl := ThreadsStay.refl s
  grind [State.engPart]

theorem State.engParts_stay (s : State) (g : Eng) (ctx : B6) (need : W16 → Bool) (ps : List (Nat × Nat)) :
    ThreadsStay s (s.engParts g ctx need ps).2 := by
  induction ps generalizing s with
  | nil => exact .refl s
  | cons p ps ih => grind [State.engParts, State.engPart_stay, ThreadsStay.trans]

theorem State.engAsk_stay (s : State) (g : Eng) (ctx : B6) (p : EngPart) (body : Body) : ThreadsStay s (s.engAsk g ctx p body).2 := by
  unfold State.engAsk
  split <;> next h => exact (congrArg Prod.snd h) ▸ State.askRemote_stay ..

theorem State.homeRead_stay (s : State) (ctx : B6) (va len sock : Nat) : ThreadsStay s (s.homeRead ctx va len sock).2.2 :=
  (State.homeRead_crews rfl).threadsStay

theorem State.homeWrite_stay (s : State) (ctx : B6) (va sock : Nat) (bs : List Byte) : ThreadsStay s (s.homeWrite ctx va sock bs).2 := by
  unfold State.homeWrite
  split
  · exact ((State.setMem_crews s _).trans (State.l2Touch_crews ..)).threadsStay
  · exact .refl s

theorem State.engFetch_stay (s : State) (g : Eng) (ctx : B6) (ps : List EngPart) : ThreadsStay s (s.engFetch g ctx ps).2 := by
  induction ps generalizing s with
  | nil => exact .refl s
  | cons p ps ih => grind [State.engFetch, State.engAsk_stay, State.homeRead_stay, ThreadsStay.trans]

theorem State.engDrop_stay (s : State) (g : Eng) (ctx : B6) (va : Nat) : ThreadsStay s (s.engDrop g ctx va) := .l1Drop ..

theorem State.engStore_stay (s : State) (g : Eng) (ctx : B6) (ps : List (EngPart × List Byte)) : ThreadsStay s (s.engStore g ctx ps).2 := by
  induction ps generalizing s with
  | nil => exact .refl s
  | cons p ps ih => grind [State.engStore, State.engAsk_stay, State.homeWrite_stay, State.engDrop_stay, ThreadsStay.trans]

theorem State.engRead_stay (s : State) (g : Eng) (cw : Crew) (need : W16 → Bool) (va n : Nat) :
    ThreadsStay s (s.engRead g cw .glob need va n).2 := by
  have hparts := s.engParts_stay g (handleCtx cw.cfg.handle) need (splitAt 64 va n)
  grind [State.engRead, State.engFetch_stay, ThreadsStay.trans]

theorem State.engWrite_stay (s : State) (g : Eng) (cw : Crew) (need : W16 → Bool) (va : Nat) (bs : List Byte) :
    ThreadsStay s (s.engWrite g cw .glob need va bs).2 := by
  have hparts := s.engParts_stay g (handleCtx cw.cfg.handle) need (splitAt 64 va bs.length)
  grind [State.engWrite, State.engStore_stay, ThreadsStay.trans]

theorem State.globWrites_stay (s : State) (g : Eng) (cw : Crew) (ws : List (Nat × List Byte)) : ThreadsStay s (s.globWrites g cw ws).2 := by
  induction ws generalizing s with
  | nil => exact .refl s
  | cons w ws ih => grind [State.globWrites, State.engWrite_stay, ThreadsStay.trans]

theorem State.tailCounts_stay (s : State) (g : Eng) (cw : Crew) (area : List Byte) (n : Nat) : ThreadsStay s (s.tailCounts g cw area n).2 := by
  induction n generalizing s with
  | zero => exact .refl s
  | succ n ih => grind [State.tailCounts, State.engRead_stay, ThreadsStay.trans, ThreadsStay.refl]

theorem State.savedKeys_stay (s : State) (g : Eng) (cw : Crew) (n : Nat) (t : JTable) : ThreadsStay s (s.savedKeys g cw n t).2 := by
  grind [State.savedKeys, State.engRead_stay, ThreadsStay.refl]

theorem State.savedTables_stay (s : State) (g : Eng) (cw : Crew) (area : List Byte) (counts : List Nat) (n : Nat) :
    ThreadsStay s (s.savedTables g cw area counts n).2 := by
  induction n generalizing s with
  | zero => exact .refl s
  | succ n ih => grind [State.savedTables, State.savedKeys_stay, ThreadsStay.trans]

theorem State.engDone_stay (s : State) (g : Eng) : ThreadsStay s (s.engDone g) := by
  unfold State.engDone State.forgetRemote
  split
  · exact ThreadsStay.updCore _ _ _ fun _ => rfl
  · exact .refl s

theorem State.jDetach_stay (s : State) (r : CrewRef) (ops : List JOp) : ThreadsStay s (s.jDetach r ops) := by
  unfold State.jDetach
  refine ((ThreadsStay.foldl (fun s t => .of_threads (State.thread_clearEntries s r (s.table r t))) (List.range 16) s).trans ?_).trans
    (.of_threads (State.thread_updCrew _ r _ fun w n => by cases n <;> rfl))
  exact ThreadsStay.updCore _ _ _ fun _ => rfl

/-! ## JSAVE -/

theorem State.jq_updCrew (s : State) (r : CrewRef) (f : Crew → Crew) (d c : Nat) : ((s.updCrew r f).coreOf d c).jq = (s.coreOf d c).jq := by
  unfold State.updCrew
  cases s.crewOf r with
  | none => rfl
  | some w =>
    have hjq := congrArg Core.jq (State.coreOf_setCrew s r (f w) d c)
    exact hjq

theorem State.jq_updCore_own (s : State) (d c : Nat) (f : Core → Core) : ((s.updCore d c f).coreOf d c).jq = (f (s.coreOf d c)).jq := by
  unfold State.updCore
  rw [State.coreOf_setCore]

/-- The queue holds no operation of a crew that has been detached. -/
theorem State.jDetach_jq (s : State) (r : CrewRef) (ops : List JOp) {o : JOp}
    (h : o ∈ ((s.jDetach r ops).coreOf r.die r.core).jq) : o.slot ≠ r.slot := by
  unfold State.jDetach at h
  generalize (List.range 16).foldl (fun (s : State) t => s.clearEntries r (s.table r t)) s = u at h
  dsimp only at h
  rw [State.jq_updCrew, State.jq_updCore_own] at h
  have hne := (List.mem_filter.1 h).2
  simpa using hne

theorem jsave_of {c : Code} {s s1 : State} {e0 : Env} {cw : Crew} (h : Issues 0xF7 c s e0) (hcw : CrewAt e0 s cw)
    (hc : e0.b.committed = true) :
    let e := e0.ownRegion true
    let va := e0.srcA 0 64
    let ops := (s.crewOps e.t.crew).map fun o => { o with st := if o.halted && !o.stopped then .queued else o.st }
    va + (8 * cw.cfg.caddy + 4096) ≤ 2 ^ 56 → va % 64 = 0 → (∀ t, t < 16 → (cw.table t).noRoom = false) →
    (∀ o ∈ s.crewOps e0.t.crew, o.refused = none) →
    s.globWrites e.eng cw (s.saveWrites e.t.crew cw va ops) = (none, s1) →
    exec (.jsave c) s = e.result (e.varied [] none 0) ((s1.engDone e.eng).jDetach e.t.crew ops) := by
  intro e va ops hfit hal hroom hok hw
  have hcw' : s.crewOf e0.t.crew = some cw := hcw
  have harea : areaBad va (8 * cw.cfg.caddy + 4096) = none := by
    unfold areaBad
    rw [if_neg (by omega), if_neg (by omega)]
  have htables : ((List.range 16).any fun t => (cw.table t).noRoom) = false := by
    rw [List.any_eq_false]
    intro t ht
    rw [hroom t (List.mem_range.1 ht)]
    decide
  have hrefused : ((s.crewOps e0.t.crew).filterMap fun o => o.refused.map fun at_ => (o, at_)) = [] := by
    rw [List.filterMap_eq_nil_iff]
    intro o ho
    rw [hok o ho]
    rfl
  rw [exec_jsave, execJsave, runInstr_of h, hcw']
  dsimp only
  rw [harea]
  dsimp only
  rw [htables, if_neg (by decide), hc, if_neg (by decide), hrefused]
  show (match s.globWrites e.eng cw (s.saveWrites e.t.crew cw va ops) with
    | (some f, s1) => _
    | (none, s1) => _) = _
  rw [hw]

/-! ## JLOAD -/

theorem jload_of {c : Code} {s s1 s2 s3 : State} {e0 : Env} {cw : Crew} {a : EngRead} {counts : List Nat}
    {ts : List (Nat × JTable × List (Nat × CEntry))} (h : Issues 0xF7 c s e0) (hcw : CrewAt e0 s cw) (hc : e0.b.committed = true) :
    let e := e0.ownRegion true
    let va := e0.srcA 0 64
    let r := e.t.crew
    let g := e.eng
    let n := 8 * cw.cfg.caddy + 4096
    va + n ≤ 2 ^ 56 → va % 64 = 0 → s.crewOps r = [] → (∀ t, t < 16 → (cw.plan t).mode = 0) →
    s.engRead g cw .glob attrR va n = (.ok a, s1) → s1.tailCounts g cw a.bytes 16 = (.ok counts, s2) →
    s2.savedTables g cw a.bytes counts 16 = (.ok ts, s3) →
    let ops := openLast a.bytes (quartersOf (restoredOps s1 r cw cw.ctl.jsaved a.bytes))
    (s1.coreOf r.die r.core).jq.length + ops.length ≤ 32 →
    exec (.jload c) s = .next (((((((e.commit ((e.advance e.next e.b).pend (e.varied [] none 0)) (s3.engDone g)).jInstall r ts).updCrew r
      fun w => { planOps ops w with ctl := { w.ctl with jsaved := [] } }).bandWords r a.bytes).jAppend r.die r.core ops)).jSettle r.die r.core) := by
  intro e va r g n hfit hal hops hplan hread hcounts htables ops hroom
  have hcw' : s.crewOf e0.t.crew = some cw := hcw
  have hr : r = e0.t.crew := by
    show (e0.ownRegion true).t.crew = _
    rw [(e0.same_ownRegion true).t]
  have harea : areaBad va (8 * cw.cfg.caddy + 4096) = none := by
    unfold areaBad
    rw [if_neg (by omega), if_neg (by omega)]
  have hplans : ((List.range 16).any fun t => (cw.plan t).mode != 0) = false := by
    rw [List.any_eq_false]
    intro t ht
    rw [hplan t (List.mem_range.1 ht)]
    decide
  rw [hr] at hops
  rw [exec_jload, execJload, runInstr_of h, hcw']
  dsimp only
  rw [harea]
  dsimp only
  rw [hplans, hops, if_neg (by decide), hc, if_neg (by decide)]
  show (match s.engRead g cw .glob attrR va n with
    | (.error f, s1) => _
    | (.ok a, s1) => if 32 < (s1.coreOf e0.t.crew.die e0.t.crew.core).jq.length +
          (openLast a.bytes (quartersOf (restoredOps s1 e0.t.crew cw cw.ctl.jsaved a.bytes))).length then _
        else match s1.tailCounts g cw a.bytes 16 with
        | (.error f, s2) => _
        | (.ok counts, s2) => match s2.savedTables g cw a.bytes counts 16 with
          | (.error f, s3) => _
          | (.ok ts, s3) => _) = _
  rw [hread]
  dsimp only
  rw [← hr, if_neg (Nat.not_lt.2 hroom), hcounts]
  dsimp only
  rw [htables]
  rfl

/-- Settles O36: a crew's Infuser is saved, and restored. -/
theorem infuserSaveAndLoad : Obligations.InfuserSaveAndLoad := by
  unfold Obligations.InfuserSaveAndLoad
  refine ⟨?save, ?load⟩
  case save =>
    intro c s e0 cw s1 h hcw hc e va ops hfit hal hroom hok hw
    have hplaced : e.Placed ((s1.engDone e.eng).jDetach e.t.crew ops) :=
      ((Env.Placed.of_mkEnv h.1).same (e0.same_ownRegion true)).stay
        ((((congrArg Prod.snd hw) ▸ State.globWrites_stay ..).trans (State.engDone_stay ..)).trans (State.jDetach_stay ..))
    rw [jsave_of h hcw hc hfit hal hroom hok hw]
    have hgone := fun o : JOp => State.jDetach_jq (s1.engDone e.eng) e.t.crew ops (o := o)
    generalize (s1.engDone e.eng).jDetach e.t.crew ops = u at hplaced hgone ⊢
    have hends := hplaced.pend_ends e.next e.b (e.varied [] none 0) rfl
    refine ⟨hends, _, rfl, fun o ho => hgone o ?_⟩
    obtain ⟨-, -, hout⟩ := e.commit_spec ((e.advance e.next e.b).pend (e.varied [] none 0)) u hplaced.thread hplaced.front
    have hjq := congrArg Core.jq (hout.core e.t.die e.t.core)
    exact hjq ▸ ho
  case load =>
    intro c s e0 cw a s1 counts s2 ts s3 h hcw hc e va r g n hfit hal hops hplan hread hcounts htables ops hroom
    have hplaced : e.Placed (s3.engDone g) := by
      refine ((Env.Placed.of_mkEnv h.1).same (e0.same_ownRegion true)).stay (ThreadsStay.trans ?_ (State.engDone_stay ..))
      have h1 := s.engRead_stay g cw attrR va n
      have h2 := s1.tailCounts_stay g cw a.bytes 16
      have h3 := s2.savedTables_stay g cw a.bytes counts 16
      rw [hread] at h1
      rw [hcounts] at h2
      rw [htables] at h3
      exact (h1.trans h2).trans h3
    exact ⟨_, hplaced.pend_ends e.next e.b (e.varied [] none 0) rfl, jload_of h hcw hc hfit hal hops hplan hread hcounts htables hroom⟩

end Sys2Proof.Machine
end

section
/-!
CSRR and CSRW: what they read, what they write, and who may use them.
-/
namespace Sys2Proof.Machine

theorem exec_csrr (c : Code) (s : State) : exec (.csrr c) s = execCsrr c s := rfl
theorem exec_csrw (c : Code) (s : State) : exec (.csrw c) s = execCsrw c s := rfl
theorem exec_execWrite (c : Code) (s : State) : exec (.execWrite c) s = execExecWrite c s := rfl
theorem exec_nestWrite (c : Code) (s : State) : exec (.nestWrite c) s = execNestWrite c s := rfl
theorem exec_crewMergeWrite (c : Code) (s : State) : exec (.crewMergeWrite c) s = execCrewMergeWrite c s := rfl
theorem exec_tretResume (c : Code) (s : State) : exec (.tretResume c) s = tret 0 c s := rfl
theorem exec_tretSkip (c : Code) (s : State) : exec (.tretSkip c) s = tret 1 c s := rfl
theorem exec_tretWriteSkip (c : Code) (s : State) : exec (.tretWriteSkip c) s = tret 2 c s := rfl
theorem exec_tretRetryRegion (c : Code) (s : State) : exec (.tretRetryRegion c) s = tret 3 c s := rfl
theorem exec_tretKillLanes (c : Code) (s : State) : exec (.tretKillLanes c) s = tret 4 c s := rfl
theorem exec_tretKillBand (c : Code) (s : State) : exec (.tretKillBand c) s = tret 5 c s := rfl

/-! ## CSRR -/

theorem Band.nestWord_alive {b : Band} {l : Nat} (h : l ∈ b.alive) : b.nestWord l = b.count l := by
  have hg : b.gone l = false := by simpa using (List.mem_filter.1 h).2
  rw [Band.nestWord, hg]
  rfl

/-- Settles O37: what each register reads. -/
theorem controlReads : Obligations.ControlReads := by
  unfold Obligations.ControlReads
  intro c s e cw h hcw n
  have hcw' : s.crewOf e.t.crew = some cw := hcw
  have hexec : exec (.csrr c) s = if n = 1 then
        if !e.b.trapPriv then .next (e.noPriv s)
        else e.result (e.varied (e.laneWrites 1 (e.b.alive.map fun l => (l, e.b.nestWord l))) none 0) s
      else if n = 2 then e.result (e.varied (e.laneWrites 1 (e.ls.map fun l => (l, l))) none 0) s
      else e.result (e.varied (e.uniWrites (e.csrValue s cw n).toNat) none 0) s := by
    rw [exec_csrr, execCsrr, runInstr_of h, hcw']
  refine ⟨fun hn hp => ?nest, fun hn => ?lane, fun h1 h2 => ⟨e.csrValue s cw n, ?other, ?_, ?_, ?_, ?_⟩⟩
  case nest =>
    have hmap : (e.b.alive.map fun l => (l, e.b.nestWord l)) = e.b.alive.map fun l => (l, e.b.count l) :=
      List.map_congr_left fun l hl => by rw [Band.nestWord_alive hl]
    rw [hexec, if_pos hn, hp, hmap]
    exact Env.result_answers h.1 (.refl s) _ rfl
  case lane =>
    rw [hexec, if_neg (by omega), if_pos hn]
    exact Env.result_answers h.1 (.refl s) _ rfl
  case other =>
    rw [hexec, if_neg h1, if_neg h2]
    exact Env.result_answers h.1 (.refl s) _ rfl
  all_goals unfold Env.csrValue; dsimp only
  · exact fun h0 => if_pos h0
  · intro h3 k hk
    rw [if_neg (by omega), if_pos h3, hk]
    rfl
  · intro h40
    rw [if_neg (by omega), if_neg (by omega), if_pos h40, BitVec.toNat_ofNat]
    exact Nat.mod_eq_of_lt (Nat.lt_of_lt_of_le e.b.r.status.isLt (by decide))
  · intro g hgt h93 h100 h101 hg
    rw [if_neg (by omega), if_neg (by omega), if_neg (by omega), if_neg (by omega), if_neg h93, if_neg h100, if_neg h101, hg]

/-! ## CSRW -/

theorem Issues.opc {opc : Nat} {c : Code} {s : State} {e : Env} (h : Issues opc c s e) : e.opc = opc := by
  obtain ⟨_, _, _, _, _, _, hopc, _⟩ := mkEnv_spec h.1
  exact hopc

theorem wrapNat_lt (bits : Nat) (v : Int) : wrapNat bits v < 2 ^ bits := by
  have hpos : (0 : Int) < 2 ^ bits := by positivity
  have hlt := Int.emod_lt_of_pos v hpos
  have hnn := Int.emod_nonneg v (Int.ne_of_gt hpos)
  unfold wrapNat
  zify
  rw [Int.toNat_of_nonneg hnn]
  exact hlt

/-- A source that has no interval view has the bits it is read with. -/
theorem Env.opnd_lt {e : Env} {pos : Nat} (hv : ivView e.opc e.c pos = none) (o : Opnd) (reader lane bits : Nat) :
    e.opnd pos o reader lane bits < 2 ^ bits := by
  have hpos : 0 < 2 ^ bits := by positivity
  unfold Env.opnd
  dsimp only
  split
  · exact hpos
  · rw [hv]
    exact wrapNat_lt ..
  · exact Nat.mod_lt _ hpos
  · exact Nat.mod_lt _ hpos
  · split
    · exact Nat.mod_lt _ hpos
    · exact Nat.mod_lt _ hpos
    · exact hpos

theorem csrw_srcA_lt {c : Code} {s : State} {e : Env} (h : Issues 0xF9 c s e) : e.srcA 0 64 < 2 ^ 64 :=
  Env.opnd_lt (by rw [h.opc]; rfl) ..

theorem Band.count_rsvdWrite (b : Band) (hit : Bool) (l : Nat) : (b.rsvdWrite hit).count l = b.count l := by
  unfold Band.rsvdWrite
  split <;> rfl

/-- A counter read back under other counters. -/
theorem Band.setCounts_nest (b : Band) (f : Nat → Nat) : { b.setCounts f with r := { (b.setCounts f).r with nest := b.r.nest } } = b := by
  rw [Band.setCounts_eq]

theorem Env.Placed.reached_ends {e : Env} {s : State} (h : e.Placed s) (b : Band) (v : W64) :
    Ends e s (e.reached b v s) e.next b [{ e.varied [] none 0 with csr := some (Code.csr e.c, v) }] :=
  h.pend_ends e.next b _ rfl

theorem csrw_of {c : Code} {s : State} {e : Env} (h : Issues 0xF9 c s e) :
    let n := Code.csr c
    let v := BitVec.ofNat 64 (e.srcA 0 64)
    exec (.csrw c) s = if csrNone n then e.finish e.next (e.b.rsvdWrite (v.toNat &&& csrNoneRsvd e.t.crew n != 0)) s
      else if 0x019 ≤ n ∧ n ≤ 0x01F ∧ !e.b.trapPriv then .next (e.noPriv s)
      else match e.b.writeCsr e.now n v with
        | some b => e.finish e.next b s
        | none =>
          if n = 0x061 then e.reached (e.b.rsvdWrite ((Reg.crewScrchk e.t.crew).rsvdHit v)) v s
          else if n = 0x088 then e.reached (e.b.rsvdWrite (v.toNat % 2 ^ 32 / 2 ^ 8 != 0)) v s
          else .next (e.noPriv s) := by
  intro n v
  rw [exec_csrw, execCsrw, runInstr_of h] <;> rfl

theorem csrNone_eq_false {n : Nat} (h : n < 2 ∨ 0x018 < n) (h' : n < 0x062 ∨ 0x087 < n) (h100 : n ≠ 0x100) (h101 : n ≠ 0x101) :
    csrNone n = false := by
  simp [csrNone]
  omega

theorem Band.writeCsr_isSome {n : Nat} (h : 0x019 ≤ n) (h' : n ≤ 0x020 ∨ n = 0x040) (b : Band) (now : Nat) (v : W64) :
    (b.writeCsr now n v).isSome := by
  unfold Band.writeCsr
  dsimp only
  split
  · rfl
  · split
    · rfl
    · split
      · rfl
      · split
        · rfl
        · rw [if_pos (by omega)]; rfl

theorem Band.writeCsr_eq_none {n : Nat} (h : n < 0x019 ∨ 0x020 < n) (h' : n ≠ 0x040) (b : Band) (now : Nat) (v : W64) :
    b.writeCsr now n v = none := by
  unfold Band.writeCsr
  dsimp only
  rw [if_neg (by omega), if_neg (by omega), if_neg (by omega), if_neg (by omega), if_neg h']

theorem tret_user {act : Nat} {c : Code} {s : State} {e : Env} (h : Issues 0xFC c s e) (hp : e.b.trapPriv = false) :
    tret act c s = .next (e.noPriv s) := by
  rw [tret, runInstr_of h, hp]
  rfl

/-- Settles O38: what the writes change, and which are refused. -/
theorem controlWrites : Obligations.ControlWrites := by
  unfold Obligations.ControlWrites
  refine ⟨?exec_, ?nest, ?merge, ?perform, ?write, ?refused⟩
  case exec_ =>
    intro c s e h
    refine ⟨e.b.writeExec (BitVec.ofNat 64 (e.srcA 0 64)), ?_, Band.setCounts_nest e.b _, fun l => ?_⟩
    · rw [exec_execWrite, execExecWrite, runInstr_of h]
      exact (Env.Placed.of_mkEnv h.1).finish_goes e.next _ _ rfl
    · have hbit : (BitVec.ofNat 64 (e.srcA 0 64)).getLsbD l = (e.srcA 0 64).testBit l := by
        rw [BitVec.getLsbD, BitVec.toNat_ofNat, Nat.mod_eq_of_lt (csrw_srcA_lt h)]
      have hlt : e.b.count l < 256 := (e.b.r.nest.get 0 l).isLt
      rw [Band.writeExec, Band.count_setCounts, hbit]
      by_cases hl : l ∈ e.b.alive
      · by_cases h1 : e.b.count l ≤ 1
        · have hboth : l ∈ e.b.alive ∧ e.b.count l ≤ 1 := ⟨hl, h1⟩
          rw [if_pos hl, if_pos h1, if_pos hboth]
          cases (e.srcA 0 64).testBit l <;> rfl
        · rw [if_pos hl, if_neg h1, if_neg fun k => h1 k.2, Nat.mod_eq_of_lt hlt]
      · rw [if_neg hl, if_neg fun k => hl k.1]
  case nest =>
    intro c s e h hp
    refine ⟨(e.b.setCounts fun l => e.srcA l 32 % 256).rsvdWrite (e.b.alive.any fun l => e.srcA l 32 / 2 ^ 9 != 0), ?_, ?_, fun l => ?_⟩
    · rw [exec_nestWrite, execNestWrite, runInstr_of h, hp]
      exact (Env.Placed.of_mkEnv h.1).finish_goes e.next _ _ rfl
    · rw [← Band.setCounts_nest e.b fun l => e.srcA l 32 % 256]
      unfold Band.rsvdWrite
      split <;> simp only [Band.setCounts_eq] <;> rfl
    · rw [Band.count_rsvdWrite, Band.count_setCounts, Nat.mod_mod]
  case merge =>
    intro c s e h v
    rw [exec_crewMergeWrite, execCrewMergeWrite, runInstr_of h]
    have hends := (Env.Placed.of_mkEnv h.1).reached_ends (e.b.rsvdWrite ((Reg.crewMerge e.t.crew).rsvdHit v)) v
    rw [h.code] at hends
    exact hends
  case perform => exact fun s r v => ⟨rfl, rfl, rfl⟩
  case write =>
    intro c s e h n v
    have hp := Env.Placed.of_mkEnv h.1
    refine ⟨fun hn => ?_, fun hlo hhi hpriv => ?_, fun hn => ?_, fun hn => ?_⟩
    · rw [csrw_of h, if_pos hn]
      exact hp.finish_goes e.next _ _ rfl
    · obtain ⟨b1, hb1⟩ := Option.isSome_iff_exists.1 (Band.writeCsr_isSome hlo hhi e.b e.now v)
      refine ⟨b1, hb1, ?_⟩
      rw [csrw_of h, csrNone_eq_false (by omega) (by omega) (by omega) (by omega), if_neg (by decide), if_neg ?_, hb1]
      · exact hp.finish_goes e.next _ _ rfl
      · rintro ⟨-, hle, ht⟩
        rw [hpriv hle] at ht
        exact absurd ht (by decide)
    · rw [csrw_of h, csrNone_eq_false (by omega) (by omega) (by omega) (by omega), if_neg (by decide), if_neg (by omega),
        Band.writeCsr_eq_none (by omega) (by omega), if_pos hn]
      have hends := hp.reached_ends (e.b.rsvdWrite ((Reg.crewScrchk e.t.crew).rsvdHit v)) v
      rw [h.code] at hends
      exact hends
    · rw [csrw_of h, csrNone_eq_false (by omega) (by omega) (by omega) (by omega), if_neg (by decide), if_neg (by omega),
        Band.writeCsr_eq_none (by omega) (by omega), if_neg (by omega), if_pos hn]
      have hends := hp.reached_ends (e.b.rsvdWrite (v.toNat % 2 ^ 32 / 2 ^ 8 != 0)) v
      rw [h.code] at hends
      exact hends
  case refused =>
    intro c s e cw hcw refused
    have hcw' : s.crewOf e.t.crew = some cw := hcw
    refine ⟨fun h hn hr h40 h61 h88 => ?_, fun hp => ⟨fun h hn => ?_, fun h => ?_, fun h hlo hhi => ?_, fun h => ?_⟩⟩
    · show exec _ s = .next (e.noPriv s)
      rw [csrw_of h, hn, if_neg (by decide), if_neg (by omega), Band.writeCsr_eq_none hr h40, if_neg h61, if_neg h88]
    · show exec _ s = .next (e.noPriv s)
      rw [exec_csrr, execCsrr, runInstr_of h, hcw']
      dsimp only
      rw [if_pos hn, hp]
      rfl
    · show exec _ s = .next (e.noPriv s)
      rw [exec_nestWrite, execNestWrite, runInstr_of h, hp]
      rfl
    · show exec _ s = .next (e.noPriv s)
      rw [csrw_of h, csrNone_eq_false (by omega) (by omega) (by omega) (by omega), if_neg (by decide),
        if_pos ⟨hlo, hhi, by rw [hp]; rfl⟩]
    · exact ⟨tret_user h hp, tret_user h hp, tret_user h hp, tret_user h hp, tret_user h hp, tret_user h hp⟩

end Sys2Proof.Machine
end

section
/-!
STRAP and BKPT: how a band enters its handler.
-/
namespace Sys2Proof.Machine

theorem exec_strap (c : Code) (s : State) : exec (.strap c) s = execStrap c s := rfl
theorem exec_bkpt (c : Code) (s : State) : exec (.bkpt c) s = execBkpt c s := rfl

/-! ## The vector table does not depend on the threads -/

/-- Two states with the same memory, mappings and lines of the L2. -/
structure SameView (s t : State) : Prop where
  mem : t.mem = s.mem
  ctxs : t.ctxs = s.ctxs
  ctrls : t.ctrls = s.ctrls
  podrt : t.podrt = s.podrt
  host : t.host = s.host
  l2 : ∀ d, (t.dieOf d).l2 = (s.dieOf d).l2

section
variable {s t : State} (h : SameView s t) (ctx : B6)
include h

theorem SameView.ctxOf (c : Nat) : t.ctxOf c = s.ctxOf c := by
  unfold State.ctxOf
  rw [h.ctxs]

theorem SameView.ctrlOf (n : Nat) : t.ctrlOf n = s.ctrlOf n := by
  unfold State.ctrlOf
  rw [h.ctrls]

theorem SameView.spread (va : Nat) : t.spread ctx va = s.spread ctx va := by
  unfold State.spread
  rw [h.ctxOf]

theorem SameView.attrAt (va : Nat) : t.attrAt ctx va = s.attrAt ctx va := by
  unfold State.attrAt State.stackOf
  rw [h.spread, h.ctrlOf]

theorem SameView.ddrPopulated : t.ddrPopulated = s.ddrPopulated := by
  unfold State.ddrPopulated
  rw [h.host]

theorem SameView.ctrlFor (va : Nat) (ddr : Bool) : t.ctrlFor ctx va ddr = s.ctrlFor ctx va ddr := by
  unfold State.ctrlFor State.stackOf State.channelOf State.tierChannels
  rw [h.spread, h.ddrPopulated]

theorem SameView.pieceShift (va : Nat) (ddr : Bool) : t.pieceShift ctx va ddr = s.pieceShift ctx va ddr := by
  unfold State.pieceShift
  rw [h.spread, h.ddrPopulated]

theorem SameView.globKeyCached (va : Nat) (ddr : Bool) : t.globKeyCached ctx va ddr = s.globKeyCached ctx va ddr := by
  unfold State.globKeyCached
  dsimp only
  rw [h.ctrlFor, h.pieceShift, h.ctrlOf, h.l2]

theorem SameView.devKey (need : W16 → Bool) (va : Nat) : t.devKey ctx need va = s.devKey ctx need va := by
  unfold State.devKey State.pkg
  rw [h.podrt, h.attrAt]
  cases s.attrAt ctx va with
  | none => rfl
  | some a =>
    dsimp only
    rw [h.globKeyCached]

theorem SameView.devKeys (need : W16 → Bool) (va n : Nat) : t.devKeys ctx need va n = s.devKeys ctx need va n := by
  induction n generalizing va with
  | zero => rfl
  | succ n ih => rw [State.devKeys, State.devKeys, h.devKey, ih]

theorem SameView.vector (trapVec cause : Nat) : t.vector ctx trapVec cause = s.vector ctx trapVec cause := by
  unfold State.vector State.devRead
  rw [h.devKeys, h.mem]
  simp only [h.attrAt]

end
/-- Setting a thread changes no view of memory. -/
theorem SameView.setThread (s : State) (t : ThreadRef) (b : Band) : SameView s (s.setThread t b) :=
  ⟨State.setThread_mem .., State.setThread_ctxs .., State.setThread_ctrls .., State.setThread_podrt .., State.setThread_host ..,
    fun d => by have := congrArg Die.l2 (State.rest_updCrew s t.crew (fun cw => cw.setThread t.band b) d); exact this⟩

theorem SameView.trans {s t u : State} (h : SameView s t) (k : SameView t u) : SameView s u :=
  ⟨k.mem.trans h.mem, k.ctxs.trans h.ctxs, k.ctrls.trans h.ctrls, k.podrt.trans h.podrt, k.host.trans h.host,
    fun d => (k.l2 d).trans (h.l2 d)⟩

theorem SameView.free (s : State) (n : Nat) : SameView s { s with free := n } := ⟨rfl, rfl, rfl, rfl, rfl, fun _ => rfl⟩

/-! ## The save areas -/

theorem Band.saveBytes_length (b : Band) (l : Nat) (srcs : List W128) : (b.saveBytes l srcs).length = 64 := by
  simp [Band.saveBytes]

/-- Bytes 48 and 49 of a save area hold the lane's counter and whether it has exited. -/
theorem Band.saveBytes_counter (b : Band) (l : Nat) (srcs : List W128) :
    ((b.saveBytes l srcs).drop 48).take 2 = [BitVec.ofNat 8 (b.count l), if b.gone l then 1 else 0] := by
  unfold Band.saveBytes
  rw [List.append_assoc, List.append_assoc, List.drop_left' (by simp)]
  rfl

theorem Memory.readN_congr {m m' : List Host.Cell} {a n : Nat} (h : ∀ j, j < n → Memory.read m (a + j) = Memory.read m' (a + j)) :
    Memory.readN m a n = Memory.readN m' a n := by
  induction n generalizing a with
  | zero => rfl
  | succ n ih =>
    unfold Memory.readN
    rw [show Memory.read m a = Memory.read m' a from h 0 (by omega)]
    exact congrArg (_ :: ·) (ih fun j hj => by
      have := h (j + 1) (by omega)
      rwa [show a + (j + 1) = a + 1 + j by omega] at this)

section
variable {K : Nat → Nat} {f : Nat → List Byte} (hlen : ∀ l, (f l).length = 64) (hK : ∀ i j, i ≠ j → K i + 64 ≤ K j ∨ K j + 64 ≤ K i)
include hlen hK

theorem State.writeAreas_out {l : Nat} {ls : List Nat} (hl : l ∉ ls) {s : State} (hs : s.MemCanonical) :
    Memory.readN (ls.foldl (fun s l => s.writeKey (K l) (f l)) s).mem (K l) 64 = Memory.readN s.mem (K l) 64 := by
  induction ls generalizing s with
  | nil => rfl
  | cons k ls ih =>
    have hne : k ≠ l := fun h => hl (by simp [h])
    refine (ih (fun h => hl (by simp [h])) (State.writeKey_wf hs ..)).trans ?_
    refine Memory.readN_congr fun j hj => ?_
    rw [State.writeKey_mem]
    refine Memory.read_writeN_out hs ?_
    rw [hlen]
    rcases hK k l hne with h | h <;> omega

/-- Each of some areas that do not overlap reads back as it was written. -/
theorem State.writeAreas_read {l : Nat} {ls : List Nat} (hd : ls.Nodup) (hl : l ∈ ls) {s : State} (hs : s.MemCanonical) :
    Memory.readN (ls.foldl (fun s l => s.writeKey (K l) (f l)) s).mem (K l) 64 = f l := by
  induction ls generalizing s with
  | nil => exact absurd hl (by simp)
  | cons k ls ih =>
    obtain ⟨hk, hd⟩ := List.nodup_cons.1 hd
    rcases List.mem_cons.1 hl with rfl | hl
    · refine (State.writeAreas_out hlen hK hk (State.writeKey_wf hs ..)).trans ?_
      rw [State.writeKey_mem, ← hlen l]
      exact Memory.readN_writeN hs ..
    · exact ih hd hl (State.writeKey_wf hs ..)

end

theorem Crew.sliceKey_apart (cw : Crew) (t : ThreadRef) (i j : Nat) (h : i ≠ j) :
    cw.sliceKey t i 128 + 64 ≤ cw.sliceKey t j 128 ∨ cw.sliceKey t j 128 + 64 ≤ cw.sliceKey t i 128 := by
  unfold Crew.sliceKey laneKey Crew.laneCtx
  omega

/-- The save area of each lane that has not exited holds its counter. -/
theorem State.readKey_saveLanes {s : State} (hs : s.MemCanonical) (cw : Crew) (t : ThreadRef) (b : Band) (srcs : List (Nat × List W128))
    {l : Nat} (hl : l ∈ b.alive) :
    (s.saveLanes cw t b srcs).readKey (cw.sliceKey t l 176) 2 = [BitVec.ofNat 8 (b.count l), 0] := by
  have hread := State.writeAreas_read (K := fun l => cw.sliceKey t l 128)
    (f := fun l => b.saveBytes l (match srcs.find? fun x => x.1 == l with | some x => x.2 | none => []))
    (fun l => b.saveBytes_length l _) (cw.sliceKey_apart t) b.alive_nodup hl hs
  have hpart : (s.saveLanes cw t b srcs).readKey (cw.sliceKey t l 176) 2 =
      ((Memory.readN (s.saveLanes cw t b srcs).mem (cw.sliceKey t l 128) 64).drop 48).take 2 := rfl
  have hgone : b.gone l = false := by simpa using (List.mem_filter.1 hl).2
  rw [hpart]
  refine (congrArg (fun x => (List.drop 48 x).take 2) hread).trans ?_
  rw [Band.saveBytes_counter, hgone]
  rfl

/-! ## Entering a handler -/

theorem State.enterTrap_handler {s : State} {t : ThreadRef} {cw : Crew} {b : Band} {p : PendTrap} {pc : Nat} (hcw : s.crewOf t.crew = some cw)
    (hb : s.thread t = some b) (hp : b.pending = some p) (hc : p.cause ≠ 12)
    (hv : s.vector (handleCtx cw.cfg.handle) cw.cfg.trapVec p.cause = .handler pc) :
    s.enterTrap t = ((s.countCause t.die cw.cfg.handle p.cause).saveLanes cw t b p.srcs).setThread t (b.enterHandler p pc) := by
  unfold State.enterTrap
  rw [hcw, hb]
  dsimp only
  rw [hp]
  dsimp only
  rw [hv]
  dsimp only
  rw [if_neg hc]

theorem SameOthers.setThread {s : State} {t : ThreadRef} (h : (s.thread t).isSome) (b : Band) : SameOthers t s (s.setThread t b) := by
  intro u hu
  rw [State.thread_setThread _ _ _ _ h, if_neg hu]

theorem SameOthers.of_crews {me : ThreadRef} {s t : State} (h : KeepsCrews s t) : SameOthers me s t := fun u _ => by rw [h.thread]

theorem State.crewOf_setThread_cfg {s : State} {t : ThreadRef} {cw : Crew} (h : s.crewOf t.crew = some cw) (b : Band) :
    ∃ w, (s.setThread t b).crewOf t.crew = some w ∧ w.cfg = cw.cfg := by
  refine ⟨cw.setThread t.band b, ?_, by cases t with | mk d c k n => cases n <;> rfl⟩
  unfold State.setThread
  rw [State.crewOf_updCrew, if_pos rfl, h]
  rfl

theorem State.writeKey_crews (s : State) (k : Nat) (bs : List Byte) : KeepsCrews s (s.writeKey k bs) := .of_dies rfl

theorem State.saveLanes_crews (s : State) (cw : Crew) (t : ThreadRef) (b : Band) (srcs : List (Nat × List W128)) :
    KeepsCrews s (s.saveLanes cw t b srcs) := by
  unfold State.saveLanes
  exact foldl_keeps (P := KeepsCrews s) (.refl s) fun u l h => h.trans (State.writeKey_crews ..)

theorem Crew.sliceKey_of_cfg {cw w : Crew} (h : w.cfg = cw.cfg) (t : ThreadRef) (l off : Nat) : w.sliceKey t l off = cw.sliceKey t l off := by
  unfold Crew.sliceKey Crew.laneCtx
  rw [h]

theorem Band.loseLatches_alive (b : Band) : b.loseLatches.alive = b.alive := rfl

/-- The counters in the handler: 0 in the lanes that trapped, 1 in the others. -/
theorem Band.count_enterHandler (b : Band) (p : PendTrap) (pc : Nat) {l : Nat} (h : l ∈ b.alive) :
    (b.enterHandler p pc).count l = if p.lanes.getLsbD l then 0 else 1 := by
  show (b.loseLatches.setCounts fun l => if p.lanes.getLsbD l then 0 else 1).count l = _
  exact Band.count_setCounts_of_le _ h (by split <;> omega)

theorem Band.enterHandler_regs (b : Band) (p : PendTrap) (pc : Nat) :
    { (b.enterHandler p pc).r with nest := b.r.nest } = b.r ∧ (b.enterHandler p pc).running = b.running := by
  have hcounts : b.loseLatches.setCounts (fun l => if p.lanes.getLsbD l then 0 else 1) = _ := Band.setCounts_eq ..
  constructor
  · show { (b.loseLatches.setCounts fun l => if p.lanes.getLsbD l then 0 else 1).r with nest := b.r.nest } = b.r
    rw [hcounts]
    rfl
  · show (b.loseLatches.setCounts fun l => if p.lanes.getLsbD l then 0 else 1).running = _
    rw [hcounts]
    rfl

/-- A trap that an instruction of a band raises at USER privilege, with no result on its way and a handler in the table. -/
theorem Env.raise_enters {e : Env} {s : State} {cw : Crew} {cause pc : Nat} (info : W64) (lanes : BitVec 64) (hcw : CrewAt e s cw)
    (hs : s.MemCanonical) (hplaced : e.Placed s) (hfront : e.front = false) (hpriv : e.b.trapPriv = false) (hrun : e.b.running = true)
    (hout : e.b.writersOut = false) (hcause : cause < 12 ∨ 12 < cause ∧ cause < 256)
    (hv : s.vector (handleCtx cw.cfg.handle) cw.cfg.trapVec cause = .handler pc) :
    EntersHandler e s cw (.next (e.raise cause info lanes s)) cause info lanes pc := by
  have hcw' : s.crewOf e.t.crew = some cw := hcw
  obtain ⟨w1, hw1, hcfg1⟩ := State.crewOf_setThread_cfg hcw' e.b
  have ht1 : (e.settled s).thread e.t = some e.b := (State.thread_setThread s e.t e.t e.b hplaced.thread).trans (if_pos rfl)
  have hw1' : (e.settled s).crewOf e.t.crew = some w1 := hw1
  obtain ⟨n, hn⟩ : ∃ n, e.t.band = some n := by
    have hb := hplaced.front
    rw [hfront] at hb
    exact Option.ne_none_iff_exists'.1 fun k => by rw [k] at hb; exact absurd hb (by decide)
  obtain ⟨u, hu⟩ : ∃ u, u = (e.settled s).setThread e.t { e.b with pending := some (e.trap cause info lanes) } := ⟨_, rfl⟩
  obtain ⟨w2, hw2, hcfg2⟩ := State.crewOf_setThread_cfg hw1' { e.b with pending := some (e.trap cause info lanes) }
  rw [← hu] at hw2
  have hcfg : w2.cfg = cw.cfg := hcfg2.trans hcfg1
  have hraise : e.raise cause info lanes s = u.enterTrap e.t := by
    unfold Env.raise State.takeTrap
    rw [hn]
    dsimp only
    rw [hw1', ht1]
    dsimp only
    refine (if_neg (by rw [hpriv]; decide)).trans ?_
    rw [hout, hu]
    rfl
  have ht2 : u.thread e.t = some { e.b with pending := some (e.trap cause info lanes) } := by
    rw [hu, State.thread_setThread _ _ _ _ (by rw [ht1]; rfl), if_pos rfl]
  have hview : SameView s u := by
    rw [hu]
    exact ((SameView.setThread s e.t e.b).trans (.free _ _)).trans (.setThread ..)
  have hothers : SameOthers e.t s u := by
    rw [hu]
    exact (SameOthers.setThread hplaced.thread e.b).trans (SameOthers.setThread (by rw [ht1]; rfl) _)
  have hvec : u.vector (handleCtx w2.cfg.handle) w2.cfg.trapVec cause = .handler pc := by rw [hcfg, hview.vector]; exact hv
  rw [hraise, State.enterTrap_handler hw2 ht2 rfl (by show cause ≠ 12; omega) hvec]
  obtain ⟨v, hv1⟩ : ∃ v, v = u.countCause e.t.die w2.cfg.handle cause := ⟨_, rfl⟩
  have hcount : KeepsCrews u v := by rw [hv1]; exact KeepsCrews.updGridDie ..
  have hvmem : v.mem = s.mem := by rw [hv1]; exact hview.mem
  have hvs : v.MemCanonical := by
    show Memory.wf v.mem = true
    rw [hvmem]
    exact hs
  have hkeep : KeepsCrews u (v.saveLanes w2 e.t { e.b with pending := some (e.trap cause info lanes) } (e.trap cause info lanes).srcs) :=
    hcount.trans (State.saveLanes_crews ..)
  have hthere : ((v.saveLanes w2 e.t { e.b with pending := some (e.trap cause info lanes) } (e.trap cause info lanes).srcs).thread e.t).isSome := by
    rw [hkeep.thread, ht2]
    rfl
  have hsaved := fun l hl => State.readKey_saveLanes hvs w2 e.t { e.b with pending := some (e.trap cause info lanes) }
    (e.trap cause info lanes).srcs (l := l) hl
  obtain ⟨hregs, hrunning⟩ := Band.enterHandler_regs { e.b with pending := some (e.trap cause info lanes) } (e.trap cause info lanes) pc
  have hcounts := fun l hl => Band.count_enterHandler { e.b with pending := some (e.trap cause info lanes) } (e.trap cause info lanes) pc
    (l := l) hl
  show EntersHandler e s cw (.next ((State.saveLanes (u.countCause e.t.die w2.cfg.handle cause) w2 e.t _ _).setThread e.t _)) cause info lanes pc
  rw [← hv1]
  generalize v.saveLanes w2 e.t { e.b with pending := some (e.trap cause info lanes) } (e.trap cause info lanes).srcs = x at hkeep hthere hsaved ⊢
  refine ⟨_, _, rfl, (State.thread_setThread _ _ _ _ hthere).trans (if_pos rfl), rfl, hrunning.trans hrun, rfl, ?code, rfl, rfl, rfl, rfl, rfl,
    rfl, hcounts, ?exited, ?slots, ?preds, ?uni, fun l hl => ?saved, ?others⟩
  case code => exact (BitVec.toNat_ofNat ..).trans (Nat.mod_eq_of_lt (by show cause < 2 ^ 8; omega))
  case exited => have := congrArg BandRegs.exited hregs; exact this
  case slots => have := congrArg BandRegs.slots hregs; exact this
  case preds => have := congrArg BandRegs.preds hregs; exact this
  case uni => have := congrArg BandRegs.uni hregs; exact this
  case saved =>
    unfold State.readKey
    rw [State.setThread_mem, ← Crew.sliceKey_of_cfg hcfg]
    exact hsaved l hl
  case others => exact (hothers.trans (.of_crews hkeep)).trans (SameOthers.setThread hthere _)

/-- What a breakpoint in the same place skips makes no difference to how its band enters the handler. -/
theorem EntersHandler.of_bpSkip {e : Env} {s : State} {cw : Crew} {o : Out} {cause pc : Nat} {info : W64} {lanes : BitVec 64} {k : Option PCW}
    (h : EntersHandler { e with b := { e.b with bpSkip := k } } s cw o cause info lanes pc) : EntersHandler e s cw o cause info lanes pc := by
  obtain ⟨t, b, ho, ht, hpriv, hrun, hpc, hcause, hinfo, hlanes, hfpc, hrpc, hexec, hwstat, hcount, hex, hslots, hpreds, huni, hsave, hoth⟩ := h
  exact ⟨t, b, ho, ht, hpriv, hrun, hpc, hcause, hinfo, hlanes, hfpc, hrpc, hexec, hwstat, hcount, hex, hslots, hpreds, huni, hsave, hoth⟩

/-! ## STRAP and BKPT -/

theorem bkpt_of {c : Code} {s : State} {e : Env} {cw : Crew} (h : Issues 0xFA c s e) (hcw : CrewAt e s cw) :
    exec (.bkpt c) s = if e.front || e.b.trapPriv || e.lanes == 0 ||
        s.vector (handleCtx cw.cfg.handle) cw.cfg.trapVec 13 == .none then e.finish e.next e.b s
      else .next ({ e with b := { e.b with bpSkip := none } }.raise 13 0 e.lanes s) := by
  have hcw' : s.crewOf e.t.crew = some cw := hcw
  have hbp : e.bpHandled s = (s.vector (handleCtx cw.cfg.handle) cw.cfg.trapVec 13 != .none) := by
    unfold Env.bpHandled
    rw [hcw']
  rw [exec_bkpt, execBkpt, runInstr_of h, hbp, bne, Bool.not_not]

theorem strap_of {c : Code} {s : State} {e : Env} (h : Issues 0xFB c s e) : exec (.strap c) s =
    if e.lanes = 0 then e.finish e.next e.b s else .next (e.raise 14 (BitVec.ofNat 64 (c.srca.bits.toNat % 256)) e.lanes s) := by
  rw [exec_strap, execStrap, runInstr_of h]

/-- Settles O39: software traps and breakpoints. -/
theorem softwareTraps : Obligations.SoftwareTraps := by
  unfold Obligations.SoftwareTraps
  refine ⟨?enter, ?empty, ?ignored⟩
  case enter =>
    intro c s e cw pc hcw hs hfront hpriv hout hl
    refine ⟨fun h hv => ?strap, fun h hv => ?bkpt⟩
    case strap =>
      rw [strap_of h, if_neg hl]
      exact Env.raise_enters _ _ hcw hs (.of_mkEnv h.1) hfront hpriv (mkEnv_running h.1) hout (by omega) hv
    case bkpt =>
      have hrun := mkEnv_running h.1
      rw [bkpt_of h hcw, if_neg (by rw [hfront, hpriv, hv]; simpa using hl)]
      exact (Env.raise_enters (e := { e with b := { e.b with bpSkip := none } }) 0 e.lanes hcw hs
        ((Env.Placed.of_mkEnv h.1).same ⟨rfl, rfl, rfl, rfl⟩) hfront hpriv hrun hout (by omega) hv).of_bpSkip
  case empty =>
    intro c s e hl
    refine ⟨fun h => ?_, fun h => ?_⟩
    · rw [strap_of h, if_pos hl]
      exact (Env.Placed.of_mkEnv h.1).finish_goes e.next e.b e.b rfl
    · obtain ⟨cw, hcw⟩ := mkEnv_crew h.1
      rw [bkpt_of h hcw, if_pos (by simp [hl])]
      exact (Env.Placed.of_mkEnv h.1).finish_goes e.next e.b e.b rfl
  case ignored =>
    intro c s e cw hcw h hv
    rw [bkpt_of h hcw, hv, if_pos (by simp)]
    exact (Env.Placed.of_mkEnv h.1).finish_goes e.next e.b e.b rfl

end Sys2Proof.Machine
end

section
/-!
TRET: what a thread is once it has left its handler.
-/
namespace Sys2Proof.Machine

/-! ## What ending lanes, tasks and bands leaves of a thread -/

/-- What stays in a thread whose lanes, tasks or band end. -/
structure Band.Kept (b b' : Band) : Prop where
  nest : b'.r.nest = b.r.nest
  status : b'.r.status = b.r.status
  width : b'.width = b.width
  trapPriv : b'.trapPriv = b.trapPriv
  pc : b'.x.pc = b.x.pc
  exited : ∀ l, b.r.exited.getLsbD l = true → b'.r.exited.getLsbD l = true
  requeue : b'.requeue = b.requeue
  stopped : b.running = false → b'.running = false

theorem Band.Kept.refl (b : Band) : b.Kept b := ⟨rfl, rfl, rfl, rfl, rfl, fun _ h => h, rfl, fun h => h⟩

theorem Band.Kept.trans {a b c : Band} (h : a.Kept b) (k : b.Kept c) : a.Kept c :=
  ⟨k.nest.trans h.nest, k.status.trans h.status, k.width.trans h.width, k.trapPriv.trans h.trapPriv,
    k.pc.trans h.pc, fun l hl => k.exited l (h.exited l hl), k.requeue.trans h.requeue, fun hr => k.stopped (h.stopped hr)⟩

theorem Band.Kept.exitForGood (b : Band) (m : BitVec 64) : b.Kept (b.exitForGood m) := by
  refine ⟨rfl, rfl, rfl, rfl, rfl, fun l hl => ?_, rfl, fun h => h⟩
  show (b.r.exited ||| m).getLsbD l = true
  rw [BitVec.getLsbD_or, hl]
  rfl

theorem Band.Kept.exitLanes (b : Band) (m : BitVec 64) : b.Kept (b.exitLanes m) := by
  refine ⟨rfl, rfl, rfl, rfl, rfl, fun l hl => ?_, rfl, fun h => h⟩
  show (b.r.exited ||| m).getLsbD l = true
  rw [BitVec.getLsbD_or, hl]
  rfl

theorem Band.Kept.ended (b : Band) : b.Kept b.ended := ⟨rfl, rfl, rfl, rfl, rfl, fun _ h => h, rfl, fun _ => rfl⟩

section
variable {s : State} {t : ThreadRef} {b : Band}

/-- A thread's crew is there. -/
theorem State.crewOf_of_thread (hb : s.thread t = some b) : ∃ cw, s.crewOf t.crew = some cw := by
  unfold State.thread at hb
  cases hc : s.crewOf t.crew with
  | none => rw [hc] at hb; exact absurd hb (by simp)
  | some cw => exact ⟨cw, rfl⟩

theorem State.tasksEnd_kept (hb : s.thread t = some b) : ∃ b', (s.tasksEnd t).thread t = some b' ∧ b.Kept b' := by
  obtain ⟨cw, hcw⟩ := State.crewOf_of_thread hb
  unfold State.tasksEnd
  rw [hcw, hb]
  dsimp only
  split
  · exact ⟨b, hb, .refl b⟩
  · have hk := Band.Kept.exitForGood b (b.tasks &&& b.r.exited &&& ~~~b.requeue)
    refine ⟨{ b.exitForGood (b.tasks &&& b.r.exited &&& ~~~b.requeue) with tasks := b.tasks &&& ~~~(b.tasks &&& b.r.exited &&& ~~~b.requeue) },
      ?_, ⟨hk.nest, hk.status, hk.width, hk.trapPriv, hk.pc, hk.exited, hk.requeue, hk.stopped⟩⟩
    rw [State.thread_liveSub, State.thread_setThread _ _ _ _ (by rw [hb]; rfl), if_pos rfl]

theorem State.endBand_kept (hb : s.thread t = some b) :
    ∃ b', (s.endBand t).thread t = some b' ∧ b.Kept b' ∧ (b.requeue = 0 → b'.running = false) := by
  obtain ⟨cw, hcw⟩ := State.crewOf_of_thread hb
  unfold State.endBand
  rw [hcw, hb]
  dsimp only
  split
  · next hq =>
    refine ⟨{ b with pending := none, x := { b.x with phase := .ending } }, ?_,
      ⟨rfl, rfl, rfl, rfl, rfl, fun _ h => h, rfl, fun h => h⟩, fun h => absurd h hq⟩
    rw [State.thread_setThread _ _ _ _ (by rw [hb]; rfl), if_pos rfl]
  · have hctl := CtlOnly.foldl (fun (x : State) w => State.performCsr_ctl x t.crew w) (b.pends.filterMap fun p => p.csr) s
    generalize (b.pends.filterMap fun p => p.csr).foldl (fun (x : State) w => x.performCsr t.crew w) s = s1 at hctl
    have hb1 : (s1.setThread t b.ended).thread t = some b.ended := by
      rw [State.thread_setThread _ _ _ _ (by rw [hctl.thread, hb]; rfl), if_pos rfl]
    obtain ⟨b', hb', hk⟩ := State.tasksEnd_kept hb1
    refine ⟨b', ?_, (Band.Kept.ended b).trans hk, fun _ => hk.stopped rfl⟩
    rw [State.thread_of_dies (State.barNudge_dies ..), hb']

theorem State.endIfEmpty_kept (hb : s.thread t = some b) : ∃ b', (s.endIfEmpty t).thread t = some b' ∧ b.Kept b' := by
  unfold State.endIfEmpty
  rw [hb]
  dsimp only
  split
  · exact ⟨b, hb, .refl b⟩
  · split
    · obtain ⟨b', hb', hk, -⟩ := State.endBand_kept hb
      exact ⟨b', hb', hk⟩
    · refine ⟨_, (State.thread_setThread _ _ _ _ (by rw [hb]; rfl)).trans (if_pos rfl),
        ⟨rfl, rfl, rfl, rfl, rfl, fun _ h => h, rfl, fun h => h⟩⟩

theorem State.exitLanes_kept (hb : s.thread t = some b) (m : BitVec 64) :
    ∃ b', (s.exitLanes t m).thread t = some b' ∧ (b.exitLanes m).Kept b' := by
  have hset : (s.updThread t fun b => b.exitLanes m).thread t = some (b.exitLanes m) := by
    rw [State.thread_updThread, if_pos rfl, hb]
    rfl
  obtain ⟨b1, hb1, h1⟩ := State.tasksEnd_kept hset
  obtain ⟨b2, hb2, h2⟩ := State.endIfEmpty_kept hb1
  exact ⟨b2, hb2, h1.trans h2⟩

theorem State.breakBarriers_dies (s : State) (d : Nat) (cw : Crew) : (s.breakBarriers d cw).dies = s.dies := by
  unfold State.breakBarriers State.breakTold
  dsimp only
  have hfold : ∀ xs : List (Nat × Nat × Nat), (xs.foldl (fun (u : State) x =>
      u.barSend d cw.cfg.handle (u.ownerAt cw.cfg.handle) x.1 x.2.1 x.2.2 false true)
        (s.breakAll cw.cfg.handle (cw.barriers ++ cw.collectives))).dies = s.dies := fun xs =>
    foldl_keeps (P := fun u : State => u.dies = s.dies) rfl fun u x hu => by rw [State.barSend_dies]; exact hu
  split
  · split
    · exact hfold _
    · rfl
  · rfl

/-- A band that is killed has no lane left. -/
theorem State.killBand_kept (hb : s.thread t = some b) :
    ∃ b', (s.killBand t).thread t = some b' ∧ b'.r.exited = BitVec.allOnes 64 ∧ (b.requeue = 0 → b'.running = false) := by
  obtain ⟨cw, hcw⟩ := State.crewOf_of_thread hb
  unfold State.killBand
  rw [hcw, hb]
  dsimp only
  have h1 : ((s.breakBarriers t.die cw).updCrew t.crew fun w => { w with ctl := { w.ctl with killed := true } }).thread t = some b := by
    rw [State.thread_updCrew _ _ _ (fun w n => by cases n <;> rfl), State.thread_of_dies (State.breakBarriers_dies ..), hb]
  generalize (s.breakBarriers t.die cw).updCrew t.crew (fun w => { w with ctl := { w.ctl with killed := true } }) = s2 at h1
  have h2 : (if cw.ctl.killed then s2 else s2.updOwner cw.cfg.handle fun o => { o with intr := o.intr + 1 }).thread t = some b := by
    split
    · exact h1
    · rw [State.thread_of_dies (State.updOwner_dies ..), h1]
  generalize (if cw.ctl.killed then s2 else s2.updOwner cw.cfg.handle fun o => { o with intr := o.intr + 1 }) = s3 at h2
  have h3 : (s3.setThread t (b.exitForGood (BitVec.allOnes 64))).thread t = some (b.exitForGood (BitVec.allOnes 64)) := by
    rw [State.thread_setThread _ _ _ _ (by rw [h2]; rfl), if_pos rfl]
  obtain ⟨b', hb', hk, hr⟩ := State.endBand_kept h3
  refine ⟨b', hb', BitVec.eq_of_getLsbD_eq fun l hl => ?_, hr⟩
  have hone : (BitVec.allOnes 64).getLsbD l = true := by rw [BitVec.getLsbD_allOnes]; exact decide_eq_true hl
  have hall : (b.exitForGood (BitVec.allOnes 64)).r.exited.getLsbD l = true := by
    show (b.r.exited ||| BitVec.allOnes 64).getLsbD l = true
    rw [BitVec.getLsbD_or, hone, Bool.or_true]
  rw [hk.exited l hall, hone]

end

/-! ## The counters from the save areas -/

theorem BandRegs.putKey_nest (r : BandRegs) (k : Nat) (v : W64) : (r.putKey k v).nest = r.nest ∧ (r.putKey k v).status = r.status := by
  unfold BandRegs.putKey
  split
  · exact ⟨rfl, rfl⟩
  · split
    · exact ⟨rfl, rfl⟩
    · split
      · exact ⟨rfl, rfl⟩
      · split <;> exact ⟨rfl, rfl⟩

theorem BandRegs.putKeys_nest {α : Type} (r : BandRegs) (ks : List α) (k : α → Nat) (v : α → W64) :
    (ks.foldl (fun r x => r.putKey (k x) (v x)) r).nest = r.nest ∧ (ks.foldl (fun r x => r.putKey (k x) (v x)) r).status = r.status :=
  foldl_keeps (P := fun x : BandRegs => x.nest = r.nest ∧ x.status = r.status) ⟨rfl, rfl⟩ fun x y h => by
    obtain ⟨h1, h2⟩ := x.putKey_nest (k y) (v y)
    exact ⟨h1.trans h.1, h2.trans h.2⟩

/-- What returns to one lane from its save area. -/
def State.restoreLane (s : State) (cw : Crew) (t : ThreadRef) (b : Band) (l : Nat) : Band :=
  let bs := s.readKey (cw.sliceKey t l 176) 4
  let preds := leNat (bs.drop 2)
  let b1 := b.setCount l (bs.getD 0 0).toNat
  let one := 1#64 <<< l
  let ex := if (bs.getD 1 0).getLsbD 0 then b1.r.exited ||| one else b1.r.exited &&& ~~~one
  let r := { b1.r with exited := ex }
  { b1 with r := (List.range 8).foldl (fun (r : BandRegs) k =>
      r.putKey (predKey l k) (BitVec.ofNat 64 (preds / 4 ^ k % 4))) r }

section
variable (s : State) (cw : Crew) (t : ThreadRef) (b : Band)

theorem State.restoreLane_spec (l : Nat) :
    (s.restoreLane cw t b l).r.nest = b.r.nest.set l (BitVec.ofNat 8 ((s.readKey (cw.sliceKey t l 176) 4).getD 0 0).toNat) ∧
    (s.restoreLane cw t b l).r.status = b.r.status ∧ { s.restoreLane cw t b l with r := b.r } = b := by
  unfold State.restoreLane
  dsimp only
  obtain ⟨hn, hst⟩ := BandRegs.putKeys_nest { (b.setCount l ((s.readKey (cw.sliceKey t l 176) 4).getD 0 0).toNat).r with
      exited := if ((s.readKey (cw.sliceKey t l 176) 4).getD 1 0).getLsbD 0
        then (b.setCount l ((s.readKey (cw.sliceKey t l 176) 4).getD 0 0).toNat).r.exited ||| 1#64 <<< l
        else (b.setCount l ((s.readKey (cw.sliceKey t l 176) 4).getD 0 0).toNat).r.exited &&& ~~~(1#64 <<< l) } (List.range 8) (predKey l)
    (fun k => BitVec.ofNat 64 (leNat ((s.readKey (cw.sliceKey t l 176) 4).drop 2) / 4 ^ k % 4))
  exact ⟨hn, hst, rfl⟩

theorem State.restoreLanes_eq : s.restoreLanes cw t b =
    ((List.range b.width).filter fun l => !b.handlerSnap.exited.getLsbD l).foldl (fun b l => s.restoreLane cw t b l) b := rfl

/-- Returning lanes changes nothing of a thread but registers of its lanes. -/
theorem State.restoreLanes_rest : (s.restoreLanes cw t b).r.status = b.r.status ∧ { s.restoreLanes cw t b with r := b.r } = b := by
  rw [State.restoreLanes_eq]
  refine foldl_keeps (P := fun x : Band => x.r.status = b.r.status ∧ { x with r := b.r } = b) ⟨rfl, rfl⟩ fun x l hx => ?_
  obtain ⟨-, hst, hrest⟩ := s.restoreLane_spec cw t x l
  refine ⟨hst.trans hx.1, ?_⟩
  calc { s.restoreLane cw t x l with r := b.r } = { ({ s.restoreLane cw t x l with r := x.r } : Band) with r := b.r } := rfl
    _ = b := by rw [hrest]; exact hx.2

theorem State.restoreLanes_out {l : Nat} {ls : List Nat} (hl : l ∉ ls) :
    (ls.foldl (fun b l => s.restoreLane cw t b l) b).count l = b.count l := by
  induction ls generalizing b with
  | nil => rfl
  | cons k ls ih =>
    have hne : l ≠ k := fun h => hl (by simp [h])
    refine (ih _ fun h => hl (by simp [h])).trans ?_
    unfold Band.count
    rw [(s.restoreLane_spec cw t b k).1, Tbl.get_set_ne _ _ _ hne]

theorem State.restoreLanes_in {l : Nat} {ls : List Nat} (hd : ls.Nodup) (hl : l ∈ ls) :
    [BitVec.ofNat 8 ((ls.foldl (fun b l => s.restoreLane cw t b l) b).count l)] = s.readKey (cw.sliceKey t l 176) 1 := by
  induction ls generalizing b with
  | nil => exact absurd hl (by simp)
  | cons k ls ih =>
    obtain ⟨hk, hd⟩ := List.nodup_cons.1 hd
    rcases List.mem_cons.1 hl with rfl | hl
    · have hcount := s.restoreLanes_out cw t (s.restoreLane cw t b l) hk
      show [BitVec.ofNat 8 ((ls.foldl (fun b l => s.restoreLane cw t b l) (s.restoreLane cw t b l)).count l)] = _
      rw [hcount, Band.count, (s.restoreLane_spec cw t b l).1, Tbl.get_set_self]
      simp [State.readKey, Memory.readN]
    · exact ih _ hd hl

/-- The counters of the lanes that had not exited at entry are those of their save areas. -/
theorem State.restoreLanes_count {l : Nat} (hl : l < b.width) (he : b.handlerSnap.exited.getLsbD l = false) :
    [BitVec.ofNat 8 ((s.restoreLanes cw t b).count l)] = s.readKey (cw.sliceKey t l 176) 1 := by
  rw [State.restoreLanes_eq]
  exact s.restoreLanes_in cw t b (List.nodup_range.filter _) (List.mem_filter.2 ⟨List.mem_range.2 hl, by rw [he]; rfl⟩)

end

/-! ## TRET -/

/-- The thread as it is when it leaves its handler. -/
structure Band.Leaves (b1 b : Band) : Prop where
  r : b.r = b1.r
  width : b.width = b1.width
  snap : b.handlerSnap = b1.handlerSnap
  trap : b.trap = b1.trap
  region : b.region = b1.region
  cancelTrap : b.cancelTrap = b1.cancelTrap
  requeue : b.requeue = b1.requeue

theorem SameThread.leaves {b1 b : Band} (h : SameThread b1 b) : b1.Leaves b := by
  unfold SameThread at h
  constructor <;> rw [← h]

section
variable {s : State} {t : ThreadRef} {cw : Crew} {b : Band}

/-- A thread that is set, and ended where no lane is left. -/
theorem State.setThread_kept (hb : s.thread t = some b) (b1 : Band) :
    ∃ b', ((s.setThread t b1).endIfEmpty t).thread t = some b' ∧ b1.Kept b' :=
  State.endIfEmpty_kept ((State.thread_setThread _ _ _ _ (by rw [hb]; rfl)).trans (if_pos rfl))

theorem Band.keepOverflow_of {b : Band} (h : b.trap.cause ≠ 5) : b.keepOverflow = b := by
  unfold Band.keepOverflow
  exact if_neg h

theorem State.restoreLanes_trap : (s.restoreLanes cw t b).trap = b.trap := by
  have := congrArg Band.trap (s.restoreLanes_rest cw t b).2
  exact this

/-- The band whose lanes are back and that is at USER privilege. -/
def State.back (s : State) (cw : Crew) (t : ThreadRef) (b : Band) : Band := { s.restoreLanes cw t b with trapPriv := false }

/-- A band that goes on at an address. -/
def Band.goesTo (b : Band) (pc : PCW) : Band := { b with x := { b.x with pc := pc } }

section
variable (h : b.cancelTrap = false)
include h

theorem State.returnTrap_resume : s.returnTrap t cw b 0 = (s.setThread t ({ s.back cw t b with
      only := if b.trap.cause = 5 then some b.trap.lanes else none,
      bpSkip := if b.trap.cause = 13 then some b.trap.fpc else (s.back cw t b).bpSkip }.goesTo b.trap.pc)).endIfEmpty t := by
  unfold State.returnTrap
  rw [h]
  rfl

theorem State.returnTrap_killLanes : s.returnTrap t cw b 4 = (((s.trapEvent t cw.cfg.handle b.trap.cause.toNat b.trap.fpc.toNat
      b.trap.info.toNat b.trap.lanes.toNat 1).setThread t ({ s.back cw t b with
      only := if b.trap.cause = 5 then some b.trap.lanes else none,
      bpSkip := if b.trap.cause = 13 then some b.trap.fpc else (s.back cw t b).bpSkip }.goesTo b.trap.pc)).exitLanes t b.trap.lanes) := by
  unfold State.returnTrap
  dsimp only
  rw [h, if_neg (by decide), if_neg (by decide), if_neg (by decide), if_neg (by decide), if_neg (by decide), if_pos rfl]
  unfold Band.goesTo State.back
  with_reducible rfl

theorem State.returnTrap_retry : s.returnTrap t cw b 3 = s.setThread t ({ s.back cw t b with
      r := { (s.back cw t b).r with nest := (s.back cw t b).region.snap.nest, exited := (s.back cw t b).region.snap.exited },
      region := { (s.back cw t b).region with stores := 0 } }.goesTo (s.back cw t b).region.restart) := by
  unfold State.returnTrap
  rw [h]
  rfl

theorem State.returnTrap_skip (hc : b.trap.cause ≠ 5) : s.returnTrap t cw b 1 =
    (s.setThread t ((s.back cw t b).goesTo b.trap.after)).endIfEmpty t := by
  have hback : (s.back cw t b).keepOverflow = s.back cw t b := Band.keepOverflow_of (by
    show (s.restoreLanes cw t b).trap.cause ≠ 5
    rw [State.restoreLanes_trap]
    exact hc)
  unfold State.returnTrap
  rw [h]
  show (s.setThread t ((s.back cw t b).keepOverflow.goesTo b.trap.after)).endIfEmpty t = _
  rw [hback]

theorem State.returnTrap_writeSkip (hc : b.trap.cause ≠ 5) : s.returnTrap t cw b 2 =
    (s.setThread t (((s.writeSkip cw t (s.back cw t b) b.trap.destBytes).addStatus (s.cyc t.die) b.trap.wstat).goesTo b.trap.after)).endIfEmpty t := by
  have hback : (s.back cw t b).keepOverflow = s.back cw t b := Band.keepOverflow_of (by
    show (s.restoreLanes cw t b).trap.cause ≠ 5
    rw [State.restoreLanes_trap]
    exact hc)
  unfold State.returnTrap
  rw [h]
  dsimp only
  rw [if_neg (by decide), if_neg (by decide), if_neg (by decide), if_pos rfl]
  unfold State.back at hback
  rw [hback]
  unfold Band.goesTo State.back
  with_reducible rfl

end

theorem State.returnTrap_killBand : s.returnTrap t cw b 5 = (s.trapEvent t cw.cfg.handle b.trap.cause.toNat b.trap.fpc.toNat
    b.trap.info.toNat b.trap.lanes.toNat 2).killBand t := rfl

/-- What `WRITE_SKIP` writes changes no counter, no status and nothing beside the registers. -/
theorem State.writeSkip_rest (s : State) (cw : Crew) (t : ThreadRef) (b : Band) (n : Nat) :
    (s.writeSkip cw t b n).r.nest = b.r.nest ∧ (s.writeSkip cw t b n).r.status = b.r.status ∧ { s.writeSkip cw t b n with r := b.r } = b := by
  have hfold : ∀ (ls : List Nat) (f : BandRegs → Nat → BandRegs), (∀ r l, (f r l).nest = r.nest ∧ (f r l).status = r.status) →
      let b' := ls.foldl (fun (b : Band) l => { b with r := f b.r l }) b
      b'.r.nest = b.r.nest ∧ b'.r.status = b.r.status ∧ { b' with r := b.r } = b := fun ls f hf =>
    foldl_keeps (P := fun x : Band => x.r.nest = b.r.nest ∧ x.r.status = b.r.status ∧ { x with r := b.r } = b) ⟨rfl, rfl, rfl⟩
      fun x l ⟨h1, h2, h3⟩ => ⟨(hf x.r l).1.trans h1, (hf x.r l).2.trans h2, h3⟩
  unfold State.writeSkip
  dsimp only
  split
  · split
    · exact ⟨rfl, rfl, rfl⟩
    · exact hfold _ (fun r l => (List.range (n / 4)).foldl (fun r i => r.putKey (slotKey l (field b.trap.decode.toNat 48 16 % 2 ^ 12 + i))
        (BitVec.ofNat 64 (leNat (((s.readKey (cw.sliceKey t l 112) n).drop (4 * i)).take 4)))) r) fun r l => BandRegs.putKeys_nest ..
  · split
    · exact hfold _ (fun r l => r.putKey (predKey l (field b.trap.decode.toNat 48 16 % 2 ^ 12))
        (BitVec.ofNat 64 (((s.readKey (cw.sliceKey t l 112) 1).headD 0).toNat % 4))) fun r l => BandRegs.putKey_nest ..
    · split
      · split
        · obtain ⟨h1, h2⟩ := b.r.putKey_nest (uniKey (field b.trap.decode.toNat 48 16 % 2 ^ 12))
            (BitVec.ofNat 64 (leNat (s.readKey (cw.sliceKey t _ 112) 8)))
          exact ⟨h1, h2, rfl⟩
        · exact ⟨rfl, rfl, rfl⟩
      · exact ⟨rfl, rfl, rfl⟩

theorem Band.addStatus_rest (b : Band) (at_ : Nat) (st : BitVec 6) : (b.addStatus at_ st).r.nest = b.r.nest ∧
    (b.addStatus at_ st).r.status = b.r.status ||| st ∧ (b.addStatus at_ st).trapPriv = b.trapPriv := by
  unfold Band.addStatus
  split
  · next h =>
    rw [h]
    exact ⟨rfl, BitVec.or_zero.symm, rfl⟩
  · exact ⟨rfl, rfl, rfl⟩

end

theorem exec_tret_of {act : Nat} {c : Code} {s : State} {e : Env} (h : Issues 0xFC c s e) (hpriv : e.b.trapPriv = true)
    (hflags : ∀ f ∈ e.b.flags, f.2 = 0) :
    ∃ (s1 : State) (cw : Crew) (b : Band), s1.thread e.t = some b ∧ s1.mem = s.mem ∧ tret act c s = .next (s1.returnTrap e.t cw b act) ∧
      (∀ w, CrewAt e s w → cw.cfg = w.cfg) ∧ e.b.Leaves b := by
  have hplaced := Env.Placed.of_mkEnv h.1
  obtain ⟨t, b, ho, ht, -, -, -, hsame, hout, -⟩ := hplaced.finish_goes e.next e.b e.b rfl
  have ht1 : (e.done e.next e.b s).thread e.t = some b := by
    injection ho with ho
    rw [ho]
    exact ht
  have hout1 : SameOutside s (e.done e.next e.b s) := by
    injection ho with ho
    rw [ho]
    exact hout
  obtain ⟨cw, hcw⟩ := State.crewOf_of_thread ht1
  refine ⟨e.done e.next e.b s, cw, b, ht1, hout1.mem, ?_, fun w hw => ?_, hsame.leaves⟩
  · have hflag : (e.b.flags.any fun f => f.2 != 0) = false := by
      rw [List.any_eq_false]
      intro f hf
      rw [hflags f hf]
      decide
    rw [tret, runInstr_of h, hpriv, hflag]
    dsimp only
    rw [hcw, ht1]
    rfl
  · have hrest := hout1.crew e.t.crew
    have hw' : s.crewOf e.t.crew = some w := hw
    rw [hcw, hw'] at hrest
    have hrest' : cw.rest = w.rest := by injection hrest
    have := congrArg Crew.cfg hrest'
    exact this

/-- The counters that return are those that the save areas held when the instruction issued. -/
theorem restored_of {e : Env} {s s1 : State} {cw cw1 : Crew} {b : Band} (hmem : s1.mem = s.mem) (hcfg : cw1.cfg = cw.cfg)
    (hleaves : e.b.Leaves b) {b' : Band} (hn : b'.r.nest = (s1.restoreLanes cw1 e.t b).r.nest) (l : Nat) (hl : l < e.b.width)
    (he : e.b.handlerSnap.exited.getLsbD l = false) : [BitVec.ofNat 8 (b'.count l)] = s.readKey (cw.sliceKey e.t l 176) 1 := by
  have hcount : b'.count l = (s1.restoreLanes cw1 e.t b).count l := by
    unfold Band.count
    rw [hn]
  rw [hcount, s1.restoreLanes_count cw1 e.t b (by rw [hleaves.width]; exact hl) (by rw [hleaves.snap]; exact he), Crew.sliceKey_of_cfg hcfg]
  unfold State.readKey
  rw [hmem]

/-- Settles O40: the ways out of a handler. -/
theorem trapReturns : Obligations.TrapReturns := by
  unfold Obligations.TrapReturns
  intro c s e cw h hcw hpriv hcancel hflags left restored
  have hret := fun act => exec_tret_of (act := act) h hpriv hflags
  refine ⟨?resume, fun hc => ?skip, fun hc => ?writeSkip, ?retry, ?killLanes, ?killBand⟩
  case resume =>
    obtain ⟨s1, cw1, b, hb, hmem, hexec, hcfg, hb0⟩ := hret 0
    obtain ⟨b', hb', hk⟩ := State.setThread_kept hb ({ s1.back cw1 e.t b with
      only := if b.trap.cause = 5 then some b.trap.lanes else none,
      bpSkip := if b.trap.cause = 13 then some b.trap.fpc else (s1.back cw1 e.t b).bpSkip }.goesTo b.trap.pc)
    rw [exec_tretResume, hexec, State.returnTrap_resume (hb0.cancelTrap.trans hcancel)]
    refine ⟨_, b', rfl, ⟨hb', hk.trapPriv, hk.pc.trans (congrArg TrapRegs.pc hb0.trap)⟩, restored_of hmem (hcfg cw hcw) hb0 hk.nest, ?_⟩
    rw [State.endIfEmpty_mem, State.setThread_mem, hmem]
  case skip =>
    obtain ⟨s1, cw1, b, hb, hmem, hexec, hcfg, hb0⟩ := hret 1
    obtain ⟨b', hb', hk⟩ := State.setThread_kept hb ((s1.back cw1 e.t b).goesTo b.trap.after)
    rw [exec_tretSkip, hexec, State.returnTrap_skip (hb0.cancelTrap.trans hcancel) (by rw [hb0.trap]; exact hc)]
    refine ⟨_, b', rfl, ⟨hb', hk.trapPriv, hk.pc.trans (congrArg TrapRegs.after hb0.trap)⟩, restored_of hmem (hcfg cw hcw) hb0 hk.nest, ?_⟩
    rw [State.endIfEmpty_mem, State.setThread_mem, hmem]
  case writeSkip =>
    obtain ⟨s1, cw1, b, hb, hmem, hexec, hcfg, hb0⟩ := hret 2
    obtain ⟨hwn, hws, hwr⟩ := s1.writeSkip_rest cw1 e.t (s1.back cw1 e.t b) b.trap.destBytes
    obtain ⟨han, has, hap⟩ := (s1.writeSkip cw1 e.t (s1.back cw1 e.t b) b.trap.destBytes).addStatus_rest (s1.cyc e.t.die) b.trap.wstat
    obtain ⟨b', hb', hk⟩ := State.setThread_kept hb
      (((s1.writeSkip cw1 e.t (s1.back cw1 e.t b) b.trap.destBytes).addStatus (s1.cyc e.t.die) b.trap.wstat).goesTo b.trap.after)
    have hpriv' : (s1.writeSkip cw1 e.t (s1.back cw1 e.t b) b.trap.destBytes).trapPriv = false := by
      have := congrArg Band.trapPriv hwr
      exact this
    rw [exec_tretWriteSkip, hexec, State.returnTrap_writeSkip (hb0.cancelTrap.trans hcancel) (by rw [hb0.trap]; exact hc)]
    refine ⟨_, b', rfl, ⟨hb', hk.trapPriv.trans (hap.trans hpriv'), hk.pc.trans (congrArg TrapRegs.after hb0.trap)⟩,
      restored_of hmem (hcfg cw hcw) hb0 (hk.nest.trans (han.trans hwn)), ?_, ?_⟩
    · rw [State.endIfEmpty_mem, State.setThread_mem, hmem]
    · refine hk.status.trans (has.trans ?_)
      rw [hws, hb0.trap, ← hb0.r]
      exact congrArg (· ||| e.b.trap.wstat) (s1.restoreLanes_rest cw1 e.t b).1
  case retry =>
    obtain ⟨s1, cw1, b, hb, hmem, hexec, hcfg, hb0⟩ := hret 3
    have hregion : (s1.back cw1 e.t b).region = e.b.region := by
      have := congrArg Band.region (s1.restoreLanes_rest cw1 e.t b).2
      exact this.trans hb0.region
    rw [exec_tretRetryRegion, hexec, State.returnTrap_retry (hb0.cancelTrap.trans hcancel), hregion]
    refine ⟨_, _, rfl, ⟨(State.thread_setThread _ _ _ _ (by rw [hb]; rfl)).trans (if_pos rfl), rfl, rfl⟩, rfl, rfl, ?_⟩
    rw [State.setThread_mem, hmem]
  case killLanes =>
    obtain ⟨s1, cw1, b, hb, hmem, hexec, hcfg, hb0⟩ := hret 4
    have hb1 : (s1.trapEvent e.t cw1.cfg.handle b.trap.cause.toNat b.trap.fpc.toNat b.trap.info.toNat b.trap.lanes.toNat 1).thread e.t =
        some b := (State.thread_of_dies (State.report_dies ..) e.t).trans hb
    obtain ⟨b', hb', hk⟩ := State.exitLanes_kept ((State.thread_setThread _ _ e.t ({ s1.back cw1 e.t b with
      only := if b.trap.cause = 5 then some b.trap.lanes else none,
      bpSkip := if b.trap.cause = 13 then some b.trap.fpc else (s1.back cw1 e.t b).bpSkip }.goesTo b.trap.pc) (by rw [hb1]; rfl)).trans
        (if_pos rfl)) b.trap.lanes
    rw [exec_tretKillLanes, hexec, State.returnTrap_killLanes (hb0.cancelTrap.trans hcancel)]
    refine ⟨_, b', rfl, ⟨hb', hk.trapPriv, hk.pc.trans (congrArg TrapRegs.pc hb0.trap)⟩, restored_of hmem (hcfg cw hcw) hb0 hk.nest, ?_⟩
    apply BitVec.eq_of_getLsbD_eq
    intro l hl
    rw [BitVec.getLsbD_and]
    cases hx : e.b.trap.lanes.getLsbD l with
    | false => exact Bool.and_false _
    | true =>
      refine (Bool.and_true _).trans (hk.exited l ?_)
      show (_ ||| b.trap.lanes).getLsbD l = true
      rw [BitVec.getLsbD_or, hb0.trap, hx, Bool.or_true]
  case killBand =>
    obtain ⟨s1, cw1, b, hb, hmem, hexec, hcfg, hb0⟩ := hret 5
    have hb1 : (s1.trapEvent e.t cw1.cfg.handle b.trap.cause.toNat b.trap.fpc.toNat b.trap.info.toNat b.trap.lanes.toNat 2).thread e.t =
        some b := (State.thread_of_dies (State.report_dies ..) e.t).trans hb
    obtain ⟨b', hb', hall, hrun⟩ := State.killBand_kept hb1
    rw [exec_tretKillBand, hexec, State.returnTrap_killBand]
    exact ⟨_, b', rfl, hb', hall, fun hq => hrun (hb0.requeue.trans hq)⟩

end Sys2Proof.Machine
end

section
/-!
Writes of masters: which register each names, and who may write it.
-/
namespace Sys2Proof.Machine

/-! ## One write of a master -/

/-- A write at an offset that decodes to a register is a write of that register. -/
theorem writes_of_decode {i : Instr} {cand : BitVec 2} {sock off : Nat} {r : Reg} {v : State → W64}
    (hexec : ∀ s, exec i s = s.master cand sock off (v s)) (hdec : decodeReg sock off = some r) : Writes i cand sock r v := by
  intro s there
  have hreach : s.reach cand sock off = if sock ≠ 24 ∧ !s.host.boot.present.getLsbD sock then none
      else if s.host.start.kind = .safe ∧ !(r.inSafe && cand == 1) then none else some r := by
    unfold State.reach
    rw [hdec]
  have hout : exec i s = .next (s.regWrite cand sock off (v s)).2 := hexec s
  refine ⟨fun hnot => ?absent, fun hthere hmay => ?_, fun hthere hmay => ?_⟩
  case absent =>
    have hnone : s.regWrite cand sock off (v s) = (2, s) := by
      unfold State.regWrite
      rw [hreach]
      by_cases h1 : sock ≠ 24 ∧ (!s.host.boot.present.getLsbD sock) = true
      · rw [if_pos h1]
      · by_cases h2 : s.host.start.kind = .safe ∧ (!(r.inSafe && cand == 1)) = true
        · rw [if_neg h1, if_pos h2]
        · have h3 : cand = 3 := by
            by_contra hne
            refine hnot ⟨hne, ?_, fun hsafe => ?_⟩
            · by_cases hs : sock = 24
              · exact .inl hs
              · exact .inr (by simpa [hs] using h1)
            · simpa [hsafe, and_comm] using h2
          rw [if_neg h1, if_neg h2]
          exact if_pos h3
    rw [hout, hnone]
  all_goals
    obtain ⟨hcand, hsock, hsafe⟩ := hthere
    have h1 : ¬(sock ≠ 24 ∧ (!s.host.boot.present.getLsbD sock) = true) := by
      rintro ⟨hs, hp⟩
      rcases hsock with h | h
      · exact hs h
      · rw [h] at hp; exact absurd hp (by decide)
    have h2 : ¬(s.host.start.kind = .safe ∧ (!(r.inSafe && cand == 1)) = true) := by
      rintro ⟨hk, hn⟩
      obtain ⟨hc, hr⟩ := hsafe hk
      rw [hc, hr] at hn
      exact absurd hn (by decide)
    rw [hout]
    unfold State.regWrite
    rw [hreach, if_neg h1, if_neg h2]
    dsimp only
    rw [if_neg hcand, hmay]
    rfl

/-! ## Offsets -/

theorem decodeReg_package {off : Nat} {r : Reg} (hoff : off % 8 = 0) (hlt : off < 2 ^ 24) (h : packageRegAt off = some r) :
    decodeReg 24 off = some r := by
  unfold decodeReg
  rw [if_neg (by omega), if_pos rfl, h]

theorem decodeReg_common {sock off : Nat} (hs : sock < 26) (hoff : off % 8 = 0) (hlt : off < 2 ^ 24) (hhi : 0x60000 ≤ off) :
    decodeReg sock off = commonRegAt sock off := by
  have hpkg : packageRegAt off = none := by
    unfold packageRegAt
    dsimp only
    repeat rw [if_neg (by omega)]
  unfold decodeReg
  rw [if_neg (by omega)]
  split
  · next r hr =>
    split at hr
    · rw [hpkg] at hr; exact absurd hr (by simp)
    · exact absurd hr (by simp)
  · rfl

/-- The registers of a context, Table 3.10. -/
theorem packageRegAt_ctx (c : B6) : packageRegAt (ctxOff c 0) = some (.ctxCfg c.toNat) ∧ packageRegAt (ctxOff c 0x10) = some (.ctxUnpark c.toNat) ∧
    packageRegAt (ctxOff c 0x18) = some (.ctxPreempt c.toNat) ∧ packageRegAt (ctxOff c 0x20) = some (.ctxResume c.toNat) ∧
    packageRegAt (0x30200 + 8 * c.toNat) = some (.dispCancel c.toNat) := by
  revert c
  decide +kernel

theorem packageRegAt_evqLogack (sock : BitVec 5) (h : sock.toNat < 26) :
    packageRegAt (0x20300 + 8 * sock.toNat) = some (.evqLogack sock.toNat) := by
  revert sock
  decide +kernel

theorem commonRegAt_diescr (d : BitVec 3) (c : B6) : commonRegAt d.toNat (0x90000 + 0x40 * c.toNat) = some (.ctxDiescr d.toNat c.toNat) := by
  revert d c
  decide +kernel

theorem commonRegAt_timeCtl (sock : BitVec 5) (h : sock.toNat < 8 ∨ sock = 24 ∨ sock = 25) :
    commonRegAt sock.toNat 0x70018 = some (.timeCtl sock.toNat) := by
  revert sock
  decide +kernel

theorem linkRegAt_ctl (lk : LinkId) : linkRegAt lk 0x28 = some (.linkCtl lk) := rfl

theorem commonRegAt_linkCtl {lk : LinkId} (hs : lk.sock < 26)
    (hi : lk.idx < if lk.port then (if lk.sock < 24 then 0 else 9) else moduleCount lk.sock) :
    commonRegAt lk.sock (linkCtlOff lk) = some (.linkCtl lk) ∧ linkCtlOff lk % 8 = 0 ∧ linkCtlOff lk < 2 ^ 24 ∧ 0x60000 ≤ linkCtlOff lk := by
  obtain ⟨sock, port, idx⟩ := lk
  dsimp only at hs hi ⊢
  unfold linkCtlOff
  cases port with
  | true =>
    have hio : isIo sock = true ∧ idx < 9 := by
      rw [if_pos rfl] at hi
      split at hi
      · omega
      · refine ⟨?_, hi⟩
        unfold isIo
        rw [Bool.or_eq_true, beq_iff_eq, beq_iff_eq]
        omega
    obtain ⟨hio, hidx⟩ := hio
    have hcount : moduleCount sock = 12 := by
      unfold isIo at hio
      rw [Bool.or_eq_true, beq_iff_eq, beq_iff_eq] at hio
      rcases hio with rfl | rfl <;> rfl
    refine ⟨?_, ?_, ?_, ?_⟩ <;> dsimp only <;> rw [if_pos rfl]
    · unfold commonRegAt
      rw [hcount, if_neg (by omega), hio, if_pos (by simp; omega)]
      rw [show (0x61000 + 0x40 * idx + 0x28 - 0x61000) / 0x40 = idx by omega, show (0x61000 + 0x40 * idx + 0x28) % 0x40 = 0x28 by omega]
      rfl
    all_goals omega
  | false =>
    rw [if_neg (by decide)] at hi
    have hcount : moduleCount sock ≤ 24 := by
      unfold moduleCount
      split
      · omega
      · split <;> omega
    refine ⟨?_, ?_, ?_, ?_⟩ <;> dsimp only <;> rw [if_neg (by decide)]
    · unfold commonRegAt
      rw [if_pos (by omega)]
      rw [show (0x60000 + 0x40 * idx + 0x28 - 0x60000) / 0x40 = idx by omega, show (0x60000 + 0x40 * idx + 0x28) % 0x40 = 0x28 by omega]
      rfl
    all_goals omega

theorem commonRegAt_crewScrchk {c : CrewRef} (hd : c.die < 8) (hc : c.core < 256) (hs : c.slot < 8) :
    commonRegAt c.die (0x100000 + 0x100 * (8 * c.core + c.slot) + 0x18) = some (.crewScrchk c) := by
  obtain ⟨die, core, slot⟩ := c
  dsimp only at hd hc hs ⊢
  have hcount : moduleCount die = 24 := by
    unfold moduleCount isCompute
    rw [decide_eq_true hd, if_pos rfl]
  have hio : isIo die = false := by
    unfold isIo
    rw [Bool.or_eq_false_iff, beq_eq_false_iff_ne, beq_eq_false_iff_ne]
    omega
  have hmem : isMemory die = false := by
    unfold isMemory
    rw [Bool.and_eq_false_iff]
    exact .inl (decide_eq_false (by omega))
  unfold commonRegAt
  rw [hcount, hio, hmem]
  simp only [Bool.false_and, Bool.false_eq_true, if_false]
  repeat rw [if_neg (by omega)]
  rw [if_pos (by omega)]
  rw [show (0x100000 + 0x100 * (8 * core + slot) + 0x18 - 0x100000) / 0x100 = 8 * core + slot by omega,
    show (0x100000 + 0x100 * (8 * core + slot) + 0x18) % 0x100 = 0x18 by omega,
    show (8 * core + slot) / 8 = core by omega, show (8 * core + slot) % 8 = slot by omega]
  rfl

/-! ## Stores of the host complex -/

/-- The turn of a store to the partition. -/
theorem State.runTurn_host {s : State} {peripheral : Bool} {pa : W64} {bs : List Byte} (hsafe : s.inSafeMode = false)
    (hlo : pa.toNat < windowBase) (hhi : pa.toNat < s.host.boot.hostPlaced * 2 ^ 30) : s.runTurn (.host peripheral pa bs) =
    .next (if !s.owns 0 && (List.range bs.length).any fun i => s.inEvq (pa.toNat + i) then s.denied else s.hostWrite pa.toNat bs) := by
  have hturn : s.turn (.host peripheral pa bs) = (if !s.owns 0 && (List.range bs.length).any fun i => s.inEvq (pa.toNat + i) then s.denied
      else s.hostWrite pa.toNat bs, none) := by
    show (if s.inSafeMode then (s, none) else s.hostStore peripheral pa.toNat bs) = _
    rw [hsafe, if_neg (by decide)]
    unfold State.hostStore
    rw [if_neg (by omega), if_pos hhi]
    split <;> rfl
  unfold State.runTurn
  rw [hturn]

/-- Settles O41: each write by the register that it names, and the stores of the host complex. -/
theorem ownerWrites : Obligations.OwnerWrites := by
  unfold Obligations.OwnerWrites
  refine ⟨?mayW, ?hostW, ?writesW⟩
  case mayW =>
    intro s cand r
    unfold State.mayWrite State.exempt State.owns
    cases r <;> simp
  case hostW =>
    intro s rest peripheral pa bs s0 inQueue hag hsafe hlo hhi
    have hstep : step s = .next (if !s0.owns 0 && (List.range bs.length).any fun i => s0.inEvq (pa.toNat + i) then s0.denied
        else s0.hostWrite pa.toNat bs) :=
      (step_of_agenda hag).trans (State.runTurn_host (s := s0) hsafe hlo hhi)
    have hany : ((List.range bs.length).any fun i => s0.inEvq (pa.toNat + i)) = true ↔ inQueue := by
      rw [List.any_eq_true]
      exact ⟨fun ⟨i, hi, h⟩ => ⟨i, List.mem_range.1 hi, h⟩, fun ⟨i, hi, h⟩ => ⟨i, List.mem_range.2 hi, h⟩⟩
    refine ⟨fun h => ?_, fun hno hin => ?_⟩
    · rw [hstep, if_neg]
      rw [Bool.and_eq_true, hany, Bool.not_eq_true']
      rintro ⟨hno, hin⟩
      rcases h with h | h
      · have h' : s0.owns 0 = true := h
        rw [h'] at hno
        exact absurd hno (by decide)
      · exact h hin
    · rw [hstep, if_pos]
      rw [Bool.and_eq_true, hany, Bool.not_eq_true']
      exact ⟨hno, hin⟩
  case writesW =>
    intro cand k die sock ctx lk c off val w
    obtain ⟨hcfg, hunpark, hpre, hres, hcan⟩ := packageRegAt_ctx ctx
    refine ⟨fun r hr => writes_of_decode (fun _ => rfl) hr, writes_of_decode (off := 0x18) (fun _ => rfl) rfl,
      writes_of_decode (off := 0x18) (fun _ => rfl) rfl, writes_of_decode (off := 0x10008) (fun _ => rfl) rfl,
      writes_of_decode (off := 0x10008) (fun _ => rfl) rfl, writes_of_decode (off := 0x10008) (fun _ => rfl) rfl,
      writes_of_decode (off := 0xE0) (fun _ => rfl) rfl, ?attstW, ?createW, ?destroyW, ?unparkW, ?preemptW, ?resumeW, ?cancelW, ?diescrW, ?opcapW,
      writes_of_decode (off := 0x50000) (fun _ => rfl) rfl, writes_of_decode (off := 0x20010) (fun _ => rfl) rfl, ?logackW, ?timeCtlW, ?linkW, ?scrchkW⟩
    case attstW => exact writes_of_decode (fun _ => rfl) (by revert k; decide +kernel)
    case createW => exact writes_of_decode (fun _ => rfl) (decodeReg_package (by unfold ctxOff; omega) (by unfold ctxOff; omega) hcfg)
    case destroyW => exact writes_of_decode (fun _ => rfl) (decodeReg_package (by unfold ctxOff; omega) (by unfold ctxOff; omega) hcfg)
    case unparkW => exact writes_of_decode (fun _ => rfl) (decodeReg_package (by unfold ctxOff; omega) (by unfold ctxOff; omega) hunpark)
    case preemptW => exact writes_of_decode (fun _ => rfl) (decodeReg_package (by unfold ctxOff; omega) (by unfold ctxOff; omega) hpre)
    case resumeW => exact writes_of_decode (fun _ => rfl) (decodeReg_package (by unfold ctxOff; omega) (by unfold ctxOff; omega) hres)
    case cancelW => exact writes_of_decode (fun _ => rfl) (decodeReg_package (by omega) (by omega) hcan)
    case diescrW =>
      exact writes_of_decode (fun _ => rfl) ((decodeReg_common (by omega) (by omega) (by omega) (by omega)).trans (commonRegAt_diescr die ctx))
    case opcapW => exact writes_of_decode (off := 8) (fun _ => rfl) (by revert die; decide +kernel)
    case logackW =>
      exact fun hs => writes_of_decode (fun _ => rfl) (decodeReg_package (by omega) (by omega) (packageRegAt_evqLogack sock hs))
    case timeCtlW =>
      exact fun hs => writes_of_decode (off := 0x70018) (fun _ => rfl) ((decodeReg_common (by
        rcases hs with h | rfl | rfl <;> first | omega | decide) (by omega) (by omega) (by omega)).trans (commonRegAt_timeCtl sock hs))
    case linkW =>
      intro hs hi
      obtain ⟨hreg, h8, hlt, hhi⟩ := commonRegAt_linkCtl hs hi
      have hdec := (decodeReg_common hs h8 hlt hhi).trans hreg
      exact ⟨writes_of_decode (fun _ => rfl) hdec, writes_of_decode (fun _ => rfl) hdec⟩
    case scrchkW =>
      exact fun hd hc hs => writes_of_decode (fun _ => rfl)
        ((decodeReg_common (by omega) (by omega) (by omega) (by omega)).trans (commonRegAt_crewScrchk hd hc hs))

end Sys2Proof.Machine
end

section
/-!
What a write of a master leaves in the registers, and does.
-/
namespace Sys2Proof.Machine

/-! ## Halting a grid on a die -/

/-- A crew of a grid is among the grid's crews on its die. -/
theorem State.mem_crewsOf {s : State} {r : CrewRef} {cw : Crew} (hcw : s.crewOf r = some cw) : r ∈ s.crewsOf r.die cw.cfg.handle := by
  obtain ⟨d, c, n⟩ := r
  have hcrew : (n, cw) ∈ (s.coreOf d c).crews := Tbl.mem_of_find? hcw
  have hcore : (c, s.coreOf d c) ∈ (s.dieOf d).cores := by
    apply Tbl.mem_of_find?
    cases hf : Tbl.find? (s.dieOf d).cores c with
    | some k =>
      have hk : s.coreOf d c = k := by
        unfold State.coreOf
        rw [Tbl.get_eq_find?, hf]
        rfl
      rw [hk]
    | none =>
      have hk : s.coreOf d c = Core.reset := by
        unfold State.coreOf
        rw [Tbl.get_eq_find?, hf]
        rfl
      rw [hk] at hcrew
      exact absurd hcrew (by simp [Core.reset])
  unfold State.crewsOf
  rw [List.mem_flatMap]
  exact ⟨_, hcore, List.mem_map.2 ⟨_, List.mem_filter.2 ⟨hcrew, beq_self_eq_true _⟩, rfl⟩⟩

/-- A crew that is stopped, but for one that is cancelled. -/
def Crew.stopAt (now : Nat) (w : Crew) : Crew := if w.ctl.cancelled then w else w.mark now

theorem Crew.stopAt_stopAt (now : Nat) (w : Crew) : (w.stopAt now).stopAt now = w.stopAt now := by
  unfold Crew.stopAt
  by_cases h : w.ctl.cancelled = true
  · rw [if_pos h, if_pos h]
  · rw [if_neg h, if_neg (show ¬(w.mark now).ctl.cancelled = true from h)]
    unfold Crew.mark
    simp only [List.map_map, Option.map_map]
    rfl

theorem State.cyc_updCrew (s : State) (r : CrewRef) (f : Crew → Crew) (d : Nat) : (s.updCrew r f).cyc d = s.cyc d := by
  unfold State.updCrew
  split
  · exact State.cyc_setCrew ..
  · rfl

theorem State.crewOf_stopCrews {r : CrewRef} {w : Crew} (d : Nat) (rs : List CrewRef) {s : State} (h : s.crewOf r = some w) :
    (rs.foldl (fun (s : State) r => s.updCrew r (Crew.stopAt (s.cyc d))) s).crewOf r = some (if r ∈ rs then w.stopAt (s.cyc d) else w) := by
  induction rs generalizing s w with
  | nil => simpa using h
  | cons q rs ih =>
    have hq : (s.updCrew q (Crew.stopAt (s.cyc d))).crewOf r = some (if r = q then w.stopAt (s.cyc d) else w) := by
      rw [State.crewOf_updCrew]
      split
      · next hr => rw [← hr, h]; rfl
      · exact h
    refine (ih hq).trans ?_
    rw [State.cyc_updCrew]
    by_cases hr : r = q
    · simp [hr, Crew.stopAt_stopAt]
    · simp [hr]

theorem State.preemptDie_spec (s : State) (h : Handle) (d : Nat) : ((s.preemptDie h d).gridDie d h).halted = true ∧
    ∀ r cw, r.die = d → s.crewOf r = some cw → cw.cfg.handle = h →
      (s.preemptDie h d).crewOf r = some (if cw.ctl.cancelled then cw else cw.mark (s.cyc d)) := by
  have hkeep : KeepsCrews s (s.updGridDie d h fun y => { y with halted := true }) := .updGridDie ..
  refine ⟨?_, fun r cw hr hcw hh => ?_⟩
  · have hgrid : ∀ (rs : List CrewRef) (u : State), ((rs.foldl (fun (s : State) r => s.updCrew r (Crew.stopAt (s.cyc d))) u).gridDie d h) = u.gridDie d h :=
      fun rs u => foldl_keeps (P := fun x : State => x.gridDie d h = u.gridDie d h) rfl fun x q hx =>
        (State.gridDie_of_rest (State.rest_updCrew ..) h).trans hx
    show ((List.foldl (fun (s : State) r => s.updCrew r (Crew.stopAt (s.cyc d))) (s.updGridDie d h _) _).gridDie d h).halted = true
    rw [hgrid, State.gridDie_updGridDie]
  · have hcw1 := (hkeep.crew r).trans hcw
    have hmem := State.mem_crewsOf hcw1
    rw [hr, hh] at hmem
    refine (State.crewOf_stopCrews d _ hcw1).trans ?_
    rw [if_pos hmem]
    have hcyc : (s.updGridDie d h fun y => { y with halted := true }).cyc d = s.cyc d := State.cyc_updDisp ..
    rw [hcyc]
    rfl

/-! ## What each write leaves -/

theorem State.store_timeRef (s : State) (cand : BitVec 2) (k : Nat) {v : W64} (hv : v.getLsbD 0 = true) :
    (s.store cand (.timeCtl k) v).regValue (.timeRef k) =
      (s.convOf k).offset + BitVec.ofNat 64 ((s.convOf k).rate.toNat * (s.time % 2 ^ 64) / 2 ^ 30) := by
  have hstore : s.store cand (.timeCtl k) v = s.updConv k fun c => { c with offsetNow := c.offset, rateNow := c.rate } :=
    if_pos hv
  have hconv : (s.store cand (.timeCtl k) v).convOf k = { s.convOf k with offsetNow := (s.convOf k).offset, rateNow := (s.convOf k).rate } := by
    rw [hstore]
    exact Tbl.get_set_self ..
  have htime : (s.store cand (.timeCtl k) v).timeCount = s.time := by rw [hstore]; rfl
  show BitVec.ofNat 64 (((s.store cand (.timeCtl k) v).convOf k).ref _).toNat = _
  rw [BitVec.ofNat_toNat, BitVec.setWidth_eq, hconv, htime]
  rfl

theorem atMost_eq (n lo hi : Nat) (h : lo ≤ hi) : atMost n lo hi = max lo (min n hi) := by
  unfold atMost
  split
  · omega
  · split <;> omega

theorem State.store_pkgcap (s : State) (cand : BitVec 2) (v : W64) :
    (s.store cand .pwrPkgcap v).regValue .pwrPkgcap = BitVec.ofNat 64 (max 1200 (min (v.toNat % 65536) 3000)) ∧
      ∀ q, q ≠ .pwrPkgcap → (s.store cand .pwrPkgcap v).regValue q = s.regValue q := by
  constructor
  · show BitVec.ofNat 64 (BitVec.ofNat 16 (atMost (v.toNat % 65536) 1200 3000)).toNat = _
    rw [atMost_eq _ _ _ (by decide), BitVec.toNat_ofNat, Nat.mod_eq_of_lt (by omega)]
  · intro q hq
    cases q
    case pwrPkgcap => exact absurd rfl hq
    all_goals rfl

/-- Where every crew and every queue stays, so does the hint of the die. -/
theorem State.hintOf_updDie_pwr (s : State) (d : Nat) (f : Pwr → Pwr) :
    (s.updDie d fun x => { x with pwr := f x.pwr }).hintOf d = s.hintOf d := by
  have hdie : (s.updDie d fun x => { x with pwr := f x.pwr }).dieOf d = { s.dieOf d with pwr := f (s.dieOf d).pwr } :=
    State.dieOf_setDie ..
  unfold State.hintOf
  rw [hdie]
  rfl

theorem Pwr.begin_limits (p : Pwr) : p.begin_.opcap = p.opcap ∧ p.begin_.target = p.target ∧ p.begin_.ceilTherm = p.ceilTherm ∧
    p.begin_.ceilPkg = p.ceilPkg := by
  unfold Pwr.begin_
  split <;> exact ⟨rfl, rfl, rfl, rfl⟩

theorem State.store_pwrCtl (s : State) (cand : BitVec 2) (d : Nat) (v : W64) :
    let p := ((s.store cand (.pwrCtl d) v).dieOf d).pwr
    p.opcap = v.extractLsb' 0 3 ∧ p.target.toNat = min (min (s.hintOf d) (v.extractLsb' 0 3).toNat) (min p.ceilTherm.toNat p.ceilPkg.toNat) := by
  intro p
  have hp : p = Pwr.retarget { (s.dieOf d).pwr with opcap := v.extractLsb' 0 3 } (s.hintOf d) := by
    show (((s.updDie d fun x => { x with pwr := { x.pwr with opcap := v.extractLsb' 0 3 } }).retarget d).dieOf d).pwr = _
    have hhint := State.hintOf_updDie_pwr s d fun p => { p with opcap := v.extractLsb' 0 3 }
    refine (congrArg Die.pwr (State.dieOf_setDie ..)).trans ?_
    refine congrArg₂ Pwr.retarget (congrArg Die.pwr (State.dieOf_setDie ..)) hhint
  have hlim := Pwr.begin_limits { (s.dieOf d).pwr with
    opcap := v.extractLsb' 0 3, hint := BitVec.ofNat 3 (s.hintOf d),
    target := BitVec.ofNat 3 (min (min (s.hintOf d) (v.extractLsb' 0 3).toNat)
      (min (s.dieOf d).pwr.ceilTherm.toNat (s.dieOf d).pwr.ceilPkg.toNat)) }
  obtain ⟨hcap, htarget, htherm, hpkg⟩ := hlim
  rw [hp]
  refine ⟨hcap, (congrArg BitVec.toNat htarget).trans ?_⟩
  have hlt := (v.extractLsb' 0 3).isLt
  refine (BitVec.toNat_ofNat ..).trans ((Nat.mod_eq_of_lt (by omega)).trans ?_)
  exact (congrArg₂ (fun a b : BitVec 3 => min (min (s.hintOf d) (v.extractLsb' 0 3).toNat) (min a.toNat b.toNat)) htherm hpkg).symm

theorem State.linkOf_updLink (s : State) (lk : LinkId) (f : Link → Link) : (s.updLink lk f).linkOf lk = f (s.linkOf lk) :=
  Tbl.get_set_self ..

theorem State.store_linkClear (s : State) (cand : BitVec 2) (lk : LinkId) {v : W64} (h1 : v.getLsbD 1 = false) (h0 : v.getLsbD 0 = true) :
    let r := (s.linkOf lk).regs
    let r' := ((s.store cand (.linkCtl lk) v).linkOf lk).regs
    (r.errAt ≠ s.time → (s.store cand (.linkCtl lk) v).regValue (.linkErrcnt lk) = 0) ∧
      (r.errAt = s.time → r'.retrains = 0 ∧ r'.protErr = r.protNow ∧ r'.crcErr = r.crcNow) := by
  intro r r'
  have hstore : s.store cand (.linkCtl lk) v = s.updLink lk fun l => { l with regs := l.regs.clear s.time } := by
    show (if v.getLsbD 1 = true then _ else _) = _
    rw [if_neg (ne_true_of_eq_false h1), if_pos h0]
    rfl
  have hr' : r' = r.clear s.time := by
    show ((s.store cand (.linkCtl lk) v).linkOf lk).regs = _
    rw [hstore, State.linkOf_updLink]
  constructor
  · intro hne
    show BitVec.ofNat 64 (r'.retrains.toNat * 2 ^ 48 + r'.protErr.toNat * 2 ^ 32 + r'.crcErr.toNat) = 0
    rw [hr']
    simp [LinkRegs.clear, beq_eq_false_iff_ne.2 hne]
  · intro heq
    rw [hr']
    simp [LinkRegs.clear, heq]

theorem State.store_linkRetrain (s : State) (cand : BitVec 2) (lk : LinkId) {v : W64} (h1 : v.getLsbD 1 = true) (h0 : v.getLsbD 0 = false) :
    let l := s.linkOf lk
    let l' := (s.store cand (.linkCtl lk) v).linkOf lk
    (l.rx.st = .hold ∨ l.rx.st = .down ∨ l.tx.st = .hold → l' = l) ∧
      (l.rx.st ≠ .hold → l.rx.st ≠ .down → l.tx.st ≠ .hold →
        l'.tx.st = .hold ∧ l'.rx.st = .hold ∧ l'.regs.retrains = satInc l.regs.retrains ∧ l'.tx.buf = l.tx.buf) := by
  intro l l'
  have hl' : l' = l.retrainCtl := by
    have hstore : s.store cand (.linkCtl lk) v = s.updLink lk fun l => l.retrainCtl := by
      show (if v.getLsbD 1 = true then _ else _) = _
      rw [if_pos h1, if_neg (ne_true_of_eq_false h0)]
      rfl
    show (s.store cand (.linkCtl lk) v).linkOf lk = _
    rw [hstore, State.linkOf_updLink]
  rw [hl']
  unfold Link.retrainCtl
  constructor
  · intro h
    rw [if_pos (by tauto)]
  · intro hhold hdown htx
    rw [if_neg (by tauto)]
    exact ⟨rfl, rfl, rfl, rfl⟩

theorem State.store_evqHead (s : State) (cand : BitVec 2) (v : W64) : (s.store cand .evqHead v).regValue .evqHead =
    (let e := s.host.evq
     let h : W16 := v.extractLsb' 0 16
     (if (h - e.head).toNat ≤ (e.tail - e.head).toNat then h else e.tail).setWidth 64) := by
  have hhead (e : Evq) (h : W16) (he : s.host.evq = e) (hh : v.extractLsb' 0 16 = h) :
      (s.store cand .evqHead v).host.evq.head = if (h - e.head).toNat ≤ (e.tail - e.head).toNat then h else e.tail := by
    subst he hh
    show ite _ _ _ = _
    by_cases hlt : s.host.evq.tail - s.host.evq.head < v.extractLsb' 0 16 - s.host.evq.head
    · rw [if_pos hlt, if_neg (Nat.not_le.2 (BitVec.lt_def.1 hlt))]
    · rw [if_neg hlt, if_pos (Nat.not_lt.1 fun hn => hlt (BitVec.lt_def.2 hn))]
  refine (BitVec.ofNat_toNat ..).trans ?_
  exact congrArg (BitVec.setWidth 64) (hhead _ _ rfl rfl)

theorem State.store_evqLogack (s : State) (cand : BitVec 2) (v : W64) (k : Nat) :
    (s.store cand (.evqLogack k) v).regValue (.evqLogack k) = (v.extractLsb' 0 32).setWidth 64 ∧
      ((s.store cand (.evqLogack k) v).sockEv k).log = (s.sockEv k).log.map fun x =>
        { x with acked := x.acked || decide (leNat (x.record.take 4) ≤ v.toNat % 2 ^ 32) } := by
  have hev : (s.store cand (.evqLogack k) v).sockEv k = (s.sockEv k).ackTo (v.extractLsb' 0 32) := Tbl.get_set_self ..
  constructor
  · show BitVec.ofNat 64 ((s.store cand (.evqLogack k) v).sockEv k).logAck.toNat = _
    rw [hev]
    exact BitVec.ofNat_toNat ..
  · rw [hev]
    refine List.map_congr_left fun x _ => ?_
    have hv : (v.extractLsb' 0 32).toNat = v.toNat % 2 ^ 32 := by simp
    rw [hv]
    by_cases hle : leNat (x.record.take 4) ≤ v.toNat % 2 ^ 32
    · rw [if_pos hle, decide_eq_true hle, Bool.or_true]
    · rw [if_neg hle, decide_eq_false hle, Bool.or_false]

theorem State.mayCreate_of_place {s : State} {x : Ctx} {v : W64} (hmode : x.mode = v.extractLsb' 26 2) (hplace : x.place = v.extractLsb' 23 3)
    (h : match (v.extractLsb' 26 2).toNat with
      | 0 => (v.extractLsb' 23 3).toNat = 0
      | 1 => (v.extractLsb' 23 3).toNat ≤ 1 ∧ ∃ i, i < 4 ∧ s.healthy (4 * (v.extractLsb' 23 3).toNat + i) = true
      | 2 => s.healthy (v.extractLsb' 23 3).toNat = true
      | _ => False) : s.mayCreate x = true := by
  unfold State.mayCreate
  rw [hmode, hplace]
  split at h
  · next h0 => simp [h0, h]
  · next h1 =>
    obtain ⟨hle, i, hi, hhealthy⟩ := h
    simp only [h1, Bool.and_eq_true, decide_eq_true_eq, List.any_eq_true, List.mem_range]
    exact ⟨hle, i, hi, hhealthy⟩
  · next h2 => simpa [h2] using h
  · exact h.elim

theorem State.store_ctxCreate {s : State} (cand : BitVec 2) {c : Nat} {x : Ctx} {v : W64} (hx : s.ctxOf c = x) (hfree : x.st = .free)
    (h0 : v.getLsbD 0 = true)
    (hplace : match (v.extractLsb' 26 2).toNat with
      | 0 => (v.extractLsb' 23 3).toNat = 0
      | 1 => (v.extractLsb' 23 3).toNat ≤ 1 ∧ ∃ i, i < 4 ∧ s.healthy (4 * (v.extractLsb' 23 3).toNat + i) = true
      | 2 => s.healthy (v.extractLsb' 23 3).toNat = true
      | _ => False) :
    (s.store cand (.ctxCfg c) v).ctxOf c = { x with st := .active, destroy := .none, mode := v.extractLsb' 26 2, place := v.extractLsb' 23 3,
                                                    gwin := v.getLsbD 22 } ∧
      ∀ k, k ≠ c → (s.store cand (.ctxCfg c) v).ctxOf k = s.ctxOf k := by
  subst hx
  let s1 := s.updCtx c fun x => { x with mode := v.extractLsb' 26 2, place := v.extractLsb' 23 3, gwin := v.getLsbD 22 }
  have hctx : s1.ctxOf c = { s.ctxOf c with mode := v.extractLsb' 26 2, place := v.extractLsb' 23 3, gwin := v.getLsbD 22 } :=
    Tbl.get_set_self ..
  have hmay : s1.mayCreate (s1.ctxOf c) = true := by
    rw [hctx]
    exact State.mayCreate_of_place rfl rfl hplace
  have hstore : s.store cand (.ctxCfg c) v = s1.updCtx c fun x => { x with st := .active, destroy := .none } := by
    show s.writeCtxCfg c v = _
    unfold State.writeCtxCfg
    rw [hfree]
    exact if_pos (by rw [h0, Bool.true_and]; exact hmay)
  rw [hstore]
  constructor
  · refine (Tbl.get_set_self ..).trans ?_
    rw [hctx]
  · intro k hk
    exact (Tbl.get_set_ne _ _ _ hk).trans (Tbl.get_set_ne _ _ _ hk)

theorem State.foldl_send_unpark (c : Nat) (ds : List Nat) (s : State) :
    ds.foldl (fun (s : State) d => s.send (s.hdr (BitVec.ofNat 6 c) 0 24 d) .unpark) s =
      { s with net := s.net ++ ds.map fun d => Packet.mk (s.hdr (BitVec.ofNat 6 c) 0 24 d) .unpark } := by
  induction ds generalizing s with
  | nil => simp
  | cons d ds ih =>
    have hlt : s.pkg < 256 := (s.podrt.get PodRt.reset 24).pkg.isLt
    have hhere : (s.hdr (BitVec.ofNat 6 c) 0 24 d).dstPkg.toNat = s.pkg :=
      (BitVec.toNat_ofNat ..).trans (Nat.mod_eq_of_lt hlt)
    rw [List.foldl_cons, ih, State.send, if_pos hhere]
    simp [State.hdr, State.pkg]

theorem State.store_ctxUnpark (s : State) (cand : BitVec 2) (c : Nat) {v : W64} (h0 : v.getLsbD 0 = true) :
    s.store cand (.ctxUnpark c) v =
      { s with net := s.net ++ (s.healthyDies s.pkg).map fun d => Packet.mk (s.hdr (BitVec.ofNat 6 c) 0 24 d) .unpark } :=
  Eq.trans (if_pos h0) (State.foldl_send_unpark ..)

/-- Another context's region of the die scratchpad that a new region would meet. -/
def State.ScratchMeets (s : State) (d c base size : Nat) : Prop :=
  ∃ k, k < 64 ∧ k ≠ c ∧ (s.ctxOf k).st = .active ∧ size ≠ 0 ∧ (s.ctxDie d k).scrSize.toNat ≠ 0 ∧
    base < (s.ctxDie d k).scrBase.toNat + (s.ctxDie d k).scrSize.toNat ∧ (s.ctxDie d k).scrBase.toNat < base + size

theorem State.scratchMeets_iff (s : State) (d c base size : Nat) : s.ScratchMeets d c base size ↔
    ((List.range 64).any fun k => k != c && (s.ctxOf k).st == .active &&
      runsMeet base size (s.ctxDie d k).scrBase.toNat (s.ctxDie d k).scrSize.toNat && size != 0 && (s.ctxDie d k).scrSize != 0) = true := by
  have hne (n : BitVec 10) : n ≠ 0 ↔ n.toNat ≠ 0 := not_congr BitVec.toNat_inj.symm
  unfold State.ScratchMeets
  simp only [List.any_eq_true, List.mem_range, Bool.and_eq_true, bne_iff_ne, beq_iff_eq, runsMeet, decide_eq_true_eq, hne]
  constructor
  · rintro ⟨k, hk, hkc, hst, hsize, hscr, hlo, hhi⟩
    exact ⟨k, hk, ⟨⟨⟨hkc, hst⟩, hlo, hhi⟩, hsize⟩, hscr⟩
  · rintro ⟨k, hk, ⟨⟨⟨hkc, hst⟩, hlo, hhi⟩, hsize⟩, hscr⟩
    exact ⟨k, hk, hkc, hst, hsize, hscr, hlo, hhi⟩

theorem State.store_diescr (s : State) (cand : BitVec 2) (d c : Nat) (v : W64) (hwf : s.MemCanonical) :
    let base := (v.extractLsb' 16 9).toNat
    let size := (v.extractLsb' 0 10).toNat
    let x := s.ctxDie d c
    let t := s.store cand (.ctxDiescr d c) v
    (s.ScratchMeets d c base size ∨ 512 < base + size → t = s) ∧
      (¬ s.ScratchMeets d c base size → base + size ≤ 512 → x.scrBase.toNat ≠ base ∨ x.scrSize.toNat ≠ size →
        (t.ctxDie d c).scrBase.toNat = base ∧ (t.ctxDie d c).scrSize.toNat = size ∧
        ∀ k, Memory.read t.mem k = if dieKey d (65536 * base) ≤ k ∧ k < dieKey d (65536 * base) + 65536 * size then 0
          else Memory.read s.mem k) := by
  intro base size x t
  have hmeets := s.scratchMeets_iff d c base size
  have ht : t = s.writeDiescr d c v := rfl
  rw [ht]
  unfold State.writeDiescr
  constructor
  · intro h
    refine if_pos ?_
    rw [Bool.or_eq_true, decide_eq_true_eq, ← hmeets]
    exact h
  · intro hno hfits hnew
    have hwrite : s.writeDiescr d c v = (s.clearKey (dieKey d (65536 * base)) (65536 * size)).updCtxDie d c fun y =>
        { y with scrBase := v.extractLsb' 16 9, scrSize := v.extractLsb' 0 10 } := by
      unfold State.writeDiescr
      refine (if_neg ?_).trans (if_neg ?_)
      · rw [Bool.or_eq_true, decide_eq_true_eq, ← hmeets]
        rintro (h | h)
        · exact hno h
        · exact absurd hfits (Nat.not_le.2 h)
      · rintro ⟨hb, hs⟩
        exact hnew.elim (absurd hb) (absurd hs)
    have hctx : (s.writeDiescr d c v).ctxDie d c = { s.ctxDie d c with scrBase := v.extractLsb' 16 9, scrSize := v.extractLsb' 0 10 } := by
      rw [hwrite]
      unfold State.ctxDie State.updCtxDie State.updDie
      rw [State.dieOf_setDie]
      exact Tbl.get_set_self ..
    refine ⟨congrArg (fun y => y.scrBase.toNat) hctx, congrArg (fun y => y.scrSize.toNat) hctx, fun k => ?_⟩
    have hmem : (s.writeDiescr d c v).mem = Memory.clear s.mem (dieKey d (65536 * base)) (65536 * size) := by
      rw [hwrite]
      rfl
    exact (congrArg (Memory.read · k) hmem).trans (Memory.read_clear hwf ..)

theorem State.store_ctxPreempt {s : State} (cand : BitVec 2) {c : Nat} {g : Grid} {v : W64} (hg : s.gridOf (v.extractLsb' 0 48) = some g)
    (h57 : v.getLsbD 57 = false) (hbusy : (s.ctxOf c).preBusy = false) (hc : (handleCtx (v.extractLsb' 0 48)).toNat = c)
    (hend : g.own.isEnded = false) :
    s.store cand (.ctxPreempt c) v =
      (((List.range 8).filter fun d => v.getLsbD (48 + d)).foldl (fun (s : State) d => s.preemptDie (v.extractLsb' 0 48) d)
        (s.updCtx c fun x => { x with preBusy := true })).preSettle c := by
  have hs1 : (if v.getLsbD 57 then s.updCtx c fun x => { x with preNospace := false } else s) = s := if_neg (ne_true_of_eq_false h57)
  show s.ctxPreempt c v = _
  unfold State.ctxPreempt
  rw [hs1]
  dsimp only
  rw [hg]
  exact if_neg (by simp [hbusy, hc, hend])

theorem State.store_ctxResume {s : State} (cand : BitVec 2) {c : Nat} {g : Grid} {v : W64} (hg : s.gridOf (v.extractLsb' 0 48) = some g)
    (hc : (handleCtx (v.extractLsb' 0 48)).toNat = c) :
    s.store cand (.ctxResume c) v = (List.range 8).foldl (fun (s : State) d => s.resumeDie g d) s := by
  show s.ctxResume c v = _
  unfold State.ctxResume
  dsimp only
  rw [hg]
  exact if_pos hc

/-- A report buffer that can take a request. -/
def Boot.takesRequest (b : Boot) (k : Nat) : Bool := match b.att[k]? with | some a => !a.run && !a.done | none => false

theorem Boot.not_takesRequest {b : Boot} {j : Nat} (h : ∀ x, b.att[j]? = some x → x.run = true ∨ x.done = true) :
    b.takesRequest j = false := by
  unfold Boot.takesRequest
  cases hb : b.att[j]? with
  | none => rfl
  | some x => rcases h x hb with hrun | hdone <;> simp [*]

theorem State.attRequest_of_some {s : State} (cand : BitVec 2) {k : Nat} (h : (List.range 4).find? s.host.boot.takesRequest = some k) :
    s.attRequest cand = s.updBoot fun b => { b with
      att := b.att.modify k fun a => { a with run := true, cand := cand, nonce := b.attNonce.getD cand.toNat 0 },
      attQueue := b.attQueue ++ [k] } := by
  unfold State.attRequest
  show (match (List.range 4).find? s.host.boot.takesRequest with | some k => _ | none => _) = _
  rw [h]

theorem State.attRequest_of_none {s : State} (cand : BitVec 2) (h : (List.range 4).find? s.host.boot.takesRequest = none) :
    s.attRequest cand = s.updBoot fun b => { b with attBusy := true } := by
  unfold State.attRequest
  show (match (List.range 4).find? s.host.boot.takesRequest with | some k => _ | none => _) = _
  rw [h]

/-- The state that `BOOT_ATTREQ` makes its request in: the busy bit may have been cleared. -/
def State.attCleared (s : State) (v : W64) : State := if v.getLsbD 1 then s.updBoot fun b => { b with attBusy := false } else s

theorem State.attCleared_boot (s : State) (v : W64) : (s.attCleared v).host.boot.att = s.host.boot.att ∧
    (s.attCleared v).host.boot.attNonce = s.host.boot.attNonce ∧ (s.attCleared v).host.boot.attQueue = s.host.boot.attQueue := by
  unfold State.attCleared
  split <;> exact ⟨rfl, rfl, rfl⟩

theorem State.store_attreq (s : State) (cand : BitVec 2) {v : W64} (h0 : v.getLsbD 0 = true) :
    s.store cand .bootAttreq v = (s.attCleared v).attRequest cand := if_pos h0

theorem State.store_attreq_first {s : State} (cand : BitVec 2) {v : W64} {k : Nat} {a : AttBuf} (h0 : v.getLsbD 0 = true) (hk : k < 4)
    (ha : s.host.boot.att[k]? = some a) (hrun : a.run = false) (hdone : a.done = false)
    (hbefore : ∀ j b, j < k → s.host.boot.att[j]? = some b → b.run = true ∨ b.done = true) :
    (s.store cand .bootAttreq v).host.boot.att[k]? = some { a with run := true, cand := cand, nonce := s.host.boot.attNonce.getD cand.toNat 0 } ∧
      (s.store cand .bootAttreq v).host.boot.attQueue = s.host.boot.attQueue ++ [k] := by
  obtain ⟨hatt, hnonce, hqueue⟩ := s.attCleared_boot v
  have htakes (j : Nat) : (s.attCleared v).host.boot.takesRequest j = s.host.boot.takesRequest j := by
    unfold Boot.takesRequest
    rw [hatt]
  have hfind : (List.range 4).find? (s.attCleared v).host.boot.takesRequest = some k := by
    rw [List.find?_range_eq_some]
    refine ⟨?_, List.mem_range.2 hk, fun j hj => ?_⟩
    · rw [htakes]
      simp [Boot.takesRequest, ha, hrun, hdone]
    · rw [htakes, Boot.not_takesRequest fun b hb => hbefore j b hj hb]
      rfl
  rw [State.store_attreq s cand h0, State.attRequest_of_some cand hfind]
  refine ⟨?_, congrArg (· ++ [k]) hqueue⟩
  show (List.modify _ k _)[k]? = _
  rw [List.getElem?_modify_eq, hatt, hnonce, ha]
  rfl

theorem State.store_attreq_busy {s : State} (cand : BitVec 2) {v : W64} (h0 : v.getLsbD 0 = true)
    (hfull : ∀ j b, j < 4 → s.host.boot.att[j]? = some b → b.run = true ∨ b.done = true) :
    (s.store cand .bootAttreq v).host.boot.attBusy = true ∧ (s.store cand .bootAttreq v).host.boot.att = s.host.boot.att := by
  obtain ⟨hatt, -, -⟩ := s.attCleared_boot v
  have hfind : (List.range 4).find? (s.attCleared v).host.boot.takesRequest = none := by
    rw [List.find?_eq_none]
    intro j hj
    rw [Boot.not_takesRequest fun b hb => hfull j b (List.mem_range.1 hj) (hatt ▸ hb)]
    decide
  rw [State.store_attreq s cand h0, State.attRequest_of_none cand hfind]
  exact ⟨rfl, hatt⟩

theorem State.store_attst {s : State} (cand : BitVec 2) {v : W64} {k : Nat} {a : AttBuf} (h1 : v.getLsbD 1 = true)
    (ha : s.host.boot.att[k]? = some a) : (s.store cand (.bootAttst k) v).host.boot.att[k]? = some { a with done := false } := by
  have hstore : s.store cand (.bootAttst k) v =
      s.updBoot fun b => { b with att := b.att.modify k fun a => { a with done := false } } := if_pos h1
  rw [hstore]
  show (List.modify _ k _)[k]? = _
  rw [List.getElem?_modify_eq, ha]
  rfl

theorem State.store_scrchk {s : State} (cand : BitVec 2) (v : W64) {r : CrewRef} {cw : Crew} (hcw : s.crewOf r = some cw) :
    (s.store cand (.crewScrchk r) v).crewOf r = some { cw with ctl := { cw.ctl with
      scrchkLog := v.getLsbD 0, wlogCnt := if v.getLsbD 1 then 0 else cw.ctl.wlogCnt } } := by
  refine (State.crewOf_updCrew ..).trans ((if_pos rfl).trans ?_)
  exact congrArg (Option.map _) hcw

theorem handleCtx_extract (v : W64) : handleCtx (v.extractLsb' 0 48) = v.extractLsb' 0 6 := by
  unfold handleCtx
  ext i
  simp

/-- Settles O42: register by register, what the store of its value leaves and does. -/
theorem registerEffects : Obligations.RegisterEffects := by
  unfold Obligations.RegisterEffects
  intro s cand v put
  refine ⟨?timeRef, ?pkgcap, ?pwrCtl, ?linkClear, ?linkRetrain, ?evqHead, ?evqLogack, ?ctxCreate, ?ctxDestroy, ?ctxUnpark, ?dispCancel,
    ?diescr, ?ctxPreempt, ?preemptDie, ?ctxResume, ?attreqFirst, ?attreqBusy, ?attst, ?scrchk⟩
  case timeRef => exact fun k hv => s.store_timeRef cand k hv
  case pkgcap => exact s.store_pkgcap cand v
  case pwrCtl => exact fun d => s.store_pwrCtl cand d v
  case linkClear => exact fun lk h1 h0 => s.store_linkClear cand lk h1 h0
  case linkRetrain => exact fun lk h1 h0 => s.store_linkRetrain cand lk h1 h0
  case evqHead => exact s.store_evqHead cand v
  case evqLogack => exact s.store_evqLogack cand v
  case ctxCreate => exact fun c x hx hfree h0 hplace => State.store_ctxCreate cand hx hfree h0 hplace
  case ctxDestroy =>
    intro c hactive h1 hc
    show s.writeCtxCfg c v = s.destroy c
    unfold State.writeCtxCfg
    rw [hactive]
    exact if_pos (by simp [h1, hc])
  case ctxUnpark => exact fun c h0 => s.store_ctxUnpark cand c h0
  case dispCancel =>
    intro c hc
    rw [← handleCtx_extract] at hc
    exact if_pos hc
  case diescr => exact fun d c hwf => s.store_diescr cand d c v hwf
  case ctxPreempt => exact fun c g hg h57 hbusy hc hend =>
    State.store_ctxPreempt cand hg h57 hbusy ((congrArg _ (handleCtx_extract v)).trans hc) hend
  case preemptDie => exact s.preemptDie_spec
  case ctxResume => exact fun c g hg hc => State.store_ctxResume cand hg ((congrArg _ (handleCtx_extract v)).trans hc)
  case attreqFirst => exact fun k a h0 hk ha hrun hdone hbefore => State.store_attreq_first cand h0 hk ha hrun hdone hbefore
  case attreqBusy => exact fun h0 hfull => State.store_attreq_busy cand h0 hfull
  case attst => exact fun k a h1 ha => State.store_attst cand h1 ha
  case scrchk => exact fun r cw hcw => State.store_scrchk cand v hcw

end Sys2Proof.Machine
end

section
/-!
The management port, the agent of the pod leader, and the event records.
-/
namespace Sys2Proof.Machine

/-! ## What a master's access answers -/

theorem State.regRead_of_reach {s : State} {cand : BitVec 2} {k off : Nat} {r : Reg} (h : s.reach cand k off = some r) :
    s.regRead cand k off = (0, s.regValue r) := by
  unfold State.regRead
  rw [h]

theorem State.regRead_of_none {s : State} {cand : BitVec 2} {k off : Nat} (h : s.reach cand k off = none) :
    s.regRead cand k off = (2, 0) := by
  unfold State.regRead
  rw [h]

section
variable {s : State} {cand : BitVec 2} {k off : Nat} {r : Reg} {v : W64}

theorem State.regWrite_of_none (h : s.reach cand k off = none) : s.regWrite cand k off v = (2, s) := by
  unfold State.regWrite
  rw [h]

theorem State.regWrite_of_may (h : s.reach cand k off = some r) (hc : cand ≠ 3) (hmay : s.mayWrite cand r = true)
    (hrsvd : r.rsvdHit v = false) : s.regWrite cand k off v = (0, s.store cand r v) := by
  unfold State.regWrite
  rw [h]
  refine (if_neg hc).trans ((if_neg (by simp [hmay])).trans ?_)
  rw [if_neg (ne_true_of_eq_false hrsvd)]

theorem State.regWrite_of_denied (h : s.reach cand k off = some r) (hc : cand ≠ 3) (hmay : s.mayWrite cand r = false) :
    s.regWrite cand k off v = (1, s.denied) := by
  unfold State.regWrite
  rw [h]
  exact (if_neg hc).trans (if_pos (by simp [hmay]))
end

/-! ## The requests of the management port -/

section
variable {s : State} {msg : List Byte}

theorem State.mgmtRun_bad (h : mgmtBad msg = true) : s.mgmtRun msg = (3, 0, s) := if_pos h

theorem State.mgmtRun_read (h : mgmtBad msg = false) (hop : fld msg 5 1 = 1) :
    s.mgmtRun msg = ((s.regRead 1 (fld msg 8 1) (fld msg 16 8)).1, (s.regRead 1 (fld msg 8 1) (fld msg 16 8)).2, s) := by
  refine (if_neg (ne_true_of_eq_false h)).trans ?_
  rw [hop]
  rfl

theorem State.mgmtRun_write (h : mgmtBad msg = false) (hop : fld msg 5 1 = 2) :
    s.mgmtRun msg = ((s.regWrite 1 (fld msg 8 1) (fld msg 16 8) (BitVec.ofNat 64 (fld msg 24 8))).1, 0,
      (s.regWrite 1 (fld msg 8 1) (fld msg 16 8) (BitVec.ofNat 64 (fld msg 24 8))).2) := by
  refine (if_neg (ne_true_of_eq_false h)).trans ?_
  rw [hop]
  rfl

theorem State.mgmtRun_block (h : mgmtBad msg = false) (hop : fld msg 5 1 = 3) :
    s.mgmtRun msg = ((s.blockWrite (fld msg 8 1) (fld msg 16 8) (fld msg 24 8 / 8) (msg.drop 32)).1, 0,
      (s.blockWrite (fld msg 8 1) (fld msg 16 8) (fld msg 24 8 / 8) (msg.drop 32)).2) := by
  refine (if_neg (ne_true_of_eq_false h)).trans ?_
  rw [hop]
  rfl

theorem State.mgmtRun_firmware (h : mgmtBad msg = false) (hop : fld msg 5 1 = 4 ∨ fld msg 5 1 = 5) (hk : fld msg 8 1 ≤ 2)
    (hroom : fld msg 5 1 = 4 → fld msg 16 8 + fld msg 24 8 ≤ 2 ^ 26) : s.mgmtRun msg =
      if !s.owns 1 then (1, 0, s.denied)
      else if fld msg 5 1 = 4 then (0, 0, s.stage (fld msg 8 1) (fld msg 16 8) (msg.drop 32))
      else ((s.commitImage (fld msg 8 1)).1, 0, (s.commitImage (fld msg 8 1)).2) := by
  refine (if_neg (ne_true_of_eq_false h)).trans ?_
  have hfits : ¬(2 < fld msg 8 1 ∨ (fld msg 5 1 = 4 ∧ 2 ^ 26 < fld msg 16 8 + fld msg 24 8)) := by
    rintro (hbig | ⟨h4, hbig⟩)
    · omega
    · exact absurd (hroom h4) (Nat.not_le.2 hbig)
  rcases hop with hop | hop
  · rw [hop] at hfits ⊢
    exact if_neg hfits
  · rw [hop] at hfits ⊢
    exact if_neg hfits
end

/-- A staged byte reads back, and every other byte of the buffer stays. -/
theorem Tbl.get_foldl_set_offset (off : Nat) (bs : List Byte) (n : Nat) (t : Tbl Byte) (i : Nat) :
    ((List.range n).foldl (fun (t : Tbl Byte) i => t.set (off + i) (bs.getD i 0)) t).get 0 i =
      if off ≤ i ∧ i < off + n then bs.getD (i - off) 0 else t.get 0 i := by
  have hshift : (List.range n).foldl (fun (t : Tbl Byte) i => t.set (off + i) (bs.getD i 0)) t =
      ((List.range n).map (off + ·)).foldl (fun (t : Tbl Byte) l => t.set l (bs.getD (l - off) 0)) t := by
    rw [List.foldl_map]
    simp only [Nat.add_sub_cancel_left]
  rw [hshift, Tbl.get_foldl_set]
  refine if_congr ?_ rfl rfl
  simp only [List.mem_map, List.mem_range]
  constructor
  · rintro ⟨j, hj, rfl⟩
    omega
  · rintro ⟨hlo, hhi⟩
    exact ⟨i - off, by omega, by omega⟩

theorem State.get_stage {s : State} {k : Nat} (hk : k < s.host.fw.staging.length) (off : Nat) (bs : List Byte) (i : Nat) :
    ((s.stage k off bs).host.fw.staging.getD k []).get 0 i =
      if off ≤ i ∧ i < off + bs.length then bs.getD (i - off) 0 else (s.host.fw.staging.getD k []).get 0 i := by
  have hbuf : (s.stage k off bs).host.fw.staging.getD k [] =
      (List.range bs.length).foldl (fun (t : Tbl Byte) i => t.set (off + i) (bs.getD i 0)) (s.host.fw.staging.getD k []) := by
    show (List.modify s.host.fw.staging k _).getD k [] = _
    rw [List.getD_eq_getElem?_getD, List.getElem?_modify_eq, List.getD_eq_getElem?_getD, List.getElem?_eq_getElem hk]
    rfl
  rw [hbuf, Tbl.get_foldl_set_offset]

/-- The state that a request of the management port ends in: its reply is on the way. -/
def State.answered (s : State) (req : MgmtMsg) (status : Nat) (val : W64) : State :=
  { s with host := { s.host with mgmtOut := s.host.mgmtOut ++ [
    { addr := req.addr, port := req.port, bytes := leBytes 4 0x524D4B56 ++ [1, req.bytes.getD 5 0] ++ leBytes 2 (fld req.bytes 6 2) ++
        [BitVec.ofNat 8 status] ++ List.replicate 7 0 ++ leBytes 8 val.toNat }] } }

theorem State.mgmt_answered {s u : State} {req : MgmtMsg} {status : Nat} {val : W64} (h : s.mgmtRun req.bytes = (status, val, u)) :
    s.mgmt req = .next (u.answered req status val) := by
  unfold State.mgmt
  rw [h]
  rfl

section
variable {s : State} {req : MgmtMsg}

theorem State.mgmt_read (h : mgmtBad req.bytes = false) (hop : fld req.bytes 5 1 = 1) :
    (∀ r, s.reach 1 (fld req.bytes 8 1) (fld req.bytes 16 8) = some r → s.mgmt req = .next (s.answered req 0 (s.regValue r))) ∧
      (s.reach 1 (fld req.bytes 8 1) (fld req.bytes 16 8) = none → s.mgmt req = .next (s.answered req 2 0)) := by
  constructor
  · intro r hr
    exact State.mgmt_answered (by rw [State.mgmtRun_read h hop, State.regRead_of_reach hr])
  · intro hr
    exact State.mgmt_answered (by rw [State.mgmtRun_read h hop, State.regRead_of_none hr])

theorem State.mgmt_write (h : mgmtBad req.bytes = false) (hop : fld req.bytes 5 1 = 2) :
    (∀ r, s.reach 1 (fld req.bytes 8 1) (fld req.bytes 16 8) = some r →
      (s.mayWrite 1 r = true → ∀ v, v = BitVec.ofNat 64 (fld req.bytes 24 8) → r.rsvdHit v = false →
        s.mgmt req = .next ((s.store 1 r v).answered req 0 0)) ∧
      (s.mayWrite 1 r = false → s.mgmt req = .next (s.denied.answered req 1 0))) ∧
    (s.reach 1 (fld req.bytes 8 1) (fld req.bytes 16 8) = none → s.mgmt req = .next (s.answered req 2 0)) := by
  refine ⟨fun r hr => ⟨?_, ?_⟩, fun hr => ?_⟩
  · rintro hmay _ rfl hrsvd
    exact State.mgmt_answered (by rw [State.mgmtRun_write h hop, State.regWrite_of_may hr (by decide) hmay hrsvd])
  · intro hmay
    exact State.mgmt_answered (by rw [State.mgmtRun_write h hop, State.regWrite_of_denied hr (by decide) hmay])
  · exact State.mgmt_answered (by rw [State.mgmtRun_write h hop, State.regWrite_of_none hr])

theorem State.mgmt_stage (h : mgmtBad req.bytes = false) (hop : fld req.bytes 5 1 = 4) (hk : fld req.bytes 8 1 ≤ 2)
    (hroom : fld req.bytes 16 8 + fld req.bytes 24 8 ≤ 2 ^ 26) (howns : s.owns 1 = true) (hlen : s.host.fw.staging.length = 3) :
    ∃ u : State, s.mgmt req = .next (u.answered req 0 0) ∧ u.mem = s.mem ∧
      ∀ i, (u.host.fw.staging.getD (fld req.bytes 8 1) []).get 0 i =
        if fld req.bytes 16 8 ≤ i ∧ i < fld req.bytes 16 8 + (req.bytes.length - 32) then req.bytes.getD (32 + (i - fld req.bytes 16 8)) 0
        else (s.host.fw.staging.getD (fld req.bytes 8 1) []).get 0 i := by
  refine ⟨s.stage (fld req.bytes 8 1) (fld req.bytes 16 8) (req.bytes.drop 32), ?_, rfl, fun i => ?_⟩
  · refine State.mgmt_answered ?_
    rw [State.mgmtRun_firmware h (.inl hop) hk fun _ => hroom, if_neg (by rw [howns]; decide), if_pos hop]
  · rw [State.get_stage (by omega)]
    simp [List.getD_eq_getElem?_getD, List.getElem?_drop]

theorem State.mgmt_commit (h : mgmtBad req.bytes = false) (hop : fld req.bytes 5 1 = 5) (hk : fld req.bytes 8 1 ≤ 2)
    (howns : s.owns 1 = true) :
    s.mgmt req = .next ((s.commitImage (fld req.bytes 8 1)).2.answered req (s.commitImage (fld req.bytes 8 1)).1 0) := by
  refine State.mgmt_answered ?_
  rw [State.mgmtRun_firmware h (.inr hop) hk (by omega), if_neg (by rw [howns]; decide), if_neg (by omega)]

theorem State.commitImage_cases (s : State) (k : Nat) :
    (s.host.fw.flashBusy = true → s.commitImage k = (4, s)) ∧
    (s.host.fw.flashBusy = false → s.host.fuses.imageOk k (s.stagedImage k) = false → s.commitImage k = (5, s)) ∧
    (s.host.fw.flashBusy = false → s.host.fuses.imageOk k (s.stagedImage k) = true →
      s.commitImage k = (0, s.updFw fun w => { w with flashBusy := true, writing := some (k, s.stagedImage k) })) := by
  refine ⟨fun hbusy => if_pos hbusy, fun hbusy hok => ?_, fun hbusy hok => ?_⟩
  · exact (if_neg (ne_true_of_eq_false hbusy)).trans (if_pos (by simp [hok]))
  · exact (if_neg (ne_true_of_eq_false hbusy)).trans (if_neg (by simp [hok]))

theorem State.mgmt_denied (h : mgmtBad req.bytes = false) (hop : fld req.bytes 5 1 = 4 ∨ fld req.bytes 5 1 = 5) (hk : fld req.bytes 8 1 ≤ 2)
    (hroom : fld req.bytes 5 1 = 4 → fld req.bytes 16 8 + fld req.bytes 24 8 ≤ 2 ^ 26) (howns : s.owns 1 = false) :
    s.mgmt req = .next (s.denied.answered req 1 0) := by
  refine State.mgmt_answered ?_
  rw [State.mgmtRun_firmware h hop hk hroom, if_pos (by rw [howns]; rfl)]
end

/-- Every request of the table is done by the same port. -/
theorem exec_mgmt {mk : MgmtMsg → Instr} (h : mk = .mgmtRegisterRead ∨ mk = .mgmtRegisterWrite ∨ mk = .mgmtBlockWrite ∨
    mk = .firmwareStage ∨ mk = .firmwareCommit) (req : MgmtMsg) (s : State) : exec (mk req) s = s.mgmt req := by
  rcases h with rfl | rfl | rfl | rfl | rfl <;> rfl

/-! ## Event records -/

theorem pad_of_length {n : Nat} {r : List Byte} (h : r.length = n) : pad n r = r := by
  unfold pad
  rw [← h, List.take_left]

theorem exec_event (hdr : PktHdr) {r : List Byte} (h : r.length = 64) (s : State) : exec (.event hdr r) s = .next (s.postRecord r) := by
  show Host.Outcome.next (s.postRecord (pad 64 r)) = _
  rw [pad_of_length h]

theorem State.postRecord_ring {s : State} {r : List Byte} (hfatal : (r.getD 6 0).getLsbD 0 = false) : s.postRecord r =
    if s.host.evq.tail - s.host.evq.head == 256 then s.evLost (r.getD 4 0).toNat
    else (s.hostWrite (s.host.evq.base.toNat + 64 * (s.host.evq.tail.toNat % 256)) r).updEvq fun e => { e with tail := e.tail + 1 } :=
  if_neg (ne_true_of_eq_false hfatal)

theorem State.evLost_spec (s : State) (sock : Nat) : ((s.evLost sock).sockEv sock).lost = satInc (s.sockEv sock).lost ∧
    (s.evLost sock).host.evq.overflow = true ∧ (s.evLost sock).mem = s.mem ∧ (s.evLost sock).host.evq.tail = s.host.evq.tail :=
  ⟨congrArg SockEv.lost (Tbl.get_set_self ..), rfl, rfl, rfl⟩

/-- Settles O43: the run of a request by its operation byte, the two packets of the agent, and the ring and the fatal slots. -/
theorem managementAndPodPorts : Obligations.ManagementAndPodPorts := by
  unfold Obligations.ManagementAndPodPorts
  refine ⟨?mgmtW, fun _ _ _ _ _ => ⟨rfl, rfl⟩, ?flashW, ?podW, ?ringW, ?fatalW, fun s sock => s.evLost_spec sock⟩
  case mgmtW =>
    intro mk req s hmk
    have hexec := exec_mgmt hmk req s
    refine ⟨fun hbad => hexec.trans (State.mgmt_answered (State.mgmtRun_bad hbad)), fun h => ⟨fun hop => ?_, fun hop => ?_, fun hop => ?_, ?_, ?_, ?_⟩⟩
    · obtain ⟨hsome, hnone⟩ := State.mgmt_read (s := s) h hop
      exact ⟨fun r hr => hexec.trans (hsome r hr), fun hr => hexec.trans (hnone hr)⟩
    · obtain ⟨hsome, hnone⟩ := State.mgmt_write (s := s) h hop
      refine ⟨fun r hr => ?_, fun hr => hexec.trans (hnone hr)⟩
      obtain ⟨hmay, hno⟩ := hsome r hr
      exact ⟨fun hw v hv hrsvd => hexec.trans (hmay hw v hv hrsvd), fun hw => hexec.trans (hno hw)⟩
    · exact hexec.trans (State.mgmt_answered (State.mgmtRun_block h hop))
    · intro hop hk hroom howns hlen
      obtain ⟨u, hu, hrest⟩ := State.mgmt_stage h hop hk hroom howns hlen
      exact ⟨u, hexec.trans hu, hrest⟩
    · intro hop hk howns
      have hcommit := hexec.trans (State.mgmt_commit h hop hk howns)
      obtain ⟨hbusy, hbad, hok⟩ := s.commitImage_cases (fld req.bytes 8 1)
      refine ⟨fun h1 => ?_, fun h1 h2 => ?_, fun h1 h2 => ?_⟩
      · rw [hbusy h1] at hcommit
        exact hcommit
      · rw [hbad h1 h2] at hcommit
        exact hcommit
      · rw [hok h1 h2] at hcommit
        exact hcommit
    · exact fun hop hk hroom howns => hexec.trans (State.mgmt_denied h hop hk hroom howns)
  case flashW =>
    intro s k img hw
    show execFlashWriteDone s = _
    unfold execFlashWriteDone
    rw [hw]
    rfl
  case podW =>
    intro h off val st s answer k
    have hread : exec (.crread h off) s = answer s (BitVec.ofNat 8 (s.regRead 2 k off.toNat).1) (s.regRead 2 k off.toNat).2 := rfl
    have hwrite (u : Nat × State) (hu : (if h.srcPkg = s.disp.podldr then s.regWrite 2 k off.toNat val else (1, s.denied)) = u) :
        exec (.crwrite h off val) s = answer u.2 (BitVec.ofNat 8 u.1) 0 := by
      rw [← hu]
      rfl
    refine ⟨fun r hr => ?_, fun hr => ?_, fun hsrc r hr hrsvd => ⟨fun hmay => ?_, fun hmay => ?_⟩, fun hsrc => ?_, rfl, rfl, rfl, rfl, rfl, rfl, rfl⟩
    · rw [hread, State.regRead_of_reach hr]
      rfl
    · rw [hread, State.regRead_of_none hr]
      rfl
    · exact hwrite _ ((if_pos hsrc).trans (State.regWrite_of_may hr (by decide) hmay hrsvd))
    · exact hwrite _ ((if_pos hsrc).trans (State.regWrite_of_denied hr (by decide) hmay))
    · exact hwrite _ (if_neg hsrc)
  case ringW =>
    intro h r s hlen e sock lost hfatal
    refine ⟨fun hfull => ?_, fun hroom => ?_⟩ <;> rw [exec_event h hlen, State.postRecord_ring hfatal]
    · exact congrArg Host.Outcome.next (if_pos (beq_iff_eq.2 hfull))
    · exact congrArg Host.Outcome.next (if_neg (mt beq_iff_eq.1 hroom))
  case fatalW =>
    intro h r s hlen hfatal sock slot
    refine ⟨fun htaken => ?_, fun hempty => ?_⟩ <;> rw [exec_event h hlen]
    · exact congrArg Host.Outcome.next ((if_pos hfatal).trans (if_pos htaken))
    · exact congrArg Host.Outcome.next ((if_pos hfatal).trans (if_neg (ne_true_of_eq_false hempty)))

end Sys2Proof.Machine
end

section
/-!
A claim that is refused may still close a claim window that is due.
-/
namespace Sys2Proof.Machine

/-- Two seconds after its claim window opened, with empty mailboxes: no record is valid, and the close of the window is due. -/
def dueWindow : State :=
  { State.reset with time := 2000000000, host := { HostSt.reset with own := { HostSt.reset.own with windowOpen := true } } }

theorem dueWindow_record : dueWindow.recordValid 1 (dueWindow.mailboxBytes 1) = false := by decide +kernel

/-- Whether the claim window stands open after a step. -/
def windowOpenAfter : Host.Outcome State Fault Refusal → Bool
  | .next t => t.host.own.windowOpen
  | _ => false

theorem dueWindow_claim : windowOpenAfter (exec (.claim 1) dueWindow) = false := by decide +kernel

/-- Refutes O44: a refused claim changes more than the count of denials. `CLAIM` of candidate 1 with an empty mailbox, two seconds after
the window opened, closes the window before it is refused. -/
theorem not_startAndOwnership : ¬ Obligations.StartAndOwnership := by
  unfold Obligations.StartAndOwnership
  rintro ⟨-, -, -, hclaims, -⟩
  obtain ⟨hinvalid, -⟩ := hclaims dueWindow 1 (by decide) fun _ => rfl
  have hdenied : exec (.claim 1) dueWindow = .next dueWindow.denied := hinvalid (.claim 1) (.inl rfl) dueWindow_record
  have hopen : windowOpenAfter (exec (.claim 1) dueWindow) = true := by
    rw [hdenied]
    rfl
  rw [dueWindow_claim] at hopen
  exact Bool.false_ne_true hopen

end Sys2Proof.Machine
end

section
/-!
Operating points, ceilings and the loss of health.
-/
namespace Sys2Proof.Machine

theorem State.dieOf_updDie (s : State) (d : Nat) (f : Die → Die) : (s.updDie d f).dieOf d = f (s.dieOf d) := State.dieOf_setDie ..

theorem State.dieOf_updDie_ne (s : State) {d k : Nat} (f : Die → Die) (h : k ≠ d) : (s.updDie d f).dieOf k = s.dieOf k :=
  State.dieOf_setDie_ne _ _ h

theorem Pwr.retarget_limits (p : Pwr) (hint : Nat) : (p.retarget hint).ceilPkg = p.ceilPkg ∧ (p.retarget hint).ceilTherm = p.ceilTherm ∧
    (p.retarget hint).temp = p.temp := by
  unfold Pwr.retarget Pwr.begin_
  dsimp only
  split <;> exact ⟨rfl, rfl, rfl⟩

/-- A change that ends, with the target where it went or moved meanwhile. -/
theorem Pwr.changeDone_spec (p : Pwr) : (p.trans = false → p.changeDone = p) ∧
    (p.trans = true → p.changeDone.target = p.target ∧
      (p.target = p.going → p.changeDone.cur = p.going ∧ p.changeDone.trans = false) ∧
      (p.target ≠ p.going → p.changeDone.trans = true ∧ p.changeDone.going = p.target ∧
        p.changeDone.cur = if p.target.toNat < p.going.toNat then p.target else p.going)) := by
  constructor
  · exact fun hidle => if_neg (ne_true_of_eq_false hidle)
  · intro htrans
    have hdone : p.changeDone = Pwr.begin_ { p with cur := p.going, trans := false } := if_pos htrans
    rw [hdone]
    unfold Pwr.begin_
    by_cases hsame : p.going = p.target
    · rw [if_pos (.inr hsame)]
      exact ⟨rfl, fun _ => ⟨rfl, rfl⟩, fun hne => absurd hsame.symm hne⟩
    · rw [if_neg (by rintro (h | h); exacts [Bool.false_ne_true h, hsame h])]
      exact ⟨rfl, fun heq => absurd heq.symm hsame, fun _ => ⟨rfl, rfl, rfl⟩⟩

/-- The package ceiling one index up or down. -/
def ceilMoved (up : Bool) (c : BitVec 3) : BitVec 3 := if up then (if c = 7 then 7 else c + 1) else (if c = 0 then 0 else c - 1)

theorem ceilMoved_up (c : BitVec 3) : (ceilMoved true c).toNat = min 7 (c.toNat + 1) := by revert c; decide
theorem ceilMoved_down (c : BitVec 3) : (ceilMoved false c).toNat = c.toNat - 1 := by revert c; decide

/-- One die's share of a move of the package ceiling. -/
def State.moveCeil (up : Bool) (s : State) (d : Nat) : State :=
  (s.updDie d fun x => { x with pwr := { x.pwr with ceilPkg := ceilMoved up x.pwr.ceilPkg } }).retarget d

theorem State.stepCeil_eq (s : State) (up : Bool) : s.stepCeil up = (List.range 8).foldl (State.moveCeil up) s := rfl

theorem State.ceilPkg_moveCeil (up : Bool) (s : State) (d k : Nat) : ((s.moveCeil up d).dieOf k).pwr.ceilPkg =
    if k = d then ceilMoved up (s.dieOf k).pwr.ceilPkg else (s.dieOf k).pwr.ceilPkg := by
  unfold State.moveCeil State.retarget
  by_cases hk : k = d
  · rw [if_pos hk, hk, State.dieOf_updDie]
    exact (Pwr.retarget_limits _ _).1.trans (congrArg (fun x : Die => x.pwr.ceilPkg) (State.dieOf_updDie ..))
  · rw [if_neg hk, State.dieOf_updDie_ne _ _ hk, State.dieOf_updDie_ne _ _ hk]

theorem State.ceilPkg_foldl_moveCeil (up : Bool) {ds : List Nat} (hds : ds.Nodup) (s : State) (k : Nat) :
    ((ds.foldl (State.moveCeil up) s).dieOf k).pwr.ceilPkg =
      if k ∈ ds then ceilMoved up (s.dieOf k).pwr.ceilPkg else (s.dieOf k).pwr.ceilPkg := by
  induction ds generalizing s with
  | nil => simp
  | cons d ds ih =>
    obtain ⟨hd, hds⟩ := List.nodup_cons.1 hds
    rw [List.foldl_cons, ih hds, State.ceilPkg_moveCeil]
    by_cases hk : k = d
    · subst hk
      simp [hd]
    · simp [hk]

theorem State.ceilPkg_stepCeil (s : State) (up : Bool) {d : Nat} (hd : d < 8) :
    ((s.stepCeil up).dieOf d).pwr.ceilPkg = ceilMoved up (s.dieOf d).pwr.ceilPkg := by
  rw [State.stepCeil_eq, State.ceilPkg_foldl_moveCeil up List.nodup_range, if_pos (List.mem_range.2 hd)]

theorem State.stepCeil_stays (s : State) (up : Bool) : (s.stepCeil up).mem = s.mem ∧ (s.stepCeil up).host = s.host := by
  rw [State.stepCeil_eq]
  exact foldl_keeps (P := fun t : State => t.mem = s.mem ∧ t.host = s.host) ⟨rfl, rfl⟩ fun _ _ h => h

theorem Pwr.sample_spec (p : Pwr) (temp : Byte) : (p.sample temp.toNat).temp = temp ∧ (p.sample temp.toNat).ceilTherm.toNat =
    if 100 ≤ temp.toNat then p.ceilTherm.toNat - 1 else if temp.toNat ≤ 90 then min 7 (p.ceilTherm.toNat + 1) else p.ceilTherm.toNat := by
  have hceil : (p.sample temp.toNat).ceilTherm = if 100 ≤ temp.toNat then ceilMoved false p.ceilTherm
    else if temp.toNat ≤ 90 then ceilMoved true p.ceilTherm else p.ceilTherm := rfl
  refine ⟨(BitVec.ofNat_toNat ..).trans (BitVec.setWidth_eq _), ?_⟩
  rw [hceil]
  split
  · exact ceilMoved_down _
  · split
    · exact ceilMoved_up _
    · rfl

/-- A die's state once its sample has been taken. -/
def State.sampled (s : State) (d : Nat) (temp : Byte) : State := (s.updDie d fun x => { x with pwr := x.pwr.sample temp.toNat }).retarget d

theorem State.pwr_sampled (s : State) (d : Nat) (temp : Byte) : ((s.sampled d temp).dieOf d).pwr.temp = temp ∧
    ((s.sampled d temp).dieOf d).pwr.ceilTherm.toNat = (let p := (s.dieOf d).pwr
      if 100 ≤ temp.toNat then p.ceilTherm.toNat - 1 else if temp.toNat ≤ 90 then min 7 (p.ceilTherm.toNat + 1) else p.ceilTherm.toNat) := by
  obtain ⟨htemp, hceil⟩ := (s.dieOf d).pwr.sample_spec temp
  have hpwr : ∃ hint, ((s.sampled d temp).dieOf d).pwr = ((s.dieOf d).pwr.sample temp.toNat).retarget hint := by
    unfold State.sampled State.retarget
    let s1 := s.updDie d fun x => { x with pwr := x.pwr.sample temp.toNat }
    have hs1 : (s1.dieOf d).pwr = (s.dieOf d).pwr.sample temp.toNat := congrArg Die.pwr (State.dieOf_updDie ..)
    refine ⟨s1.hintOf d, ?_⟩
    rw [← hs1]
    exact congrArg Die.pwr (State.dieOf_updDie s1 d _)
  obtain ⟨hint, hpwr⟩ := hpwr
  obtain ⟨-, htherm, hdeg⟩ := ((s.dieOf d).pwr.sample temp.toNat).retarget_limits hint
  rw [hpwr, hdeg, htherm]
  exact ⟨htemp, hceil⟩

/-- Settles O45: the change of point that ends, the window of the power average, the sample of a die and the failed passenger. -/
theorem powerAndHealth : Obligations.PowerAndHealth := by
  unfold Obligations.PowerAndHealth
  refine ⟨fun s => ?opPoint, fun s avg => ?window, fun s die temp hpresent => ?sample, fun s sock cause detail hpresent => ?fatalW⟩
  case opPoint =>
    refine ⟨_, rfl, rfl, rfl, fun d hd => State.dieOf_updDie_ne _ _ hd, ?_⟩
    rw [State.dieOf_updDie]
    exact Pwr.changeDone_spec _
  case window =>
    let low (n : Nat) : State := { s with host := { s.host with pwr := { s.host.pwr with lowWindows := n } } }
    by_cases hover : s.host.pwr.capW.toNat < avg
    · obtain ⟨hmem, hhost⟩ := (low 0).stepCeil_stays false
      refine ⟨(low 0).stepCeil false, if_pos hover, hmem, ?_, ?_, ?_, ?_⟩
      · exact fun _ => ⟨fun d hd => (congrArg BitVec.toNat (State.ceilPkg_stepCeil (low 0) false hd)).trans (ceilMoved_down _),
          congrArg (fun h : HostSt => h.pwr.lowWindows) hhost⟩
      all_goals exact fun hno => absurd hover hno
    · by_cases hlow : avg * 100 < s.host.pwr.capW.toNat * 95
      · by_cases h7 : s.host.pwr.lowWindows = 7
        · obtain ⟨hmem, hhost⟩ := (low 0).stepCeil_stays true
          refine ⟨(low 0).stepCeil true, (if_neg hover).trans ((if_pos hlow).trans (if_pos h7)), hmem, fun h => absurd h hover, fun _ _ _ => ?_,
            fun _ _ hne => absurd h7 hne, fun _ hno => absurd hlow hno⟩
          exact ⟨fun d hd => (congrArg BitVec.toNat (State.ceilPkg_stepCeil (low 0) true hd)).trans (ceilMoved_up _),
            congrArg (fun h : HostSt => h.pwr.lowWindows) hhost⟩
        · exact ⟨low (s.host.pwr.lowWindows + 1), (if_neg hover).trans ((if_pos hlow).trans (if_neg h7)), rfl, fun h => absurd h hover,
            fun _ _ heq => absurd heq h7, fun _ _ _ => ⟨fun _ _ => rfl, rfl⟩, fun _ hno => absurd hlow hno⟩
      · exact ⟨low 0, (if_neg hover).trans (if_neg hlow), rfl, fun h => absurd h hover, fun _ h => absurd h hlow, fun _ h => absurd h hlow,
          fun _ _ => ⟨fun _ _ => rfl, rfl⟩⟩
  case sample =>
    have hrun : exec (.thermalSample die temp) s = if 110 ≤ temp.toNat then
        .next (((s.sampled die.toNat temp).hwEvent die.toNat 0 true).passengerFails die.toNat) else .next (s.sampled die.toNat temp) :=
      if_neg (by rw [hpresent]; decide)
    obtain ⟨htemp, hceil⟩ := s.pwr_sampled die.toNat temp
    refine ⟨s.sampled die.toNat temp, rfl, rfl, htemp, hceil, fun hlt => ?_, fun hge => ?_⟩
    · rw [hrun, if_neg (Nat.not_le.2 hlt)]
    · rw [hrun, if_pos hge]
  case fatalW => exact if_neg (by rw [hpresent]; decide)

end Sys2Proof.Machine
end

section
/-!
Modules and pod ports: the receiver, the time-outs of the transmitter, the ends of a retrain, and the packets of the pod.
-/
namespace Sys2Proof.Machine

/-! ## What the receiver has of its direction -/

/-- The receiver's state, the number it expects, its buffers and its freed counts: what no movement of the transmitter changes. -/
def Link.received (l : Link) : RxSt × W16 × List (List Packet) × List Byte := (l.rx.st, l.rx.exp, l.rx.bufs, l.rx.freed)

theorem Link.received_txStep {l m : Link} {now : Nat} (h : l.txStep now = some m) : m.received = l.received := by
  unfold Link.txStep at h
  dsimp only at h
  split at h
  · obtain ⟨vc, -, rfl⟩ := Option.map_eq_some_iff.1 h
    rfl
  · split at h
    · split at h
      · injection h with h
        exact h ▸ rfl
      · exact absurd h (by simp)
    · split at h
      · exact absurd h (by simp)
      · split at h
        all_goals
          injection h with h
          exact h ▸ rfl

theorem Link.received_pumpN (now n : Nat) (l : Link) : (Link.pumpN now n l).received = l.received := by
  induction n generalizing l with
  | zero => rfl
  | succ n ih =>
    unfold Link.pumpN
    split
    · next m hm => exact (ih m).trans (Link.received_txStep hm)
    · rfl

theorem Link.received_pump (l : Link) (now : Nat) : (l.pump now).received = l.received := Link.received_pumpN ..

theorem Link.received_heed (l : Link) (h : FlitHdr) (now : Nat) : (l.heed h now).received = l.received := by
  unfold Link.heed
  dsimp only
  split
  · exact Link.received_pump ..
  · split
    · exact Link.received_pump ..
    · split <;> exact Link.received_pump ..

theorem Link.received_reportE (l : Link) (now : Nat) : (l.reportE now).received = l.received := by
  unfold Link.reportE
  split <;> rfl

theorem Link.received_accept_expected (l : Link) {h : FlitHdr} (ps : List Packet) (now : Nat) (hseq : h.seq = l.rx.exp) :
    (l.accept h ps now).received = (.accept, l.rx.exp + 1, l.rx.bufs.modify h.vc fun q => q ++ ps, l.rx.freed) := by
  unfold Link.accept
  dsimp only
  rw [if_pos hseq]
  split
  · exact Link.received_reportE ..
  · rfl

theorem Link.received_accept_other (l : Link) {h : FlitHdr} (ps : List Packet) (now : Nat) (hseq : h.seq ≠ l.rx.exp) :
    (l.accept h ps now).received =
      (if l.rx.st = .discard ∨ (l.rx.exp - h.seq).toNat ≤ 128 then l.rx.st else .discard, l.rx.exp, l.rx.bufs, l.rx.freed) := by
  have hpos : 1 ≤ (l.rx.exp - h.seq).toNat := by
    apply Nat.one_le_iff_ne_zero.2
    intro hzero
    have hdiff : l.rx.exp - h.seq = 0 := BitVec.eq_of_toNat_eq hzero
    exact hseq (by bv_omega)
  unfold Link.accept
  dsimp only
  rw [if_neg hseq]
  by_cases hdiscard : l.rx.st = .discard
  · rw [if_pos hdiscard, if_pos (.inl hdiscard)]
    rfl
  · rw [if_neg hdiscard]
    by_cases hbehind : (l.rx.exp - h.seq).toNat ≤ 128
    · rw [if_pos ⟨hpos, hbehind⟩, if_pos (.inr hbehind)]
      exact Link.received_reportE ..
    · rw [if_neg fun hb => hbehind hb.2, if_neg (by tauto)]
      rfl

theorem RxSt.open_of {st : RxSt} (h : st = .accept ∨ st = .discard) : ¬(st = .hold ∨ st = .down) := by
  rcases h with rfl | rfl <;> decide

theorem Link.receive_data {l : Link} {flit : List Byte} {h : FlitHdr} {ps : List Packet} (asCtl : Bool) (now : Nat)
    (hread : readFlit flit = .good h ps) (hst : l.rx.st = .accept ∨ l.rx.st = .discard) (hctrl : h.ctrl = false) :
    l.receive flit asCtl now = (l.heed h now).accept h ps now := by
  refine (if_neg (RxSt.open_of hst)).trans ?_
  dsimp only
  rw [hread]
  exact if_neg (ne_true_of_eq_false hctrl)

theorem Link.receive_control {l : Link} {flit : List Byte} {h : FlitHdr} {ps : List Packet} (asCtl : Bool) (now : Nat)
    (hread : readFlit flit = .good h ps) (hst : l.rx.st = .accept ∨ l.rx.st = .discard) (hctrl : h.ctrl = true) :
    l.receive flit asCtl now = l.heed h now := by
  refine (if_neg (RxSt.open_of hst)).trans ?_
  dsimp only
  rw [hread]
  exact if_pos hctrl

/-- A flit that cannot be read, for the protocol's sake or for its CRC's. -/
def Link.receiveBad (l : Link) (asCtl : Bool) (now : Nat) (protocol : Bool) : Link :=
  let r := l.failure now protocol
  if r.2 then r.1.retrain false
  else if asCtl || l.rx.st == .discard then r.1
  else { r.1 with rx := { r.1.rx with st := .discard } }.nak now

theorem Link.receive_bad {l : Link} {flit : List Byte} (asCtl : Bool) (now : Nat) (hread : readFlit flit = .crcBad ∨ readFlit flit = .wrong)
    (hst : l.rx.st = .accept ∨ l.rx.st = .discard) : ∃ protocol, l.receive flit asCtl now = l.receiveBad asCtl now protocol := by
  rcases hread with hread | hread
  · refine ⟨false, (if_neg (RxSt.open_of hst)).trans ?_⟩
    dsimp only
    rw [hread]
    rfl
  · refine ⟨true, (if_neg (RxSt.open_of hst)).trans ?_⟩
    dsimp only
    rw [hread]
    rfl

theorem Link.receiveBad_spec (l : Link) (asCtl : Bool) (now : Nat) (protocol : Bool) :
    (l.receiveBad asCtl now protocol).rx.bufs = l.rx.bufs ∧ (l.receiveBad asCtl now protocol).rx.exp = l.rx.exp ∧
      (l.receiveBad asCtl now protocol).regs.crcErr = satInc l.regs.crcErr := by
  unfold Link.receiveBad
  dsimp only
  split
  · exact ⟨rfl, rfl, rfl⟩
  · split <;> exact ⟨rfl, rfl, rfl⟩

/-! ## Updates of one link -/

theorem State.updLink_congr (s : State) (lk : LinkId) {f g : Link → Link} (h : f (s.linkOf lk) = g (s.linkOf lk)) :
    s.updLink lk f = s.updLink lk g := by
  unfold State.updLink
  rw [h]

theorem State.updLink_same (s : State) (lk : LinkId) {f : Link → Link} (h : f (s.linkOf lk) = s.linkOf lk) :
    (s.updLink lk f).linkOf lk = s.linkOf lk := (State.linkOf_updLink ..).trans h

theorem LinkTx.runs_iff (t : LinkTx) : t.runs = true ↔ t.st = .send ∨ t.st = .replay := by
  unfold LinkTx.runs
  cases t.st <;> decide

theorem Link.unload_of {l : Link} {vc : Nat} {p : Packet} {ps : List Packet} (h : l.rx.bufs[vc]? = some (p :: ps)) :
    ∃ m, l.unload vc = some (p, m) ∧ m.rx.bufs = l.rx.bufs.set vc ps ∧
      m.rx.freed = l.rx.freed.modify vc fun n => n + BitVec.ofNat 8 (Packet.slots p) := by
  have hbuf : l.rx.bufs.getD vc [] = p :: ps := by rw [List.getD_eq_getElem?_getD, h]; rfl
  unfold Link.unload
  rw [hbuf]
  exact ⟨_, rfl, rfl, rfl⟩

/-! ## Retrains -/

theorem halfPasses_iff (lk : LinkId) (fail : W64) (hi : Bool) : halfPasses lk fail hi = true ↔
    ∀ i, i < laneCount lk / 2 → fail.getLsbD (if hi then laneCount lk / 2 + i else i) = false := by
  simp [halfPasses, List.all_eq_true]

theorem exec_retrainDone {s : State} {lk : LinkId} (fail : W64) (hhold : (s.linkOf lk).rx.st = .hold) : exec (.retrainDone lk fail) s =
    match retrainWidth lk (s.linkOf lk).regs.retrainByCtl fail with
    | some w => .next (s.updLink lk fun l => l.trained w fail s.time)
    | none => .next (s.retrainFails lk fail) := by
  have hin : s.inHold lk = true := beq_iff_eq.2 hhold
  refine (if_neg (by rw [hin]; decide)).trans ?_
  rfl

theorem State.linkDown_module (s : State) {lk : LinkId} (fail : W64) (h : lk.port = false) : s.linkDown lk fail =
    let s1 := s.updLink lk fun l =>
      { l with regs := { l.regs with width := 2, laneMap := fail },
               tx := { l.tx with st := .down, buf := [], opened := none, pending := List.replicate 6 [], resend := 0 },
               rx := { l.rx with st := .down } }
    { s1 with net := (s.linkOf lk).tx.handOver ++ s1.net } := if_neg (ne_true_of_eq_false h)

/-! ## The pod -/

theorem exec_podArrival (port : Nat) (p : Packet) (s : State) : exec (.podPacketArrival port p) s = .next (s.podArrive port p) := rfl

theorem State.podArrive_here {s : State} {p : Packet} (port : Nat) (h : p.hdr.dstPkg.toNat = s.pkg) : s.podArrive port p =
    if Packet.onRing p then { s with ring := s.ring ++ [(s.ringJoin (portLink port).sock, p)] } else { s with net := s.net ++ [p] } :=
  if_pos h

theorem State.podArrive_on {s : State} {p : Packet} {port n : Nat} (h : p.hdr.dstPkg.toNat ≠ s.pkg)
    (hport : s.podPortFor (portLink port).sock p.hdr = some n) :
    s.podArrive port p = { s with host := { s.host with podOut := s.host.podOut ++ [(n, p)] } } := by
  have hto : s.toPod (portLink port).sock p = some { s with host := { s.host with podOut := s.host.podOut ++ [(n, p)] } } := by
    unfold State.toPod
    rw [hport]
    rfl
  refine (if_neg h).trans ?_
  rw [hto]

theorem State.podArrive_dropped {s : State} {p : Packet} {port : Nat} (h : p.hdr.dstPkg.toNat ≠ s.pkg)
    (hport : s.podPortFor (portLink port).sock p.hdr = none) : s.podArrive port p =
      ({ s with podrt := s.podrt.set (portLink port).sock { s.podOf (portLink port).sock with
        drop := satInc (s.podOf (portLink port).sock).drop } }).hwEvent (portLink port).sock 2 false := by
  have hto : s.toPod (portLink port).sock p = none := by
    unfold State.toPod
    rw [hport]
    rfl
  refine (if_neg h).trans ?_
  rw [hto]

/-- Settles O46: the receiver, the time-outs, the ends of a retrain and the packets of the pod. -/
theorem links : Obligations.Links := by
  unfold Obligations.Links
  refine ⟨?goodW, ?badW, ?closeW, ?ackW, ?ackIdleW, ?replayW, ?nakW, ?flitsW, ?retrainW, ?downW, ?podW⟩
  case goodW =>
    intro s lk flit h ps x hread hst
    refine ⟨fun hctrl => ?_, fun hctrl => ?_⟩
    · have hlink : (s.flitIn lk flit false).linkOf lk = ((s.linkOf lk).heed h s.time).accept h ps s.time :=
        (State.linkOf_updLink ..).trans (Link.receive_data false s.time hread hst hctrl)
      have hheed := (s.linkOf lk).received_heed h s.time
      obtain ⟨hst1, hexp1, hbufs1, hfreed1⟩ : (((s.linkOf lk).heed h s.time).rx.st = x.st ∧ ((s.linkOf lk).heed h s.time).rx.exp = x.exp ∧
          ((s.linkOf lk).heed h s.time).rx.bufs = x.bufs ∧ ((s.linkOf lk).heed h s.time).rx.freed = x.freed) := by
        simpa [Link.received] using hheed
      refine ⟨_, rfl, rfl, rfl, ?_⟩
      dsimp only
      rw [hlink]
      by_cases hseq : h.seq = x.exp
      · have hacc := Link.received_accept_expected ((s.linkOf lk).heed h s.time) ps s.time (hseq.trans hexp1.symm)
        rw [hexp1, hbufs1, hfreed1] at hacc
        simp only [Link.received, Prod.mk.injEq] at hacc
        obtain ⟨hst2, hexp2, hbufs2, hfreed2⟩ := hacc
        exact ⟨hfreed2, fun _ => ⟨hexp2, hst2, hbufs2⟩, fun hne => absurd hseq hne⟩
      · have hacc := Link.received_accept_other ((s.linkOf lk).heed h s.time) ps s.time (by rw [hexp1]; exact hseq)
        rw [hst1, hexp1, hbufs1, hfreed1] at hacc
        simp only [Link.received, Prod.mk.injEq] at hacc
        obtain ⟨hst2, hexp2, hbufs2, hfreed2⟩ := hacc
        exact ⟨hfreed2, fun heq => absurd heq hseq, fun _ => ⟨hexp2, hbufs2, hst2⟩⟩
    · exact congrArg Host.Outcome.next (s.updLink_congr lk (Link.receive_control true s.time hread hst hctrl))
  case badW =>
    intro s lk flit x hread hst i hi
    have hflit (asCtl : Bool) : ∃ t, Host.Outcome.next (s.flitIn lk flit asCtl) = (.next t : Out) ∧ t.mem = s.mem ∧ t.net = s.net ∧
        (t.linkOf lk).rx.bufs = x.bufs ∧ (t.linkOf lk).rx.exp = x.exp ∧ (t.linkOf lk).regs.crcErr = satInc (s.linkOf lk).regs.crcErr := by
      obtain ⟨protocol, hbad⟩ := Link.receive_bad asCtl s.time hread hst
      have hlink : (s.flitIn lk flit asCtl).linkOf lk = (s.linkOf lk).receiveBad asCtl s.time protocol :=
        (State.linkOf_updLink ..).trans hbad
      refine ⟨_, rfl, rfl, rfl, ?_⟩
      rw [hlink]
      exact Link.receiveBad_spec ..
    rcases hi with rfl | rfl
    · exact hflit false
    · exact hflit true
  case closeW =>
    intro s lk f hopen hclosed hslots hlast
    show execFlitCloseTimeout lk s = _
    unfold execFlitCloseTimeout
    dsimp only
    rw [hopen]
    exact if_pos (by simp [hclosed, hslots, hlast])
  case ackW =>
    intro s lk hdue hruns
    refine (if_pos hdue).trans (congrArg Host.Outcome.next (s.updLink_congr lk ?_))
    exact if_pos ((LinkTx.runs_iff _).2 hruns)
  case ackIdleW =>
    intro s lk hidle
    have hsame : (s.linkOf lk).reportE s.time = s.linkOf lk := by
      refine if_neg fun hruns => ?_
      have hruns := (LinkTx.runs_iff _).1 hruns
      rcases hidle with h | h <;> rw [h] at hruns <;> simp at hruns
    by_cases hdue : (s.linkOf lk).rx.reportedAt + 32 ≤ s.time
    · exact ⟨_, if_pos hdue, s.updLink_same lk hsame⟩
    · exact ⟨_, if_neg hdue, rfl⟩
  case replayW =>
    intro s lk f fs hbuf hst hdue
    show execReplayTimeout lk s = _
    unfold execReplayTimeout
    dsimp only
    rw [hbuf]
    refine (if_pos ⟨hst, hdue⟩).trans (congrArg Host.Outcome.next (s.updLink_congr lk ?_))
    simp [LinkTx.replay, hbuf]
  case nakW => exact fun s lk hst hdue => if_pos ⟨hst, hdue⟩
  case flitsW => exact fun l now => ⟨rfl, rfl, rfl, rfl, rfl, rfl, fun vc p ps => Link.unload_of⟩
  case retrainW =>
    intro s lk fail hhold n lo hi trained
    have hlo : halfPasses lk fail false = true ↔ lo := halfPasses_iff lk fail false
    have hhi : halfPasses lk fail true = true ↔ hi := halfPasses_iff lk fail true
    have hexec := exec_retrainDone fail hhold
    have hwidth (w : BitVec 2) (half : Bool) (hw : retrainWidth lk (s.linkOf lk).regs.retrainByCtl fail = some (w, half)) :
        exec (.retrainDone lk fail) s = .next (trained w half) := by
      rw [hexec, hw]
      rfl
    refine ⟨fun hctl hl hh => hwidth _ _ ?_, fun hl hno => hwidth _ _ ?_, fun hl hh => hwidth _ _ ?_, fun hl hh => ?_, ?_⟩
    · simp [retrainWidth, hctl, hlo.2 hl, hhi.2 hh]
    · rw [← hhi] at hno
      simp [retrainWidth, hlo.2 hl, hno]
    · rw [← hlo] at hl
      simp [retrainWidth, hl, hhi.2 hh]
    · rw [← hlo] at hl
      rw [← hhi] at hh
      have hnone : retrainWidth lk (s.linkOf lk).regs.retrainByCtl fail = none := by simp [retrainWidth, hl, hh]
      rw [hexec, hnone]
    · have hin : s.inHold lk = true := beq_iff_eq.2 hhold
      exact if_neg (by rw [hin]; decide)
  case downW =>
    intro s lk fail hmodule t l
    have ht := s.linkDown_module fail hmodule
    have hl : l = { s.linkOf lk with
        regs := { (s.linkOf lk).regs with width := 2, laneMap := fail },
        tx := { (s.linkOf lk).tx with st := .down, buf := [], opened := none, pending := List.replicate 6 [], resend := 0 },
        rx := { (s.linkOf lk).rx with st := .down } } := by
      show (s.linkDown lk fail).linkOf lk = _
      rw [ht]
      exact Tbl.get_set_self ..
    have hnet : t.net = (s.linkOf lk).tx.handOver ++ s.net := by
      show (s.linkDown lk fail).net = _
      rw [ht]
      rfl
    have hpresent : t.present lk.sock = s.present lk.sock := by
      show (s.linkDown lk fail).present lk.sock = _
      rw [ht]
      rfl
    rw [hl]
    refine ⟨hnet, rfl, rfl, rfl, rfl, rfl, rfl, rfl, fun hup => if_neg ?_⟩
    show ¬(!lk.port && t.noModule lk.sock && t.present lk.sock) = true
    rw [hpresent]
    rcases hup with h | h <;> simp [h]
  case podW =>
    intro s port p iod
    refine ⟨fun hhere hring => ?_, fun hhere hring => ?_, fun n haway hport => ?_, fun haway hport => ?_⟩
    · rw [exec_podArrival, State.podArrive_here port hhere, if_neg (ne_true_of_eq_false hring)]
    · rw [exec_podArrival, State.podArrive_here port hhere, if_pos hring]
    · rw [exec_podArrival, State.podArrive_on haway hport]
    · refine ⟨_, (exec_podArrival ..).trans (congrArg Host.Outcome.next (State.podArrive_dropped haway hport)), ?_, rfl, rfl⟩
      exact congrArg PodRt.drop (Tbl.get_set_self ..)

end Sys2Proof.Machine
end

section
/-!
A signal that wakes a saved thread is recorded in the save block, which lies in memory.
-/
namespace Sys2Proof.Machine

/-- The placed band, with the page of its context mapped in every stack. -/
def mappedBand : State :=
  (List.range 16).foldl (fun (s : State) n => s.updCtrl n fun k => { k with maps :=
    [{ ctx := 1, va := 0x10000, attr := 0x000F, frame := placedFrame, p := true, horizon := 1000, unmapping := false }] }) smallBand

/-- A crew whose bands are parked, as a die keeps it saved: its block begins where the page does. -/
def parkedSave (cw : Crew) : SavedCrew :=
  { handle := 0x101, cluster := 0, rank := 0, home := ⟨0, 0, 1⟩, block := 0x10000,
    crew := { cw with bands := cw.bands.map fun b => (b.1, { b.2 with parked := some { ctx := 1, page := 0x10000, va := 0x10000 } }) },
    scr := [], valid := [], slices := [], caddy := [], copy := [], jq := [] }

/-- That crew among the saved ones of die 0; its block has the mark that the band is parked, byte 52 of the band's section. -/
def savedAway : State :=
  match mappedBand.crewOf ⟨0, 0, 0⟩ with
  | some cw =>
    let s := mappedBand.updDie 0 fun x => { x with savedCrews := [parkedSave cw] }
    match s.devWrite 1 (0x10000 + cw.cfg.bandAt 0 + 52) [1] with
    | .ok s1 => s1
    | .error _ => s
  | none => mappedBand

/-- The signal's header: for context 1, at die 0. -/
def unparkHdr : PktHdr := { ctx := 1, tag := 0, srcPkg := 0, dstPkg := 0, srcSock := 0, dstSock := 0 }

/-- The bytes that are not zero after a step. -/
def cellsAfter : Host.Outcome State Fault Refusal → List Host.Cell
  | .next t => t.mem
  | _ => []

theorem savedAway_unpark : savedAway.mem.length = 1 ∧ cellsAfter (exec (.unpark unparkHdr) savedAway) = [] := by decide +kernel

/-- Refutes O47: the memory does not stay. `UNPARK` of context 1 at a die that keeps a saved crew with a parked band clears the band's
mark in its save block. -/
theorem not_translation : ¬ Obligations.Translation := by
  unfold Obligations.Translation
  rintro ⟨-, -, -, -, -, -, hsignals⟩
  obtain ⟨-, hunpark⟩ := hsignals savedAway unparkHdr 0 0
  obtain ⟨u, hexec, hmem, -⟩ := hunpark
  obtain ⟨hone, hnone⟩ := savedAway_unpark
  rw [hexec] at hnone
  have hempty : savedAway.mem = [] := hmem.symm.trans hnone
  rw [hempty] at hone
  exact absurd hone (by decide)

end Sys2Proof.Machine
end

section
/-!
Homes: what they read, write and operate on, and what their answers do to an access.
-/
namespace Sys2Proof.Machine

/-! ## The keys that a home serves -/

theorem effCtx_of_line {ctx : B6} {va i : Nat} (h : va % 64 + i < 64) : effCtx ctx (va + i) = effCtx ctx va := by
  have hwin : inWindow (va + i) = inWindow va := by
    unfold inWindow
    exact decide_eq_decide.2 (by omega)
  unfold effCtx
  rw [hwin]

/-- The slice of the die that serves a byte holds its line. -/
def State.holdsLine (s : State) (ctx : B6) (va : Nat) (ddr : Bool) : Bool :=
  !ddr && ((s.dieOf (s.ctrlFor ctx va ddr / 2)).l2.any fun t => t.ctx == effCtx ctx va && t.line == va / 64)

/-- The key of a byte whose page is mapped, where its line is held or its page present and in no wait. -/
def State.servedKey (s : State) (held : Bool) (ctx : B6) (va : Nat) (ddr : Bool) : Option Nat :=
  ((s.ctrlOf (s.ctrlFor ctx va ddr)).find (effCtx ctx va) va).bind fun m =>
    if attrDdr m.attr != ddr || (!held && (!m.p || m.unmapping)) then none
    else some (if ddr then ddrKey (s.ctrlFor ctx va ddr - 16) (m.frame + pieceOff (pageSize (attrSz m.attr)) (s.pieceShift ctx va ddr) va)
      else hbmKey (s.ctrlFor ctx va ddr) (m.frame + pieceOff (pageSize (attrSz m.attr)) (s.pieceShift ctx va ddr) va))

theorem State.globKeyCached_eq (s : State) (ctx : B6) (va : Nat) (ddr : Bool) :
    s.globKeyCached ctx va ddr = s.servedKey (s.holdsLine ctx va ddr) ctx va ddr := by
  unfold State.globKeyCached State.servedKey
  dsimp only
  split
  · next m hm => rw [hm]; rfl
  · next hm => rw [hm]; rfl

theorem State.servedKey_mono {s : State} {held held' : Bool} {ctx : B6} {va k : Nat} {ddr : Bool} (hheld : held = true → held' = true)
    (h : s.servedKey held ctx va ddr = some k) : s.servedKey held' ctx va ddr = some k := by
  obtain ⟨m, hm, hk⟩ := Option.bind_eq_some_iff.1 h
  refine Option.bind_eq_some_iff.2 ⟨m, hm, ?_⟩
  split at hk
  · exact absurd hk (by simp)
  · next hcond =>
    rw [if_neg]
    · exact hk
    · cases held <;> cases held' <;> simp_all

theorem State.servedKey_l2Touch (s : State) (ctx cx : B6) (va at_ sock : Nat) (held ddr : Bool) :
    (s.l2Touch ctx at_ sock).servedKey held cx va ddr = s.servedKey held cx va ddr := by
  unfold State.l2Touch
  dsimp only
  split <;> rfl

theorem mem_l2Enter (l2 : List L2Tag) (free : Nat) (e : L2Tag) : e ∈ l2Enter l2 free e := by
  unfold l2Enter
  dsimp only
  split <;> simp

/-- The line that is touched is held afterwards wherever it was before. -/
theorem State.holdsLine_l2Touch {s : State} {ctx : B6} {va i sock : Nat} {ddr : Bool} (hline : va % 64 + i < 64)
    (h : s.holdsLine ctx (va + i) ddr = true) : (s.l2Touch ctx va sock).holdsLine ctx (va + i) ddr = true := by
  unfold State.l2Touch
  dsimp only
  split
  · exact h
  · have hdiv : (va + i) / 64 = va / 64 := by omega
    unfold State.holdsLine at h ⊢
    rw [effCtx_of_line hline, hdiv, Bool.and_eq_true] at h ⊢
    obtain ⟨hddr, hany⟩ := h
    refine ⟨hddr, ?_⟩
    by_cases hdie : s.ctrlFor ctx (va + i) ddr / 2 = sock
    · rw [List.any_eq_true]
      refine ⟨{ ctx := effCtx ctx va, line := va / 64 }, ?_, by simp⟩
      show _ ∈ (State.dieOf _ (s.ctrlFor ctx (va + i) ddr / 2)).l2
      rw [hdie, State.dieOf_updDie]
      exact mem_l2Enter ..
    · refine Eq.trans (congrArg (fun x : Die => x.l2.any _) ?_) hany
      exact State.dieOf_updDie_ne _ _ hdie

theorem State.globKey_l2Touch (s : State) (ctx cx : B6) (va at_ sock : Nat) (ddr : Bool) :
    (s.l2Touch ctx at_ sock).globKey cx va ddr = s.globKey cx va ddr := by
  unfold State.l2Touch
  dsimp only
  split <;> rfl

theorem State.globKeyCached_l2Touch {s : State} {ctx : B6} {va i k sock : Nat} {ddr : Bool} (hline : va % 64 + i < 64)
    (h : s.globKeyCached ctx (va + i) ddr = some k) : (s.l2Touch ctx va sock).globKeyCached ctx (va + i) ddr = some k := by
  rw [State.globKeyCached_eq] at h ⊢
  rw [State.servedKey_l2Touch]
  exact State.servedKey_mono (State.holdsLine_l2Touch hline) h

/-- The key at which a home serves a byte. -/
def State.homeKey (s : State) (ctx : B6) (sock va : Nat) : Option Nat :=
  if sock < 8 then s.globKeyCached ctx va (24 ≤ sock) else s.globKey ctx va (24 ≤ sock)

theorem State.homeKey_l2Touch {s : State} {ctx : B6} {va i k sock : Nat} (hline : va % 64 + i < 64)
    (h : s.homeKey ctx sock (va + i) = some k) : (s.l2Touch ctx va sock).homeKey ctx sock (va + i) = some k := by
  unfold State.homeKey at h ⊢
  split at h
  · next hsock =>
    rw [if_pos hsock]
    exact State.globKeyCached_l2Touch hline h
  · next hsock =>
    rw [if_neg hsock, State.globKey_l2Touch]
    exact h

theorem State.homeServe_eq (s : State) (ctx : B6) (va len sock : Nat) : s.homeServe ctx va len sock =
    if len = 0 ∨ 64 < va % 64 + len then (3, [])
    else if (s.ctxOf (effCtx ctx va).toNat).st = .free ∨ (inWindow va ∧ windowPkg va ≠ s.pkg) then (2, [])
    else if ((List.range len).map fun i => s.homeKey ctx sock (va + i)).all Option.isSome then
      (0, ((List.range len).map fun i => s.homeKey ctx sock (va + i)).filterMap id) else (1, []) := rfl

theorem State.homeServe_ok {s : State} {ctx : B6} {va len sock : Nat} {ks : List Nat} (h : s.homeServe ctx va len sock = (0, ks)) :
    va % 64 + len ≤ 64 ∧ len ≠ 0 ∧ ¬((s.ctxOf (effCtx ctx va).toNat).st = .free ∨ (inWindow va ∧ windowPkg va ≠ s.pkg)) ∧
      (∀ i, i < len → (s.homeKey ctx sock (va + i)).isSome = true) ∧
      ks = ((List.range len).map fun i => s.homeKey ctx sock (va + i)).filterMap id := by
  rw [State.homeServe_eq] at h
  split at h
  · exact absurd (congrArg Prod.fst h) (by simp)
  · next hlen =>
    split at h
    · exact absurd (congrArg Prod.fst h) (by simp)
    · next hctx =>
      split at h
      · next hall =>
        refine ⟨by omega, by omega, hctx, fun i hi => ?_, (congrArg Prod.snd h).symm⟩
        exact List.all_eq_true.1 hall _ (List.mem_map.2 ⟨i, List.mem_range.2 hi, rfl⟩)
      · exact absurd (congrArg Prod.fst h) (by simp)

theorem State.homeServe_length {s : State} {ctx : B6} {va len sock : Nat} {ks : List Nat} (h : s.homeServe ctx va len sock = (0, ks)) :
    ks.length = len := by
  obtain ⟨-, -, -, hsome, rfl⟩ := State.homeServe_ok h
  rw [List.filterMap_map]
  have hall : ∀ i ∈ List.range len, (s.homeKey ctx sock (va + i)).isSome := fun i hi => hsome i (List.mem_range.1 hi)
  rw [List.length_filterMap_eq_countP]
  refine (List.countP_eq_length.2 hall).trans List.length_range

theorem State.homeServe_l2Touch {s : State} {ctx : B6} {va len sock : Nat} {ks : List Nat} (h : s.homeServe ctx va len sock = (0, ks)) :
    (s.l2Touch ctx va sock).homeServe ctx va len sock = (0, ks) := by
  obtain ⟨hline, hlen, hctx, hsome, rfl⟩ := State.homeServe_ok h
  have hkeys : ((List.range len).map fun i => (s.l2Touch ctx va sock).homeKey ctx sock (va + i)) =
      (List.range len).map fun i => s.homeKey ctx sock (va + i) := by
    refine List.map_congr_left fun i hi => ?_
    have hi := List.mem_range.1 hi
    obtain ⟨k, hk⟩ := Option.isSome_iff_exists.1 (hsome i hi)
    rw [hk]
    exact State.homeKey_l2Touch (by omega) hk
  have hrest : (s.l2Touch ctx va sock).ctxOf (effCtx ctx va).toNat = s.ctxOf (effCtx ctx va).toNat ∧ (s.l2Touch ctx va sock).pkg = s.pkg := by
    unfold State.l2Touch
    dsimp only
    split <;> exact ⟨rfl, rfl⟩
  rw [State.homeServe_eq, hkeys, hrest.1, hrest.2, if_neg (by omega), if_neg hctx, if_pos]
  exact List.all_eq_true.2 fun k hk => by
    obtain ⟨i, hi, rfl⟩ := List.mem_map.1 hk
    exact hsome i (List.mem_range.1 hi)

/-! ## Reading and writing at a home -/

theorem State.homeRead_of {s : State} {ctx : B6} {va len sock st : Nat} {ks : List Nat} (h : s.homeServe ctx va len sock = (st, ks)) :
    (st = 0 → s.homeRead ctx va len sock = (0, ks.map (Memory.read s.mem), s.l2Touch ctx va sock)) ∧
      (st ≠ 0 → s.homeRead ctx va len sock = (st, [], s)) := by
  unfold State.homeRead
  rw [h]
  refine ⟨?_, fun hst => ?_⟩
  · rintro rfl
    rfl
  · obtain ⟨n, rfl⟩ := Nat.exists_eq_succ_of_ne_zero hst
    rfl

theorem State.homeWrite_of {s : State} {ctx : B6} {va sock st : Nat} {bs : List Byte} {ks : List Nat}
    (h : s.homeServe ctx va bs.length sock = (st, ks)) :
    (st = 0 → s.homeWrite ctx va sock bs = (0, (s.setMem ((ks.zip bs).foldl (fun m x => Memory.write m x.1 x.2) s.mem)).l2Touch ctx va sock)) ∧
      (st ≠ 0 → s.homeWrite ctx va sock bs = (st, s)) := by
  unfold State.homeWrite
  rw [h]
  refine ⟨?_, fun hst => ?_⟩
  · rintro rfl
    rfl
  · obtain ⟨n, rfl⟩ := Nat.exists_eq_succ_of_ne_zero hst
    rfl

theorem State.l2Touch_stays (s : State) (ctx : B6) (va sock : Nat) : (s.l2Touch ctx va sock).mem = s.mem ∧ (s.l2Touch ctx va sock).net = s.net ∧
    (s.l2Touch ctx va sock).host = s.host := by
  unfold State.l2Touch
  dsimp only
  split <;> exact ⟨rfl, rfl, rfl⟩

theorem Memory.read_writes_out {k : Nat} : ∀ {xs : List (Nat × Byte)} {m : List Host.Cell}, Memory.wf m = true → (∀ x ∈ xs, x.1 ≠ k) →
    Memory.read (xs.foldl (fun m x => Memory.write m x.1 x.2) m) k = Memory.read m k
  | [], _, _, _ => rfl
  | x :: xs, m, h, hk => by
    rw [List.foldl_cons, Memory.read_writes_out (Memory.wf_write h _ _) fun y hy => hk y (List.mem_cons_of_mem _ hy)]
    exact Memory.read_write_ne h _ (hk x List.mem_cons_self).symm

theorem Memory.read_writes : ∀ {ks : List Nat} {bs : List Byte} {m : List Host.Cell}, Memory.wf m = true → ks.length = bs.length → ks.Nodup →
    ks.map (Memory.read ((ks.zip bs).foldl (fun m x => Memory.write m x.1 x.2) m)) = bs
  | [], [], _, _, _, _ => rfl
  | k :: ks, b :: bs, m, h, hlen, hnodup => by
    obtain ⟨hk, hks⟩ := List.nodup_cons.1 hnodup
    have hout : ∀ x ∈ ks.zip bs, x.1 ≠ k := fun x hx heq => hk (heq ▸ (List.of_mem_zip hx).1)
    have hwf := Memory.wf_write h k b
    rw [List.zip_cons_cons, List.foldl_cons, List.map_cons, Memory.read_writes_out hwf hout, Memory.read_write_self h,
      Memory.read_writes hwf (Nat.succ.inj hlen) hks]

theorem State.homeAtomic_of {s : State} {ctx : B6} {va sock op width st : Nat} {ks : List Nat} {signed : Bool} {operand expected : Nat}
    (hop : op < 11) (halign : va % width = 0) (h : s.homeServe ctx va width sock = (st, ks)) :
    let old := leNat (ks.map (Memory.read s.mem))
    (st = 0 → ∃ u : State, s.homeAtomic ctx va sock op width signed operand expected = (0, old, u) ∧ u.net = s.net ∧
      u.mem = (ks.zip (atomBytes width (atomResult op width signed old operand expected).1)).foldl
        (fun m x => Memory.write m x.1 x.2) s.mem) ∧
      (st ≠ 0 → s.homeAtomic ctx va sock op width signed operand expected = (st, 0, s)) := by
  intro old
  obtain ⟨hserved, hrefused⟩ := State.homeRead_of h
  have hgood : ¬(11 ≤ op ∨ va % width ≠ 0) := by omega
  unfold State.homeAtomic
  rw [if_neg hgood]
  refine ⟨fun hst => ?_, fun hst => ?_⟩
  · subst hst
    rw [hserved rfl]
    have hlen (v : Nat) : (atomBytes width v).length = width := leBytes_length ..
    have hserve (v : Nat) : (s.l2Touch ctx va sock).homeServe ctx va (atomBytes width v).length sock = (0, ks) := by
      rw [hlen]
      exact State.homeServe_l2Touch h
    obtain ⟨hmem, hnet, -⟩ := s.l2Touch_stays ctx va sock
    refine ⟨_, rfl, ?_, ?_⟩
    · rw [(State.homeWrite_of (hserve _)).1 rfl]
      exact (State.l2Touch_stays ..).2.1.trans hnet
    · rw [(State.homeWrite_of (hserve _)).1 rfl]
      refine (State.l2Touch_stays ..).1.trans ?_
      rw [hmem]
      rfl
  · rw [hrefused hst]
    obtain ⟨n, rfl⟩ := Nat.exists_eq_succ_of_ne_zero hst
    rfl

/-! ## Answers -/

section
variable {s : State} {h : PktHdr} {t : ThreadRef} {id i : Nat} {b : Band} {a : Acc} {p : Piece}

/-- The state in which an answer's tag is free again. -/
def State.tagFreed (s : State) (h : PktHdr) : State := s.updDie h.dstSock.toNat fun x => { x with tags := x.tags.erase h.tag.toNat }

theorem State.tagFreed_thread (s : State) (h : PktHdr) (t : ThreadRef) : (s.tagFreed h).thread t = s.thread t :=
  State.thread_updDie s h.dstSock.toNat (fun x => { x with tags := x.tags.erase h.tag.toNat }) (fun _ => rfl) t

theorem State.engineAnswer_piece (htag : (s.dieOf h.dstSock.toNat).tags.find? h.tag.toNat = some (.piece t id i)) (status : Byte)
    (bytes : List Byte) : s.engineAnswer h status bytes = none := by
  unfold State.engineAnswer
  dsimp only
  rw [htag]

theorem State.answer_piece (htag : (s.dieOf h.dstSock.toNat).tags.find? h.tag.toNat = some (.piece t id i)) (hb : s.thread t = some b)
    (ha : b.findAcc id = some a) (hp : a.pieces[i]? = some p) (status : Byte) (f : Acc → Piece → List Byte × BitVec 6)
    (g : ThreadRef → Acc → Piece → State → State) : s.answer h status f g =
      if status ≠ 0 then .next ((s.tagFreed h).pieceRefused t id i)
      else .next ((g t a p (s.tagFreed h)).pieceDone t id i (f a p).1 (f a p).2) := by
  have hreply : s.replyPiece h = some (t, id, i, s.tagFreed h) := by
    unfold State.replyPiece
    dsimp only
    rw [htag]
    rfl
  have hpiece : (s.tagFreed h).pieceOf t id i = some (a, p) := by
    unfold State.pieceOf
    rw [State.tagFreed_thread, hb]
    dsimp only
    rw [ha]
    dsimp only
    rw [hp]
    rfl
  unfold State.answer
  rw [hreply]
  dsimp only
  rw [hpiece]

theorem exec_data_piece (htag : (s.dieOf h.dstSock.toNat).tags.find? h.tag.toNat = some (.piece t id i)) (status : Byte) (bytes : List Byte) :
    exec (.data h status bytes) s =
      s.answer h status (fun a p => ((if a.cacheable p then bytes.drop (p.va % 64) else bytes).take p.len, 0)) fun t a p s =>
        if !a.cacheable p then s
        else if p.install then s.updCore t.die t.core fun k => k.l1Install h.ctx p.va s.timeCount (p.kind == .free) bytes
        else s.l1Drop t.die t.core fun x l _ => x == h.ctx && l == p.va / 64 := by
  show execData h status bytes s = _
  unfold execData
  rw [State.engineAnswer_piece htag]

theorem exec_ack_piece (htag : (s.dieOf h.dstSock.toNat).tags.find? h.tag.toNat = some (.piece t id i)) (status : Byte) :
    exec (.ack h status) s = s.answer h status (fun _ _ => ([], 0)) fun _ _ _ s => s := by
  show execAck h status s = _
  unfold execAck
  rw [State.engineAnswer_piece htag]

theorem exec_old_piece (htag : (s.dieOf h.dstSock.toNat).tags.find? h.tag.toNat = some (.piece t id i)) (status : Byte) (val : W128) :
    exec (.old h status val) s = s.answer h status (fun a p =>
      (leBytes a.width val.toNat, (atomResult (a.opFor p.lane) a.width a.signed val.toNat (a.operands.get 0 p.lane).toNat
        (a.expects.get 0 p.lane).toNat).2)) fun _ _ _ s => s := by
  show execOld h status val s = _
  unfold execOld
  rw [State.engineAnswer_piece htag]
end

/-! ## The parts of an access -/

theorem Acc.pieces_setPiece (a : Acc) (i : Nat) (f : Piece → Piece) : (a.setPiece i f).pieces = a.pieces.modify i f := rfl

theorem Band.findAcc_spec {b : Band} {id : Nat} {a : Acc} (h : b.findAcc id = some a) : a ∈ b.accs ∧ a.id = id :=
  ⟨List.mem_of_find?_eq_some h, by simpa using List.find?_some (p := fun x : Acc => x.id == id) h⟩

/-- Of accesses of which one has the number, a change of those with the number changes that one. -/
theorem Band.updAcc_only {b : Band} {id : Nat} {a : Acc} (ha : b.findAcc id = some a)
    (hone : (b.accs.filter fun x => x.id == id).length = 1) (f : Acc → Acc) : b.updAcc id f = b.updAcc id fun _ => f a := by
  obtain ⟨c, hc⟩ := List.length_eq_one_iff.1 hone
  have hall : ∀ x ∈ b.accs, x.id = id → x = c := fun x hx hid => by
    have hmem : x ∈ b.accs.filter fun x => x.id == id := List.mem_filter.2 ⟨hx, beq_iff_eq.2 hid⟩
    rw [hc] at hmem
    exact List.mem_singleton.1 hmem
  have hac : a = c := hall a (Band.findAcc_spec ha).1 (Band.findAcc_spec ha).2
  unfold Band.updAcc
  congr 1
  refine List.map_congr_left fun x hx => ?_
  by_cases hid : x.id = id
  · rw [if_pos hid, if_pos hid, hall x hx hid, hac]
  · rw [if_neg hid, if_neg hid]

theorem Band.findAcc_updAcc {b : Band} {id : Nat} {a c : Acc} (ha : b.findAcc id = some a) (hc : c.id = id) :
    (b.updAcc id fun _ => c).findAcc id = some c := by
  unfold Band.findAcc Band.updAcc at *
  generalize b.accs = l at ha ⊢
  induction l with
  | nil => exact absurd ha (by simp)
  | cons x l ih =>
    rw [List.map_cons]
    by_cases hx : x.id = id
    · rw [if_pos hx, List.find?_cons_of_pos (by simp [hc])]
    · rw [List.find?_cons_of_neg (by simp [hx])] at ha
      rw [if_neg hx, List.find?_cons_of_neg (by simp [hx])]
      exact ih ha

theorem State.pieceDone_last {s : State} {t : ThreadRef} {id i : Nat} (bs : List Byte) (st : BitVec 6) {b : Band} {a : Acc}
    (hb : s.thread t = some b) (ha : b.findAcc id = some a)
    (hothers : ∀ j q, j ≠ i → a.pieces[j]? = some q → q.st = .done) (hone : (b.accs.filter fun x => x.id == id).length = 1) :
    let a1 := { a.setPiece i fun p => { p with st := .done, bytes := bs } with status := a.status ||| st }
    ∃ u : State, u.mem = s.mem ∧ u.thread t = some (b.updAcc id fun _ => a1) ∧ s.pieceDone t id i bs st = u.accDone t a1 := by
  intro a1
  have hsome : (s.thread t).isSome = true := by rw [hb]; rfl
  have hid : a1.id = id := (Band.findAcc_spec ha).2
  have hall : (a1.pieces.all fun p => p.st == .done) = true := by
    rw [List.all_eq_true]
    intro q hq
    obtain ⟨j, hj⟩ := List.mem_iff_getElem?.1 hq
    have hj : (a.pieces.modify i fun p => { p with st := .done, bytes := bs })[j]? = some q := hj
    rw [List.getElem?_modify] at hj
    by_cases hij : i = j
    · obtain ⟨q', -, rfl⟩ := Option.map_eq_some_iff.1 (by simpa [hij] using hj)
      rfl
    · exact beq_iff_eq.2 (hothers j q (Ne.symm hij) (by simpa [hij] using hj))
  refine ⟨s.setThread t (b.updAcc id fun _ => a1), State.setThread_mem .., by rw [State.thread_setThread _ _ _ _ hsome, if_pos rfl], ?_⟩
  unfold State.pieceDone
  rw [hb]
  dsimp only
  rw [Band.updAcc_only ha hone]
  rw [show (b.updAcc id fun _ => { a.setPiece i fun p => { p with st := .done, bytes := bs } with status := a.status ||| st }).findAcc id = some a1
    from Band.findAcc_updAcc ha hid]
  exact if_pos hall

/-! ## A refused part -/

theorem State.faultEvent_dies (s : State) (t : ThreadRef) (h : Handle) (b : Band) (f : MemFault) (restart : PCW) (requeued : Bool) :
    KeepsCrews s (s.faultEvent t h b f restart requeued) := by
  unfold State.faultEvent
  dsimp only
  split
  · exact (KeepsCrews.of_dies (State.report_dies ..)).trans (.updGridDie ..)
  · exact .of_dies (State.report_dies ..)

theorem Band.restartRegion_spec (b : Band) : b.restartRegion.x.pc = (if b.trapPriv then b.handlerAt else b.region.restart) ∧
    b.restartRegion.r = (if b.trapPriv then b.handlerSnap else b.region.snap) ∧ b.restartRegion.accs = [] ∧ b.restartRegion.pends = [] :=
  ⟨rfl, rfl, rfl, rfl⟩

theorem State.memFault_parks {s : State} {t : ThreadRef} {b : Band} {cw : Crew} {f : MemFault} (hcw : s.crewOf t.crew = some cw)
    (hb : s.thread t = some b) (hleaves : b.leaves = false) (hband : t.band.isSome = true) (hfetch : f.fetch = false)
    (htasks : f.lanes &&& b.tasks = 0) : s.memFault t f = s.parkFault t cw b.restartRegion { f with lanes := f.lanes } := by
  have hnone : ¬t.band.isNone = true := by
    rw [Option.isNone_iff_eq_none]
    intro h
    rw [h] at hband
    exact Bool.false_ne_true hband
  unfold State.memFault
  rw [hcw, hb]
  dsimp only
  rw [if_neg (ne_true_of_eq_false hleaves), if_neg hnone, if_neg (ne_true_of_eq_false hfetch), htasks]
  simp only [if_true, bne_self_eq_false, Bool.false_and, Bool.false_eq_true, if_false]
  rw [hb]

theorem State.parkFault_thread {s : State} {t : ThreadRef} (h : (s.thread t).isSome = true) (cw : Crew) (b1 : Band) (f : MemFault) :
    (s.parkFault t cw b1 f).thread t = some { b1 with parked := some (ParkInfo.of (handleCtx cw.cfg.handle) f.va) } := by
  unfold State.parkFault
  rw [(State.faultEvent_dies ..).thread, State.thread_setThread _ _ _ _ h, if_pos rfl]

theorem exec_deferredFault {s : State} {acc : Nat} {b : Band} {a : Acc} {p : Piece} (hb : s.thread s.cur = some b)
    (ha : b.findAcc acc = some a) (hp : a.refusedPiece = some p) (hleaves : b.leaves = false) : exec (.deferredFault acc) s =
      .next (s.memFault s.cur { va := p.va, pc := a.pc, lanes := p.mask, index := a.index,
                                cause := if a.kind = .store then 9 else 0x0101, fetch := a.kind == .fetch }) := by
  show execDeferredFault acc s = _
  unfold execDeferredFault
  dsimp only
  rw [hb]
  dsimp only
  rw [ha]
  dsimp only
  rw [hp]
  exact if_pos (by rw [hleaves]; rfl)

/-- Settles O48: each home operation through the keys it serves, the answers, the last part of an access, and the refused part. -/
theorem homes : Obligations.Homes := by
  unfold Obligations.Homes
  refine ⟨?readW, ?writeW, ?atomicW, ?answersW, ?lastW, ?faultW⟩
  case readW =>
    intro s h b st ks hserve
    obtain ⟨hserved, hrefused⟩ := State.homeRead_of hserve
    have hexec (r : Nat × List Byte × State) (hr : s.homeRead h.ctx b.va.toNat (b.cntM1.toNat + 1) h.dstSock.toNat = r) :
        exec (.read h b) s = .next (r.2.2.send (PktHdr.reply h) (.data (BitVec.ofNat 8 r.1) r.2.1)) := by
      rw [← hr]
      rfl
    exact ⟨fun hst => ⟨_, hexec _ (hserved hst), State.l2Touch_stays ..⟩, fun hst => hexec _ (hrefused hst)⟩
  case writeW =>
    intro s h b st ks hlen hwf hserve
    obtain ⟨hserved, hrefused⟩ := State.homeWrite_of hserve
    have hexec (r : Nat × State) (hr : s.homeWrite h.ctx b.va.toNat h.dstSock.toNat b.bytes = r) :
        exec (.write h b) s = .next (r.2.send (PktHdr.reply h) (.ack (BitVec.ofNat 8 r.1))) := by
      have hrun : (if b.bytes.length ≠ b.cntM1.toNat + 1 then (3, s) else s.homeWrite h.ctx b.va.toNat h.dstSock.toNat b.bytes) = r :=
        (if_neg (not_not.2 hlen)).trans hr
      rw [← hrun]
      rfl
    refine ⟨fun hst => ?_, fun hst => hexec _ (hrefused hst)⟩
    obtain ⟨hmem, hnet, hhost⟩ := State.l2Touch_stays (s.setMem ((ks.zip b.bytes).foldl (fun m x => Memory.write m x.1 x.2) s.mem)) h.ctx
      b.va.toNat h.dstSock.toNat
    subst hst
    refine ⟨_, hexec _ (hserved rfl), hnet, hhost, ?_, fun hnodup => ?_, fun k hk => ?_⟩
    · exact (congrArg (fun m => Memory.wf m = true) hmem).mpr (Memory.wf_writes hwf)
    · exact (congrArg (fun m => ks.map (Memory.read m)) hmem).trans (Memory.read_writes hwf (State.homeServe_length hserve) hnodup)
    · refine (congrArg (Memory.read · k) hmem).trans (Memory.read_writes_out hwf fun x hx heq => hk ?_)
      exact heq ▸ (List.of_mem_zip hx).1
  case atomicW =>
    intro s h b st ks hwidth w old hserve hop halign
    obtain ⟨hserved, hrefused⟩ := State.homeAtomic_of (signed := b.signed) (operand := b.operand.toNat) (expected := b.expected.toNat)
      hop halign hserve
    have hexec (r : Nat × Nat × State) (hr : s.homeAtomic h.ctx b.va.toNat h.dstSock.toNat b.op.toNat w b.signed b.operand.toNat
        b.expected.toNat = r) : exec (.atomic h b) s = .next (r.2.2.send (PktHdr.reply h) (.old (BitVec.ofNat 8 r.1) (BitVec.ofNat 128 r.2.1))) := by
      rw [← hr]
      exact if_neg hwidth
    refine ⟨fun hst => ?_, fun hst => hexec _ (hrefused hst)⟩
    obtain ⟨u, hu, hnet, hmem⟩ := hserved hst
    exact ⟨u, hexec _ hu, hnet, hmem⟩
  case answersW =>
    intro s h t id i b a p status bytes val htag hb ha hp s1 fill
    have hanswer := State.answer_piece htag hb ha hp status
    refine ⟨fun hok => ⟨?_, ?_, ?_⟩, fun hno j hj => ?_⟩
    · rw [exec_data_piece htag, hanswer, if_neg (not_not.2 hok)]
      congr 2
      show _ = fill
      cases hc : a.cacheable p <;> simp [fill, hc] <;> rfl
    · rw [exec_ack_piece htag, hanswer, if_neg (not_not.2 hok)]
      rfl
    · rw [exec_old_piece htag, hanswer, if_neg (not_not.2 hok)]
      rfl
    · rcases hj with rfl | rfl | rfl
      · rw [exec_data_piece htag, hanswer, if_pos hno]
        rfl
      · rw [exec_ack_piece htag, hanswer, if_pos hno]
        rfl
      · rw [exec_old_piece htag, hanswer, if_pos hno]
        rfl
  case lastW => exact fun s t id i bs st b a p hb ha _ hothers hone => State.pieceDone_last bs st hb ha hothers hone
  case faultW =>
    intro s acc b cw a p t hb hcw ha hp hleaves cause
    have hexec := exec_deferredFault hb ha hp hleaves
    refine ⟨hexec, fun hband hkind htasks => ?_⟩
    have hfetch : (a.kind == AccKind.fetch) = false := beq_eq_false_iff_ne.2 hkind
    rw [hexec, State.memFault_parks hcw hb hleaves hband hfetch htasks]
    obtain ⟨hpc, hr, haccs, hpends⟩ := b.restartRegion_spec
    exact ⟨_, _, rfl, State.parkFault_thread (by rw [hb]; rfl) .., rfl, hpc, hr, haccs, hpends⟩

end Sys2Proof.Machine
end

section
/-!
Collectives between dies: the parts of a contribution, its results, and the arrivals at a barrier.
-/
namespace Sys2Proof.Machine

/-! ## Contributions -/

section
variable {s : State} {h : PktHdr} {b : CollB} {g : Grid}

/-- A part of a contribution as its collecting die keeps it. -/
def collPartOf (g : Grid) (b : CollB) : CollPart :=
  { handle := g.handle, rred := b.rred, roster := b.roster.toNat, gen := b.gen.toNat, lin := b.lin.toNat, part := b.part.toNat,
    bytes := b.bytes }

theorem exec_coll_elsewhere (hg : s.collGrid h = some g) (htgt : s.collHome g b.roster.toNat ≠ (s.pkg, h.dstSock.toNat)) :
    exec (.coll h b) s = .next (s.send { h with
      dstPkg := BitVec.ofNat 8 (s.collHome g b.roster.toNat).1, dstSock := BitVec.ofNat 5 (s.collHome g b.roster.toNat).2 } (.coll b)) := by
  show execColl h b s = _
  unfold execColl
  rw [hg]
  exact if_pos (.inl htgt)

theorem exec_coll_here {first : Nat} {rest : List Nat} (hg : s.collGrid h = some g) (hmembers : g.rosters.getD b.roster.toNat [] = first :: rest)
    (htgt : s.collHome g b.roster.toNat = (s.pkg, h.dstSock.toNat)) (hplace : (s.placeOf g first).isSome = true)
    (hnew : collPartOf g b ∉ (s.dieOf h.dstSock.toNat).colls) : exec (.coll h b) s =
      .next ((s.updDie h.dstSock.toNat fun x => { x with colls := x.colls ++ [collPartOf g b] }).collCheck h.dstSock.toNat g b.rred
        b.roster.toNat b.gen.toNat) := by
  show execColl h b s = _
  unfold execColl
  rw [hg]
  refine (if_neg ?_).trans (if_neg ?_)
  · rintro (hother | hnone)
    · exact hother htgt
    · rw [hmembers] at hnone
      simp only [List.head?_cons, Option.map_some, Option.some.injEq, Option.isNone_iff_eq_none] at hnone
      rw [hnone] at hplace
      exact Bool.false_ne_true hplace
  · rw [List.contains_iff_mem]
    exact hnew
end

section
variable {s : State} {d : Nat} {g : Grid} {rred : Bool} {roster gen first : Nat} {rest : List Nat}

/-- The contribution of a member, where it is whole at the collecting die. -/
def State.contributed (s : State) (d : Nat) (g : Grid) (rred : Bool) (roster gen m : Nat) : Option (List Byte) :=
  collBytes ((s.dieOf d).colls.filter fun p => p.of g.handle rred roster gen) m

theorem State.collCheck_waits (hmembers : g.rosters.getD roster [] = first :: rest)
    (hbroken : s.barBroken g.handle (if rred then 5 else 4) roster gen = false)
    (hnone : ∀ m ∈ first :: rest, s.contributed d g rred roster gen m = none) : s.collCheck d g rred roster gen = s := by
  have hgiven : (g.rosters.getD roster []).map (fun m => (m, collBytes ((s.dieOf d).colls.filter fun p => p.of g.handle rred roster gen) m)) =
      (first :: rest).map fun m => (m, none) := by
    rw [hmembers]
    exact List.map_congr_left fun m hm => Prod.ext rfl (hnone m hm)
  unfold State.collCheck
  dsimp only
  rw [if_neg (ne_true_of_eq_false hbroken), hgiven]
  split
  · split
    · rfl
    · exact if_pos (by simp)
  · split
    · rfl
    · next root hroot =>
      obtain ⟨m, -, hm⟩ := List.mem_map.1 (List.mem_of_find?_eq_some hroot)
      have hwhole := List.find?_some hroot
      rw [← hm] at hwhole
      exact absurd hwhole (by simp)

theorem State.collCheck_reduces {i : CollIssue} {r : List Byte} {rs : List (List Byte)} (hmembers : g.rosters.getD roster [] = first :: rest)
    (hbroken : s.barBroken g.handle 5 roster gen = false)
    (hissue : s.colls.find? (fun c => c.handle == g.handle && c.rred && c.roster == roster && c.gen == gen) = some i)
    (hwhole : (first :: rest).map (s.contributed d g true roster gen) = (r :: rs).map some) :
    let k := CollCmd.of true i.cmd.toNat
    let v := rs.foldl (redStep k) (redFirst k r)
    s.collCheck d g true roster gen = (first :: rest).foldl (fun (s : State) m => s.collAnswer d g v.2 true roster gen m v.1)
      (s.updDie d fun x => { x with colls := x.colls.filter fun q => !q.of g.handle true roster gen }) := by
  intro k v
  have hgiven : (g.rosters.getD roster []).map (fun m => (m, collBytes ((s.dieOf d).colls.filter fun p => p.of g.handle true roster gen) m)) =
      (first :: rest).map fun m => (m, s.contributed d g true roster gen m) := by
    rw [hmembers]
    rfl
  have hall : ((first :: rest).map fun m => (m, s.contributed d g true roster gen m)).all (fun x => x.2.isSome) = true := by
    have hsome : ((first :: rest).map (s.contributed d g true roster gen)).all Option.isSome = true := by
      rw [hwhole]
      simp
    rw [List.all_map] at hsome ⊢
    exact hsome
  have hbytes : ((first :: rest).map fun m => (m, s.contributed d g true roster gen m)).filterMap (fun x => x.2) = r :: rs := by
    have hmap : ((first :: rest).map (s.contributed d g true roster gen)).filterMap id = r :: rs := by
      rw [hwhole, List.filterMap_map]
      exact List.filterMap_some
    rw [List.filterMap_map] at hmap ⊢
    exact hmap
  unfold State.collCheck
  dsimp only
  rw [if_pos rfl, if_neg (ne_true_of_eq_false hbroken), if_pos rfl, hissue, hgiven, hall, hbytes, hmembers]
  rfl
end

/-! ## Results -/

theorem State.putSpot_colls (s : State) (d : Nat) (p : Spot) (v : Byte) : (s.putSpot d p v).colls = s.colls := by
  unfold State.putSpot
  split
  · rfl
  · split <;> rfl

theorem State.putFields_colls (s : State) (sv : SavedCrew) (fs : Fields) : (s.putFields sv fs).colls = s.colls := by
  unfold State.putFields
  refine foldl_keeps (P := fun u : State => u.colls = s.colls) rfl fun u f hu => ?_
  split
  · next s1 hw =>
    unfold State.devWrite at hw
    split at hw
    · injection hw with hw
      rw [← hw]
      exact hu
    · exact absurd hw (by simp)
  · exact hu

/-- The bytes of a result are written in a crew's scratchpad, or in its save block: no collective changes. -/
theorem State.putOwn_colls (s : State) (d : Nat) (h : Handle) (lin off : Nat) (bs : List Byte) : (s.putOwn d h lin off bs).colls = s.colls := by
  unfold State.putOwn
  dsimp only
  split
  · unfold State.putScr
    exact foldl_keeps (P := fun u : State => u.colls = s.colls) rfl fun u x hu => (State.putSpot_colls ..).trans hu
  · exact foldl_keeps (P := fun u : State => u.colls = s.colls) rfl fun u x hu => (State.putFields_colls ..).trans hu

/-! ## Barriers -/

theorem State.barReached_setBarDone (s : State) (h : Handle) (key id gen : Nat) : (s.setBarDone h key id gen).barReached h key id gen = true := by
  simp [State.barReached, State.setBarDone]

theorem State.barBroken_breakAll (s : State) (h : Handle) (kind id gen : Nat) :
    (s.breakAll h [(kind, id, gen)]).barBroken h kind id gen = true := by
  simp [State.barBroken, State.breakAll]

/-- A packet on its way changes the packets under way only. -/
theorem State.send_barDone (s : State) (h : PktHdr) (b : Body) : (s.send h b).barDone = s.barDone ∧ (s.send h b).mem = s.mem ∧
    ∀ q ∈ s.net, q ∈ (s.send h b).net := by
  unfold State.send
  split
  · exact ⟨rfl, rfl, fun q hq => List.mem_append_left _ hq⟩
  · cases hto : s.toPod (podTable h.srcSock.toNat) ⟨h, b⟩ with
    | none => exact ⟨rfl, rfl, fun q hq => hq⟩
    | some u =>
      obtain ⟨n, -, rfl⟩ := Option.map_eq_some_iff.1 hto
      exact ⟨rfl, rfl, fun q hq => hq⟩

/-- The dies that a barrier's leader tells. -/
def State.barTell (s : State) (h : Handle) (kind roster gen : Nat) (broken : Bool) (tgt : List (Nat × Nat)) : State :=
  tgt.foldl (fun (s : State) p => s.barSend (s.leaderOf s.pkg) h p kind roster gen true broken) s

section
variable (s : State) (h : Handle) (kind roster gen : Nat) (broken : Bool)

theorem State.barTell_keeps (tgt : List (Nat × Nat)) : (s.barTell h kind roster gen broken tgt).barDone = s.barDone ∧
    (s.barTell h kind roster gen broken tgt).mem = s.mem ∧ ∀ q ∈ s.net, q ∈ (s.barTell h kind roster gen broken tgt).net := by
  refine foldl_keeps (P := fun u : State => u.barDone = s.barDone ∧ u.mem = s.mem ∧ ∀ q ∈ s.net, q ∈ u.net) ⟨rfl, rfl, fun _ h => h⟩
    fun u p hu => ?_
  obtain ⟨hdone, hmem, hnet⟩ := hu
  obtain ⟨hdone', hmem', hnet'⟩ := u.send_barDone { u.hdr (handleCtx h) 0 (u.leaderOf u.pkg) p.2 with dstPkg := BitVec.ofNat 8 p.1 }
    (.barrier { handle := h, kind := BitVec.ofNat 3 kind, roster := BitVec.ofNat 8 roster, gen := BitVec.ofNat 32 gen,
                completion := true, broken := broken })
  exact ⟨hdone'.trans hdone, hmem'.trans hmem, fun q hq => hnet' q (hnet q hq)⟩

theorem State.barSend_pkg (d : Nat) (p : Nat × Nat) (completion : Bool) :
    (s.barSend d h p kind roster gen completion broken).pkg = s.pkg := by
  unfold State.barSend State.sendTo State.send
  split
  · rfl
  · cases hto : s.toPod _ _ with
    | none => rfl
    | some u =>
      obtain ⟨n, -, rfl⟩ := Option.map_eq_some_iff.1 hto
      rfl

/-- Every die of this package that is told has its completion under way. -/
theorem State.barTell_told (tgt : List (Nat × Nat)) : ∀ p ∈ tgt, p.1 = s.pkg →
    ∃ q ∈ (s.barTell h kind roster gen broken tgt).net, q.hdr.dstSock = BitVec.ofNat 5 p.2 ∧
      ∃ c, q.body = .barrier c ∧ c.completion = true ∧ c.handle = h ∧ c.gen = BitVec.ofNat 32 gen := by
  induction tgt generalizing s with
  | nil => exact fun p hp => absurd hp (by simp)
  | cons x tgt ih =>
    intro p hp hhere
    rcases List.mem_cons.1 hp with rfl | hp
    · have hlt : s.pkg < 256 := (s.podrt.get PodRt.reset 24).pkg.isLt
      let hdr : PktHdr := { s.hdr (handleCtx h) 0 (s.leaderOf s.pkg) p.2 with dstPkg := BitVec.ofNat 8 p.1 }
      let c : BarrierB := { handle := h, kind := BitVec.ofNat 3 kind, roster := BitVec.ofNat 8 roster, gen := BitVec.ofNat 32 gen,
                            completion := true, broken := broken }
      have hdst : hdr.dstPkg.toNat = s.pkg := by
        show (BitVec.ofNat 8 p.1).toNat = s.pkg
        rw [hhere, BitVec.toNat_ofNat]
        exact Nat.mod_eq_of_lt hlt
      have hsent : s.barSend (s.leaderOf s.pkg) h p kind roster gen true broken = { s with net := s.net ++ [⟨hdr, .barrier c⟩] } := if_pos hdst
      refine ⟨⟨hdr, .barrier c⟩, ?_, rfl, c, rfl, rfl, rfl, rfl⟩
      refine (State.barTell_keeps _ h kind roster gen broken tgt).2.2 _ ?_
      show _ ∈ (s.barSend (s.leaderOf s.pkg) h p kind roster gen true broken).net
      rw [hsent]
      exact List.mem_append_right _ List.mem_cons_self
    · exact ih (s.barSend (s.leaderOf s.pkg) h x kind roster gen true broken) p hp (hhere.trans (State.barSend_pkg ..).symm)
end

theorem State.barReached_of_barDone {s t : State} (h : t.barDone = s.barDone) (g : Handle) (key id gen : Nat) :
    t.barReached g key id gen = s.barReached g key id gen := by
  unfold State.barReached
  rw [h]

theorem State.barBroken_of_barDone {s t : State} (h : t.barDone = s.barDone) (g : Handle) (kind id gen : Nat) :
    t.barBroken g kind id gen = s.barBroken g kind id gen := by
  unfold State.barBroken
  rw [h]

/-- Settles O49: the parts of a contribution, the parts of a result, and what an arrival, a completion and a break do. -/
theorem collectivePackets : Obligations.CollectivePackets := by
  unfold Obligations.CollectivePackets
  refine ⟨?collW, ?resultW, ?barrierW⟩
  case collW =>
    intro s h b g first rest hg d roster gen tgt p s1 whole hmembers
    refine ⟨fun htgt => exec_coll_elsewhere hg htgt, fun htgt hplace hnew hbroken => ⟨fun hnone => ?_, fun i r rs hrred hissue hwhole => ?_⟩⟩
    · rw [exec_coll_here hg hmembers htgt hplace hnew]
      exact congrArg Host.Outcome.next (State.collCheck_waits hmembers hbroken hnone)
    · rw [exec_coll_here hg hmembers htgt hplace hnew]
      rw [hrred] at hbroken
      have hreduces := State.collCheck_reduces (s := s1) (d := d) hmembers hbroken hissue
        (by rw [← hwhole]; exact List.map_congr_left fun m _ => by simp only [whole, State.contributed, hrred])
      rw [hrred]
      exact congrArg Host.Outcome.next hreduces
  case resultW =>
    intro s h b g i hg isIt hissue k got all
    have hexec : exec (.collres h b) s = if all.length < k.len then
          .next { s with colls := s.colls.map fun c => if isIt c then { c with got := got } else c }
        else .next (({ s.putOwn h.dstSock.toNat g.handle i.lin k.doff (all.take k.len) with
            colls := (s.putOwn h.dstSock.toNat g.handle i.lin k.doff (all.take k.len)).colls.filter fun c => !isIt c }).updWaiting
          i.thread i.waitId fun b => (b.addStatus (s.cyc i.thread.die) (BitVec.ofNat 6 (h.tag.toNat / 2 ^ 14))).dropWait i.waitId) := by
      show execCollres h b s = _
      unfold execCollres
      rw [hg]
      show (match s.colls.find? isIt with | none => _ | some i => _) = _
      rw [hissue]
    refine ⟨fun hmore => hexec.trans (if_pos hmore), fun hwhole => ⟨_, hexec.trans (if_neg (Nat.not_lt.2 hwhole)), rfl, fun c => ?_⟩⟩
    show c ∈ List.filter _ (State.putOwn ..).colls ↔ _
    rw [State.putOwn_colls, List.mem_filter, Bool.not_eq_true']
  case barrierW =>
    intro s h b g kind roster gen d
    refine ⟨fun hcompl hwhole => ?_, fun hcompl hbroken => ?_, fun harrival hbroken hg => ?_, fun harrival hwhole hg hhere hnew => ⟨fun hwaits => ?_, fun hdone => ?_⟩⟩
    · refine ⟨_, (if_pos hcompl).trans (congrArg Host.Outcome.next (if_neg (ne_true_of_eq_false hwhole))), rfl, ?_⟩
      exact State.barReached_setBarDone ..
    · refine ⟨_, (if_pos hcompl).trans (congrArg Host.Outcome.next (if_pos hbroken)), ?_, ?_⟩
      · split
        · exact State.updOwner_mem ..
        · rfl
      · split
        · rw [State.barBroken_of_barDone (State.updOwner_barDone ..)]
          exact State.barBroken_breakAll ..
        · exact State.barBroken_breakAll ..
    · have hexec : exec (.barrier h b) s = .next ((s.breakAll b.handle [(kind, roster, gen)]).barTell b.handle kind roster gen true
          ((s.barPlaces g kind).filter fun p => p.1 != s.pkg)) := by
        refine (if_neg (ne_true_of_eq_false harrival)).trans ?_
        rw [hg]
        exact if_pos hbroken
      obtain ⟨hkeeps, hmem, -⟩ := (s.breakAll b.handle [(kind, roster, gen)]).barTell_keeps b.handle kind roster gen true
        ((s.barPlaces g kind).filter fun p => p.1 != s.pkg)
      exact ⟨_, hexec, hmem, (State.barBroken_of_barDone hkeeps ..).trans (State.barBroken_breakAll ..)⟩
    all_goals
      have hexec : exec (.barrier h b) s = if s.barReached b.handle kind roster gen || !s.barComplete g kind roster gen then .next s
          else .next ((s.setBarDone b.handle kind roster gen).barTell b.handle kind roster gen false (s.barPlaces g kind)) := by
        refine (if_neg (ne_true_of_eq_false harrival)).trans ?_
        rw [hg]
        refine (if_neg (ne_true_of_eq_false hwhole)).trans ?_
        rw [if_pos hhere]
        rfl
    · rw [hexec, hwaits]
      exact if_pos (Bool.or_true _)
    · rw [hnew, hdone] at hexec
      obtain ⟨hkeeps, hmem, -⟩ := (s.setBarDone b.handle kind roster gen).barTell_keeps b.handle kind roster gen false (s.barPlaces g kind)
      refine ⟨_, hexec.trans (if_neg (by decide)), (State.barReached_of_barDone hkeeps ..).trans (State.barReached_setBarDone ..), hmem, ?_⟩
      exact (s.setBarDone b.handle kind roster gen).barTell_told b.handle kind roster gen false (s.barPlaces g kind)

end Sys2Proof.Machine
end

section
/-!
Launches: tokens, their sequencing, the notices to the dies, and the health of another package.
-/
namespace Sys2Proof.Machine

/-! ## Tokens -/

theorem State.queueOf_updQueue (s : State) (c q : Nat) (f : LaunchQ → LaunchQ) : (s.updQueue c q f).queueOf c q = f (s.queueOf c q) :=
  Tbl.get_set_self ..

/-- What a token that is written whole needs to join its queue. -/
def State.tokenGood (s : State) (c q : Nat) (bytes : List Byte) : Prop :=
  (s.ctxOf c).st ≠ .free ∧ c ≠ 0 ∧ q < modeQueues (s.ctxOf c).mode.toNat ∧ (s.queueOf c q).toks.length < 64 ∧ tokMalformed bytes false = false

theorem State.tokenArrive_good {s : State} {c q : Nat} {bytes : List Byte} (h : s.tokenGood c q bytes) : (s.tokenArrive c q bytes none).1 =
    s.updQueue c q fun y => { y with toks := y.toks ++ [{ bytes := bytes, pos := (s.queueOf c q).nextPos, submitter := none }],
                                     nextPos := y.nextPos + 1 } := by
  obtain ⟨hst, hc, hq, hroom, hform⟩ := h
  refine congrArg Prod.fst (if_neg ?_)
  rintro (h | h | h | h | h)
  · exact hst h
  · exact hc h
  · omega
  · omega
  · exact Bool.false_ne_true (hform.symm.trans h)

theorem State.tokenArrive_bad {s : State} {c q : Nat} {bytes : List Byte} (h : ¬s.tokenGood c q bytes) :
    (s.tokenArrive c q bytes none).1 = s.countDrop c q := by
  refine congrArg Prod.fst (if_pos ?_)
  by_contra hno
  push Not at hno
  obtain ⟨hst, hc, hq, hroom, hform⟩ := hno
  exact h ⟨hst, hc, hq, hroom, Bool.eq_false_iff.2 hform⟩

theorem exec_tokenWrite {s : State} {addr : W64} {bytes : List Byte} (hlo : s.disp.apBase.toNat ≤ addr.toNat)
    (hhi : addr.toNat < s.disp.apBase.toNat + 4096 * 4096) : exec (.launchTokenWrite addr bytes) s =
      if addr.toNat % 4096 ≠ 0 ∨ bytes.length ≠ 64 then
        .next (s.countDrop ((addr.toNat - s.disp.apBase.toNat) / 4096 / 64) ((addr.toNat - s.disp.apBase.toNat) / 4096 % 64))
      else .next (s.tokenArrive ((addr.toNat - s.disp.apBase.toNat) / 4096 / 64) ((addr.toNat - s.disp.apBase.toNat) / 4096 % 64) bytes none).1 :=
  if_neg (by omega)

/-! ## Sequencing -/

theorem foldl_updGridDie_disp (h : Handle) (f : State → Nat → GridDie → GridDie) (ds : List Nat) (s : State) :
    (ds.foldl (fun (s : State) d => s.updGridDie d h (f s d)) s).disp = s.disp :=
  foldl_keeps (P := fun u : State => u.disp = s.disp) rfl fun _ _ hu => hu

theorem State.gridOf_addGrid (s : State) (g : Grid) : (s.addGrid g).gridOf g.handle = some g := by
  have hdisp : (s.addGrid g).disp = { s.disp with grids := s.disp.grids.set g.handle.toNat g } :=
    foldl_updGridDie_disp g.handle _ _ _
  unfold State.gridOf
  rw [hdisp]
  exact Tbl.find?_set_self ..

theorem State.ctxOf_addGrid (s : State) (g : Grid) (c : Nat) : (s.addGrid g).ctxOf c = s.ctxOf c :=
  foldl_keeps (P := fun u : State => u.ctxOf c = s.ctxOf c) rfl fun _ _ hu => hu

/-- The grid of a launch of this package that nothing refuses. -/
def Forwarded.grid (f : Forwarded) (h : Handle) (pkg : Nat) : Grid :=
  { handle := h, seq := h.toNat / 256, srcPkg := pkg, queue := f.queue, pos := f.pos, utag := tokUtag f.bytes, doneVA := tokDone f.bytes,
    launch := f.launch, khdr := f.khdr, rosters := f.rosters, own := OwnerSt.reset, reason := 0, submitter := none }

theorem State.acceptOwn_starts {s : State} {h : Handle} {f : Forwarded} (hreason : f.reason = 0) (hsub : f.submitter = none)
    (hafter : f.launch.after = 0) (hctx : (s.ctxOf f.ctx.toNat).st = .active) :
    s.acceptOwn h f 0 = ({ s with disp := { s.disp with forwarded := s.disp.forwarded.erase f } }).addGrid (f.grid h s.pkg) := by
  have hfield : field (0 : W64).toNat 48 8 = 0 := by decide
  unfold State.acceptOwn
  dsimp only
  rw [if_neg (not_not.2 hreason), hfield, hsub, if_neg (show ¬(0 : Nat) = 2 by decide),
    if_neg (show ¬(0 : Nat) ≠ 0 by decide)]
  have hactive : (({ s with disp := { s.disp with forwarded := s.disp.forwarded.erase f } }).addGrid (f.grid h s.pkg)).ctxOf f.ctx.toNat =
      s.ctxOf f.ctx.toNat := State.ctxOf_addGrid ..
  have hdep (u : State) : u.depFailed f.launch = false := by simp [State.depFailed, hafter]
  refine (if_neg ?_).trans (if_neg ?_)
  · exact not_not.2 ((congrArg Ctx.st hactive).trans hctx)
  · rw [hdep]
    exact Bool.false_ne_true

/-! ## Notices -/

theorem State.updDisp_congr (s : State) (d : Nat) {f g : DieDisp → DieDisp} (h : f (s.dieOf d).disp = g (s.dieOf d).disp) :
    s.updDisp d f = s.updDisp d g := by
  unfold State.updDisp State.updDie
  dsimp only
  rw [h]

theorem State.disp_updDisp (s : State) (d : Nat) (f : DieDisp → DieDisp) : ((s.updDisp d f).dieOf d).disp = f (s.dieOf d).disp :=
  congrArg Die.disp (State.dieOf_updDie ..)

theorem State.updGridDie_notices (s : State) (d : Nat) (h : Handle) (f : GridDie → GridDie) :
    ((s.updGridDie d h f).dieOf d).disp.nextSeq = (s.dieOf d).disp.nextSeq ∧
      ((s.updGridDie d h f).dieOf d).disp.notices = (s.dieOf d).disp.notices := by
  unfold State.updGridDie
  rw [State.disp_updDisp]
  exact ⟨rfl, rfl⟩

/-- What is left of a die's notices, and the grid's mark on the die, when it begins to ask for ranges. -/
theorem State.wantRange_keeps (s : State) (d : Nat) (h : Handle) :
    ((s.wantRange d h).dieOf d).disp.nextSeq = (s.dieOf d).disp.nextSeq ∧ ((s.wantRange d h).dieOf d).disp.notices = (s.dieOf d).disp.notices ∧
      ((s.wantRange d h).gridDie d h).involved = (s.gridDie d h).involved := by
  unfold State.wantRange
  split
  · exact ⟨rfl, rfl, rfl⟩
  · dsimp only
    split
    · exact ⟨rfl, rfl, rfl⟩
    · have hdie := State.dieOf_of_dies (State.sendTo_keeps (s.updGridDie d h fun y => { y with asking := true }) (handleCtx h) 0 d (s.ownerAt h)
        (.rangereq h)).1 d
      rw [State.gridDie_of_disp (congrArg Die.disp hdie), State.gridDie_updGridDie, hdie]
      obtain ⟨hseq, hnotices⟩ := s.updGridDie_notices d h fun y => { y with asking := true }
      exact ⟨hseq, hnotices, rfl⟩

theorem State.disp_retarget (s : State) (d : Nat) : ((s.retarget d).dieOf d).disp = (s.dieOf d).disp := by
  unfold State.retarget
  rw [State.dieOf_updDie]

/-- The state once the turn of a notice has passed at a die. -/
def State.noticed (s : State) (d : Nat) (n : Notice) : State :=
  s.updDisp d fun x => { x with nextSeq := n.handle.toNat / 256 + 1, notices := x.notices.filter fun m => m != n }

theorem State.noticed_spec (s : State) (d : Nat) (n : Notice) :
    ((s.noticed d n).dieOf d).disp.nextSeq = n.handle.toNat / 256 + 1 ∧ n ∉ ((s.noticed d n).dieOf d).disp.notices := by
  unfold State.noticed
  rw [State.disp_updDisp]
  simp

/-- The grid of a notice begins at a die. -/
def State.gridBegins (s : State) (d : Nat) (h : Handle) : State :=
  ((s.updGridDie d h fun y => { y with involved := true }).retarget d).wantRange d h

theorem State.gridBegins_spec (s : State) (d : Nat) (h : Handle) : ((s.gridBegins d h).dieOf d).disp.nextSeq = (s.dieOf d).disp.nextSeq ∧
    ((s.gridBegins d h).dieOf d).disp.notices = (s.dieOf d).disp.notices ∧ ((s.gridBegins d h).gridDie d h).involved = true := by
  obtain ⟨hseq, hnotices, hinv⟩ := ((s.updGridDie d h fun y => { y with involved := true }).retarget d).wantRange_keeps d h
  have hdisp := (s.updGridDie d h fun y => { y with involved := true }).disp_retarget d
  obtain ⟨hseq', hnotices'⟩ := s.updGridDie_notices d h fun y => { y with involved := true }
  refine ⟨hseq.trans ?_, hnotices.trans ?_, hinv.trans ?_⟩
  · rw [hdisp, hseq']
  · rw [hdisp, hnotices']
  · rw [State.gridDie_of_disp hdisp, State.gridDie_updGridDie]

/-- A grid that places crews on a die. -/
def State.placesOn (s : State) (d : Nat) (n : Notice) (g : Grid) : Prop :=
  n.cw = 0 ∧ !g.own.isEnded ∧ (g.launch.pkgs g.srcPkg).contains s.pkg ∧ (s.placementIn (handleCtx n.handle).toNat s.pkg).contains d

theorem State.actNotice_cases (s : State) (d : Nat) (n : Notice) :
    s.actNotice d n = (s.noticed d n).gridBegins d n.handle ∨
      s.actNotice d n = s.noticed d n ∧ ∀ g, s.gridOf n.handle = some g → ¬s.placesOn d n g := by
  cases hg : s.gridOf n.handle with
  | none =>
    refine .inr ⟨?_, fun g h => absurd h (by simp)⟩
    show (match s.gridOf n.handle with | none => s.noticed d n | some g => _) = _
    rw [hg]
  | some g =>
    have hg' : (s.noticed d n).gridOf n.handle = some g := hg
    unfold State.noticed at hg'
    by_cases hplaces : s.placesOn d n g
    · left
      unfold State.actNotice
      dsimp only
      rw [hg']
      exact if_pos hplaces
    · right
      refine ⟨?_, fun x hx => by rwa [← Option.some.inj hx]⟩
      unfold State.actNotice
      dsimp only
      rw [hg']
      exact if_neg hplaces

theorem State.actNotice_spec (s : State) (d : Nat) (n : Notice) :
    (s.actNotice d n).mem = s.mem ∧ ((s.actNotice d n).dieOf d).disp.nextSeq = n.handle.toNat / 256 + 1 ∧
      n ∉ ((s.actNotice d n).dieOf d).disp.notices ∧
      ∀ x, s.gridOf n.handle = some x → n.cw = 0 → x.own.isEnded = false → s.pkg ∈ x.launch.pkgs x.srcPkg →
        d ∈ s.placementIn (handleCtx n.handle).toNat s.pkg → ((s.actNotice d n).gridDie d n.handle).involved = true := by
  obtain ⟨hseq, hgone⟩ := s.noticed_spec d n
  rcases s.actNotice_cases d n with hact | ⟨hact, hnot⟩ <;> rw [hact]
  · obtain ⟨hseq', hnotices', hinv⟩ := (s.noticed d n).gridBegins_spec d n.handle
    rw [hseq', hnotices']
    exact ⟨State.wantRange_mem .., hseq, hgone, fun _ _ _ _ _ _ => hinv⟩
  · refine ⟨rfl, hseq, hgone, fun x hx hcw hended hpkg hplace => absurd ?_ (hnot x hx)⟩
    exact ⟨hcw, by rw [hended]; rfl, List.contains_iff_mem.2 hpkg, List.contains_iff_mem.2 hplace⟩

/-! ## The health of another package -/

/-- What the loss of a die of another package leaves alone: all but the landing slots in use, where no enqueue is under way. -/
structure HealthFrame (s t : State) : Prop where
  mem : t.mem = s.mem
  net : t.net = s.net
  host : t.host = s.host
  podrt : t.podrt = s.podrt
  disp : t.disp = s.disp
  tags : ∀ d, (t.dieOf d).tags = (s.dieOf d).tags

theorem State.clearTransfers_frame {s t : State} {pkg : Nat} (hs : HealthFrame s t) (hpkg : pkg ≠ s.pkg)
    (hnone : ∀ d, ∀ u ∈ (s.dieOf d).tags, ∀ t w g p e, u.2 ≠ .enq t w g p e) (e d : Nat) : HealthFrame s (t.clearTransfers e pkg d) := by
  obtain ⟨hmem, hnet, hhost, hpodrt, hdisp, htags⟩ := hs
  let t1 := t.updDisp e fun x => { x with enqUse := x.enqUse.filter fun u => !(u.2.1 == pkg && u.2.2.1 == d) }
  have htags1 (k : Nat) : (t1.dieOf k).tags = (s.dieOf k).tags := by
    rw [← htags]
    by_cases hk : k = e
    · subst hk
      show ((State.updDie t k _).dieOf k).tags = _
      rw [State.dieOf_updDie]
    · exact congrArg Die.tags (State.dieOf_updDie_ne _ _ hk)
  have hclear : t.clearTransfers e pkg d = t1 := by
    have hother : pkg ≠ t.pkg := by
      unfold State.pkg
      rw [hpodrt]
      exact hpkg
    unfold State.clearTransfers
    dsimp only
    rw [List.filterMap_eq_nil_iff.2, List.foldl_nil]
    · exact if_pos hother
    · intro u hu
      have hu : u ∈ (t1.dieOf e).tags := hu
      rw [htags1] at hu
      split
      · next heq => exact absurd heq (hnone e u hu _ _ _ _ _)
      · rfl
  rw [hclear]
  exact ⟨hmem, hnet, hhost, hpodrt, hdisp, htags1⟩

theorem HealthFrame.refl (s : State) : HealthFrame s s := ⟨rfl, rfl, rfl, rfl, rfl, fun _ => rfl⟩

theorem State.clearAll_frame {s : State} {pkg : Nat} (hpkg : pkg ≠ s.pkg)
    (hnone : ∀ d, ∀ u ∈ (s.dieOf d).tags, ∀ t w g p e, u.2 ≠ .enq t w g p e) (gone : List Nat) : HealthFrame s
      (gone.foldl (fun (s : State) d => (s.healthyDies s.pkg).foldl (fun (s : State) e => s.clearTransfers e pkg d) s) s) :=
  foldl_keeps (P := HealthFrame s) (.refl s) fun _ d hu =>
    foldl_keeps (P := HealthFrame s) hu fun _ e hv => State.clearTransfers_frame hv hpkg hnone e d

theorem State.reelect_of_noGrids {s : State} (h : s.disp.grids = []) : s.reelect none = s.elect := by
  have hmine : (s.elect.disp.grids.filter fun g => s.elect.ownsHere g.2).map (fun g => g.2.handle) = [] := by
    show (List.filter _ s.disp.grids).map _ = _
    rw [h]
    rfl
  unfold State.reelect
  dsimp only
  rw [hmine]
  simp

theorem State.livePackages_congr {s t : State} (hhost : t.host = s.host) (hpodrt : t.podrt = s.podrt) : t.livePackages = s.livePackages := by
  unfold State.livePackages State.podMembers State.healthyDies State.pkg
  rw [hhost, hpodrt]

/-- With no grid and no enqueue under way, the health of another package is noted, and an election follows. -/
theorem exec_health {s : State} {h : PktHdr} {mask : W32} (hgrids : s.disp.grids = []) (hmask : ∃ d, d < 8 ∧ mask.getLsbD d = true)
    (hfar : h.srcPkg.toNat ≠ s.pkg) (hnone : ∀ d, ∀ u ∈ (s.dieOf d).tags, ∀ t w g p e, u.2 ≠ .enq t w g p e) :
    ∃ t, exec (.health h mask) s = .next t ∧ t.mem = s.mem ∧ t.net = s.net ∧
      t.host = { s.host with peerHealth := s.host.peerHealth.set h.srcPkg.toNat mask } ∧
      t.disp.podldr = BitVec.ofNat 8 ((t.livePackages.min?).getD s.pkg) := by
  let s1 : State := { s with host := { s.host with peerHealth := s.host.peerHealth.set h.srcPkg.toNat mask } }
  have helect : s1.reelect none = s1.elect := State.reelect_of_noGrids hgrids
  have hup : (s1.healthyDies h.srcPkg.toNat).isEmpty = false := by
    obtain ⟨d, hd, hbit⟩ := hmask
    have hmem : d ∈ s1.healthyDies h.srcPkg.toNat := by
      unfold State.healthyDies
      rw [if_neg (show ¬h.srcPkg.toNat = s1.pkg from hfar)]
      refine List.mem_filter.2 ⟨List.mem_range.2 hd, ?_⟩
      show ((s.host.peerHealth.set h.srcPkg.toNat mask).get 0 h.srcPkg.toNat).toNat.testBit d = true
      rw [Tbl.get_set_self]
      exact hbit
    rw [List.isEmpty_eq_false_iff_exists_mem]
    exact ⟨d, hmem⟩
  have hmine (p : Nat × Grid → Bool) : (s1.elect.disp.grids.filter p).map (fun g => g.2.handle) = [] := by
    show (List.filter p s.disp.grids).map _ = _
    rw [hgrids]
    rfl
  let gone := (s.healthyDies h.srcPkg.toNat).filter fun d => !mask.getLsbD d
  let s4 := gone.foldl (fun (s : State) d =>
    (s.healthyDies s.pkg).foldl (fun (s : State) e => s.clearTransfers e h.srcPkg.toNat d) s) s1.elect
  have hframe : HealthFrame s1.elect s4 := State.clearAll_frame (s := s1.elect) hfar hnone gone
  have hrun : exec (.health h mask) s = .next { s4 with disp := { s4.disp with collect := s4.disp.collect.filter fun q => s4.livePackages.contains q } } := by
    show execHealth h mask s = _
    unfold execHealth
    dsimp only
    rw [helect, hup]
    simp only [hmine, Bool.and_false, Bool.false_and, Bool.false_eq_true, if_false, List.foldl_nil]
    rfl
  obtain ⟨hmem, hnet, hhost, hpodrt, hdisp, -⟩ := hframe
  refine ⟨_, hrun, hmem, hnet, hhost, ?_⟩
  refine (congrArg Disp.podldr hdisp).trans ?_
  have hlive : State.livePackages { s4 with disp := { s4.disp with collect := s4.disp.collect.filter fun q => s4.livePackages.contains q } } =
      s1.livePackages := State.livePackages_congr hhost hpodrt
  rw [hlive]
  rfl

/-- Settles O50: a token's way to its sequence number, the two parts of a notice, and what another package's health does. -/
theorem launchSequence : Obligations.LaunchSequence := by
  unfold Obligations.LaunchSequence
  refine ⟨?writeW, ?takeW, ?againW, ?sequenceW, ?noticeW, fun _ _ _ => rfl, fun s h mask hgrids hmask hfar hnone => exec_health hgrids hmask hfar hnone⟩
  case writeW =>
    intro s addr bytes base n c q x k good haligned hlo hhi
    have hexec := exec_tokenWrite (bytes := bytes) hlo hhi
    have hmod : addr.toNat % 4096 = (addr.toNat - base) % 4096 := by omega
    by_cases hgood : good
    · obtain ⟨halign, hlen, hrest⟩ := hgood
      refine ⟨_, hexec.trans (if_neg (by omega)), ?_, fun _ => ?_, fun hno => absurd ⟨halign, hlen, hrest⟩ hno⟩
      · rw [State.tokenArrive_good hrest]
        rfl
      · rw [State.tokenArrive_good hrest]
        exact State.queueOf_updQueue ..
    · by_cases hform : addr.toNat % 4096 ≠ 0 ∨ bytes.length ≠ 64
      · exact ⟨_, hexec.trans (if_pos hform), rfl, fun h => absurd h hgood, fun _ => State.queueOf_updQueue ..⟩
      · have hbad : ¬s.tokenGood c q bytes := fun h => hgood ⟨by omega, by omega, h⟩
        refine ⟨_, hexec.trans (if_neg hform), ?_, fun h => absurd h hgood, fun _ => ?_⟩
        · rw [State.tokenArrive_bad hbad]
          rfl
        · rw [State.tokenArrive_bad hbad]
          exact State.queueOf_updQueue ..
  case takeW =>
    intro s tok rest c q v f ldr htoks hhealthy
    have hsome : ¬(s.healthyDies s.pkg).isEmpty = true := by rwa [List.isEmpty_iff]
    let u := s.updQueue c q fun x => { x with toks := rest }
    refine ⟨{ u with disp := { u.disp with forwarded := u.disp.forwarded ++ [f] } }, ?_, ?_, rfl, rfl, rfl⟩
    · show execTokenTake s = _
      unfold execTokenTake
      dsimp only
      rw [htoks]
      exact if_neg hsome
    · show ((s.updQueue c q fun x => { x with toks := rest }).queueOf c q).toks = rest
      rw [State.queueOf_updQueue]
  case againW =>
    intro s q f hf hdue ldr
    show execTokenForwardTimeout q s = _
    unfold execTokenForwardTimeout
    rw [hf]
    refine (if_neg (Nat.not_lt.2 hdue)).trans ?_
    simp only [beq_iff_eq]
    rfl
  case sequenceW =>
    intro s h q tok f isIt seq a hldr hdie hcollect hsrc hnew hf s1
    have hgo : ¬(s.disp.podldr.toNat ≠ s.pkg ∨ h.dstSock.toNat ≠ s.leaderOf s.pkg ∨ !s.disp.collect.isEmpty) := by
      rw [hcollect]
      simp [hldr, hdie]
    constructor
    · show execToken h q tok s = _
      unfold execToken
      dsimp only
      rw [hsrc, if_neg hgo, hnew]
      dsimp only
      have hsame : s.pkg = s.pkg := rfl
      rw [if_pos hsame, hf]
      dsimp only
      rw [if_pos hsame, if_pos hsame]
    · intro hreason hsub hafter hctx hactive hseq hqueue
      have hcw : a.cw = 0 := if_pos hreason
      have hfresh : ¬({ s with disp := { s.disp with nextSeq := seq + 1 } } : State).disp.assigned.any (fun x => x.seq == a.seq) = true := by
        rw [List.any_eq_true]
        rintro ⟨x, hx, heq⟩
        exact hseq x hx (beq_iff_eq.1 heq)
      have hs1 : s1 = ({ s with disp := { s.disp with nextSeq := seq + 1, assigned := s.disp.assigned ++ [a] } } : State).acceptOwn
          (mkHandle seq q.ctx.toNat) f a.cw := by
        refine (if_neg hfresh).trans ((if_pos rfl).trans ?_)
        show (match s.disp.forwarded.find? _ with | some f => _ | none => _) = _
        rw [hf]
      rw [hs1, hcw, State.acceptOwn_starts hreason hsub hafter (by rw [hctx]; exact hactive)]
      exact State.gridOf_addGrid _ (f.grid (mkHandle seq q.ctx.toNat) s.pkg)
  case noticeW =>
    intro s h g q cw lo hi d n full
    refine ⟨fun hhere => if_neg (not_not.2 hhere), fun hfar hg => ?_, fun hhere hnotices hseq => ?_, s.actNotice_spec d full, fun hfar hinbox => ?_⟩
    · have hsays : s.ownerSays g cw = none := by
        unfold State.ownerSays
        rw [hg]
      refine (if_pos hfar).trans ?_
      rw [hsays]
    · have hfill : (s.updDisp d fun x => { x with notices := x.notices.map fun n => if n.handle = g then { n with hi := some hi } else n }) =
          s.updDisp d fun x => { x with notices := [full] } := by
        refine s.updDisp_congr d ?_
        rw [hnotices]
        simp [n, full]
      refine (if_neg (not_not.2 hhere)).trans ?_
      show Host.Outcome.next (State.actNotices (s.updDisp d fun x => { x with notices := x.notices.map fun n =>
        if n.handle = g then { n with hi := some hi } else n }) d) = _
      rw [hfill]
      unfold State.actNotices
      rw [State.disp_updDisp]
      refine congrArg Host.Outcome.next (if_neg ?_)
      rw [State.disp_updDisp]
      exact Nat.not_lt.2 hseq
    · refine (if_pos hfar).trans ?_
      rw [hinbox, List.find?_cons_of_pos (by simp [n])]
      dsimp only
      rw [List.erase_cons_head]

end Sys2Proof.Machine
end

section
/-!
The counter of a grid: grants and their mirror, ranges at a die, sweeps, completion and cancel.
-/
namespace Sys2Proof.Machine

/-! ## The owner's record of a grid -/

theorem State.gridOf_updOwner {s : State} {g : Handle} {x : Grid} (hg : s.gridOf g = some x) (f : OwnerSt → OwnerSt) :
    (s.updOwner g f).gridOf g = some { x with own := f x.own } := by
  unfold State.updOwner State.updGrid
  rw [hg]
  exact Tbl.find?_set_self ..

/-- The owner's record is all that a change of it changes. -/
theorem State.updOwner_keeps (s : State) (g : Handle) (f : OwnerSt → OwnerSt) :
    (s.updOwner g f).dies = s.dies ∧ (s.updOwner g f).mem = s.mem ∧ (s.updOwner g f).net = s.net ∧
      (s.updOwner g f).disp.depv = s.disp.depv := by
  unfold State.updOwner State.updGrid
  split <;> exact ⟨rfl, rfl, rfl, rfl⟩

theorem State.net_sendTo_here (s : State) (ctx : B6) (tag src sock : Nat) (b : Body) :
    (s.sendTo ctx tag src (s.pkg, sock) b).net =
      s.net ++ [⟨{ s.hdr ctx tag src sock with dstPkg := BitVec.ofNat 8 s.pkg }, b⟩] := by
  have hpkg : (BitVec.ofNat 8 s.pkg).toNat = s.pkg := Nat.mod_eq_of_lt (BitVec.isLt _)
  unfold State.sendTo State.send
  rw [if_pos hpkg]

theorem State.gridOf_sendTo (s : State) (ctx : B6) (tag src : Nat) (dst : Nat × Nat) (b : Body) (g : Handle) :
    (s.sendTo ctx tag src dst b).gridOf g = s.gridOf g := by
  unfold State.sendTo State.send
  split
  · rfl
  · unfold State.toPod
    cases s.podPortFor _ _ <;> rfl

/-! ## Requests and grants -/

/-- A request of a die that is answered now: what is dealt again first, then the next indices, then nothing. -/
theorem State.grantTo_dealing {s : State} {g : Handle} {x : Grid} (tgt : Nat × Nat) (hg : s.gridOf g = some x)
    (hst : x.own.st = .waiting ∨ (x.own.st = .running ∧ x.own.stopDeal = false)) (hdep : s.depReady x.launch = true)
    (hcopy : ∀ p ∈ x.own.pendMirror, p.copy = false) :
    s.grantTo g tgt = match x.own.replay with
      | r :: rest => (s.updOwner g fun o => { o with replay := rest }).grantRange g tgt r.first r.count true
      | [] =>
        if x.own.next < x.launch.crews then s.grantRange g tgt x.own.next (min x.launch.deal (x.launch.crews - x.own.next)) false
        else s.reply0 g tgt := by
  have hnone : (x.own.pendMirror.any fun p => p.copy) = false := List.any_eq_false.2 fun p hp => ne_true_of_eq_false (hcopy p hp)
  unfold State.grantTo
  rw [hg]
  dsimp only
  rw [hdep, hnone]
  rcases hst with hst | ⟨hst, hstop⟩
  · rw [hst]
    rfl
  · rw [hst, hstop]
    rfl

/-- The owner's record once a grant has been made out, before it goes to the deputy. -/
def OwnerSt.granted (o : OwnerSt) (tgt : Nat × Nat) (first count : Nat) : OwnerSt :=
  { o with st := .running, next := first + count,
           ranges := (o.ranges.filter fun r => r.first != first) ++
             [{ first := first, count := count, pkg := tgt.1, die := tgt.2, retired := false, lost := false, replayed := false }] }

theorem State.mirror_deputy {s : State} (hdepv : s.disp.depv = true) (g : Handle) (p : PendMirror) (pkg die : Nat) :
    s.mirror g p pkg die = (s.updOwner g fun o => { o with pendMirror := o.pendMirror ++ [p] }).sendTo (handleCtx g) (mirrorTag pkg die)
      (s.leaderOf s.pkg) (s.pkg, s.disp.deputy.toNat) (if p.retirement then .retire p.body else .range p.body) := if_pos hdepv

/-- A grant is recorded at the owner, and its mirror goes to the deputy. -/
theorem State.grantRange_eq (s : State) (g : Handle) (tgt : Nat × Nat) (first count : Nat) :
    ∃ p : PendMirror, s.grantRange g tgt first count false = (s.updOwner g fun o => o.granted tgt first count).mirror g p tgt.1 tgt.2 ∧
      p.dest = some tgt ∧ p.retirement = false ∧ p.body.first = BitVec.ofNat 64 first ∧ p.body.count = BitVec.ofNat 32 count :=
  ⟨_, rfl, rfl, rfl, rfl, rfl⟩

/-- A packet that the owner of a grid sends within its package, after changes of its record. -/
theorem State.net_sendTo_updOwner (s : State) (g : Handle) (f k : OwnerSt → OwnerSt) (ctx : B6) (tag : Nat) (b : Body) :
    let t := s.updOwner g f
    ((t.updOwner g k).sendTo ctx tag (t.leaderOf t.pkg) (t.pkg, t.disp.deputy.toNat) b).net =
      s.net ++ [⟨{ s.hdr ctx tag (s.leaderOf s.pkg) s.disp.deputy.toNat with dstPkg := BitVec.ofNat 8 s.pkg }, b⟩] := by
  have hsame : ∀ (u : State) (h : OwnerSt → OwnerSt), (u.updOwner g h).pkg = u.pkg ∧ (u.updOwner g h).leaderOf = u.leaderOf ∧
      (u.updOwner g h).net = u.net ∧ (u.updOwner g h).hdr = u.hdr ∧ (u.updOwner g h).disp.deputy = u.disp.deputy := by
    intro u h
    unfold State.updOwner State.updGrid
    split <;> exact ⟨rfl, rfl, rfl, rfl, rfl⟩
  intro t
  obtain ⟨hpkg, hleader, hnet, hhdr, hdeputy⟩ := hsame s f
  obtain ⟨hpkg', -, hnet', hhdr', -⟩ := hsame t k
  rw [← hpkg', State.net_sendTo_here, hnet', hhdr', hpkg', hnet, hhdr, hpkg, hleader, hdeputy]

theorem State.grantRange_deputy {s : State} {g : Handle} {x : Grid} (hg : s.gridOf g = some x) (hdepv : s.disp.depv = true)
    (tgt : Nat × Nat) (first count : Nat) :
    ∃ x', (s.grantRange g tgt first count false).gridOf g = some x' ∧ ∃ p : PendMirror,
      x'.own = { x.own.granted tgt first count with pendMirror := x.own.pendMirror ++ [p] } ∧ p.dest = some tgt ∧
      p.body.first = BitVec.ofNat 64 first ∧ p.body.count = BitVec.ofNat 32 count ∧
      (s.grantRange g tgt first count false).net = s.net ++
        [⟨{ s.hdr (handleCtx g) (mirrorTag tgt.1 tgt.2) (s.leaderOf s.pkg) s.disp.deputy.toNat with dstPkg := BitVec.ofNat 8 s.pkg },
          .range p.body⟩] := by
  obtain ⟨p, hgrant, hdest, hret, hfirst, hcount⟩ := s.grantRange_eq g tgt first count
  obtain ⟨-, -, -, hdep⟩ := s.updOwner_keeps g fun o => o.granted tgt first count
  have hgranted := State.gridOf_updOwner hg fun o => o.granted tgt first count
  rw [hgrant, State.mirror_deputy (hdep.trans hdepv), hret]
  exact ⟨_, (State.gridOf_sendTo ..).trans (State.gridOf_updOwner hgranted _), p, rfl, hdest, hfirst, hcount,
    State.net_sendTo_updOwner ..⟩

theorem exec_mirrorack {s : State} {h : PktHdr} {g : Handle} {first : W64} {x : Grid} {p : PendMirror} {tgt : Nat × Nat}
    (hg : s.gridOf g = some x) (hp : x.own.pendMirror.find? (fun p => p.body.first == first) = some p) (hdest : p.dest = some tgt) :
    exec (.mirrorack h g first) s = .next (((s.updOwner g fun o => { o with pendMirror := o.pendMirror.erase p }).sendTo (handleCtx g) 0
      (s.leaderOf s.pkg) tgt (.range p.body)).serveAsked g) := by
  show execMirrorack h g first s = _
  have hleader : ∀ f, (s.updOwner g f).leaderOf (s.updOwner g f).pkg = s.leaderOf s.pkg := by
    intro f
    unfold State.updOwner State.updGrid
    rw [hg]
    rfl
  unfold execMirrorack
  rw [hg]
  dsimp only
  rw [hp]
  dsimp only
  rw [hdest]
  dsimp only
  rw [hleader]

/-! ## A range at its die -/

theorem mem_queueCluster_self (q : List QCluster) (c : QCluster) : c ∈ queueCluster q c := by
  unfold queueCluster
  split <;> simp

theorem mem_queueCluster_of_mem {q : List QCluster} {x : QCluster} (c : QCluster) (hx : x ∈ q) : x ∈ queueCluster q c := by
  have hsplit : ∀ f : QCluster → Bool, x ∈ q.takeWhile f ++ [c] ++ q.dropWhile f := by
    intro f
    have hmem : x ∈ q.takeWhile f ++ q.dropWhile f := by rwa [List.takeWhile_append_dropWhile]
    rcases List.mem_append.1 hmem with h | h <;> simp [h]
  unfold queueCluster
  split
  · exact hsplit _
  · exact hsplit _

theorem mem_flatten_modify {α : Type} {qs : List (List α)} {x : α} {f : List α → List α} (hf : ∀ q, x ∈ q → x ∈ f q) (p : Nat)
    (hx : x ∈ qs.flatten) : x ∈ (qs.modify p f).flatten := by
  induction qs generalizing p with
  | nil => simp at hx
  | cons q qs ih =>
    rw [List.flatten_cons, List.mem_append] at hx
    cases p with
    | zero =>
      rw [List.modify_zero_cons, List.flatten_cons, List.mem_append]
      exact hx.imp_left (hf q)
    | succ p =>
      rw [List.modify_succ_cons, List.flatten_cons, List.mem_append]
      exact hx.imp_right (ih p)

theorem mem_flatten_modify_self {α : Type} {qs : List (List α)} {x : α} {f : List α → List α} (hf : ∀ q, x ∈ f q) {p : Nat}
    (hp : p < qs.length) : x ∈ (qs.modify p f).flatten :=
  List.mem_flatten.2 ⟨f qs[p], List.mem_iff_getElem.2 ⟨p, by simpa using hp, by simp⟩, hf _⟩

/-- The placement queues of a die. -/
abbrev State.queuesOf (s : State) (d : Nat) : List (List QCluster) := (s.dieOf d).disp.queues

theorem State.enqueueCluster_queues (s : State) (d prio : Nat) (c : QCluster) :
    (s.enqueueCluster d prio c).queuesOf d = (s.queuesOf d).modify prio fun q => queueCluster q c := by
  unfold State.queuesOf State.enqueueCluster
  rw [State.disp_updDisp]

theorem State.enqueueCluster_gridDie (s : State) (d prio : Nat) (c : QCluster) (g : Handle) :
    (s.enqueueCluster d prio c).gridDie d g = s.gridDie d g := by
  unfold State.gridDie State.enqueueCluster
  rw [State.disp_updDisp]

/-- Clusters that enter the queues of a die in turn all stand there, and the die's record of the grid is as before. -/
theorem State.enqueueAll_spec (d : Nat) {prio : Nat} (g : Handle) (cluster : Nat → QCluster) (is : List Nat) (s : State) :
    let t := is.foldl (fun (s : State) i => s.enqueueCluster d prio (cluster i)) s
    t.gridDie d g = s.gridDie d g ∧ (∀ c ∈ (s.queuesOf d).flatten, c ∈ (t.queuesOf d).flatten) ∧
      (prio < (s.queuesOf d).length → ∀ i ∈ is, cluster i ∈ (t.queuesOf d).flatten) := by
  induction is generalizing s with
  | nil => exact ⟨rfl, fun c hc => hc, fun _ i hi => absurd hi List.not_mem_nil⟩
  | cons i is ih =>
    obtain ⟨hdie, hold, hnew⟩ := ih (s.enqueueCluster d prio (cluster i))
    rw [State.enqueueCluster_queues] at hold hnew
    refine ⟨hdie.trans (State.enqueueCluster_gridDie ..), fun c hc => hold c ?_, fun hprio j hj => ?_⟩
    · exact mem_flatten_modify (fun q => mem_queueCluster_of_mem _) _ hc
    · rcases List.mem_cons.1 hj with rfl | hj
      · exact hold _ (mem_flatten_modify_self (fun q => mem_queueCluster_self q _) hprio)
      · exact hnew (by simpa using hprio) j hj

theorem State.updGridDie_queues (s : State) (d : Nat) (g : Handle) (f : GridDie → GridDie) :
    (s.updGridDie d g f).queuesOf d = s.queuesOf d := by
  unfold State.queuesOf State.updGridDie
  rw [State.disp_updDisp]

/-- Asking for a range marks only that the die asks. -/
theorem State.wantRange_cases (s : State) (d : Nat) (g : Handle) : (s.wantRange d g).queuesOf d = s.queuesOf d ∧
    ((s.wantRange d g).gridDie d g = s.gridDie d g ∨ (s.wantRange d g).gridDie d g = { s.gridDie d g with asking := true }) := by
  unfold State.wantRange
  split
  · exact ⟨rfl, .inl rfl⟩
  · dsimp only
    split
    · exact ⟨rfl, .inl rfl⟩
    · have hdie := State.dieOf_of_dies (State.sendTo_keeps (s.updGridDie d g fun y => { y with asking := true }) (handleCtx g) 0 d
        (s.ownerAt g) (.rangereq g)).1 d
      rw [State.gridDie_of_disp (congrArg Die.disp hdie), State.gridDie_updGridDie]
      exact ⟨(congrArg (fun x => x.disp.queues) hdie).trans (State.updGridDie_queues ..), .inr rfl⟩

/-- A die's record of a grid once a range that it did not hold has reached it. -/
def GridDie.taken (y : GridDie) (b : RangeB) : GridDie :=
  { y with asking := false, exhausted := b.exhausted, unretired := y.unretired + b.count.toNat,
           ranges := y.ranges ++ [(b.first.toNat, b.count.toNat, 0)] }

/-- The clusters of a range that waits for placement. -/
def rangeCluster (b : RangeB) (size i : Nat) : QCluster :=
  { handle := b.handle, cluster := b.first.toNat / size + i, age := 0, drain := none, saved := none }

/-- The die once a range's clusters wait in its queues, before it asks for more. -/
def State.rangeTaken (s : State) (d : Nat) (b : RangeB) (prio size : Nat) : State :=
  (List.range (b.count.toNat / size)).foldl (fun (s : State) i => s.enqueueCluster d prio (rangeCluster b size i))
    ((s.updGridDie d b.handle fun y => { y with asking := false, exhausted := b.exhausted }).updGridDie d b.handle fun y =>
      { y with unretired := y.unretired + b.count.toNat, ranges := y.ranges ++ [(b.first.toNat, b.count.toNat, 0)] })

theorem State.takeRange_new {s : State} {d : Nat} {b : RangeB} {x : Grid} (hg : s.gridOf b.handle = some x) (hcount : b.count ≠ 0)
    (hlive : (s.gridDie d b.handle).cancelled = false) (hnew : ∀ r ∈ (s.gridDie d b.handle).ranges, r.1 ≠ b.first.toNat) :
    s.takeRange d b = (((s.rangeTaken d b x.launch.prio (max 1 x.launch.csize)).retarget d).wantRange d b.handle) := by
  have hn : b.count.toNat ≠ 0 := fun h => hcount (BitVec.eq_of_toNat_eq h)
  have hany : ((s.gridDie d b.handle).ranges.any fun r => r.1 == b.first.toNat) = false :=
    List.any_eq_false.2 fun r hr => by simpa using hnew r hr
  unfold State.takeRange
  dsimp only
  rw [hg]
  dsimp only
  rw [State.gridDie_updGridDie, if_neg (by simp only [hany]; simpa using hn), if_neg (ne_true_of_eq_false hlive)]
  rfl

theorem State.takeRange_spec {s : State} {d : Nat} {b : RangeB} {x : Grid} (hg : s.gridOf b.handle = some x) (hcount : b.count ≠ 0)
    (hlive : (s.gridDie d b.handle).cancelled = false) (hnew : ∀ r ∈ (s.gridDie d b.handle).ranges, r.1 ≠ b.first.toNat) :
    ((s.takeRange d b).gridDie d b.handle = (s.gridDie d b.handle).taken b ∨
      (s.takeRange d b).gridDie d b.handle = { (s.gridDie d b.handle).taken b with asking := true }) ∧
    (x.launch.prio < (s.queuesOf d).length → ∀ i, i < b.count.toNat / max 1 x.launch.csize →
      rangeCluster b (max 1 x.launch.csize) i ∈ ((s.takeRange d b).queuesOf d).flatten) := by
  obtain ⟨htaken, -, hqueued⟩ := State.enqueueAll_spec d (prio := x.launch.prio) b.handle (rangeCluster b (max 1 x.launch.csize))
    (List.range (b.count.toNat / max 1 x.launch.csize))
    ((s.updGridDie d b.handle fun y => { y with asking := false, exhausted := b.exhausted }).updGridDie d b.handle fun y =>
      { y with unretired := y.unretired + b.count.toNat, ranges := y.ranges ++ [(b.first.toNat, b.count.toNat, 0)] })
  rw [State.gridDie_updGridDie, State.gridDie_updGridDie] at htaken
  rw [State.updGridDie_queues, State.updGridDie_queues] at hqueued
  obtain ⟨hqueues, hdie⟩ := State.wantRange_cases ((s.rangeTaken d b x.launch.prio (max 1 x.launch.csize)).retarget d) d b.handle
  rw [State.gridDie_of_disp (State.disp_retarget ..)] at hdie
  rw [State.takeRange_new hg hcount hlive hnew, hqueues]
  refine ⟨?_, fun hprio i hi => ?_⟩
  · rw [show State.gridDie (s.rangeTaken d b x.launch.prio (max 1 x.launch.csize)) d b.handle = (s.gridDie d b.handle).taken b from
      htaken] at hdie
    exact hdie
  · unfold State.queuesOf
    rw [State.disp_retarget]
    exact hqueued hprio i (List.mem_range.2 hi)

/-! ## Sweeps -/

theorem exec_sweepreply {s : State} {h : PktHdr} {b : SweepReplyB} {x : Grid} (hg : s.gridOf b.handle = some x)
    (hno : b.sweep.toNat = x.own.sweepNo) (hasked : (h.srcPkg.toNat, h.srcSock.toNat) ∈ x.own.sweepWait) :
    exec (.sweepreply h b) s =
      let left := x.own.sweepWait.filter fun y => y != (h.srcPkg.toNat, h.srcSock.toNat)
      let s1 := s.updOwner b.handle fun o => { o with
        counts := (List.range 32).foldl (fun (t : Tbl Nat) c =>
          if b.faults.getD c 0 = 0 then t else t.upd 0 c (· + (b.faults.getD c 0).toNat)) o.counts,
        sweepDirty := o.sweepDirty || (b.unretired != 0 || b.live != 0 || b.change), sweepWait := left }
      .next (if left.isEmpty then s1.sweepEnd b.handle else s1) := by
  show execSweepreply h b s = _
  unfold execSweepreply
  rw [hg]
  dsimp only
  rw [if_neg (by simpa [hno] using hasked)]

/-! ## A cancel at a die -/

/-- What a cancel at a die leaves as it was until it discards the crews: memory, the crews of the grid and the placement queues. -/
structure CancelFrame (d : Nat) (g : Handle) (s t : State) : Prop where
  mem : t.mem = s.mem
  crews : t.crewsOf d g = s.crewsOf d g
  queues : t.queuesOf d = s.queuesOf d

theorem CancelFrame.refl (d : Nat) (g : Handle) (s : State) : CancelFrame d g s s := ⟨rfl, rfl, rfl⟩

theorem CancelFrame.trans {d : Nat} {g : Handle} {s t u : State} (h : CancelFrame d g s t) (k : CancelFrame d g t u) : CancelFrame d g s u :=
  ⟨k.mem.trans h.mem, k.crews.trans h.crews, k.queues.trans h.queues⟩

theorem CancelFrame.of_dies {d : Nat} {g : Handle} {s t : State} (hmem : t.mem = s.mem) (hdies : t.dies = s.dies) : CancelFrame d g s t := by
  have hdie := State.dieOf_of_dies hdies d
  refine ⟨hmem, ?_, ?_⟩
  · unfold State.crewsOf
    rw [hdie]
  · unfold State.queuesOf
    rw [hdie]

theorem CancelFrame.updDie {d : Nat} {g : Handle} {s : State} {f : Die → Die} (hcores : ∀ x, (f x).cores = x.cores)
    (hqueues : ∀ x, (f x).disp.queues = x.disp.queues) : CancelFrame d g s (s.updDie d f) := by
  refine ⟨rfl, ?_, ?_⟩
  · unfold State.crewsOf
    rw [State.dieOf_updDie, hcores]
  · unfold State.queuesOf
    rw [State.dieOf_updDie, hqueues]

theorem CancelFrame.updGridDie (d : Nat) (g : Handle) (s : State) (f : GridDie → GridDie) : CancelFrame d g s (s.updGridDie d g f) := by
  unfold State.updGridDie State.updDisp
  refine CancelFrame.updDie ?_ ?_ <;> exact fun _ => rfl

theorem CancelFrame.updCtxDie (d : Nat) (g : Handle) (s : State) (c : Nat) (f : CtxDie → CtxDie) :
    CancelFrame d g s (s.updCtxDie d c f) := by
  unfold State.updCtxDie
  refine CancelFrame.updDie ?_ ?_ <;> exact fun _ => rfl

theorem CancelFrame.sendTo (d : Nat) (g : Handle) (s : State) (ctx : B6) (tag src : Nat) (dst : Nat × Nat) (b : Body) :
    CancelFrame d g s (s.sendTo ctx tag src dst b) := by
  obtain ⟨hdies, -, hmem, -⟩ := s.sendTo_keeps ctx tag src dst b
  exact .of_dies hmem hdies

theorem CancelFrame.dropSaved (d : Nat) (g : Handle) (s : State) (f : Nat → Bool) : CancelFrame d g s (s.dropSaved d g f) := by
  unfold State.dropSaved
  refine ((CancelFrame.updCtxDie ..).trans (.updGridDie ..)).trans (CancelFrame.updDie ?_ ?_) <;> exact fun _ => rfl

/-- A crew without the records of its window and the tasks that its bands have put back. -/
def Crew.emptied (w : Crew) : Crew :=
  { w with window := [], bands := w.bands.map fun b => (b.1, { b.2 with requeue := 0, tasks := b.2.tasks &&& ~~~b.2.requeue }) }

/-- The cores of a die without the records that a grid's crews hold. -/
def Core.emptied (g : Handle) (c : Core) : Core :=
  { c with crews := c.crews.map fun w => (w.1, if w.2.cfg.handle == g then w.2.emptied else w.2) }

theorem State.crewsOf_emptied (s : State) (d : Nat) (g h : Handle) :
    (s.updDie d fun x => { x with cores := x.cores.map fun c => (c.1, c.2.emptied g) }).crewsOf d h = s.crewsOf d h := by
  have hhandle : ∀ w : Crew, (if w.cfg.handle == g then w.emptied else w).cfg.handle = w.cfg.handle := by
    intro w
    split <;> rfl
  unfold State.crewsOf
  rw [State.dieOf_updDie]
  simp only [List.flatMap_map, Core.emptied, List.filter_map, Function.comp_def, List.map_map, hhandle]

/-- A grid's records and its work are gone from a die, and nothing else that a cancel there leaves. -/
theorem State.discardPool_spec (s : State) (d : Nat) (g : Handle) : CancelFrame d g s (s.discardPool d g) ∧
    ∃ y : GridDie, y.cancelled = (s.gridDie d g).cancelled ∧
      (s.discardPool d g).gridDie d g = { y with ring := [], landing := [[], [], [], []], live := 0, steal := .idle } := by
  let y := s.gridDie d g
  let credited := (List.range 4).foldl (fun (s : State) q => (y.landing.getD q []).foldl (fun (s : State) l => s.sendCredit d q g l) s) s
  have hcredits : CancelFrame d g s credited ∧ credited.dies = s.dies :=
    foldl_keeps (P := fun t : State => CancelFrame d g s t ∧ t.dies = s.dies) ⟨.refl .., rfl⟩ fun t q ht =>
      foldl_keeps (P := fun t : State => CancelFrame d g s t ∧ t.dies = s.dies) ht fun u l hu =>
        ⟨hu.1.trans (.sendTo ..), (State.sendTo_keeps ..).1.trans hu.2⟩
  obtain ⟨hframe, hdies⟩ := hcredits
  have hdie : credited.gridDie d g = s.gridDie d g := State.gridDie_of_disp (congrArg Die.disp (State.dieOf_of_dies hdies d)) g
  let pages := y.ring.map fun (r : RingRec) => r.page
  let freed := credited.updCtxDie d (handleCtx g).toNat fun c => { c with
    spillUsed := c.spillUsed.filter (fun p => !pages.contains p),
    spillReserved := c.spillReserved - match y.steal with | .asking _ _ => 1 | .receiving _ _ _ => 1 | _ => 0 }
  let cleared := (freed.updGridDie d g fun y => { y with ring := [], landing := [[], [], [], []], live := 0, steal := .idle }).updDisp d
    fun x => { x with pageWait := x.pageWait.filter fun w => w.1 != g }
  have hresult : s.discardPool d g = cleared.updDie d fun x => { x with cores := x.cores.map fun c => (c.1, c.2.emptied g) } := rfl
  have hfreed : freed.gridDie d g = s.gridDie d g :=
    (State.gridDie_of_disp (by unfold freed State.updCtxDie; rw [State.dieOf_updDie]) g).trans hdie
  have hcleared : cleared.gridDie d g = { s.gridDie d g with ring := [], landing := [[], [], [], []], live := 0, steal := .idle } := by
    rw [← hfreed, ← State.gridDie_updGridDie freed d g fun y => { y with ring := [], landing := [[], [], [], []], live := 0, steal := .idle }]
    unfold cleared State.gridDie
    rw [State.disp_updDisp]
  have hclearedFrame : CancelFrame d g s cleared :=
    ((hframe.trans (.updCtxDie ..)).trans (.updGridDie ..)).trans (by
      unfold cleared State.updDisp
      refine CancelFrame.updDie ?_ ?_ <;> exact fun _ => rfl)
  rw [hresult]
  refine ⟨hclearedFrame.trans ⟨rfl, State.crewsOf_emptied .., ?_⟩, s.gridDie d g, rfl, ?_⟩
  · unfold State.queuesOf
    rw [State.dieOf_updDie]
  · rw [← hcleared]
    exact State.gridDie_of_disp (by rw [State.dieOf_updDie]) g

theorem State.preSettle_keeps (s : State) (c : Nat) : (s.preSettle c).dies = s.dies ∧ (s.preSettle c).mem = s.mem := by
  unfold State.preSettle
  split <;> exact ⟨rfl, rfl⟩

/-- A die without the clusters of a grid that wait for placement. -/
def State.dropQueued (s : State) (d : Nat) (g : Handle) : State :=
  s.updDisp d fun x => { x with queues := x.queues.map fun q => q.filter fun c => c.handle != g }

theorem State.dropQueued_spec (s : State) (d : Nat) (g : Handle) : (s.dropQueued d g).mem = s.mem ∧
    (s.dropQueued d g).crewsOf d g = s.crewsOf d g ∧
    (s.dropQueued d g).queuesOf d = (s.queuesOf d).map fun q => q.filter fun c => c.handle != g := by
  refine ⟨rfl, ?_, ?_⟩
  · unfold State.dropQueued State.crewsOf State.updDisp
    rw [State.dieOf_updDie]
  · unfold State.dropQueued State.queuesOf
    rw [State.disp_updDisp]

/-- A die whose record of a grid is marked as cancelled, with the crews taken off that never run here. -/
def State.cancelMarked (s : State) (d : Nat) (g : Handle) (never intr n : Nat) : State :=
  (((s.updOwner g fun o => { o with never := o.never + never, intr := o.intr + intr }).dropSaved d g fun _ => true).retireCrews d g
    n).updGridDie d g fun y => { y with cancelled := true }

theorem State.cancelMarked_spec (s : State) (d : Nat) (g : Handle) (never intr n : Nat) :
    CancelFrame d g s (s.cancelMarked d g never intr n) ∧ ((s.cancelMarked d g never intr n).gridDie d g).cancelled = true := by
  unfold State.cancelMarked
  obtain ⟨hdies, hmem, -, -⟩ := s.updOwner_keeps g fun o => { o with never := o.never + never, intr := o.intr + intr }
  refine ⟨(((CancelFrame.of_dies hmem hdies).trans (.dropSaved ..)).trans (.updGridDie ..)).trans (.updGridDie ..), ?_⟩
  rw [State.gridDie_updGridDie]

/-- A die without the clusters of a grid that wait for placement or are saved, and without the grid's records. -/
def State.cancelQueued (s : State) (d : Nat) (g : Handle) (size : Nat) : State :=
  let queued := ((s.queuesOf d).flatMap fun q => q.filter fun c => c.handle == g && c.saved.isNone).length
  let saved := ((s.dieOf d).savedCrews.filter fun (c : SavedCrew) => c.handle == g).length
  ((s.dropQueued d g).cancelMarked d g (size * queued) saved (size * queued + saved)).discardPool d g

theorem State.cancelQueued_spec (s : State) (d : Nat) (g : Handle) (size : Nat) :
    (s.cancelQueued d g size).mem = s.mem ∧ (s.cancelQueued d g size).crewsOf d g = s.crewsOf d g ∧
      (s.cancelQueued d g size).queuesOf d = (s.queuesOf d).map (fun q => q.filter fun c => c.handle != g) ∧
      ((s.cancelQueued d g size).gridDie d g).cancelled = true ∧ ((s.cancelQueued d g size).gridDie d g).live = 0 ∧
      ((s.cancelQueued d g size).gridDie d g).ring = [] := by
  obtain ⟨hmem, hcrews, hqueues⟩ := s.dropQueued_spec d g
  obtain ⟨marked, hresult, hmarked, hcancelled⟩ : ∃ t, s.cancelQueued d g size = t.discardPool d g ∧
      CancelFrame d g (s.dropQueued d g) t ∧ (t.gridDie d g).cancelled = true := ⟨_, rfl, State.cancelMarked_spec ..⟩
  obtain ⟨hdiscard, y, hy, hpool⟩ := marked.discardPool_spec d g
  have hframe := hmarked.trans hdiscard
  rw [hresult, hpool]
  exact ⟨hframe.mem.trans hmem, hframe.crews.trans hcrews, hframe.queues.trans hqueues, hy.trans hcancelled, rfl, rfl⟩

theorem State.cancelDie_idle {s : State} {d : Nat} {g : Handle} {x : Grid} (hg : s.gridOf g = some x) (hnone : s.crewsOf d g = []) :
    s.cancelDie d g = ((s.cancelQueued d g x.launch.csize).retarget d).preSettle (handleCtx g).toNat := by
  obtain ⟨-, hcrews, -⟩ := s.cancelQueued_spec d g x.launch.csize
  have hempty := hcrews.trans hnone
  unfold State.cancelDie
  rw [hg]
  change ((List.foldl _ (List.foldl _ (s.cancelQueued d g x.launch.csize) ((s.cancelQueued d g x.launch.csize).crewsOf d g))
    ((List.foldl _ (s.cancelQueued d g x.launch.csize) ((s.cancelQueued d g x.launch.csize).crewsOf d g)).crewsOf d g)).retarget
      d).preSettle _ = _
  rw [hempty, List.foldl_nil, hempty, List.foldl_nil]

theorem State.cancelDie_spec {s : State} {d : Nat} {g : Handle} {x : Grid} (hg : s.gridOf g = some x) (hnone : s.crewsOf d g = []) :
    ((s.cancelDie d g).gridDie d g).cancelled = true ∧ ((s.cancelDie d g).gridDie d g).live = 0 ∧
      ((s.cancelDie d g).gridDie d g).ring = [] ∧ (s.cancelDie d g).mem = s.mem ∧
      ∀ c ∈ ((s.cancelDie d g).queuesOf d).flatten, c.handle ≠ g := by
  obtain ⟨hmem, -, hqueues, hcancelled, hlive, hring⟩ := s.cancelQueued_spec d g x.launch.csize
  rw [State.cancelDie_idle hg hnone]
  generalize s.cancelQueued d g x.launch.csize = t at hmem hqueues hcancelled hlive hring
  obtain ⟨hdies, hsettleMem⟩ := (t.retarget d).preSettle_keeps (handleCtx g).toNat
  have hdisp : (((t.retarget d).preSettle (handleCtx g).toNat).dieOf d).disp = (t.dieOf d).disp :=
    (congrArg Die.disp (State.dieOf_of_dies hdies d)).trans (State.disp_retarget ..)
  rw [State.gridDie_of_disp hdisp, hsettleMem]
  refine ⟨hcancelled, hlive, hring, hmem, fun c hc => ?_⟩
  unfold State.queuesOf at hc hqueues
  rw [hdisp, hqueues, List.mem_flatten] at hc
  obtain ⟨q, hq, hcq⟩ := hc
  obtain ⟨q', -, rfl⟩ := List.mem_map.1 hq
  simpa using (List.mem_filter.1 hcq).2

/-! ## The deputy's mirror and a sweep at a die -/

/-- The deputy records a grant or a retirement and acknowledges it. -/
theorem State.mirrorAt_spec (s : State) (h : PktHdr) (b : RangeB) (retire : Bool) :
    ∃ u : State, s.mirrorAt h b retire = u.send (PktHdr.reply h) (.mirrorack b.handle b.first) ∧ u.mem = s.mem ∧ u.net = s.net ∧
      (u.dieOf h.dstSock.toNat).disp.mirror.get [] b.handle.toNat =
        mirrorRange ((s.dieOf h.dstSock.toNat).disp.mirror.get [] b.handle.toNat) b h.tag.toNat retire := by
  refine ⟨_, rfl, rfl, rfl, ?_⟩
  rw [State.disp_updDisp]
  exact Tbl.get_set_self ..

/-- Settles O51. -/
theorem gridCounters : Obligations.GridCounters := by
  unfold Obligations.GridCounters
  refine ⟨fun s h g x => ?_, fun s h b htag i hi => ?_, fun s h g n => ⟨_, rfl, State.gridDie_updGridDie .., rfl⟩⟩
  · intro tgt o hg
    refine ⟨fun hst hdep hcopy => ?request, fun hdepv first count => ?grant, fun first p tgt hp hdest => exec_mirrorack hg hp hdest,
      fun b hb htag => ?range, fun b hb htag => ?retire, fun b hb hno hasked => ?reply, ?ended, fun htag hst => ?cancelWaiting,
      fun htag => congrArg Host.Outcome.next (if_pos htag), fun htag => congrArg Host.Outcome.next (if_neg htag), fun d hnone => State.cancelDie_spec hg hnone⟩
    case request =>
      have hgrant := State.grantTo_dealing tgt hg hst hdep hcopy
      have hexec : exec (.rangereq h g) s = .next ((s.grantTo g tgt).sweepStart g) := rfl
      rw [hexec, hgrant]
      refine ⟨fun hreplay hlt => ?_, fun r rest hreplay => ?_, fun hreplay hle => ?_⟩
      · rw [show x.own.replay = [] from hreplay]
        exact congrArg (fun t : State => Host.Outcome.next (t.sweepStart g)) (if_pos hlt)
      · rw [show x.own.replay = r :: rest from hreplay]
      · rw [show x.own.replay = [] from hreplay]
        exact congrArg (fun t : State => Host.Outcome.next (t.sweepStart g)) (if_neg (Nat.not_lt.2 hle))
    case grant =>
      obtain ⟨x', hx', p, hown, hdest, hfirst, hcount, hnet⟩ := State.grantRange_deputy hg hdepv tgt first count
      refine ⟨x', hx', by rw [hown]; rfl, by rw [hown]; rfl, ?_, p, by rw [hown], hdest, hfirst, hcount, hnet⟩
      rw [hown]
      exact ⟨_, List.mem_append_right _ (List.mem_singleton_self _), rfl, rfl, rfl, rfl⟩
    case range =>
      subst hb
      refine ⟨if_neg (Nat.not_le.2 htag), fun hcount hlive hnew => ?_⟩
      obtain ⟨hdie, hqueued⟩ := State.takeRange_spec hg hcount hlive hnew
      have hclusters : ∀ i, i < b.count.toNat / max 1 x.launch.csize → x.launch.prio < 4 →
          (s.dieOf h.dstSock.toNat).disp.queues.length = 4 →
          ∃ c ∈ ((s.takeRange h.dstSock.toNat b).dieOf h.dstSock.toNat).disp.queues.flatten,
            c.handle = b.handle ∧ c.cluster = b.first.toNat / max 1 x.launch.csize + i :=
        fun i hi hprio hlen => ⟨_, hqueued (hprio.trans_eq hlen.symm) i hi, rfl, rfl⟩
      rcases hdie with hdie | hdie
      · rw [hdie]
        exact ⟨rfl, rfl, rfl, hclusters⟩
      · rw [hdie]
        exact ⟨rfl, rfl, rfl, hclusters⟩
    case retire =>
      subst hb
      exact if_neg (Nat.not_le.2 htag)
    case reply =>
      subst hb
      have hexec := exec_sweepreply hg hno hasked
      intro _ left _ _
      refine ⟨fun hleft => hexec.trans (congrArg Host.Outcome.next (if_neg ?_)), fun hleft => hexec.trans (congrArg Host.Outcome.next (if_pos ?_))⟩
      · exact fun hempty => hleft (List.isEmpty_iff.1 hempty)
      · exact List.isEmpty_iff.2 hleft
    case ended =>
      unfold State.sweepEnd
      rw [hg]
    case cancelWaiting =>
      refine congrArg Host.Outcome.next ((if_pos htag).trans ?_)
      unfold State.cancelGrid
      rw [hg]
      dsimp only
      rw [show x.own.st = .waiting from hst]
  · rcases hi with rfl | rfl
    · obtain ⟨u, hu, hmem, hnet, hmirror⟩ := s.mirrorAt_spec h b false
      refine ⟨u, (if_pos htag).trans (congrArg Host.Outcome.next hu), hmem, hnet, ?_⟩
      rw [decide_eq_false (by simp)]
      exact hmirror
    · obtain ⟨u, hu, hmem, hnet, hmirror⟩ := s.mirrorAt_spec h b true
      refine ⟨u, (if_pos htag).trans (congrArg Host.Outcome.next hu), hmem, hnet, ?_⟩
      rw [decide_eq_true rfl]
      exact hmirror

end Sys2Proof.Machine
end

section
/-!
Tasks on the move: the line for pages, steals between dies, and enqueued records that land, are answered, or come back.
-/
namespace Sys2Proof.Machine

/-! ## What an event leaves: the dies and the package's place in the pod -/

theorem State.storeBy_podrt (key : State → Nat → Option Nat) (s : State) (pa : Nat) (bs : List Byte) :
    (s.storeBy key pa bs).podrt = s.podrt := by
  induction bs generalizing s pa with
  | nil => rfl
  | cons b bs ih =>
    unfold State.storeBy
    split
    · exact ih ..
    · exact ih ..

theorem State.postRecord_podrt (s : State) (r : List Byte) : (s.postRecord r).podrt = s.podrt := by
  have hwrite : ∀ (t : State) (pa : Nat) (bs : List Byte), (t.hostWrite pa bs).podrt = t.podrt := by
    intro t pa bs
    rw [State.hostWrite_eq_storeBy]
    exact State.storeBy_podrt ..
  unfold State.postRecord
  dsimp only
  split
  · split
    · rfl
    · exact (hwrite ..).trans ((hwrite ..).trans (hwrite ..))
  · split
    · rfl
    · exact hwrite ..

theorem State.send_podrt (s : State) (h : PktHdr) (b : Body) : (s.send h b).podrt = s.podrt := by
  unfold State.send State.toPod
  split
  · rfl
  · cases s.podPortFor _ _ <;> rfl

theorem State.report_podrt (s : State) (sock : Nat) (fatal : Bool) (ctx : Option B6) (cause : Nat) (grid : Handle)
    (detail : List Byte) : (s.report sock fatal ctx cause grid detail).podrt = s.podrt := by
  unfold State.report
  dsimp only
  split
  · exact (State.postRecord_podrt ..).trans (State.updOwner_podrt ..)
  · exact (State.send_podrt ..).trans (State.updOwner_podrt ..)

theorem State.recordsLost_podrt (s : State) (d : Nat) (g : Handle) (n : Nat) : (s.recordsLost d g n).podrt = s.podrt := by
  unfold State.recordsLost
  rw [State.updOwner_podrt]
  exact State.report_podrt ..

/-! ## Changes of a die's records -/

/-- A change of a die's dispatch state that leaves its grids leaves each of them. -/
theorem State.gridDie_updDisp (s : State) (d : Nat) (f : DieDisp → DieDisp) (g : Handle) (hf : ∀ x, (f x).grids = x.grids) :
    (s.updDisp d f).gridDie d g = s.gridDie d g := by
  unfold State.gridDie
  rw [State.disp_updDisp, hf]

theorem State.gridDie_updCtxDie (s : State) (d c : Nat) (f : CtxDie → CtxDie) (g : Handle) :
    (s.updCtxDie d c f).gridDie d g = s.gridDie d g := by
  unfold State.updCtxDie State.gridDie
  rw [State.dieOf_updDie]

theorem State.gridDie_of_dies {s t : State} (h : t.dies = s.dies) (d : Nat) (g : Handle) : t.gridDie d g = s.gridDie d g :=
  State.gridDie_of_disp (congrArg Die.disp (State.dieOf_of_dies h d)) g

theorem State.ctxDie_updCtxDie (s : State) (d c : Nat) (f : CtxDie → CtxDie) : (s.updCtxDie d c f).ctxDie d c = f (s.ctxDie d c) := by
  conv_lhs => unfold State.updCtxDie State.ctxDie
  rw [State.dieOf_updDie]
  exact Tbl.get_set_self ..

theorem State.ctxDie_updDisp (s : State) (d : Nat) (f : DieDisp → DieDisp) (c : Nat) : (s.updDisp d f).ctxDie d c = s.ctxDie d c := by
  unfold State.updDisp State.ctxDie
  rw [State.dieOf_updDie]

theorem State.ctxDie_updGridDie (s : State) (d : Nat) (g : Handle) (f : GridDie → GridDie) (c : Nat) :
    (s.updGridDie d g f).ctxDie d c = s.ctxDie d c := State.ctxDie_updDisp ..

theorem State.ctxDie_of_dies {s t : State} (h : t.dies = s.dies) (d c : Nat) : t.ctxDie d c = s.ctxDie d c := by
  unfold State.ctxDie
  rw [State.dieOf_of_dies h]

theorem State.devWrite_eq {s t : State} {ctx : B6} {va : Nat} {bs : List Byte} (h : s.devWrite ctx va bs = .ok t) :
    t = s.setMem t.mem := by
  unfold State.devWrite at h
  split at h
  · injection h with h
    rw [← h]
    rfl
  · exact absurd h (by simp)

/-! ## The line for pages -/

/-- The state once the event that a grid's ring is full has been posted. -/
def State.pagePosted (s : State) (d : Nat) (g : Handle) : State :=
  if (s.gridDie d g).pageEventPosted then s
  else (s.report d false (some (handleCtx g)) 0x0110 g (openDetail 0x0110 [])).updGridDie d g fun y => { y with pageEventPosted := true }

theorem State.pageWait_eq (s : State) (d : Nat) (g : Handle) (w : PageWait) : s.pageWait d g w =
    if ((s.pagePosted d g).dieOf d).disp.pageWait.contains (g, w) then s.pagePosted d g
    else (s.pagePosted d g).updDisp d fun x => { x with pageWait := x.pageWait ++ [(g, w)] } := rfl

theorem State.pagePosted_spec (s : State) (d : Nat) (g : Handle) : ((s.pagePosted d g).gridDie d g).steal = (s.gridDie d g).steal ∧
    (∀ c, (s.pagePosted d g).ctxDie d c = s.ctxDie d c) ∧
    ((s.pagePosted d g).dieOf d).disp.pageWait = (s.dieOf d).disp.pageWait := by
  unfold State.pagePosted
  split
  · exact ⟨rfl, fun _ => rfl, rfl⟩
  · have hdies := s.report_dies d false (some (handleCtx g)) 0x0110 g (openDetail 0x0110 [])
    refine ⟨?_, fun c => (State.ctxDie_updGridDie ..).trans (State.ctxDie_of_dies hdies d c), ?_⟩
    · rw [State.gridDie_updGridDie, State.gridDie_of_dies hdies]
    · unfold State.updGridDie
      rw [State.disp_updDisp, State.dieOf_of_dies hdies]

theorem State.pageWait_steal (s : State) (d : Nat) (g : Handle) (w : PageWait) :
    ((s.pageWait d g w).gridDie d g).steal = (s.gridDie d g).steal := by
  obtain ⟨hsteal, -, -⟩ := s.pagePosted_spec d g
  rw [State.pageWait_eq]
  split
  · exact hsteal
  · rw [State.gridDie_updDisp]
    · exact hsteal
    · exact fun _ => rfl

theorem State.ctxDie_pageWait (s : State) (d : Nat) (g : Handle) (w : PageWait) (c : Nat) : (s.pageWait d g w).ctxDie d c = s.ctxDie d c := by
  obtain ⟨-, hctx, -⟩ := s.pagePosted_spec d g
  rw [State.pageWait_eq]
  split
  · exact hctx c
  · exact (State.ctxDie_updDisp ..).trans (hctx c)

/-- A record that comes back joins the end of the line for pages. -/
theorem State.pageWait_returnWait (s : State) (d : Nat) (g : Handle) (r : List Byte) :
    ((s.returnWait d g r).dieOf d).disp.pageWait = (s.dieOf d).disp.pageWait ++ [(g, .returned r)] := by
  let cleared := s.updDisp d fun x => { x with pageWait := [] }
  obtain ⟨-, -, hline⟩ := cleared.pagePosted_spec d g
  have hempty : ((cleared.pagePosted d g).dieOf d).disp.pageWait = [] := by
    rw [hline]
    unfold cleared
    rw [State.disp_updDisp]
  have hone : ((cleared.pageWait d g (.returned r)).dieOf d).disp.pageWait = [(g, .returned r)] := by
    rw [State.pageWait_eq, if_neg (by rw [hempty]; exact Bool.false_ne_true), State.disp_updDisp]
    exact congrArg (· ++ [(g, PageWait.returned r)]) hempty
  unfold State.returnWait
  rw [State.disp_updDisp]
  exact congrArg ((s.dieOf d).disp.pageWait ++ ·) hone

theorem State.ctxDie_returnWait (s : State) (d : Nat) (g : Handle) (r : List Byte) (c : Nat) :
    (s.returnWait d g r).ctxDie d c = s.ctxDie d c := by
  unfold State.returnWait
  rw [State.ctxDie_updDisp, State.ctxDie_pageWait, State.ctxDie_updDisp]

/-! ## The spill ring -/

theorem State.ctxDie_recordsLost (s : State) (d : Nat) (g : Handle) (n c : Nat) : (s.recordsLost d g n).ctxDie d c = s.ctxDie d c := by
  unfold State.recordsLost
  rw [State.ctxDie_of_dies (State.updOwner_dies ..), State.ctxDie_updGridDie, State.ctxDie_of_dies (State.report_dies ..)]

/-- The pages reserved for grants stay reserved as a record enters the ring. -/
theorem State.ringPut_reserved (s : State) (d : Nat) (g : Handle) (page slot : Nat) (new : Bool) (r : List Byte) :
    ((s.ringPut d g page slot new r).ctxDie d (handleCtx g).toNat).spillReserved = (s.ctxDie d (handleCtx g).toNat).spillReserved := by
  unfold State.ringPut
  split
  · next t hwrite =>
    have hsame : t.ctxDie d (handleCtx g).toNat = s.ctxDie d (handleCtx g).toNat := by
      rw [State.devWrite_eq hwrite]
      rfl
    rw [State.ctxDie_updGridDie]
    split
    · unfold State.takePage
      rw [State.ctxDie_updCtxDie, hsame]
    · rw [hsame]
  · rw [State.ctxDie_recordsLost]

theorem State.ringAppend_reserved {s t : State} {d : Nat} {g : Handle} {me : Option PageWait} {r : List Byte}
    (h : s.ringAppend d g me r = some t) :
    (t.ctxDie d (handleCtx g).toNat).spillReserved = (s.ctxDie d (handleCtx g).toNat).spillReserved := by
  unfold State.ringAppend at h
  dsimp only at h
  split at h
  · injection h with h
    rw [← h]
    exact State.ringPut_reserved ..
  · obtain ⟨va, -, rfl⟩ := Option.map_eq_some_iff.1 h
    exact State.ringPut_reserved ..

/-- What a record that leaves the ring leaves as it was: what the die has granted, its live work and the packets under way. -/
structure RingFrame (d : Nat) (g : Handle) (s t : State) : Prop where
  granted : (t.gridDie d g).granted = (s.gridDie d g).granted
  live : (t.gridDie d g).live = (s.gridDie d g).live
  net : t.net = s.net
  podrt : t.podrt = s.podrt

theorem RingFrame.ringRemove {d : Nat} {g : Handle} {s t : State} (h : RingFrame d g s t) (x : RingRec) :
    RingFrame d g s (t.ringRemove d g x) := by
  obtain ⟨hgranted, hlive, hnet, hpodrt⟩ := h
  unfold State.ringRemove
  dsimp only
  split
  · refine ⟨?_, ?_, hnet, hpodrt⟩
    · rw [State.gridDie_updGridDie, ← hgranted]
    · rw [State.gridDie_updGridDie, ← hlive]
  · refine ⟨?_, ?_, hnet, hpodrt⟩
    · rw [State.gridDie_updCtxDie, State.gridDie_updGridDie, ← hgranted]
    · rw [State.gridDie_updCtxDie, State.gridDie_updGridDie, ← hlive]

/-! ## Steals: R141 to R143 -/

theorem State.ringRemove_podrt (s : State) (d : Nat) (g : Handle) (x : RingRec) : (s.ringRemove d g x).podrt = s.podrt := by
  unfold State.ringRemove
  dsimp only
  split <;> rfl

theorem State.stealable_podrt (d : Nat) (g : Handle) (xs : List RingRec) (s : State) : (s.stealable d g xs).1.podrt = s.podrt := by
  induction xs generalizing s with
  | nil => rfl
  | cons x xs ih =>
    unfold State.stealable
    split
    · exact (ih _).trans ((State.recordsLost_podrt ..).trans (State.ringRemove_podrt ..))
    · exact ih s

theorem State.stealNext_none {s : State} {d : Nat} {g : Handle} {rest : List Nat} (h : rest.filter s.healthy = []) :
    s.stealNext d g rest = s.updGridDie d g fun y => { y with steal := .resting (s.cyc d), allRefused := y.live == 0 } := by
  unfold State.stealNext
  rw [h]

/-- The next die is asked, with a page reserved for its grant. -/
theorem State.stealNext_asks {s : State} {d : Nat} {g : Handle} {rest vs : List Nat} {v : Nat} (h : rest.filter s.healthy = v :: vs)
    (hpage : (s.pageFor d g (some .steal)).isSome = true) : ((s.stealNext d g rest).gridDie d g).steal = .asking vs v ∧
      (s.stealNext d g rest).net = s.net ++ [⟨{ s.hdr (handleCtx g) 0 d v with dstPkg := BitVec.ofNat 8 s.pkg }, .stealreq g⟩] := by
  unfold State.stealNext
  rw [h]
  dsimp only
  rw [if_pos hpage]
  refine ⟨?_, State.net_sendTo_here ..⟩
  rw [State.gridDie_of_dies (State.sendTo_keeps ..).1, State.gridDie_updGridDie]

theorem State.stealNext_waits {s : State} {d : Nat} {g : Handle} {rest : List Nat} (h : rest.filter s.healthy ≠ [])
    (hpage : s.pageFor d g (some .steal) = none) : ((s.stealNext d g rest).gridDie d g).steal = .pending rest := by
  obtain ⟨v, vs, hrest⟩ := List.exists_cons_of_ne_nil h
  unfold State.stealNext
  rw [hrest]
  dsimp only
  rw [if_neg (by rw [hpage]; exact Bool.false_ne_true), State.pageWait_steal, State.gridDie_updGridDie]

theorem foldl_send_here {α : Type} {h : PktHdr} (body : α → Body) (l : List α) {s : State} (hpkg : h.dstPkg.toNat = s.pkg) :
    l.foldl (fun (s : State) r => s.send h (body r)) s = { s with net := s.net ++ l.map fun r => ⟨h, body r⟩ } := by
  induction l generalizing s with
  | nil => simp
  | cons r l ih =>
    have hsend : s.send h (body r) = { s with net := s.net ++ [⟨h, body r⟩] } := if_pos hpkg
    rw [List.foldl_cons, hsend]
    refine (ih (s := { s with net := s.net ++ [⟨h, body r⟩] }) hpkg).trans ?_
    rw [List.append_assoc]
    rfl

/-- The victim grants its oldest records that may be stolen, and keeps them in its counter. -/
theorem exec_stealreq {s : State} {h : PktHdr} {g : Handle} {x : State × List (RingRec × List Byte)} {k : Nat}
    (hx : s.stealable h.dstSock.toNat g (s.gridDie h.dstSock.toNat g).ring = x) (hk : min 32 ((x.2.length + 1) / 2) = k)
    (hsome : k ≠ 0) (hpkg : h.srcPkg.toNat = s.pkg) :
    ∃ t, exec (.stealreq h g) s = .next t ∧
      (t.gridDie h.dstSock.toNat g).granted = (x.1.gridDie h.dstSock.toNat g).granted ++ [(h.srcSock.toNat, k)] ∧
      (t.gridDie h.dstSock.toNat g).live = (x.1.gridDie h.dstSock.toNat g).live ∧
      t.net = x.1.net ++ [⟨PktHdr.reply h, .grant g (BitVec.ofNat 64 k)⟩] ++ ((List.range k).zip (x.2.take k)).map fun r =>
        ⟨PktHdr.reply h, .stealrec g (BitVec.ofNat 64 r.1) r.2.2⟩ := by
  let d := h.dstSock.toNat
  let removed := (x.2.take k).foldl (fun (s : State) r => s.ringRemove d g r.1) x.1
  let granted := (removed.updGridDie d g fun y => { y with granted := y.granted ++ [(h.srcSock.toNat, k)] }).updDisp d fun y =>
    { y with stealOut := satAdd16 y.stealOut k }
  obtain ⟨hgranted, hlive, hnet, hpodrt⟩ : RingFrame d g x.1 removed :=
    foldl_keeps (P := RingFrame d g x.1) ⟨rfl, rfl, rfl, rfl⟩ fun t r ht => ht.ringRemove r.1
  have hhere : (PktHdr.reply h).dstPkg.toNat = granted.pkg := by
    have hsame : granted.podrt = s.podrt := hpodrt.trans (by rw [← hx]; exact State.stealable_podrt ..)
    rw [State.pkg_of_podrt hsame]
    exact hpkg
  have hgrid : granted.gridDie d g = { removed.gridDie d g with granted := (removed.gridDie d g).granted ++ [(h.srcSock.toNat, k)] } := by
    unfold granted
    rw [State.gridDie_updDisp, State.gridDie_updGridDie]
    exact fun _ => rfl
  have hsend : granted.send (PktHdr.reply h) (.grant g (BitVec.ofNat 64 k)) =
      { granted with net := granted.net ++ [⟨PktHdr.reply h, .grant g (BitVec.ofNat 64 k)⟩] } := if_pos hhere
  let t : State := { granted with net := granted.net ++ [⟨PktHdr.reply h, .grant g (BitVec.ofNat 64 k)⟩] ++
    ((List.range k).zip (x.2.take k)).map fun r => ⟨PktHdr.reply h, .stealrec g (BitVec.ofNat 64 r.1) r.2.2⟩ }
  have hexec : exec (.stealreq h g) s = .next (((List.range k).zip (x.2.take k)).foldl (fun (s : State) r =>
      s.send (PktHdr.reply h) (.stealrec g (BitVec.ofNat 64 r.1) r.2.2)) (granted.send (PktHdr.reply h) (.grant g (BitVec.ofNat 64 k)))) := by
    subst hx hk
    exact if_neg hsome
  refine ⟨t, ?_, ?_, ?_, ?_⟩
  · rw [hexec, hsend]
    exact congrArg Host.Outcome.next (foldl_send_here _ _ (s := { granted with net := _ }) hhere)
  · rw [← hgranted]
    exact congrArg GridDie.granted hgrid
  · rw [← hlive]
    exact (by rw [hgrid] : (granted.gridDie d g).live = (removed.gridDie d g).live)
  · rw [← hnet]
    rfl

/-- A grant that has arrived whole joins the ring, and its reserved page is no longer reserved. -/
theorem State.grantArrived_spec (s : State) (d : Nat) (g : Handle) (h : PktHdr) (recs : List (List Byte)) :
    ∃ u : State, s.grantArrived d g h recs = u.send (PktHdr.reply h) (.stealack g (BitVec.ofNat 64 recs.length)) ∧
      (u.gridDie d g).steal = .idle ∧
      (u.ctxDie d (handleCtx g).toNat).spillReserved = (s.ctxDie d (handleCtx g).toNat).spillReserved - 1 := by
  refine ⟨_, rfl, ?_, ?_⟩
  · rw [State.gridDie_updGridDie]
  · rw [State.ctxDie_updGridDie, State.ctxDie_updDisp]
    refine foldl_keeps (P := fun t : State => (t.ctxDie d (handleCtx g).toNat).spillReserved =
      (s.ctxDie d (handleCtx g).toNat).spillReserved - 1) ?_ fun t r ht => ?_
    · unfold State.liveAdd
      rw [State.ctxDie_updGridDie, State.ctxDie_updCtxDie, State.ctxDie_updDisp]
    · split
      · next u hu => exact (State.ringAppend_reserved hu).trans ht
      · rw [State.ctxDie_returnWait]
        exact ht

theorem exec_stealrec {s : State} {h : PktHdr} {g : Handle} {pos : W64} {record : List Byte} {k : Nat} {got : List (Nat × List Byte)}
    (hst : (s.gridDie h.dstSock.toNat g).steal = .receiving h.srcSock.toNat k got) (hpos : pos.toNat < k)
    (hnew : ∀ y ∈ got, y.1 ≠ pos.toNat) :
    exec (.stealrec h g pos record) s = .next (
      let all := got ++ [(pos.toNat, record)]
      if all.length < k then s.updGridDie h.dstSock.toNat g fun y => { y with steal := .receiving h.srcSock.toNat k all }
      else s.grantArrived h.dstSock.toNat g h ((List.range k).filterMap fun i => (all.find? fun x => x.1 == i).map fun x => x.2)) := by
  have hany : (got.any fun x => x.1 == pos.toNat) = false := List.any_eq_false.2 fun y hy => by simpa using hnew y hy
  show execStealrec h g pos record s = _
  unfold execStealrec
  dsimp only
  rw [hst]
  dsimp only
  rw [if_neg (by simpa [hany] using hpos)]
  split <;> rfl

theorem exec_stealack {s : State} {h : PktHdr} {g : Handle} {n : W64}
    (hgranted : (h.srcSock.toNat, n.toNat) ∈ (s.gridDie h.dstSock.toNat g).granted) : ∃ t, exec (.stealack h g n) s = .next t ∧ t.mem = s.mem ∧
      t.gridDie h.dstSock.toNat g = { s.gridDie h.dstSock.toNat g with
        live := (s.gridDie h.dstSock.toNat g).live - n.toNat,
        granted := (s.gridDie h.dstSock.toNat g).granted.erase (h.srcSock.toNat, n.toNat), change := true } := by
  refine ⟨_, if_neg (by simpa using hgranted), rfl, ?_⟩
  unfold State.liveSub
  rw [State.gridDie_updGridDie, State.gridDie_updGridDie]

/-! ## Enqueued records: R145 to R148 -/

/-- A die at which an enqueued record of a grid can find no crew any more. -/
def State.closedTo (s : State) (d : Nat) (g : Handle) : Bool :=
  (s.gridDie d g).exhausted && !s.crewPlaced d g && !s.crewQueued d g

theorem State.closedTo_iff {s : State} {d : Nat} {g : Handle} : s.closedTo d g = true ↔
    (s.gridDie d g).exhausted = true ∧ s.crewPlaced d g = false ∧ s.crewQueued d g = false := by
  simp [State.closedTo, and_assoc]

/-- The first free landing slot of a sender at a die. -/
def State.freeSlotFor (s : State) (h : PktHdr) (g : Handle) : Option Nat :=
  (List.range (s.gridDie h.dstSock.toNat g).enqRes).find? fun j => !(s.landedAt h.dstSock.toNat (handleCtx g).toNat).contains
    ((s.gridDie h.dstSock.toNat g).enqBase +
      (h.srcPkg.toNat * 8 + h.srcSock.toNat) * (s.gridDie h.dstSock.toNat g).enqRes * 64 + 64 * j)

theorem exec_enqArrival_back {s : State} {h : PktHdr} {b : EnqB} (hlive : (s.gridDie h.dstSock.toNat b.handle).cancelled = false)
    (hback : s.closedTo h.dstSock.toNat b.handle = true ∨ s.freeSlotFor h b.handle = none) : exec (.enqArrival h b) s =
      .next ((s.updDisp h.dstSock.toNat fun y => { y with bounce := satInc y.bounce }).send (PktHdr.reply h) (.bounce b)) := by
  show execEnqArrival h b s = _
  unfold execEnqArrival
  dsimp only
  rw [if_neg (ne_true_of_eq_false hlive)]
  by_cases hclosed : s.closedTo h.dstSock.toNat b.handle = true
  · exact if_pos hclosed
  · refine (if_neg hclosed).trans ?_
    have hnone := hback.resolve_left hclosed
    unfold State.freeSlotFor at hnone
    rw [hnone]

theorem exec_enqArrival_lands {s s1 : State} {h : PktHdr} {b : EnqB} {j : Nat}
    (hlive : (s.gridDie h.dstSock.toNat b.handle).cancelled = false) (hopen : ¬s.closedTo h.dstSock.toNat b.handle = true)
    (hslot : s.freeSlotFor h b.handle = some j) (hwrite : s.devWrite (handleCtx b.handle) ((s.gridDie h.dstSock.toNat b.handle).enqBase +
      (h.srcPkg.toNat * 8 + h.srcSock.toNat) * (s.gridDie h.dstSock.toNat b.handle).enqRes * 64 + 64 * j) b.record = .ok s1)
    (hlen : (s.gridDie h.dstSock.toNat b.handle).landing.length = 4) :
    ∃ u : State, exec (.enqArrival h b) s = .next (u.send (PktHdr.reply h) (.enqack b.route b.handle)) ∧
      u.mem = s1.mem ∧ u.net = s.net ∧
      (u.gridDie h.dstSock.toNat b.handle).live = (s.gridDie h.dstSock.toNat b.handle).live + 1 ∧
      (u.gridDie h.dstSock.toNat b.handle).landing.getD b.route.queue.toNat [] =
        (s.gridDie h.dstSock.toNat b.handle).landing.getD b.route.queue.toNat [] ++
          [⟨h.srcPkg.toNat, h.srcSock.toNat, j, (s.gridDie h.dstSock.toNat b.handle).enqBase +
            (h.srcPkg.toNat * 8 + h.srcSock.toNat) * (s.gridDie h.dstSock.toNat b.handle).enqRes * 64 + 64 * j,
            (s.gridDie h.dstSock.toNat b.handle).landed⟩] := by
  have hs1 := State.devWrite_eq hwrite
  have hgrid : s1.gridDie h.dstSock.toNat b.handle = s.gridDie h.dstSock.toNat b.handle := by
    rw [hs1]
    rfl
  have hqueue : b.route.queue.toNat < (s.gridDie h.dstSock.toNat b.handle).landing.length := hlen.symm ▸ b.route.queue.isLt
  have hexec : exec (.enqArrival h b) s = .next (((s1.updGridDie h.dstSock.toNat b.handle fun y => { y with
      landing := y.landing.modify b.route.queue.toNat fun q => q ++ [⟨h.srcPkg.toNat, h.srcSock.toNat, j,
        (s.gridDie h.dstSock.toNat b.handle).enqBase +
          (h.srcPkg.toNat * 8 + h.srcSock.toNat) * (s.gridDie h.dstSock.toNat b.handle).enqRes * 64 + 64 * j,
        (s.gridDie h.dstSock.toNat b.handle).landed⟩],
      landed := y.landed + 1 }).liveAdd h.dstSock.toNat b.handle 1).send (PktHdr.reply h) (.enqack b.route b.handle)) := by
    show execEnqArrival h b s = _
    unfold execEnqArrival
    dsimp only
    rw [if_neg (ne_true_of_eq_false hlive)]
    refine (if_neg hopen).trans ?_
    unfold State.freeSlotFor at hslot
    rw [hslot]
    dsimp only
    rw [hwrite]
  refine ⟨_, hexec, rfl, ?_, ?_, ?_⟩
  · show s1.net = s.net
    rw [hs1]
    rfl
  · unfold State.liveAdd
    rw [State.gridDie_updGridDie, State.gridDie_updGridDie, hgrid]
  · unfold State.liveAdd
    rw [State.gridDie_updGridDie, State.gridDie_updGridDie, hgrid]
    simp [List.getD_eq_getElem?_getD, hqueue]

/-- The last answer to the enqueues of an instruction ends its wait. -/
theorem State.enqAnswered_last {s : State} {d tag : Nat} {t : ThreadRef} {w : Nat} {h0 : Handle} {p0 k0 : Nat}
    (htag : (s.dieOf d).tags.find? tag = some (.enq t w h0 p0 k0))
    (hlast : ∀ u ∈ (s.dieOf d).tags.erase tag, ∀ h1 p1 k1, u.2 ≠ .enq t w h1 p1 k1)
    (hsent : ∀ b m, s.thread t = some b → b.x.phase ≠ .sending m w) :
    s.enqAnswered d tag = (s.updDie d fun x => { x with tags := x.tags.erase tag }).waitDone t w := by
  let s1 := s.updDie d fun x => { x with tags := x.tags.erase tag }
  have htags : (s1.dieOf d).tags = (s.dieOf d).tags.erase tag := congrArg Die.tags (State.dieOf_updDie ..)
  have hthread : s1.thread t = s.thread t := (KeepsCrews.updDie s d (fun x => { x with tags := x.tags.erase tag }) fun _ => rfl).thread t
  have hmore : ∀ u ∈ (s1.dieOf d).tags, ¬(match u.2 with | .enq t' w' _ _ _ => t' == t && w' == w | _ => false) = true := by
    intro u hu
    rw [htags] at hu
    split
    · next t' w' h1 p1 k1 heq =>
      intro hsame
      obtain ⟨rfl, rfl⟩ : t' = t ∧ w' = w := by simpa using hsame
      exact hlast u hu _ _ _ heq
    · exact Bool.false_ne_true
  unfold State.enqAnswered
  rw [htag]
  dsimp only
  refine if_neg ?_
  rw [Bool.or_eq_true, not_or]
  refine ⟨fun hany => ?_, ?_⟩
  · obtain ⟨u, hu, hmatch⟩ := List.any_eq_true.1 hany
    exact hmore u hu hmatch
  · rw [hthread]
    split
    · next b hb =>
      split
      · next m w' hphase =>
        intro hw
        rw [beq_iff_eq] at hw
        exact hsent b m hb (hphase.trans (by rw [hw]))
      · exact Bool.false_ne_true
    · exact Bool.false_ne_true

theorem exec_enqack {s : State} {h : PktHdr} {r : Route} {g : Handle} {t : ThreadRef} {w : Nat} {h0 : Handle} {p0 k0 : Nat}
    (htag : (s.dieOf h.dstSock.toNat).tags.find? h.tag.toNat = some (.enq t w h0 p0 k0))
    (hlast : ∀ u ∈ (s.dieOf h.dstSock.toNat).tags.erase h.tag.toNat, ∀ h1 p1 k1, u.2 ≠ .enq t w h1 p1 k1)
    (hsent : ∀ b m, s.thread t = some b → b.x.phase ≠ .sending m w) :
    ∃ u : State, exec (.enqack h r g) s = .next (u.waitDone t w) ∧
      (u.dieOf h.dstSock.toNat).tags = (s.dieOf h.dstSock.toNat).tags.erase h.tag.toNat ∧ u.mem = s.mem ∧
      u.gridDie h.dstSock.toNat g =
        { s.gridDie h.dstSock.toNat g with live := (s.gridDie h.dstSock.toNat g).live - 1, change := true } := by
  let d := h.dstSock.toNat
  let counted := (s.liveSub d g 1).updGridDie d g fun y => { y with change := true }
  have htags : (counted.dieOf d).tags = (s.dieOf d).tags := by
    unfold counted State.liveSub State.updGridDie State.updDisp
    rw [State.dieOf_updDie, State.dieOf_updDie]
  have hcrews : KeepsCrews s counted := (KeepsCrews.updGridDie ..).trans (.updGridDie ..)
  have hgrid : counted.gridDie d g = { s.gridDie d g with live := (s.gridDie d g).live - 1, change := true } := by
    unfold counted State.liveSub
    rw [State.gridDie_updGridDie, State.gridDie_updGridDie]
  refine ⟨_, congrArg Host.Outcome.next (State.enqAnswered_last (htags ▸ htag) (htags ▸ hlast) ?_), ?_, rfl, ?_⟩
  · intro b m hb
    exact hsent b m ((hcrews.thread t).symm.trans hb)
  · rw [State.dieOf_updDie]
    exact congrArg (fun x : Tbl TagUse => x.erase h.tag.toNat) htags
  · rw [← hgrid]
    exact State.gridDie_of_disp (by rw [State.dieOf_updDie]) g

end Sys2Proof.Machine
end

section
/-!
Bands that form of the records of a window, takes, and the obligation on the movement of tasks.
-/
namespace Sys2Proof.Machine

/-! ## Registers put in by their keys -/

theorem BandRegs.putKey_keeps (r : BandRegs) (key : Nat) (v : W64) :
    (r.putKey key v).exited = r.exited ∧ (r.putKey key v).status = r.status := by
  unfold BandRegs.putKey
  split_ifs <;> exact ⟨rfl, rfl⟩

theorem BandRegs.getKey_putKey_slot (r : BandRegs) {key : Nat} (hk : key < 2 ^ 15) (v : W64) :
    (r.putKey key v).getKey key = BitVec.ofNat 64 (v.toNat % 2 ^ 32) := by
  rw [BandRegs.putKey, if_pos hk, BandRegs.getKey, if_pos hk, Tbl.get_set_self, BitVec.toNat_ofNat]

theorem BandRegs.getKey_putKey_slot_ne (r : BandRegs) {key j : Nat} (hj : j < 2 ^ 15) (hne : j ≠ key) (v : W64) :
    (r.putKey key v).getKey j = r.getKey j := by
  rw [BandRegs.getKey, if_pos hj, BandRegs.getKey, if_pos hj]
  unfold BandRegs.putKey
  split_ifs
  · rw [Tbl.get_set_ne _ _ _ hne]
  all_goals rfl

/-- Registers after several puts, in order. -/
def BandRegs.puts (r : BandRegs) (ps : List (Nat × W64)) : BandRegs := ps.foldl (fun (r : BandRegs) p => r.putKey p.1 p.2) r

theorem BandRegs.puts_keeps (r : BandRegs) (ps : List (Nat × W64)) : (r.puts ps).exited = r.exited ∧ (r.puts ps).status = r.status :=
  foldl_keeps (P := fun q : BandRegs => q.exited = r.exited ∧ q.status = r.status) ⟨rfl, rfl⟩ fun q p ⟨hexited, hstatus⟩ =>
    ⟨(q.putKey_keeps p.1 p.2).1.trans hexited, (q.putKey_keeps p.1 p.2).2.trans hstatus⟩

theorem BandRegs.getKey_puts_ne {ps : List (Nat × W64)} {j : Nat} (hj : j < 2 ^ 15) (hne : ∀ p ∈ ps, p.1 ≠ j) (r : BandRegs) :
    (r.puts ps).getKey j = r.getKey j := by
  induction ps generalizing r with
  | nil => rfl
  | cons p ps ih =>
    have hrest := ih (fun q hq => hne q (List.mem_cons_of_mem _ hq)) (r.putKey p.1 p.2)
    exact hrest.trans (BandRegs.getKey_putKey_slot_ne _ hj (hne p List.mem_cons_self).symm _)

/-- A slot that several puts name with one value holds that value. -/
theorem BandRegs.getKey_puts {ps : List (Nat × W64)} {key : Nat} {v : W64} (hk : key < 2 ^ 15) (hmem : (key, v) ∈ ps)
    (honly : ∀ p ∈ ps, p.1 = key → p.2 = v) (r : BandRegs) : (r.puts ps).getKey key = BitVec.ofNat 64 (v.toNat % 2 ^ 32) := by
  induction ps generalizing r with
  | nil => exact absurd hmem List.not_mem_nil
  | cons p ps ih =>
    have honly' : ∀ q ∈ ps, q.1 = key → q.2 = v := fun q hq => honly q (List.mem_cons_of_mem _ hq)
    by_cases hrest : (key, v) ∈ ps
    · exact ih hrest honly' _
    · have hp : p = (key, v) := ((List.mem_cons.1 hmem).resolve_right hrest).symm
      have hnone : ∀ q ∈ ps, q.1 ≠ key := fun q hq hkey => hrest (by rwa [← hkey, ← honly' q hq hkey])
      refine (BandRegs.getKey_puts_ne hk hnone (r.putKey p.1 p.2)).trans ?_
      rw [hp]
      exact BandRegs.getKey_putKey_slot r hk v

/-! ## The registers of a band that forms: R132 and R138 -/

/-- Word `j` of a record's payload. -/
def recWord (record : List Byte) (j : Nat) : W64 := BitVec.ofNat 64 (leNat ((record.drop (8 + 4 * j)).take 4))

/-- The slots into which the lanes' payloads go, with their words. -/
def Crew.payloads (cw : Crew) (rs : List WinRec) : List (Nat × W64) :=
  ((List.range rs.length).zip rs).flatMap fun x =>
    (List.range 14).map fun i => (slotKey x.1 (cw.cfg.taskBase + i), recWord x.2.record i)

theorem mem_range_zip {α : Type} {rs : List α} {l : Nat} {w : α} : (l, w) ∈ (List.range rs.length).zip rs ↔ rs[l]? = some w := by
  rw [List.mem_iff_getElem?]
  constructor
  · rintro ⟨i, hi⟩
    obtain ⟨hrange, hw⟩ := List.getElem?_zip_eq_some.1 hi
    obtain ⟨hi, hil⟩ := List.getElem?_eq_some_iff.1 hrange
    have hil : i = l := by rwa [List.getElem_range] at hil
    rwa [← hil]
  · intro hw
    obtain ⟨hl, -⟩ := List.getElem?_eq_some_iff.1 hw
    exact ⟨l, List.getElem?_zip_eq_some.2 ⟨List.getElem?_range hl, hw⟩⟩

theorem Crew.formed_r (cw : Crew) (old : Band) (rs : List WinRec) (now : Nat) : (cw.formed old rs now).r =
    (({ old.r with nest := [], exited := maskOf 64 (fun l => decide (rs.length ≤ l)), ix0 := 0, ix1 := 0, status := 0 } : BandRegs).puts
      (cw.payloads rs)).puts (cw.cfg.preUni.map fun p => (uniKey p.1, p.2)) := by
  unfold BandRegs.puts Crew.payloads
  rw [List.foldl_map, List.foldl_flatMap]
  simp only [List.foldl_map]
  rfl

/-- A lane of a band that forms has the words of its record in its payload slots. -/
theorem Crew.formed_payload {cw : Crew} {rs : List WinRec} (old : Band) (now : Nat) (hlen : rs.length ≤ 64)
    (hbase : cw.cfg.taskBase + 14 ≤ 256) {l : Nat} {w : WinRec} (hw : rs[l]? = some w) {j : Nat} (hj : j < 14) :
    (cw.formed old rs now).r.getKey (slotKey l (cw.cfg.taskBase + j)) =
      BitVec.ofNat 64 (leNat ((w.record.drop (8 + 4 * j)).take 4) % 2 ^ 32) := by
  obtain ⟨hl, -⟩ := List.getElem?_eq_some_iff.1 hw
  have hkey : slotKey l (cw.cfg.taskBase + j) < 2 ^ 15 := by unfold slotKey; omega
  have huni : ∀ p ∈ cw.cfg.preUni.map fun p => (uniKey p.1, p.2), p.1 ≠ slotKey l (cw.cfg.taskBase + j) := by
    intro p hp
    obtain ⟨q, -, rfl⟩ := List.mem_map.1 hp
    unfold uniKey
    omega
  have hmem : (slotKey l (cw.cfg.taskBase + j), recWord w.record j) ∈ cw.payloads rs :=
    List.mem_flatMap.2 ⟨_, mem_range_zip.2 hw, List.mem_map.2 ⟨j, List.mem_range.2 hj, rfl⟩⟩
  have honly : ∀ p ∈ cw.payloads rs, p.1 = slotKey l (cw.cfg.taskBase + j) → p.2 = recWord w.record j := by
    intro p hp heq
    obtain ⟨⟨m, v⟩, hv, hp⟩ := List.mem_flatMap.1 hp
    obtain ⟨i, hi, rfl⟩ := List.mem_map.1 hp
    have hi : i < 14 := List.mem_range.1 hi
    unfold slotKey at heq
    dsimp only at heq
    obtain ⟨rfl, rfl⟩ : m = l ∧ i = j := by omega
    obtain rfl : v = w := Option.some.inj ((mem_range_zip.1 hv).symm.trans hw)
    rfl
  rw [Crew.formed_r, BandRegs.getKey_puts_ne hkey huni, BandRegs.getKey_puts hkey hmem honly]
  unfold recWord
  rw [BitVec.toNat_ofNat, Nat.mod_mod_of_dvd _ (by decide)]

theorem Crew.formed_keeps (cw : Crew) (old : Band) (rs : List WinRec) (now : Nat) :
    (cw.formed old rs now).r.exited = maskOf 64 (fun l => decide (rs.length ≤ l)) ∧ (cw.formed old rs now).r.status = 0 := by
  rw [Crew.formed_r]
  obtain ⟨huniExited, huniStatus⟩ := BandRegs.puts_keeps
    (({ old.r with nest := [], exited := maskOf 64 (fun l => decide (rs.length ≤ l)), ix0 := 0, ix1 := 0, status := 0 } : BandRegs).puts
      (cw.payloads rs)) (cw.cfg.preUni.map fun p => (uniKey p.1, p.2))
  obtain ⟨hpayExited, hpayStatus⟩ := BandRegs.puts_keeps
    ({ old.r with nest := [], exited := maskOf 64 (fun l => decide (rs.length ≤ l)), ix0 := 0, ix1 := 0, status := 0 } : BandRegs)
    (cw.payloads rs)
  exact ⟨huniExited.trans hpayExited, huniStatus.trans hpayStatus⟩

/-! ## The memory and the crew of a band that forms -/

/-- Memory after several writes reads back one of them that the others do not touch. -/
theorem Memory.readN_foldl_writeN {ws : List (Nat × List Byte)} {a : Nat} {bs : List Byte} (hmem : (a, bs) ∈ ws)
    (hothers : ∀ w ∈ ws, w = (a, bs) ∨ w.1 + w.2.length ≤ a ∨ a + bs.length ≤ w.1) {m : List Host.Cell} (hm : Memory.wf m = true) :
    Memory.readN (ws.foldl (fun m w => Memory.writeN m w.1 w.2) m) a bs.length = bs := by
  have hkept : ∀ (vs : List (Nat × List Byte)) {m : List Host.Cell}, Memory.wf m = true →
      (∀ w ∈ vs, w = (a, bs) ∨ w.1 + w.2.length ≤ a ∨ a + bs.length ≤ w.1) → Memory.readN m a bs.length = bs →
      Memory.readN (vs.foldl (fun m w => Memory.writeN m w.1 w.2) m) a bs.length = bs := by
    intro vs
    induction vs with
    | nil => exact fun _ _ h => h
    | cons v vs ih =>
      intro m hm hv h
      refine ih (Memory.wf_writeN hm _) (fun w hw => hv w (List.mem_cons_of_mem _ hw)) ?_
      rcases hv v List.mem_cons_self with rfl | hapart
      · exact Memory.readN_writeN hm a
      · refine (Memory.readN_congr fun j hj => ?_).trans h
        rw [Memory.read_writeN_out hm]
        omega
  induction ws generalizing m with
  | nil => exact absurd hmem List.not_mem_nil
  | cons w ws ih =>
    have hothers' : ∀ v ∈ ws, v = (a, bs) ∨ v.1 + v.2.length ≤ a ∨ a + bs.length ≤ v.1 :=
      fun v hv => hothers v (List.mem_cons_of_mem _ hv)
    rcases List.mem_cons.1 hmem with rfl | hmem
    · exact hkept ws (Memory.wf_writeN hm _) hothers' (Memory.readN_writeN hm a)
    · exact ih hmem hothers' (Memory.wf_writeN hm _)

theorem length_pad (n : Nat) (bs : List Byte) : (pad n bs).length = n := by
  unfold pad
  simp

/-- The records of a band that forms, in the slices of its lanes. -/
def State.sliceWrites (s : State) (cw : Crew) (t : ThreadRef) (rs : List WinRec) : State :=
  ((List.range rs.length).zip rs).foldl (fun (s : State) x => s.writeKey (cw.sliceKey t x.1 192) (pad 64 x.2.record)) s

theorem State.sliceWrites_crews (s : State) (cw : Crew) (t : ThreadRef) (rs : List WinRec) : KeepsCrews s (s.sliceWrites cw t rs) :=
  foldl_keeps (P := KeepsCrews s) (.refl s) fun u _ hu => hu.trans (u.writeKey_crews ..)

theorem State.readKey_sliceWrites {s : State} (hm : Memory.wf s.mem = true) (cw : Crew) (t : ThreadRef) {rs : List WinRec} {l : Nat}
    {w : WinRec} (hw : rs[l]? = some w) : (s.sliceWrites cw t rs).readKey (cw.sliceKey t l 192) 64 = pad 64 w.record := by
  let writes := ((List.range rs.length).zip rs).map fun x => (cw.sliceKey t x.1 192, pad 64 x.2.record)
  have hmem : (s.sliceWrites cw t rs).mem = writes.foldl (fun m w => Memory.writeN m w.1 w.2) s.mem := by
    unfold writes
    rw [List.foldl_map]
    exact (List.foldl_hom State.mem fun _ _ => rfl).symm
  have hself : (cw.sliceKey t l 192, pad 64 w.record) ∈ writes := List.mem_map.2 ⟨(l, w), mem_range_zip.2 hw, rfl⟩
  have hothers : ∀ v ∈ writes, v = (cw.sliceKey t l 192, pad 64 w.record) ∨ v.1 + v.2.length ≤ cw.sliceKey t l 192 ∨
      cw.sliceKey t l 192 + (pad 64 w.record).length ≤ v.1 := by
    intro v hv
    obtain ⟨⟨m, u⟩, hu, rfl⟩ := List.mem_map.1 hv
    by_cases hml : m = l
    · subst hml
      obtain rfl : u = w := Option.some.inj ((mem_range_zip.1 hu).symm.trans hw)
      exact .inl rfl
    · refine .inr ?_
      simp only [length_pad, Crew.sliceKey, laneKey, Crew.laneCtx]
      omega
  have hread := Memory.readN_foldl_writeN hself hothers hm
  rw [length_pad] at hread
  unfold State.readKey
  rw [hmem]
  exact hread

/-- A core at whose windows none of the given threads waits. -/
def Core.leave (c : Core) (was : List (Nat × Nat × Nat)) : Core :=
  { c with windows := c.windows.map fun w => { w with joined := w.joined.filter fun j => !was.contains j } }

theorem crews_get_leave (cores : Tbl Core) (was : List (Nat × Nat × Nat)) (c : Nat) :
    (Tbl.get Core.reset (cores.map fun x => (x.1, x.2.leave was)) c).crews = (cores.get Core.reset c).crews := by
  rw [Tbl.get_eq_find?, Tbl.get_eq_find?, Tbl.find?_mapVal cores fun x => x.leave was]
  cases Tbl.find? cores c <;> rfl

/-- The crew of a band slot that has been vacated: what is left of the slot's last band stands under a key behind those of the slots. -/
theorem State.crewOf_vacate {s : State} {r : CrewRef} {cw : Crew} (hcw : s.crewOf r = some cw) (k : Nat) :
    ∃ w, (s.vacate r cw k).crewOf r = some w ∧ w.window = cw.window ∧ ∀ j, j < lateBand → w.bands.find? j = cw.bands.find? j := by
  obtain ⟨late, t, hlate, ht, hvacate⟩ : ∃ late t, lateBand ≤ late ∧ t.crewOf r = s.crewOf r ∧ s.vacate r cw k =
      match cw.bands.find? k with
      | some b => if b.accs.isEmpty && b.waits.isEmpty then t else t.setThread (r.band late) b
      | none => t := by
    refine ⟨_, _, ?_, ?_, rfl⟩
    · refine Nat.le_trans ?_ (Nat.le_add_left _ _)
      exact Nat.le_mul_of_pos_right _ (by omega)
    · rw [State.crewOf_updCore]
      · unfold State.crewOf State.coreOf
        rw [State.dieOf_updDie]
        exact congrArg (fun crews : Tbl Crew => crews.find? r.slot) (crews_get_leave
          (s.dieOf r.die).cores [ThreadRef.reader (r.band k), ThreadRef.awaiter (r.band k)] r.core)
      · exact fun _ => rfl
  rw [hvacate]
  have hsame := ht.trans hcw
  cases hb : cw.bands.find? k with
  | none => exact ⟨cw, hsame, rfl, fun _ _ => rfl⟩
  | some b =>
    dsimp only
    split
    · exact ⟨cw, hsame, rfl, fun _ _ => rfl⟩
    · refine ⟨cw.setThread (some late) b, ?_, rfl, fun j hj => Tbl.find?_set_ne _ _ (by omega)⟩
      unfold State.setThread
      rw [State.crewOf_updCrew]
      exact (if_pos rfl).trans (congrArg (Option.map _) hsame)

/-- A band forms in the first free slot of its crew. -/
theorem State.formBand_eq {s : State} {r : CrewRef} {cw : Crew} {k : Nat} {rs : List WinRec} (hcw : s.crewOf r = some cw)
    (hslot : cw.freeSlot = some k) (hrs : cw.blocked (s.cyc r.die) (s.ctxOf (handleCtx cw.cfg.handle).toNat).flush.toNat = rs)
    (hsome : rs ≠ []) (hlive : cw.ctl.cancelled = false) (hrun : cw.ctl.stopping = false) :
    s.formBand r = ((s.vacate r cw k).updCrew r fun w => { w with
      bands := w.bands.set k (cw.formed ((cw.bands.find? k).getD Band.reset) rs (s.cyc r.die)),
      window := cw.window.filter fun w => !rs.contains w }).sliceWrites cw (r.band k) rs := by
  subst hrs
  unfold State.formBand
  rw [hcw]
  dsimp only
  rw [hslot]
  dsimp only
  rw [if_neg]
  · rfl
  · rw [hlive, hrun, Bool.or_false, Bool.or_false, List.isEmpty_iff]
    exact hsome

/-! ## Takes -/

theorem State.length_takeFrom_le (d : Nat) (h : Handle) (xs : List Source) :
    ∀ (n : Nat) (bins : List Nat) (s : State), (s.takeFrom d h n bins xs).2.length ≤ n := by
  induction xs with
  | nil =>
    intro n bins s
    unfold State.takeFrom
    cases n <;> exact Nat.zero_le _
  | cons x xs ih =>
    intro n bins s
    cases n with
    | zero => exact Nat.zero_le _
    | succ n =>
      unfold State.takeFrom
      split
      · exact (ih ..).trans (Nat.le_succ n)
      · dsimp only
        split
        · exact Nat.succ_le_succ (ih ..)
        · exact ih ..

/-- Settles O52. -/
theorem taskMovement : Obligations.TaskMovement := by
  unfold Obligations.TaskMovement
  refine ⟨fun s d g => ?steal, fun s h g => ?request, fun s h g n pos record => ?grant, fun s h b => ?arrival,
    fun s h r b g => ⟨fun t w h0 p0 k0 htag hlast hsent => exec_enqack htag hlast hsent, ?credit, ?bounce⟩,
    fun s cw k i => ?form, fun s cw => ?take, fun s w rest hline => ?page⟩
  case steal =>
    intro x order
    refine ⟨fun hidle hsteal => ?_, fun rest hidle hsteal => ?_, fun since hsteal hsince => ?_, fun rest hnone => ?_,
      fun rest v vs hrest hpage => State.stealNext_asks hrest hpage, fun rest hrest hpage => State.stealNext_waits hrest hpage⟩
    · refine (if_neg (by rw [hidle]; decide)).trans ?_
      rw [show (s.gridDie d g).steal = .idle from hsteal]
      rfl
    · refine (if_neg (by rw [hidle]; decide)).trans ?_
      rw [show (s.gridDie d g).steal = .pending rest from hsteal]
    · show execStealRoundWaitExpiry d g s = _
      unfold execStealRoundWaitExpiry
      rw [show (s.gridDie d g).steal = .resting since from hsteal]
      refine (if_neg (Nat.not_lt.2 hsince)).trans ?_
      split <;> rfl
    · rw [State.stealNext_none hnone, State.gridDie_updGridDie]
      exact ⟨rfl, beq_iff_eq⟩
  case request =>
    intro d x k
    exact ⟨fun hnone => if_pos hnone, fun hsome hpkg => exec_stealreq rfl rfl hsome hpkg⟩
  case grant =>
    intro d v x
    refine ⟨fun rest hst => ⟨?_, ?_⟩, fun k got hst hpos hnew => ?_, fun hgranted => exec_stealack hgranted⟩
    · show execGrant h g n s = _
      unfold execGrant
      dsimp only
      rw [show (s.gridDie h.dstSock.toNat g).steal = .asking rest v from hst]
      exact if_pos rfl
    · show execRefuse h g s = _
      unfold execRefuse State.stealRefused
      rw [show (s.gridDie h.dstSock.toNat g).steal = .asking rest v from hst]
      exact if_pos rfl
    · have hexec := exec_stealrec (record := record) hst hpos hnew
      refine ⟨fun hfew => hexec.trans (congrArg Host.Outcome.next (if_pos hfew)), fun hall => ?_⟩
      obtain ⟨u, hu, hidle, hreserved⟩ := s.grantArrived_spec h.dstSock.toNat g h
        ((List.range k).filterMap fun i => ((got ++ [(pos.toNat, record)]).find? fun x => x.1 == i).map fun x => x.2)
      exact ⟨u, hexec.trans (congrArg Host.Outcome.next ((if_neg (Nat.not_lt.2 hall)).trans hu)), hidle, hreserved⟩
  case arrival =>
    intro d g x base slot closed
    refine ⟨fun hcancelled => if_pos hcancelled, fun hlive hback => exec_enqArrival_back hlive (hback.imp_left State.closedTo_iff.2),
      fun j s1 hlive hopen hslot hwrite hlen =>
        exec_enqArrival_lands hlive (fun hclosed => hopen (State.closedTo_iff.1 hclosed)) hslot hwrite hlen⟩
  case credit =>
    refine ⟨_, rfl, rfl, (State.enqUsed_setEnqUsed ..).trans (if_pos ⟨rfl, rfl⟩), fun p' k' hne =>
      (State.enqUsed_setEnqUsed ..).trans (if_neg ?_)⟩
    rintro ⟨rfl, rfl⟩
    exact hne rfl
  case bounce =>
    rintro rfl u rfl w
    refine ⟨fun hcancelled => if_pos hcancelled, fun hlive => ⟨fun s2 hring => ?_, fun hring => ⟨_, ?_, State.pageWait_returnWait ..⟩⟩⟩
    · refine (if_neg (ne_true_of_eq_false hlive)).trans ?_
      rw [hring]
    · refine (if_neg (ne_true_of_eq_false hlive)).trans ?_
      rw [hring]
  case form =>
    intro r rs b hi hcw hslot hsome hlive hrun hcanon hlen hbase
    have hexec : exec i s = .next (s.formBand r) := by rcases hi with rfl | rfl <;> rfl
    obtain ⟨w0, hw0, hwindow, hbands⟩ := State.crewOf_vacate hcw k
    let w : Crew := { w0 with bands := w0.bands.set k b, window := cw.window.filter fun w => !rs.contains w }
    let placed := (s.vacate r cw k).updCrew r fun w => { w with bands := w.bands.set k b, window := cw.window.filter fun w => !rs.contains w }
    have hplaced : placed.crewOf r = some w := by
      unfold placed
      rw [State.crewOf_updCrew, if_pos rfl, hw0]
      rfl
    have hmem : Memory.wf placed.mem = true := by
      have hsame : placed.mem = s.mem := (State.updCrew_mem ..).trans (State.vacate_mem ..)
      rw [hsame]
      exact hcanon
    obtain ⟨hexited, hstatus⟩ := cw.formed_keeps ((cw.bands.find? k).getD Band.reset) rs (s.cyc r.die)
    refine ⟨placed.sliceWrites cw (r.band k) rs, w, hexec.trans (congrArg Host.Outcome.next (State.formBand_eq hcw hslot rfl hsome hlive hrun)),
      ((placed.sliceWrites_crews ..).crew r).trans hplaced, rfl, Tbl.find?_set_self .., fun j hj hlate => ?_, rfl, hexited, rfl, hstatus,
      fun l v hv => ⟨State.readKey_sliceWrites hmem cw _ hv, fun j hj => Crew.formed_payload _ _ hlen hbase hv hj⟩⟩
    exact (Tbl.find?_set_ne _ _ hj).trans (hbands j hlate)
  case take =>
    intro r hcw hidle h n x fromRing u
    refine ⟨?_, State.length_takeFrom_le ..⟩
    show execTake s = _
    unfold execTake
    dsimp only
    rw [hcw]
    dsimp only
    exact if_neg (by rw [hidle]; decide)
  case page =>
    refine ⟨?_, fun r s1 hw hring => ?_⟩
    · show execSpillPageReturn s = _
      unfold execSpillPageReturn
      dsimp only
      rw [hline]
    · rw [hw] at hring ⊢
      show (match s.ringAppend s.cur.die w.1 (some (.returned r)) r with
        | some s1 => s1.pageGot s.cur.die w.1 (.returned r)
        | none => s) = _
      rw [hring]
      obtain ⟨g, v⟩ := w
      obtain rfl : v = .returned r := hw
      rfl

end Sys2Proof.Machine
end

section
/-!
Events of a core that pass with time: the active set, the wait for a merge, windows, trap entry and overrun.
-/
namespace Sys2Proof.Machine

/-! ## The active set: R165 to R167 -/

/-- What `greatest` picks is in the list, and nothing in the list is greater. -/
theorem greatest_spec {α : Type} (f : α → Nat) : ∀ {l : List α}, l ≠ [] → ∃ x, greatest f l = some x ∧ x ∈ l ∧ ∀ v ∈ l, f v ≤ f x
  | [x], _ => ⟨x, rfl, List.mem_singleton_self x, fun v hv => by rw [List.mem_singleton.1 hv]⟩
  | x :: y :: ys, _ => by
    obtain ⟨z, hz, hmem, hmax⟩ := greatest_spec f (l := y :: ys) (List.cons_ne_nil y ys)
    unfold greatest
    rw [hz]
    dsimp only
    by_cases hle : f z ≤ f x
    · rw [if_pos hle]
      refine ⟨x, rfl, List.mem_cons_self, fun v hv => ?_⟩
      rcases List.mem_cons.1 hv with rfl | hv
      · exact le_rfl
      · exact (hmax v hv).trans hle
    · rw [if_neg hle]
      refine ⟨z, rfl, List.mem_cons_of_mem _ hmem, fun v hv => ?_⟩
      rcases List.mem_cons.1 hv with rfl | hv
      · exact (Nat.lt_of_not_le hle).le
      · exact hmax v hv

theorem State.mem_active_trimSet (s : State) (d c : Nat) (p : Nat × Nat) : p ∈ ((s.trimSet d c).coreOf d c).sel.active ↔
    p ∈ (s.coreOf d c).sel.active ∧ (s.coreOf d c).stillRuns p = true := by
  unfold State.trimSet State.updCore
  rw [State.coreOf_setCore]
  exact List.mem_filter

/-- What a replacement does, by the bands outside that were ready, the members that were not, and those outside that stood long. -/
def State.replaced (u : State) (inside ready idle long : List ThreadRef) : State :=
  if inside.length < 8 then
    match greatest u.key ready with
    | some t => u.swapSet none t
    | none => u
  else match greatest u.standing idle, greatest u.key ready with
    | some o, some t => u.swapSet (some o) t
    | _, _ =>
      match greatest u.issuedAt inside, greatest u.key long with
      | some o, some t => u.swapSet (some o) t
      | _, _ => u

section
variable {u : State} {inside ready idle long : List ThreadRef}

theorem State.replaced_room (hroom : inside.length < 8) (hready : ready ≠ []) :
    ∃ t, (t ∈ ready ∧ ∀ v ∈ ready, u.key v ≤ u.key t) ∧ u.replaced inside ready idle long = u.enterSet t := by
  obtain ⟨t, ht, hbest⟩ := greatest_spec u.key hready
  unfold State.replaced
  rw [if_pos hroom, ht]
  exact ⟨t, hbest, rfl⟩

theorem State.replaced_idle (hfull : 8 ≤ inside.length) (hidle : idle ≠ []) (hready : ready ≠ []) :
    ∃ o t, (o ∈ idle ∧ ∀ v ∈ idle, u.standing v ≤ u.standing o) ∧ (t ∈ ready ∧ ∀ v ∈ ready, u.key v ≤ u.key t) ∧
      u.replaced inside ready idle long = (u.leaveSet o).enterSet t := by
  obtain ⟨o, ho, hbestO⟩ := greatest_spec u.standing hidle
  obtain ⟨t, ht, hbestT⟩ := greatest_spec u.key hready
  unfold State.replaced
  rw [if_neg (Nat.not_lt.2 hfull), ho, ht]
  exact ⟨o, t, hbestO, hbestT, rfl⟩

theorem State.replaced_long (hfull : 8 ≤ inside.length) (hidle : idle = []) (hlong : long ≠ []) :
    ∃ o t, (o ∈ inside ∧ ∀ v ∈ inside, u.issuedAt v ≤ u.issuedAt o) ∧ (t ∈ long ∧ ∀ v ∈ long, u.key v ≤ u.key t) ∧
      u.replaced inside ready idle long = (u.leaveSet o).enterSet t := by
  obtain ⟨o, ho, hbestO⟩ := greatest_spec u.issuedAt (List.ne_nil_of_length_pos (by omega : 0 < inside.length))
  obtain ⟨t, ht, hbestT⟩ := greatest_spec u.key hlong
  unfold State.replaced
  rw [if_neg (Nat.not_lt.2 hfull), hidle, ho, ht]
  exact ⟨o, t, hbestO, hbestT, rfl⟩

theorem State.replaced_none (hlong : ready = [] → long = []) (hnone : ready = [] ∨ (8 ≤ inside.length ∧ idle = [] ∧ long = [])) :
    u.replaced inside ready idle long = u := by
  have hempty : ∀ f : ThreadRef → Nat, greatest f [] = none := fun _ => rfl
  unfold State.replaced
  rcases hnone with hready | ⟨hfull, hidle, hlong'⟩
  · rw [hlong hready, hready, hempty]
    split
    · rfl
    · cases greatest u.standing idle <;> cases greatest u.issuedAt inside <;> rfl
  · rw [if_neg (Nat.not_lt.2 hfull), hidle, hlong', hempty, hempty]
    cases greatest u.issuedAt inside <;> rfl

end

/-! ## The wait for a merge: R185 -/

theorem Band.pastMrg_spec (b : Band) (free : Nat) (pc : PCW) : b.pastMrg free pc =
      { b with x := { b.x with pc := pc, phase := .fresh }, region := (b.pastMrg free pc).region } ∧
    (b.trapPriv = false → (b.pastMrg free pc).region.restart = pc ∧ (b.pastMrg free pc).region.tag = b.region.tag + 1 ∧
      (b.pastMrg free pc).region.stores = 0) := by
  unfold Band.pastMrg Band.openRegion
  dsimp only
  constructor
  · split <;> rfl
  · intro hpriv
    rw [if_neg (ne_true_of_eq_false hpriv)]
    exact ⟨rfl, rfl, rfl⟩

/-! ## Windows: R204 -/

/-- A window that closes now: 64 cycles after it opened, or once every other core has joined. -/
def McWin.due (w : McWin) (now : Nat) : Bool :=
  w.data.isNone && (decide (w.openedAt + 64 ≤ now) || w.others.all fun c => w.joined.any fun j => j.1 == c)

theorem McWin.due_iff (w : McWin) (now : Nat) : w.due now = true ↔
    w.data = none ∧ (w.openedAt + 64 ≤ now ∨ ∀ c ∈ w.others, ∃ j ∈ w.joined, j.1 = c) := by
  simp [McWin.due]

/-- The windows of the core at `cur` once those that are due have closed. -/
def State.closedWindows (s : State) : List McWin := (s.coreOf s.cur.die s.cur.core).windows.map fun w =>
  if w.due (s.cyc s.cur.die) then { w with data := some (s.blockBytes s.cur.die s.cur.core w.block) } else w

theorem exec_multicastWindowClose (s : State) : ∃ t, exec .multicastWindowClose s = .next t ∧ t.mem = s.mem ∧
    (t.coreOf s.cur.die s.cur.core).windows = s.closedWindows := by
  refine ⟨_, rfl, rfl, ?_⟩
  unfold State.updCore
  rw [State.coreOf_setCore]
  rfl

/-! ## Trap entry: R269 -/

@[simp] theorem State.settle_cur (s : State) (t : ThreadRef) : (s.settle t).cur = s.cur := by
  unfold State.settle
  split
  · exact State.setThread_cur ..
  · rfl

theorem exec_trapEntry {s : State} {b : Band} (hb : (s.settle s.cur).thread s.cur = some b) : exec .trapEntry s =
    .next (if b.pending.isSome && !b.writersOut then (s.settle s.cur).enterTrap s.cur else s.settle s.cur) := by
  show execTrapEntry s = _
  unfold execTrapEntry
  dsimp only
  rw [hb]

/-- A band as it enters its handler: as for any cause, but that the bound of a cancel handler counts from here. -/
theorem State.enterTrap_entered {s : State} {t : ThreadRef} {cw : Crew} {b : Band} {p : PendTrap} {pc : Nat} (hcw : s.crewOf t.crew = some cw)
    (hb : s.thread t = some b) (hp : b.pending = some p) (hv : s.vector (handleCtx cw.cfg.handle) cw.cfg.trapVec p.cause = .handler pc) :
    ∃ since, s.enterTrap t = ((s.countCause t.die cw.cfg.handle p.cause).saveLanes cw t b p.srcs).setThread t
      { b.enterHandler p pc with stopReq := since } := by
  by_cases hc : p.cause = 12
  · refine ⟨some (s.cyc t.die), ?_⟩
    unfold State.enterTrap
    rw [hcw, hb]
    dsimp only
    rw [hp]
    dsimp only
    rw [hv]
    dsimp only
    rw [if_pos hc]
  · have henter := State.enterTrap_handler hcw hb hp hc hv
    generalize b.enterHandler p pc = b1 at henter
    exact ⟨b1.stopReq, henter⟩

theorem State.saveLanes_dies (s : State) (cw : Crew) (t : ThreadRef) (b : Band) (srcs : List (Nat × List W128)) :
    (s.saveLanes cw t b srcs).dies = s.dies := by
  unfold State.saveLanes
  exact foldl_keeps (P := fun u : State => u.dies = s.dies) rfl fun _ _ h => (State.writeKey_dies ..).trans h

theorem State.counts_countCause (s : State) (d : Nat) (h : Handle) (cause : Nat) :
    ((s.countCause d h cause).gridDie d h).counts.get 0 cause = (s.gridDie d h).counts.get 0 cause + 1 := by
  unfold State.countCause
  rw [State.gridDie_updGridDie]
  exact Tbl.get_set_self ..

/-- Entering a handler changes the band, counts the cause, and leaves every other thread. -/
theorem State.enterTrap_spec {s : State} {t : ThreadRef} {cw : Crew} {b : Band} {p : PendTrap} {pc : Nat} (hcw : s.crewOf t.crew = some cw)
    (hb : s.thread t = some b) (hp : b.pending = some p) (hv : s.vector (handleCtx cw.cfg.handle) cw.cfg.trapVec p.cause = .handler pc) :
    ∃ since, (s.enterTrap t).thread t = some { b.enterHandler p pc with stopReq := since } ∧
      ((s.enterTrap t).gridDie t.die cw.cfg.handle).counts.get 0 p.cause = (s.gridDie t.die cw.cfg.handle).counts.get 0 p.cause + 1 ∧
      SameOthers t s (s.enterTrap t) := by
  obtain ⟨since, henter⟩ := State.enterTrap_entered hcw hb hp hv
  let saved := (s.countCause t.die cw.cfg.handle p.cause).saveLanes cw t b p.srcs
  have hcrews : KeepsCrews s saved := (KeepsCrews.updGridDie ..).trans (State.saveLanes_crews ..)
  have hthread : (saved.thread t).isSome := by rw [hcrews.thread, hb]; rfl
  rw [henter]
  refine ⟨since, (State.thread_setThread _ _ _ _ hthread).trans (if_pos rfl), ?_, (SameOthers.of_crews hcrews).trans (.setThread hthread _)⟩
  rw [State.gridDie_setThread, State.gridDie_of_dies (State.saveLanes_dies ..)]
  exact State.counts_countCause ..

/-! ## Overrun: R280 -/

/-- An event of a die goes to the I/O die of this package. -/
theorem State.report_here (s : State) {sock : Nat} (hsock : sock ≠ 24) (fatal : Bool) (ctx : Option B6) (cause : Nat) (grid : Handle)
    (detail : List Byte) : (s.report sock fatal ctx cause grid detail).mem = s.mem ∧
      ∃ q ∈ (s.report sock fatal ctx cause grid detail).net, q.body = .event (s.mkRecord sock fatal ctx cause grid detail) := by
  have hhere : ∀ (t : State) (h : PktHdr) (b : Body), h.dstPkg = BitVec.ofNat 8 t.pkg → t.send h b = { t with net := t.net ++ [⟨h, b⟩] } := by
    intro t h b hdst
    refine if_pos ?_
    rw [hdst]
    exact Nat.mod_eq_of_lt (BitVec.isLt _)
  obtain ⟨v, hreport, hv⟩ : ∃ v : State, s.report sock fatal ctx cause grid detail =
      v.send (v.hdr (ctx.getD 0) 0 sock 24) (.event (s.mkRecord sock fatal ctx cause grid detail)) ∧ v.mem = s.mem := by
    refine ⟨_, if_neg hsock, ?_⟩
    exact (State.updOwner_keeps ..).2.1
  rw [hreport, hhere _ _ _ rfl]
  exact ⟨hv, _, List.mem_append_right _ (List.mem_singleton_self _), rfl⟩

theorem State.mkRecord_congr {s t : State} (h : SameOutside s t) (sock : Nat) (fatal : Bool) (ctx : Option B6) (cause : Nat) (grid : Handle)
    (detail : List Byte) : t.mkRecord sock fatal ctx cause grid detail = s.mkRecord sock fatal ctx cause grid detail := by
  unfold State.mkRecord State.sockEv State.timeCount
  rw [State.pkg_of_podrt h.podrt, h.host, h.time]

/-- An overdue band may be stopped: at a boundary outside a chain, with no trap accepted and its accesses acknowledged. -/
structure Band.Overrun (b : Band) (now limit : Nat) : Prop where
  since : ∃ since, b.stopReq = some since ∧ since + limit ≤ now
  running : b.running = true
  stopped : b.stopped = false
  pending : b.pending = none
  chain : b.x.chain = none
  phase : b.x.phase.mayOverrun = true
  out : b.writersOut = false
  committed : b.committed = true

/-- What an overrun makes of a band, before its event. -/
def State.overrunStop (s : State) (t : ThreadRef) (cw : Crew) (b : Band) : State :=
  if cw.ctl.cancelled && b.cancelTrap then s.killBand t else s.setThread t { b with stopped := true, full := true }

theorem exec_spmaxOverrun {s : State} {cw : Crew} {b : Band} (hcw : (s.settle s.cur).crewOf s.cur.crew = some cw)
    (hb : (s.settle s.cur).thread s.cur = some b) (hband : s.cur.band.isSome = true)
    (hover : b.Overrun ((s.settle s.cur).cyc s.cur.die) ((s.settle s.cur).spmaxOf cw)) : exec .spmaxOverrun s =
      .next ((((s.settle s.cur).overrunStop s.cur cw b).trapEvent s.cur cw.cfg.handle 15 b.x.pc.toNat 0 b.exec.toNat 0).countCause
        s.cur.die cw.cfg.handle 15) := by
  obtain ⟨⟨since, hreq, hsince⟩, hrun, hstopped, hpending, hchain, hphase, hout, hcommitted⟩ := hover
  have hdue : (s.settle s.cur).overdue s.cur cw b = true := by
    unfold State.overdue
    rw [hreq, hband, hchain, hphase]
    exact decide_eq_true hsince
  have hguard : (s.cur.band.isNone || !(s.settle s.cur).overdue s.cur cw b || !b.running || b.stopped || b.pending.isSome ||
      b.x.chain.isSome || !b.x.phase.mayOverrun || b.writersOut || !b.committed) = false := by
    rw [hdue, hrun, hstopped, hpending, hchain, hphase, hout, hcommitted, Option.isNone_eq_false_iff.2 hband]
    rfl
  show execSpmaxOverrun s = _
  unfold execSpmaxOverrun
  dsimp only
  rw [State.settle_cur, hcw, hb]
  dsimp only
  rw [hreq]
  dsimp only
  unfold State.overrunStop
  rw [if_neg (ne_true_of_eq_false hguard), hreq]

theorem State.overrun_keeps (s : State) (t : ThreadRef) (h : Handle) (fpc lanes : Nat) :
    KeepsCrews s ((s.trapEvent t h 15 fpc 0 lanes 0).countCause t.die h 15) :=
  (KeepsCrews.of_dies (State.report_dies ..)).trans (.updGridDie ..)

end Sys2Proof.Machine
end

section
/-!
Crews that leave a core, clusters that start on one, and the obligation on the events of a core.
-/
namespace Sys2Proof.Machine

/-! ## What a replacement in the active set does -/

theorem exec_activeSetReplacement (s : State) :
    let d := s.cur.die
    let c := s.cur.core
    let u := s.trimSet d c
    let k := u.coreOf d c
    let ref := fun (p : Nat × Nat) => (⟨d, c, p.1, some p.2⟩ : ThreadRef)
    let inside := k.sel.active.map ref
    let ready := ((k.runningBands.filter fun p => !k.sel.active.contains p).map ref).filter fun t => u.wasReady t true
    exec .activeSetReplacement s = .next (if k.sel.lastSetChange = some (u.cyc d) then u
      else u.replaced inside ready (inside.filter fun t => u.wasReady t false) (ready.filter fun t => decide (64 ≤ u.standing t))) := by
  intro d c u k ref inside ready
  generalize hidle : (inside.filter fun t => u.wasReady t false) = idle
  generalize hlong : (ready.filter fun t => decide (64 ≤ u.standing t)) = long
  have hexec : exec .activeSetReplacement s = if k.sel.lastSetChange = some (u.cyc d) then Host.Outcome.next u
      else if inside.length < 8 then
        match greatest u.key ready with
        | some t => .next (u.swapSet none t)
        | none => .next u
      else match greatest u.standing idle, greatest u.key ready with
        | some o, some t => .next (u.swapSet (some o) t)
        | _, _ =>
          match greatest u.issuedAt inside, greatest u.key long with
          | some o, some t => .next (u.swapSet (some o) t)
          | _, _ => .next u := by
    subst hidle hlong
    rfl
  rw [hexec]
  unfold State.replaced
  by_cases hnow : k.sel.lastSetChange = some (u.cyc d)
  · rw [if_pos hnow, if_pos hnow]
  · rw [if_neg hnow, if_neg hnow]
    by_cases hroom : inside.length < 8
    · rw [if_pos hroom, if_pos hroom]
      cases greatest u.key ready <;> rfl
    · rw [if_neg hroom, if_neg hroom]
      cases greatest u.standing idle with
      | none => cases greatest u.issuedAt inside <;> cases greatest u.key long <;> rfl
      | some o =>
        cases greatest u.key ready with
        | none => cases greatest u.issuedAt inside <;> cases greatest u.key long <;> rfl
        | some t => rfl

theorem State.trapEvent_dies (s : State) (t : ThreadRef) (h : Handle) (cause fpc info lanes kind : Nat) :
    (s.trapEvent t h cause fpc info lanes kind).dies = s.dies := State.report_dies ..

/-! ## The save of a cluster: R281 -/

theorem State.savedCrews_of_rest {s t : State} {d : Nat} (h : (t.dieOf d).rest = (s.dieOf d).rest) :
    (t.dieOf d).savedCrews = (s.dieOf d).savedCrews := by
  have hsaved : (t.dieOf d).rest.savedCrews = (s.dieOf d).rest.savedCrews := congrArg Die.savedCrews h
  exact hsaved

theorem State.savedCrews_updDie (s : State) (k : Nat) (f : Die → Die) (d : Nat) (hf : ∀ x, (f x).savedCrews = x.savedCrews) :
    ((s.updDie k f).dieOf d).savedCrews = (s.dieOf d).savedCrews := by
  by_cases h : d = k
  · subst h
    rw [State.dieOf_updDie, hf]
  · rw [State.dieOf_updDie_ne _ _ h]

theorem State.savedCrews_updDisp (s : State) (k : Nat) (f : DieDisp → DieDisp) (d : Nat) :
    ((s.updDisp k f).dieOf d).savedCrews = (s.dieOf d).savedCrews := by
  unfold State.updDisp
  rw [State.savedCrews_updDie]
  exact fun _ => rfl

theorem State.savedCrews_updCore (s : State) (k c : Nat) (f : Core → Core) (d : Nat) :
    ((s.updCore k c f).dieOf d).savedCrews = (s.dieOf d).savedCrews := State.savedCrews_of_rest (State.rest_setCore ..)

theorem State.savedCrews_dropCrew (s : State) (r : CrewRef) (cw : Crew) (d : Nat) :
    ((s.dropCrew r cw).dieOf d).savedCrews = (s.dieOf d).savedCrews := by
  unfold State.dropCrew
  dsimp only
  rw [State.savedCrews_updDisp, State.savedCrews_updDie]
  · rw [State.savedCrews_updCore, State.savedCrews_updCore]
  · exact fun _ => rfl

theorem State.saveBytes_dies (ctx : B6) (ws : List (Nat × List Byte × Bool)) (s : State) : (s.saveBytes ctx ws).2.dies = s.dies := by
  induction ws generalizing s with
  | nil => rfl
  | cons w ws ih =>
    obtain ⟨va, bs, block⟩ := w
    unfold State.saveBytes
    split
    · rfl
    · exact ih _

/-- The bytes by which the blocks of a cluster's crews differ in what the spec leaves free. -/
def saveStep (cs : List (CrewRef × Crew)) : Nat := (cs.map fun x => lostAt x.2.cfg.blockBytes (x.2.cfg.bands + 1)).foldl max 0

/-- A crew as the save of its cluster keeps it; its place among the crews, and its block's address, come with it. -/
def State.savedAt (s : State) (cs : List (CrewRef × Crew)) (x : Nat × (CrewRef × Crew) × Nat) : SavedCrew :=
  s.toSaved x.2.1.1 x.2.1.2 x.2.2 (s.free + saveStep cs * x.1)

/-- What the save of a crew writes: its block, and the keys of its tables of mode 2. -/
def State.saveBlocks (s : State) (cs : List (CrewRef × Crew)) (x : Nat × (CrewRef × Crew) × Nat) : List (Nat × List Byte × Bool) :=
  (x.2.2, (s.savedAt cs x).bytes (s.free + saveStep cs * x.1), true) :: (List.range 16).filterMap fun t =>
    if (x.2.1.2.table t).mode = 2 then some ((x.2.1.2.table t).chnext, s.keyImage x.2.1.1 x.2.1.2 (x.2.1.2.table t), false) else none

/-- The cluster's crews leave their cores for the list of the saved ones; `s1` is the state once their blocks are written. -/
def State.saveDone (s : State) (d : Nat) (h : Handle) (cluster : Nat) (cs : List (CrewRef × Crew)) (vas : List Nat) (s1 : State) : State :=
  let pages := (cs.zip vas).flatMap fun x => (List.range x.1.2.cfg.blockPages).map fun i => x.2 + 65536 * i
  let blocks := (cs.zip vas).map fun x => (x.2, x.1.2.cfg.blockPages)
  let s2 := { s1 with free := s1.free + saveStep cs * cs.length }.updCtxDie d (handleCtx h).toNat fun c =>
    { c with saveUsed := c.saveUsed ++ pages }
  let s3 := s2.updGridDie d h fun y => { y with saved := y.saved ++ [{ cluster := cluster, blocks := blocks }] }
  let s4 := s3.updDie d fun x => { x with savedCrews := x.savedCrews ++ ((List.range cs.length).zip (cs.zip vas)).map (s.savedAt cs) }
  ((cs.foldl (fun (s : State) x => s.dropCrew x.1 x.2) s4).retarget d).preSettle (handleCtx h).toNat

theorem State.saveAt_done {s s1 : State} {h : Handle} {cs : List (CrewRef × Crew)} {vas : List Nat} (d cluster : Nat)
    (hbytes : s.saveBytes (handleCtx h) (((List.range cs.length).zip (cs.zip vas)).flatMap (s.saveBlocks cs)) = (none, s1)) :
    s.saveAt d h cluster cs vas = s.saveDone d h cluster cs vas s1 := by
  show (match s.saveBytes (handleCtx h) (((List.range cs.length).zip (cs.zip vas)).flatMap (s.saveBlocks cs)) with
    | (some _, s1) => s1.abandonSave d h cs 0x0121
    | (none, s1) => s.saveDone d h cluster cs vas s1) = _
  rw [hbytes]

/-- What the save of a cluster leaves: the memory as its bytes were written, and its crews among the saved ones. -/
theorem State.saveDone_spec (s : State) (d : Nat) (h : Handle) (cluster : Nat) (cs : List (CrewRef × Crew)) (vas : List Nat) (s1 : State) :
    (s.saveDone d h cluster cs vas s1).mem = s1.mem ∧ ((s.saveDone d h cluster cs vas s1).dieOf d).savedCrews =
      (s1.dieOf d).savedCrews ++ ((List.range cs.length).zip (cs.zip vas)).map (s.savedAt cs) := by
  unfold State.saveDone
  dsimp only
  obtain ⟨hsettleDies, hsettleMem⟩ := State.preSettle_keeps
    ((cs.foldl (fun (s : State) x => s.dropCrew x.1 x.2) _).retarget d) (handleCtx h).toNat
  rw [hsettleMem, State.dieOf_of_dies hsettleDies]
  constructor
  · exact foldl_keeps (P := fun t : State => t.mem = s1.mem) rfl fun t x ht => (State.dropCrew_mem ..).trans ht
  · unfold State.retarget
    rw [State.savedCrews_updDie]
    · refine (foldl_keeps (P := fun t : State => (t.dieOf d).savedCrews = _) rfl fun t x ht =>
        (State.savedCrews_dropCrew ..).trans ht).trans ?_
      rw [State.dieOf_updDie]
      refine congrArg (· ++ _) ?_
      unfold State.updGridDie State.updCtxDie
      rw [State.savedCrews_updDisp, State.savedCrews_updDie]
      · rfl
      · exact fun _ => rfl
    · exact fun _ => rfl

theorem State.report_ctxs (s : State) {sock : Nat} (hsock : sock ≠ 24) (fatal : Bool) (ctx : Option B6) (cause : Nat) (grid : Handle)
    (detail : List Byte) : (s.report sock fatal ctx cause grid detail).ctxs = s.ctxs := by
  have hsend : ∀ (t : State) (h : PktHdr) (b : Body), (t.send h b).ctxs = t.ctxs := by
    intro t h b
    unfold State.send State.toPod
    split
    · rfl
    · cases t.podPortFor _ _ <;> rfl
  have howner : ∀ (t : State) (g : Handle) (f : OwnerSt → OwnerSt), (t.updOwner g f).ctxs = t.ctxs := by
    intro t g f
    unfold State.updOwner State.updGrid
    split <;> rfl
  unfold State.report
  dsimp only
  rw [if_neg hsock, hsend, howner]
  rfl

/-- A cluster that is not saved: its crews go on, and an event says why. -/
theorem State.abandonSave_spec (s : State) {d : Nat} (hd : d < 8) (h : Handle) (cs : List (CrewRef × Crew)) (cause : Nat) :
    (s.abandonSave d h cs cause).mem = s.mem ∧ ((s.abandonSave d h cs cause).dieOf d).savedCrews = (s.dieOf d).savedCrews ∧
      ((s.abandonSave d h cs cause).ctxOf (handleCtx h).toNat).preNospace = (s.ctxOf (handleCtx h).toNat).preNospace := by
  have hsock : d ≠ 24 := by omega
  let released := cs.foldl (fun (s : State) x => s.updCrew x.1 Crew.release) s
  have hfold : released.mem = s.mem ∧ (released.dieOf d).savedCrews = (s.dieOf d).savedCrews ∧ released.ctxs = s.ctxs := by
    refine foldl_keeps (P := fun t : State => t.mem = s.mem ∧ (t.dieOf d).savedCrews = (s.dieOf d).savedCrews ∧ t.ctxs = s.ctxs)
      ⟨rfl, rfl, rfl⟩ fun t x ⟨hmem, hsaved, hctxs⟩ => ⟨(State.updCrew_mem ..).trans hmem, ?_, ?_⟩
    · exact (State.savedCrews_of_rest (State.rest_updCrew ..)).trans hsaved
    · refine Eq.trans ?_ hctxs
      unfold State.updCrew
      split <;> rfl
  obtain ⟨hmem, hsaved, hctxs⟩ := hfold
  let posted := released.report d false (some (handleCtx h)) cause h (openDetail cause [])
  obtain ⟨hdies, hsettleMem⟩ := posted.preSettle_keeps (handleCtx h).toNat
  have hctx : posted.ctxOf (handleCtx h).toNat = s.ctxOf (handleCtx h).toNat := by
    unfold State.ctxOf
    rw [State.report_ctxs _ hsock, hctxs]
  refine ⟨hsettleMem.trans ((State.report_here _ hsock ..).1.trans hmem), ?_, ?_⟩
  · rw [← hsaved]
    exact congrArg Die.savedCrews (State.dieOf_of_dies (hdies.trans (State.report_dies ..)) d)
  · show ((posted.preSettle (handleCtx h).toNat).ctxOf (handleCtx h).toNat).preNospace = _
    rw [← hctx]
    unfold State.preSettle
    split
    · rfl
    · have hupd : ∀ (v : State) (c : Nat) (f : Ctx → Ctx), (v.updCtx c f).ctxOf c = f (v.ctxOf c) := fun v c f => Tbl.get_set_self ..
      rw [hupd]

/-- Where the blocks of a cluster's crews go, if there is room for them and for their keys. -/
def State.savePlace (s : State) (d : Nat) (h : Handle) (cs : List (CrewRef × Crew)) : Option (List Nat) :=
  if !(cs.any fun x => (List.range 16).any fun t => (x.2.table t).noRoom) then
    carve (s.ctxDie d (handleCtx h).toNat).saveUsed ((s.ctxDie d (handleCtx h).toNat).saveBase.toNat * 65536)
      (s.ctxDie d (handleCtx h).toNat).savePages.toNat (cs.map fun x => x.2.cfg.blockPages)
  else none

theorem exec_crewSave {s : State} {cw : Crew} {place : Option (List Nat)} (hcw : s.crewOf s.cur.crew = some cw)
    (hready : ∀ x ∈ s.clusterCrews s.cur.die cw.cfg.handle (clusterOf cw.cfg), x.2.halted = true ∧ s.drained x.1 x.2 = true)
    (hplace : s.savePlace s.cur.die cw.cfg.handle (s.clusterCrews s.cur.die cw.cfg.handle (clusterOf cw.cfg)) = place) :
    exec .crewSave s = .next (match (generalizing := false) place with
      | some vas => s.saveAt s.cur.die cw.cfg.handle (clusterOf cw.cfg) (s.clusterCrews s.cur.die cw.cfg.handle (clusterOf cw.cfg)) vas
      | none => (s.updCtx (handleCtx cw.cfg.handle).toNat fun c => { c with preNospace := true }).abandonSave s.cur.die cw.cfg.handle
          (s.clusterCrews s.cur.die cw.cfg.handle (clusterOf cw.cfg)) 0x0120) := by
  have hall : ((s.clusterCrews s.cur.die cw.cfg.handle (clusterOf cw.cfg)).all fun x => x.2.halted && s.drained x.1 x.2) = true := by
    rw [List.all_eq_true]
    intro x hx
    obtain ⟨hhalted, hdrained⟩ := hready x hx
    rw [hhalted, hdrained]
    rfl
  show execCrewSave s = _
  unfold execCrewSave
  dsimp only
  rw [hcw]
  refine (if_neg (by rw [Bool.not_eq_true, Bool.not_eq_false']; exact hall)).trans ?_
  show (match s.savePlace s.cur.die cw.cfg.handle (s.clusterCrews s.cur.die cw.cfg.handle (clusterOf cw.cfg)) with
    | some vas => Host.Outcome.next
        (s.saveAt s.cur.die cw.cfg.handle (clusterOf cw.cfg) (s.clusterCrews s.cur.die cw.cfg.handle (clusterOf cw.cfg)) vas)
    | none => .next ((s.updCtx (handleCtx cw.cfg.handle).toNat fun c => { c with preNospace := true }).abandonSave s.cur.die cw.cfg.handle
        (s.clusterCrews s.cur.die cw.cfg.handle (clusterOf cw.cfg)) 0x0120)) = _
  rw [hplace]
  cases place <;> rfl

theorem exec_crewSave_waits {s : State} {cw : Crew} (hcw : s.crewOf s.cur.crew = some cw)
    (hnot : ∃ x ∈ s.clusterCrews s.cur.die cw.cfg.handle (clusterOf cw.cfg), x.2.halted = false ∨ s.drained x.1 x.2 = false) :
    exec .crewSave s = .next s := by
  obtain ⟨x, hx, hfalse⟩ := hnot
  show execCrewSave s = _
  unfold execCrewSave
  dsimp only
  rw [hcw]
  refine if_pos ?_
  rw [Bool.not_eq_true', List.all_eq_false]
  refine ⟨x, hx, ?_⟩
  rcases hfalse with h | h <;> simp [h]

/-! ## The retirement of a crew: R119 -/

theorem State.gridDie_dropCrew (s : State) (r : CrewRef) (cw : Crew) (d : Nat) (g : Handle) :
    (s.dropCrew r cw).gridDie d g = s.gridDie d g := by
  have hgrids : ∀ (t : State) (k : Nat) (f : Die → Die), (∀ x, (f x).disp.grids = x.disp.grids) →
      (t.updDie k f).gridDie d g = t.gridDie d g := by
    intro t k f hf
    unfold State.gridDie
    by_cases h : d = k
    · subst h
      rw [State.dieOf_updDie, hf]
    · rw [State.dieOf_updDie_ne _ _ h]
  have hcore : ∀ (t : State) (k c : Nat) (f : Core → Core), (t.updCore k c f).gridDie d g = t.gridDie d g :=
    fun t k c f => State.gridDie_of_rest (State.rest_setCore ..) g
  unfold State.dropCrew State.updDisp
  dsimp only
  rw [hgrids, hgrids, hcore, hcore]
  · exact fun _ => rfl
  · exact fun _ => rfl

/-- A die's record of a grid once the crew with an index has retired. -/
def GridDie.retired (y : GridDie) (lin : Nat) : GridDie :=
  { y with unretired := y.unretired - 1, ranges := y.ranges.map fun x => if decide (x.1 ≤ lin) && decide (lin < x.1 + x.2.1) then (x.1, x.2.1, x.2.2 + 1) else x }

theorem State.countRetired_cases (s : State) (d : Nat) (h : Handle) (lin : Nat) :
    (s.countRetired d h lin).mem = s.mem ∧ (s.countRetired d h lin).gridDie d h = (s.gridDie d h).retired lin := by
  have hgrid : (s.updGridDie d h fun y => y.retired lin).gridDie d h = (s.gridDie d h).retired lin := State.gridDie_updGridDie ..
  have hcases : s.countRetired d h lin = (s.updGridDie d h fun y => y.retired lin) ∨ ∃ b,
      s.countRetired d h lin = (s.updGridDie d h fun y => y.retired lin).sendTo (handleCtx h) 0 d
        ((s.updGridDie d h fun y => y.retired lin).ownerAt h) b := by
    unfold State.countRetired
    dsimp only
    split
    · split
      · exact .inr ⟨_, rfl⟩
      · exact .inl rfl
    · exact .inl rfl
  rcases hcases with heq | ⟨b, heq⟩
  · rw [heq]
    exact ⟨rfl, hgrid⟩
  · obtain ⟨hdies, -, hmem, -⟩ := State.sendTo_keeps (s.updGridDie d h fun y => y.retired lin) (handleCtx h) 0 d
      ((s.updGridDie d h fun y => y.retired lin).ownerAt h) b
    rw [heq, State.gridDie_of_dies hdies]
    exact ⟨hmem, hgrid⟩

theorem State.mem_net_sendTo_own {s : State} {dst : Nat × Nat} (hdst : dst.1 = s.pkg) (ctx : B6) (tag src : Nat) (b : Body) :
    ∃ q ∈ (s.sendTo ctx tag src dst b).net, q.body = b := by
  obtain ⟨p, sock⟩ := dst
  obtain rfl : p = s.pkg := hdst
  rw [State.net_sendTo_here]
  exact ⟨_, List.mem_append_right _ (List.mem_singleton_self _), rfl⟩

/-- The last crew of a range to retire reports the range to the owner. -/
theorem State.countRetired_reports {s : State} {d : Nat} {h : Handle} {lin first n : Nat}
    (hranges : (s.gridDie d h).ranges = [(first, n, n - 1)]) (hfirst : first ≤ lin) (hlast : lin < first + n)
    (howner : (s.ownerAt h).1 = s.pkg) : ∃ q ∈ (s.countRetired d h lin).net, q.body = .retire (rangeBody h first n) := by
  have hn : n - 1 + 1 = n := by omega
  have hhas : (decide (first ≤ lin) && decide (lin < first + n)) = true := by simp [hfirst, hlast]
  have hretired : ((s.updGridDie d h fun y => y.retired lin).gridDie d h).ranges = [(first, n, n)] := by
    rw [State.gridDie_updGridDie]
    unfold GridDie.retired
    dsimp only
    rw [hranges, List.map_singleton, if_pos hhas, hn]
  have hresult : s.countRetired d h lin = (s.updGridDie d h fun y => y.retired lin).sendTo (handleCtx h) 0 d
      ((s.updGridDie d h fun y => y.retired lin).ownerAt h) (.retire (rangeBody h first n)) := by
    show (match ((s.updGridDie d h fun y => y.retired lin).gridDie d h).ranges.find? fun x => decide (x.1 ≤ lin) && decide (lin < x.1 + x.2.1) with
      | some x => if x.2.1 = x.2.2 then (s.updGridDie d h fun y => y.retired lin).sendTo (handleCtx h) 0 d
          ((s.updGridDie d h fun y => y.retired lin).ownerAt h) (.retire (rangeBody h x.1 x.2.1))
        else s.updGridDie d h fun y => y.retired lin
      | none => s.updGridDie d h fun y => y.retired lin) = _
    rw [hretired, List.find?_cons, hhas]
    exact if_pos rfl
  rw [hresult]
  exact State.mem_net_sendTo_own (s := s.updGridDie d h fun y => y.retired lin) howner ..

theorem State.wantRange_mem_net (s : State) (d : Nat) (h : Handle) : (s.wantRange d h).mem = s.mem ∧
    ∀ q ∈ s.net, q ∈ (s.wantRange d h).net := by
  unfold State.wantRange
  split
  · exact ⟨rfl, fun _ hq => hq⟩
  · dsimp only
    split
    · exact ⟨rfl, fun _ hq => hq⟩
    · obtain ⟨-, -, hmem, hnet⟩ := State.sendTo_keeps (s.updGridDie d h fun y => { y with asking := true }) (handleCtx h) 0 d (s.ownerAt h)
        (.rangereq h)
      exact ⟨hmem, hnet⟩

theorem State.barNudge_net (s : State) (d : Nat) (h : Handle) : ∀ q ∈ s.net, q ∈ (s.barNudge d h).net := by
  unfold State.barNudge
  refine foldl_keeps (P := fun t : State => ∀ q ∈ s.net, q ∈ t.net) (fun _ hq => hq) fun t x ht q hq => ?_
  unfold State.barArrive
  split
  · exact (State.sendTo_keeps ..).2.2.2 q (ht q hq)
  · exact ht q hq

theorem State.preSettle_net (s : State) (c : Nat) : (s.preSettle c).net = s.net := by
  unfold State.preSettle
  split <;> rfl

/-- What follows a retirement: nothing of memory or of what the die counts changes, and no packet goes. -/
theorem State.afterRetire_spec (s : State) (d : Nat) (h : Handle) (xs : List (Nat × Nat × Nat)) (c : Nat) :
    let t := ((((s.breakAll h xs).retarget d).wantRange d h).barNudge d h).preSettle c
    t.mem = s.mem ∧ (t.gridDie d h).unretired = (s.gridDie d h).unretired ∧ (t.gridDie d h).ranges = (s.gridDie d h).ranges ∧
      ∀ q ∈ s.net, q ∈ t.net := by
  intro t
  let broken := (s.breakAll h xs).retarget d
  have hbroken : broken.gridDie d h = s.gridDie d h := State.gridDie_of_disp (State.disp_retarget ..) h
  obtain ⟨-, hgrid⟩ := broken.wantRange_cases d h
  obtain ⟨hmem, hnet⟩ := broken.wantRange_mem_net d h
  obtain ⟨hsettleDies, hsettleMem⟩ := State.preSettle_keeps ((broken.wantRange d h).barNudge d h) c
  have hsame : t.gridDie d h = (broken.wantRange d h).gridDie d h :=
    State.gridDie_of_dies (hsettleDies.trans (State.barNudge_dies ..)) d h
  refine ⟨hsettleMem.trans ((State.barNudge_mem ..).trans hmem), ?_, ?_, fun q hq => ?_⟩
  · rw [hsame, ← hbroken]
    rcases hgrid with hgrid | hgrid <;> rw [hgrid]
  · rw [hsame, ← hbroken]
    rcases hgrid with hgrid | hgrid <;> rw [hgrid]
  · rw [State.preSettle_net]
    exact State.barNudge_net _ _ _ q (hnet q hq)

theorem exec_crewRetire {s : State} {cw : Crew} (hcw : s.crewOf s.cur.crew = some cw) (hmay : s.mayRetire s.cur.crew cw = true) :
    exec .crewRetire s = .next (((((((s.dropCrew s.cur.crew cw).countRetired s.cur.die cw.cfg.handle cw.cfg.lin).breakAll cw.cfg.handle
      cw.collectives).retarget s.cur.die).wantRange s.cur.die cw.cfg.handle).barNudge s.cur.die cw.cfg.handle).preSettle
      (handleCtx cw.cfg.handle).toNat) := by
  show execCrewRetire s = _
  unfold execCrewRetire
  dsimp only
  rw [hcw]
  exact if_neg (by rw [hmay]; exact Bool.false_ne_true)

/-! ## The placement round: R128 and R129 -/

/-- One crew of a cluster starts on its core. -/
def State.startOne (s : State) (d : Nat) (g : Grid) (cluster core0 : Nat) (fits : List Fit) (now : Nat) (x : Nat × Fit) : State :=
  (s.clearRanges d (s.crewCfg d g cluster core0 x.1 fits x.2) x.2).setCrew ⟨d, x.2.core, x.2.slot⟩
    (g.startCrew (s.crewCfg d g cluster core0 x.1 fits x.2) now)

theorem State.startCluster_fresh (s : State) (d : Nat) (g : Grid) {c : QCluster} (hsaved : c.saved = none) (core0 : Nat) (fits : List Fit) :
    s.startCluster d g c core0 fits = (((List.range fits.length).zip fits).foldl
      (fun (t : State) x => t.startOne d g c.cluster core0 fits (s.cyc d) x) s).updGridDie d g.handle fun y => { y with placed := true } := by
  obtain ⟨handle, cluster, age, drain, saved⟩ := c
  obtain rfl : saved = none := hsaved
  rfl

/-- What a starting crew leaves of a state, for the crews that start after it. -/
structure StartFrame (d : Nat) (s t : State) : Prop where
  disp : (t.dieOf d).disp = (s.dieOf d).disp
  podrt : t.podrt = s.podrt

theorem State.crewCfg_congr {s t : State} {d : Nat} {g : Grid} (hgrid : t.gridDie d g.handle = s.gridDie d g.handle)
    (hpodrt : t.podrt = s.podrt) (cluster core0 rank : Nat) (fits : List Fit) (f : Fit) :
    t.crewCfg d g cluster core0 rank fits f = s.crewCfg d g cluster core0 rank fits f := by
  unfold State.crewCfg
  rw [hgrid, State.pkg_of_podrt hpodrt]

theorem State.disp_of_rest {s t : State} {d : Nat} (h : (t.dieOf d).rest = (s.dieOf d).rest) : (t.dieOf d).disp = (s.dieOf d).disp := by
  have hdisp : (t.dieOf d).rest.disp = (s.dieOf d).rest.disp := congrArg Die.disp h
  exact hdisp

theorem StartFrame.startOne {d : Nat} {s t : State} (h : StartFrame d s t) (g : Grid) (cluster core0 : Nat) (fits : List Fit) (now : Nat)
    (x : Nat × Fit) : StartFrame d s (t.startOne d g cluster core0 fits now x) := by
  refine ⟨?_, h.podrt⟩
  rw [← h.disp]
  exact State.disp_of_rest ((State.rest_setCore ..).trans (State.rest_setCore ..))

theorem State.crewOf_clearRanges (s : State) (d : Nat) (cfg : CrewCfg) (f : Fit) (r : CrewRef) :
    (s.clearRanges d cfg f).crewOf r = s.crewOf r := by
  unfold State.clearRanges
  dsimp only
  rw [State.crewOf_updCore]
  · rfl
  · exact fun _ => rfl

/-- The crews of a cluster that start on different cores all stand there, as their configurations have them, and no other crew changes. -/
theorem State.startAll_spec {s : State} (d : Nat) (g : Grid) (cluster core0 : Nat) (fits : List Fit) (now : Nat) (xs : List (Nat × Fit))
    (hcores : (xs.map fun x => x.2.core).Nodup) {t : State} (h : StartFrame d s t) :
    let u := xs.foldl (fun (t : State) x => t.startOne d g cluster core0 fits now x) t
    StartFrame d s u ∧ (∀ x ∈ xs, u.crewOf ⟨d, x.2.core, x.2.slot⟩ =
      some (g.startCrew (s.crewCfg d g cluster core0 x.1 fits x.2) now)) ∧
    ∀ r : CrewRef, (∀ x ∈ xs, r.core ≠ x.2.core) → u.crewOf r = t.crewOf r := by
  induction xs generalizing t with
  | nil => exact ⟨h, fun x hx => absurd hx List.not_mem_nil, fun _ _ => rfl⟩
  | cons x xs ih =>
    obtain ⟨hfresh, hrest⟩ := List.nodup_cons.1 hcores
    obtain ⟨hframe, hcrews, hothers⟩ := ih hrest (h.startOne g cluster core0 fits now x)
    have hself : (t.startOne d g cluster core0 fits now x).crewOf ⟨d, x.2.core, x.2.slot⟩ =
        some (g.startCrew (s.crewCfg d g cluster core0 x.1 fits x.2) now) := by
      unfold State.startOne
      rw [State.crewOf_setCrew, State.crewCfg_congr (State.gridDie_of_disp h.disp _) h.podrt]
    refine ⟨hframe, fun y hy => ?_, fun r hr => ?_⟩
    · rcases List.mem_cons.1 hy with rfl | hy
      · refine (hothers _ fun z hz heq => hfresh (List.mem_map.2 ⟨z, hz, heq.symm⟩)).trans hself
      · exact hcrews y hy
    · refine (hothers r fun y hy => hr y (List.mem_cons_of_mem _ hy)).trans ?_
      have hne : r ≠ ⟨d, x.2.core, x.2.slot⟩ := fun heq => hr x List.mem_cons_self (congrArg CrewRef.core heq)
      unfold State.startOne
      rw [State.crewOf_setCrew_ne _ _ hne, State.crewOf_clearRanges]

theorem State.wantRange_crews (s : State) (d : Nat) (h : Handle) : KeepsCrews s (s.wantRange d h) := by
  unfold State.wantRange
  split
  · exact .refl s
  · dsimp only
    split
    · exact .refl s
    · exact (KeepsCrews.updGridDie ..).trans (.of_dies (State.sendTo_keeps ..).1)

theorem State.startCluster_spec {s : State} {d : Nat} {g : Grid} {c : QCluster} (hsaved : c.saved = none) (core0 : Nat) {fits : List Fit}
    (hcores : (fits.map fun f => f.core).Nodup) : (s.startCluster d g c core0 fits).queuesOf d = s.queuesOf d ∧
      ∀ (i : Nat) (f : Fit), fits[i]? = some f → (s.startCluster d g c core0 fits).crewOf ⟨d, f.core, f.slot⟩ =
        some (g.startCrew (s.crewCfg d g c.cluster core0 i fits f) (s.cyc d)) := by
  have hzip : (((List.range fits.length).zip fits).map fun x => x.2.core) = fits.map fun f => f.core := by
    have hsnd := List.map_snd_zip (l₁ := List.range fits.length) (l₂ := fits) (by simp)
    rw [← congrArg (List.map fun f : Fit => f.core) hsnd, List.map_map]
    rfl
  obtain ⟨hframe, hcrews, -⟩ := State.startAll_spec d g c.cluster core0 fits (s.cyc d) ((List.range fits.length).zip fits) (hzip ▸ hcores)
    (⟨rfl, rfl⟩ : StartFrame d s s)
  rw [State.startCluster_fresh s d g hsaved]
  refine ⟨(State.updGridDie_queues ..).trans (congrArg DieDisp.queues hframe.disp), fun i f hf => ?_⟩
  rw [(KeepsCrews.updGridDie ..).crew]
  exact hcrews (i, f) (mem_range_zip.2 hf)

theorem foldl_single {σ : Type} {f : σ → Nat → σ} {s t : σ} {p : Nat} {l : List Nat} (hp : p ∈ l) (hl : l.Nodup)
    (hs : ∀ q, q ≠ p → f s q = s) (hstep : f s p = t) (ht : ∀ q, q ≠ p → f t q = t) : l.foldl f s = t := by
  induction l with
  | nil => exact absurd hp List.not_mem_nil
  | cons a l ih =>
    obtain ⟨ha, hl⟩ := List.nodup_cons.1 hl
    rw [List.foldl_cons]
    by_cases hap : a = p
    · subst hap
      rw [hstep]
      have hkeep : ∀ m : List Nat, (∀ q ∈ m, q ≠ a) → m.foldl f t = t := by
        intro m
        induction m with
        | nil => exact fun _ => rfl
        | cons q m ihm =>
          intro hm
          rw [List.foldl_cons, ht q (hm q List.mem_cons_self)]
          exact ihm fun r hr => hm r (List.mem_cons_of_mem _ hr)
      exact hkeep l fun q hq heq => ha (heq ▸ hq)
    · rw [hs a hap]
      exact ih ((List.mem_cons.1 hp).resolve_left fun h => hap h.symm) hl

theorem State.placeQueue_empty {s : State} {d p : Nat} (h : (s.queuesOf d).getD p [] = []) (ds : Drains) (n : Nat) :
    State.placeQueue d p ds n s = s := by
  have hhead : s.headOf d p = none := by
    unfold State.headOf
    rw [h]
    rfl
  cases n with
  | zero => rfl
  | succ n =>
    unfold State.placeQueue
    rw [hhead]

/-- The placement queues of a die at which one queue holds one cluster. -/
def oneQueued (p : Nat) (q : List QCluster) : List (List QCluster) := (List.replicate 4 []).set p q

theorem oneQueued_getD_ne {p k : Nat} (h : k ≠ p) (q : List QCluster) : (oneQueued p q).getD k [] = [] := by
  unfold oneQueued
  rw [List.getD_eq_getElem?_getD, List.getElem?_set_ne h.symm, List.getElem?_replicate]
  split <;> rfl

theorem oneQueued_modify {p : Nat} (hp : p < 4) (q : List QCluster) (f : List QCluster → List QCluster) :
    (oneQueued p q).modify p f = oneQueued p (f q) := by
  unfold oneQueued
  rw [List.modify_eq_set_getElem?]
  simp [hp]

theorem oneQueued_nil (p : Nat) : oneQueued p [] = List.replicate 4 [] := by
  unfold oneQueued
  exact List.ext_getElem? fun i => by
    rw [List.getElem?_set]
    split
    · next h =>
      subst h
      rw [List.getElem?_replicate]
      simp
    · rfl

theorem State.updHeads_queues (s : State) (d p : Nat) (f : List QCluster → List QCluster) :
    (s.updHeads d p f).queuesOf d = (s.queuesOf d).modify p f := by
  unfold State.updHeads State.queuesOf
  rw [State.disp_updDisp]

section
variable {s : State} {d p : Nat} {c : QCluster} {g : Grid}

/-- A round of a die at which one cluster waits: what its queue does. -/
theorem State.placeRound_one {t : State} (hp : p < 4) (hqueues : s.queuesOf d = oneQueued p [c])
    (hplace : State.placeQueue d p (s.drains d) 2 s = t) (ht : ∃ q, t.queuesOf d = oneQueued p q) : s.placeRound d = t := by
  obtain ⟨q, hq⟩ := ht
  have hlen : (s.dieOf d).disp.queues.flatten.length + 1 = 2 := by
    rw [show (s.dieOf d).disp.queues = oneQueued p [c] from hqueues]
    unfold oneQueued
    interval_cases p <;> rfl
  unfold State.placeRound
  dsimp only
  rw [hlen]
  refine foldl_single (p := p) ?_ (by decide) (fun k hk => ?_) hplace fun k hk => ?_
  · interval_cases p <;> decide
  · exact State.placeQueue_empty (by rw [hqueues]; exact oneQueued_getD_ne hk _) ..
  · exact State.placeQueue_empty (by rw [hq]; exact oneQueued_getD_ne hk _) ..

theorem State.placeQueue_one (hp : p < 4) (hqueues : s.queuesOf d = oneQueued p [c]) (hg : s.gridOf c.handle = some g)
    (hheld : s.held d c = false) (hhalted : (s.gridDie d c.handle).halted = false) (ds : Drains) (n : Nat) :
    State.placeQueue d p ds (n + 1) s = match s.firstSlot d g.launch c ds with
      | some (x, fits) => State.placeQueue d p ds n (((s.updHeads d p fun q => q.erase c).startCluster d g c x.core0 fits).wantRange d c.handle)
      | none => s.ageHead d p c g.launch := by
  have hget : (s.dieOf d).disp.queues.getD p [] = [c] := by
    rw [show (s.dieOf d).disp.queues = oneQueued p [c] from hqueues]
    unfold oneQueued
    interval_cases p <;> rfl
  have hhead : s.headOf d p = some c := by
    unfold State.headOf
    rw [hget, List.find?_cons, hhalted]
    rfl
  conv_lhs => unfold State.placeQueue
  rw [hhead]
  dsimp only
  rw [hg]
  exact if_neg (ne_true_of_eq_false hheld)

theorem exec_placementRound (hp : p < 4) (hqueues : s.queuesOf s.cur.die = oneQueued p [c]) (hstopped : (s.dieOf s.cur.die).stopped = false)
    (hround : (s.dieOf s.cur.die).disp.lastRound < s.cyc s.cur.die / 128) : exec .placementRound s =
      .next ((s.placeRound s.cur.die).updDisp s.cur.die fun y => { y with lastRound := s.cyc s.cur.die / 128 }) := by
  have hsome : ((s.dieOf s.cur.die).disp.queues.all List.isEmpty) = false := by
    rw [show (s.dieOf s.cur.die).disp.queues = oneQueued p [c] from hqueues]
    unfold oneQueued
    interval_cases p <;> rfl
  show execPlacementRound s = _
  unfold execPlacementRound
  dsimp only
  rw [if_neg]
  rw [hstopped, hsome, decide_eq_false (Nat.not_le.2 hround)]
  exact Bool.false_ne_true

end

end Sys2Proof.Machine

/-! The model has a `coreEvents` of its own, so this theorem stands in a namespace below it. -/
namespace Sys2Proof.Machine.Settled

/-- Settles O53. -/
theorem coreEvents : Obligations.CoreEvents := by
  unfold Obligations.CoreEvents
  refine ⟨fun s => ?active, fun s b since hb hphase => ⟨fun hlt => ?mergeWaits, fun hle => ?mergeEnds⟩, fun s => ?windows,
    fun s cw b => ?traps, fun s cw => ?save, fun s cw => ?retire, fun s p c g => ?place⟩
  case active =>
    intro d c u k now ref inside ready idle long best
    have hexec : exec .activeSetReplacement s =
        .next (if k.sel.lastSetChange = some now then u else u.replaced inside ready idle long) := exec_activeSetReplacement s
    refine ⟨s.mem_active_trimSet d c, fun hnow => hexec.trans (congrArg Host.Outcome.next (if_pos hnow)), fun hnow => ?_⟩
    have hexec := hexec.trans (congrArg Host.Outcome.next (if_neg hnow))
    rw [hexec]
    refine ⟨fun hroom hready => ?_, fun hfull hidle hready => ?_, fun hfull hidle hlong => ?_, fun hnone => ?_⟩
    · obtain ⟨t, hbest, ht⟩ := State.replaced_room (u := u) (idle := idle) (long := long) hroom hready
      exact ⟨t, hbest, congrArg Host.Outcome.next ht⟩
    · obtain ⟨o, t, hbestO, hbestT, ht⟩ := State.replaced_idle (u := u) (long := long) hfull hidle hready
      exact ⟨o, t, hbestO, hbestT, congrArg Host.Outcome.next ht⟩
    · obtain ⟨o, t, hbestO, hbestT, ht⟩ := State.replaced_long (u := u) (ready := ready) hfull hidle hlong
      exact ⟨o, t, hbestO, hbestT, congrArg Host.Outcome.next ht⟩
    · exact congrArg Host.Outcome.next (State.replaced_none (fun hready => by unfold long; rw [hready]; rfl) hnone)
  case mergeWaits =>
    show execMrgWaitExpiry s = _
    unfold execMrgWaitExpiry
    rw [hb]
    dsimp only
    rw [hphase]
    exact if_neg (Nat.not_le.2 hlt)
  case mergeEnds =>
    obtain ⟨hpast, hregion⟩ := b.pastMrg_spec s.free (b.x.pc + BitVec.ofNat 48 b.x.lastLen)
    have hsome : (s.thread s.cur).isSome := by rw [hb]; rfl
    have hexec : exec .mrgWaitExpiry s = .next
        { s.setThread s.cur (b.pastMrg s.free (b.x.pc + BitVec.ofNat 48 b.x.lastLen)) with free := s.free + 65 } := by
      show execMrgWaitExpiry s = _
      unfold execMrgWaitExpiry
      rw [hb]
      dsimp only
      rw [hphase]
      exact if_pos hle
    refine ⟨_, _, hexec, (State.thread_setThread _ _ _ _ hsome).trans (if_pos rfl), hpast, fun hpriv => ?_,
      (SameOutside.setThread ..).trans (.free ..), .setThread hsome _⟩
    obtain ⟨hrestart, htag, hstores⟩ := hregion hpriv
    exact ⟨hrestart.trans (congrArg (fun x => x.x.pc) hpast).symm, htag, hstores⟩
  case windows =>
    intro d k ws due
    obtain ⟨t, hexec, hmem, hwindows⟩ := exec_multicastWindowClose s
    refine ⟨t, hexec, hmem, by rw [hwindows]; exact List.length_map .., fun i w hw => ⟨fun hdue => ?_, fun hdue => ?_⟩⟩
    · rw [hwindows]
      unfold State.closedWindows
      rw [List.getElem?_map, show (s.coreOf s.cur.die s.cur.core).windows[i]? = some w from hw]
      exact congrArg some (if_pos ((w.due_iff _).2 hdue))
    · rw [hwindows]
      unfold State.closedWindows
      rw [List.getElem?_map, show (s.coreOf s.cur.die s.cur.core).windows[i]? = some w from hw]
      exact congrArg some (if_neg fun h => hdue ((w.due_iff _).1 h))
  case traps =>
    intro u h d hcw hb
    have hexec := exec_trapEntry hb
    refine ⟨fun hwaits => ?_, fun p pc hp hout hv => ?_, fun since hband hd hreq hsince hrun hstopped hpending hchain hphase hout hcommitted => ?_⟩
    · refine hexec.trans (congrArg Host.Outcome.next (if_neg ?_))
      rcases hwaits with h | h <;> simp [h]
    · obtain ⟨next, hthread, hcount, hothers⟩ := State.enterTrap_spec hcw hb hp hv
      obtain ⟨hregs, -⟩ := b.enterHandler_regs p pc
      have hexited : (b.enterHandler p pc).r.exited = b.r.exited := by
        have hfield := congrArg BandRegs.exited hregs
        exact hfield
      have hslots : (b.enterHandler p pc).r.slots = b.r.slots := by
        have hfield := congrArg BandRegs.slots hregs
        exact hfield
      have hpreds : (b.enterHandler p pc).r.preds = b.r.preds := by
        have hfield := congrArg BandRegs.preds hregs
        exact hfield
      have huni : (b.enterHandler p pc).r.uni = b.r.uni := by
        have hfield := congrArg BandRegs.uni hregs
        exact hfield
      refine ⟨_, _, hexec.trans (congrArg Host.Outcome.next (if_pos (by rw [hp, hout]; rfl))), hthread, rfl, rfl, rfl, rfl, rfl, rfl, rfl, rfl,
        rfl, rfl, rfl, rfl, rfl, rfl, fun l hl => b.count_enterHandler p pc hl, hexited, hslots, hpreds, huni,
        hcount, hothers⟩
    · have hstop := exec_spmaxOverrun hcw hb hband ⟨⟨since, hreq, hsince⟩, hrun, hstopped, hpending, hchain, hphase, hout, hcommitted⟩
      have hkeeps : ∀ v : State, KeepsCrews v ((v.trapEvent s.cur h 15 b.x.pc.toNat 0 b.exec.toNat 0).countCause d h 15) :=
        fun v => v.overrun_keeps ..
      refine ⟨fun hcancelled htrap => ⟨_, hstop, fun b' hb' => ?_⟩, fun hnot => ⟨_, hstop, ?_⟩⟩
      · obtain ⟨b1, hb1, hexited, -⟩ := State.killBand_kept hb
        have hkill : u.overrunStop s.cur cw b = u.killBand s.cur := if_pos (by rw [hcancelled, htrap]; rfl)
        rw [(hkeeps _).thread, show (s.settle s.cur).overrunStop s.cur cw b = _ from hkill, hb1] at hb'
        rw [← Option.some.inj hb']
        exact hexited
      · have hset : u.overrunStop s.cur cw b = u.setThread s.cur { b with stopped := true, full := true } :=
          if_neg (by rcases hnot with h | h <;> simp [h])
        have hsock : d ≠ 24 := by omega
        obtain ⟨hmem, q, hq, hbody⟩ := State.report_here (u.setThread s.cur { b with stopped := true, full := true }) hsock false
          (some (handleCtx h)) 15 h (trapDetail b.x.pc.toNat 0 b.exec.toNat s.cur.core (s.cur.band.getD 0) 0 0 0)
        rw [show (s.settle s.cur).overrunStop s.cur cw b = _ from hset]
        refine ⟨?_, hmem.trans (State.setThread_mem ..), ?_, q, hq, hbody.trans ?_⟩
        · rw [(hkeeps _).thread, State.thread_setThread _ _ _ _ (by rw [hb]; rfl), if_pos rfl]
        · rw [State.counts_countCause, State.gridDie_of_dies (State.trapEvent_dies ..), State.gridDie_setThread]
        · rw [State.mkRecord_congr (SameOutside.setThread ..)]
  case save =>
    intro r h ctx cs region place hcw
    refine ⟨exec_crewSave_waits hcw, fun hready => ⟨fun vas hplace hroom => ?_, fun hnone hd => ?_⟩⟩
    · intro images step saved crews blocks s1 hbytes
      have hsome : s.savePlace s.cur.die h cs = some vas := by
        refine (if_pos ?_).trans hplace
        rw [Bool.not_eq_true', List.any_eq_false]
        intro x hx
        rw [Bool.not_eq_true, List.any_eq_false]
        exact fun t ht => ne_true_of_eq_false (hroom x hx t (List.mem_range.1 ht))
      have hdies : s1.dies = s.dies := by
        have h2 := State.saveBytes_dies ctx blocks s
        rw [hbytes] at h2
        exact h2
      obtain ⟨hmem, hsaved⟩ := s.saveDone_spec s.cur.die h (clusterOf cw.cfg) cs vas s1
      refine ⟨_, (exec_crewSave hcw hready hsome).trans (congrArg Host.Outcome.next (State.saveAt_done _ _ hbytes)), hmem, hsaved.trans ?_⟩
      rw [State.dieOf_of_dies hdies]
      rfl
    · have hnospace : s.savePlace s.cur.die h cs = none := by
        unfold State.savePlace
        split
        · next hroom =>
          refine hnone.resolve_right ?_
          rintro ⟨x, hx, t, ht, hno⟩
          rw [Bool.not_eq_true', List.any_eq_false] at hroom
          exact hroom x hx (List.any_eq_true.2 ⟨t, List.mem_range.2 ht, hno⟩)
        · rfl
      obtain ⟨hmem, hsaved, hctx⟩ := (s.updCtx ctx.toNat fun c => { c with preNospace := true }).abandonSave_spec hd h cs 0x0120
      refine ⟨_, exec_crewSave hcw hready hnospace, hctx.trans ?_, hmem, hsaved⟩
      exact congrArg Ctx.preNospace (Tbl.get_set_self ..)
  case retire =>
    intro r h lin hcw
    refine ⟨fun hnot => ?_, fun hmay => ?_⟩
    · show execCrewRetire s = _
      unfold execCrewRetire
      dsimp only
      rw [hcw]
      exact if_pos (by rw [hnot]; rfl)
    · let left := s.dropCrew r cw
      have hgrid : left.gridDie r.die h = s.gridDie r.die h := State.gridDie_dropCrew ..
      obtain ⟨hmem, hretired⟩ := left.countRetired_cases r.die h lin
      obtain ⟨hafterMem, hunretired, hranges, hnet⟩ := (left.countRetired r.die h lin).afterRetire_spec r.die h cw.collectives (handleCtx h).toNat
      rw [hretired, hgrid] at hunretired hranges
      refine ⟨_, exec_crewRetire hcw hmay, hafterMem.trans (hmem.trans (State.dropCrew_mem ..)), hunretired, hranges.trans ?_,
        fun first n hone hfirst hlast howner => ?_⟩
      · unfold GridDie.retired
        simp only [Bool.and_eq_true, decide_eq_true_eq]
      · obtain ⟨q, hq, hbody⟩ := State.countRetired_reports (s := left) (hgrid ▸ hone) hfirst hlast howner
        exact ⟨q, hnet q hq, hbody⟩
  case place =>
    intro d round hp hone hg hstopped hround hheld hsaved hhalted
    have hqueues : s.queuesOf d = oneQueued p [c] := hone
    have hexec := exec_placementRound hp hqueues hstopped hround
    have hstep := fun n => State.placeQueue_one hp hqueues hg hheld hhalted (s.drains d) n
    refine ⟨fun x fits hslot hcores => ?_, fun hnone => ?_⟩
    · let taken := s.updHeads d p fun q => q.erase c
      have htaken : taken.queuesOf d = List.replicate 4 [] := by
        unfold taken
        rw [State.updHeads_queues, hqueues, ← oneQueued_nil p]
        exact (oneQueued_modify hp [c] _).trans (by rw [List.erase_cons_head])
      obtain ⟨hstartQueues, hcrews⟩ := State.startCluster_spec (s := taken) (d := d) (g := g) hsaved x.core0 hcores
      let started := (taken.startCluster d g c x.core0 fits).wantRange d c.handle
      have hstarted : started.queuesOf d = List.replicate 4 [] := (State.wantRange_cases ..).1.trans (hstartQueues.trans htaken)
      have hempty : (started.queuesOf d).getD p [] = [] := by
        rw [hstarted]
        interval_cases p <;> rfl
      have hround : s.placeRound d = started := by
        refine State.placeRound_one hp hqueues ?_ ⟨[], hstarted.trans (oneQueued_nil p).symm⟩
        rw [hstep, hslot]
        exact State.placeQueue_empty hempty ..
      rw [show s.placeRound s.cur.die = started from hround] at hexec
      refine ⟨_, hexec, ?_, ?_, fun i f hf => ?_⟩
      · rw [State.disp_updDisp]
        exact hstarted
      · rw [State.disp_updDisp]
      · rw [(KeepsCrews.updDisp ..).crew, (State.wantRange_crews ..).crew, hcrews i f hf]
        have hgrid : taken.gridDie d g.handle = s.gridDie d g.handle := by
          unfold taken State.updHeads
          rw [State.gridDie_updDisp]
          exact fun _ => rfl
        have hcyc : taken.cyc d = s.cyc d := by
          unfold taken State.updHeads State.updDisp State.cyc
          rw [State.dieOf_updDie]
        rw [State.crewCfg_congr hgrid rfl, hcyc]
    · have haged : (s.ageHead d p c g.launch).queuesOf d = oneQueued p
          [{ c with age := c.age + 1, drain := if c.age + 1 = 16 then s.chooseDrain d g.launch else c.drain }] := by
        unfold State.ageHead
        rw [State.updHeads_queues, hqueues, oneQueued_modify hp, List.map_singleton, if_pos rfl]
      have hround : s.placeRound d = s.ageHead d p c g.launch := by
        refine State.placeRound_one hp hqueues ?_ ⟨_, haged⟩
        rw [hstep, hnone]
      rw [show s.placeRound s.cur.die = s.ageHead d p c g.launch from hround] at hexec
      refine ⟨_, hexec, rfl, ?_, ?_⟩
      · rw [State.disp_updDisp]
      · rw [State.disp_updDisp]
        exact haged

end Sys2Proof.Machine.Settled
end

section
/-!
The copy engine: the checks and the start of a command, the delivery of its elements, and the two controls of a crew.
-/
namespace Sys2Proof.Machine

variable {s : State} {k : CopyCmd} {rest : List CopyCmd} {cw : Crew}

/-! ## Which command an event of a channel is about -/

theorem exec_copyCommandStart_fence (hk : (s.coreOf s.cur.die s.cur.core).copy.getD s.unit [] = k :: rest) {m : Nat}
    (hop : k.op = .qfence m) : exec .copyCommandStart s =
      .next (if (s.coreOf s.cur.die s.cur.core).fencePassed k.seq m then s.copyEnd ⟨s.cur.die, s.cur.core, k.slot⟩ s.unit k 0 else s) := by
  show execCopyCommandStart s = _
  simp only [execCopyCommandStart, hk, List.head?_cons, hop]

theorem exec_copyCommandStart_command (hk : (s.coreOf s.cur.die s.cur.core).copy.getD s.unit [] = k :: rest)
    (hop : ∀ m, k.op ≠ .qfence m) (hcw : s.crewOf ⟨s.cur.die, s.cur.core, k.slot⟩ = some cw) (hrcd : k.rcd = none) (hst : k.st = .queued) :
    exec .copyCommandStart s = .next (s.copyStart ⟨s.cur.die, s.cur.core, k.slot⟩ cw s.unit k) := by
  show execCopyCommandStart s = _
  cases hkop : k.op with
  | qfence m => exact absurd hkop (hop m)
  | cpy | cpyg | cpys | cpyAdd =>
    simp only [execCopyCommandStart, hk, List.head?_cons, hkop, hcw, hrcd, hst, Option.isSome_none, Bool.or_self, Bool.false_eq_true,
      if_false]

theorem exec_copyCommandComplete_running {t : TensorRec} (hk : (s.coreOf s.cur.die s.cur.core).copy.getD s.unit [] = k :: rest)
    (hcw : s.crewOf ⟨s.cur.die, s.cur.core, k.slot⟩ = some cw) (hrcd : k.rcd = some t) (hst : k.st = .running) :
    exec .copyCommandComplete s = .next (s.copyStep ⟨s.cur.die, s.cur.core, k.slot⟩ cw s.unit k t) := by
  show execCopyCommandComplete s = _
  simp only [execCopyCommandComplete, hk, List.head?_cons, hcw, hrcd, hst]

/-! ## The checks and the start: R207 and R208 -/

section Start
variable {r : CrewRef} {ch : Nat}

/-- A command whose checks pass runs from now on. -/
def State.copyRuns (s : State) (r : CrewRef) (ch : Nat) (t : TensorRec) (idx : List Nat) : State :=
  s.updHead r.die r.core ch fun x => { x with st := .running, rcd := some t, idx := idx }

/-- The last check, of the coordinates, and the start. -/
def State.copyInRange (s : State) (r : CrewRef) (ch : Nat) (k : CopyCmd) (t : TensorRec) (idx : List Nat) : State :=
  if t.pad = 0 ∧ k.anyOutside t idx = true then s.copyError r ch k 3 else s.copyRuns r ch t idx

/-- The state after a command's tensor record has been read. -/
def State.recordRead (s : State) (r : CrewRef) (cw : Crew) (ch : Nat) (k : CopyCmd) (rd : EngRead) : State :=
  ((s.engDone (k.eng r ch)).engLeaves (k.eng r ch) cw k.rsp [k.recAddr.toNat]).copyUninit r ch k.rsp rd.uninit

theorem State.copyStart_misaligned (h : k.recAddr.toNat % 64 ≠ 0) : s.copyStart r cw ch k = s.copyError r ch k 2 := by
  unfold State.copyStart
  exact if_pos h

variable {rd : EngRead} {s0 : State}

/-- The record is aligned, its windows are open, and it has been read. -/
def State.ReadsRecord (s : State) (r : CrewRef) (cw : Crew) (ch : Nat) (k : CopyCmd) (rd : EngRead) (s0 : State) : Prop :=
  k.recAddr.toNat % 64 = 0 ∧ s.engHeld (k.eng r ch) cw k.rsp [k.recAddr.toNat] = none ∧
    s.engRead (k.eng r ch) cw k.rsp attrR k.recAddr.toNat 64 = (.ok rd, s0)

theorem State.copyStart_badRecord (hr : s.ReadsRecord r cw ch k rd s0)
    (hbad : tensorBad rd.bytes = true ∨ k.dense.toNat % (TensorRec.parse rd.bytes).bytes ≠ 0) :
    s.copyStart r cw ch k = (s0.recordRead r cw ch k rd).copyError r ch k 2 := by
  obtain ⟨hal, hheld, hread⟩ := hr
  unfold State.copyStart
  simp only [hal, hheld, hread, if_pos hbad, ne_eq, not_true_eq_false, if_false]
  rfl

/-- The record and the kind of the command are in order, and so is its arrival counter. -/
def State.RecordOk (s : State) (r : CrewRef) (cw : Crew) (k : CopyCmd) (bs : List Byte) : Prop :=
  tensorBad bs = false ∧ k.dense.toNat % (TensorRec.parse bs).bytes = 0 ∧
    (k.acnt = true → s.engScratch r cw k.asp k.acoff 8 = true)

theorem State.copyStart_tooMany (hr : s.ReadsRecord r cw ch k rd s0) (hok : (s0.recordRead r cw ch k rd).RecordOk r cw k rd.bytes)
    (hg : k.gathers = true) (hn : 4096 < k.icnt) :
    s.copyStart r cw ch k = (s0.recordRead r cw ch k rd).copyError r ch k 4 := by
  obtain ⟨hal, hheld, hread⟩ := hr
  obtain ⟨htensor, hdense, -⟩ := hok
  unfold State.copyStart
  simp only [hal, hheld, hread, htensor, hdense, hg, hn, ne_eq, not_true_eq_false, if_false, Bool.false_eq_true, or_self, decide_true,
    Bool.and_self, Bool.true_or, if_true]
  rfl

theorem CopyCmd.op_of_gathers (h : k.gathers = true) : k.op = .cpyg ∨ k.op = .cpys := by
  simpa [CopyCmd.gathers] using h

theorem State.copyStart_single (hr : s.ReadsRecord r cw ch k rd s0) (hok : (s0.recordRead r cw ch k rd).RecordOk r cw k rd.bytes)
    (hg : k.gathers = false)
    (hadd : k.op = .cpyAdd → ∃ x, addType (TensorRec.parse rd.bytes).dt = some x ∧ x.1 = (TensorRec.parse rd.bytes).bytes) :
    s.copyStart r cw ch k = (s0.recordRead r cw ch k rd).copyInRange r ch k (TensorRec.parse rd.bytes) [] := by
  obtain ⟨hal, hheld, hread⟩ := hr
  obtain ⟨htensor, hdense, hcount⟩ := hok
  have hsize : (k.op == .cpyAdd && (match addType (TensorRec.parse rd.bytes).dt with
      | some x => x.1 != (TensorRec.parse rd.bytes).bytes | none => true)) = false := by
    by_cases hop : k.op = .cpyAdd
    · obtain ⟨x, hx, hbytes⟩ := hadd hop
      simp [hx, hbytes]
    · simp [hop]
  have hacnt : (k.acnt && !(s0.recordRead r cw ch k rd).engScratch r cw k.asp k.acoff 8) = false := by
    cases h : k.acnt
    · rfl
    · rw [hcount h]; rfl
  have hrec : ¬(tensorBad rd.bytes = true ∨ k.dense.toNat % (TensorRec.parse rd.bytes).bytes ≠ 0) := by
    simp [htensor, hdense]
  unfold State.copyStart
  simp only [hal, hheld, hread, hg, Bool.false_and, Bool.false_or, ne_eq, not_true_eq_false, if_false]
  rw [if_neg hrec]
  erw [if_neg (ne_true_of_eq_false hsize), if_neg (ne_true_of_eq_false hacnt)]
  simp only [State.copyInRange, State.copyRuns, Bool.false_eq_true, if_false, Bool.and_eq_true, decide_eq_true_eq]
  rfl

/-- Where the indices of a gather or scatter stand. -/
def CopyCmd.indexOffs (k : CopyCmd) : List Nat := (List.range k.icnt).map fun i => k.idxOff + 4 * i

/-- The indices of a gather or scatter, as its list holds them. -/
def State.indices (s : State) (r : CrewRef) (cw : Crew) (ch : Nat) (k : CopyCmd) : List Nat :=
  let bs := if k.isp = .clus then s.mcRead r cw (k.eng r ch).reader k.idxOff (4 * k.icnt) else s.getScr r cw .core 0 k.idxOff (4 * k.icnt)
  (List.range k.icnt).map fun i => fld bs (4 * i) 4

/-- The state after the indices have been read. -/
def State.indicesRead (s : State) (r : CrewRef) (cw : Crew) (ch : Nat) (k : CopyCmd) : State :=
  (s.engLeaves (k.eng r ch) cw k.isp k.indexOffs).copyUninit r ch k.isp (s.uninit r cw k.isp k.idxOff (4 * k.icnt))

theorem State.copyStart_indexed (hr : s.ReadsRecord r cw ch k rd s0) (hok : (s0.recordRead r cw ch k rd).RecordOk r cw k rd.bytes)
    (hg : k.gathers = true) (hn : k.icnt ≤ 4096)
    (hlist : ∀ o ∈ k.indexOffs, (s0.recordRead r cw ch k rd).engScratch r cw k.isp o 4 = true)
    (hopen : (s0.recordRead r cw ch k rd).engHeld (k.eng r ch) cw k.isp k.indexOffs = none) :
    s.copyStart r cw ch k = ((s0.recordRead r cw ch k rd).indicesRead r cw ch k).copyInRange r ch k (TensorRec.parse rd.bytes)
      ((s0.recordRead r cw ch k rd).indices r cw ch k) := by
  obtain ⟨hal, hheld, hread⟩ := hr
  obtain ⟨htensor, hdense, hcount⟩ := hok
  have hsize : (true && decide (4096 < k.icnt) || k.op == .cpyAdd && (match addType (TensorRec.parse rd.bytes).dt with
      | some x => x.1 != (TensorRec.parse rd.bytes).bytes | none => true)) = false := by
    rcases CopyCmd.op_of_gathers hg with hop | hop <;> simp [hop, hn]
  have hacnt : (k.acnt && !(s0.recordRead r cw ch k rd).engScratch r cw k.asp k.acoff 8) = false := by
    cases h : k.acnt
    · rfl
    · rw [hcount h]; rfl
  have hrec : ¬(tensorBad rd.bytes = true ∨ k.dense.toNat % (TensorRec.parse rd.bytes).bytes ≠ 0) := by
    simp [htensor, hdense]
  have hall : (true && !k.indexOffs.all fun o => (s0.recordRead r cw ch k rd).engScratch r cw k.isp o 4) = false := by
    simpa using hlist
  unfold State.copyStart
  simp only [hal, hheld, hread, hg, ne_eq, not_true_eq_false, if_false]
  rw [if_neg hrec]
  erw [if_neg (ne_true_of_eq_false hsize), if_neg (ne_true_of_eq_false hacnt)]
  refine Eq.trans (b := match (generalizing := false) (s0.recordRead r cw ch k rd).engHeld (k.eng r ch) cw k.isp k.indexOffs with
    | some s2 => s2
    | none => _) rfl ?_
  rw [hopen]
  dsimp only
  erw [if_neg (ne_true_of_eq_false hall)]
  simp only [State.copyInRange, State.copyRuns, if_true, Bool.and_eq_true, decide_eq_true_eq]
  rfl

end Start

end Sys2Proof.Machine
end

section
/-!
What an engine's step leaves of the cores, and the delivery of a copy command's elements.
-/
namespace Sys2Proof.Machine

/-! ## A field of every core -/

section CoreField
variable {α : Type} (p : Core → α)

theorem State.coreField_updCore (s : State) (d c : Nat) {f : Core → Core} (hf : ∀ x, p (f x) = p x) (d' c' : Nat) :
    p ((s.updCore d c f).coreOf d' c') = p (s.coreOf d' c') := by
  unfold State.updCore
  by_cases h : d' = d ∧ c' = c
  · obtain ⟨rfl, rfl⟩ := h
    rw [State.coreOf_setCore, hf]
  · rw [State.coreOf_setCore_ne _ _ h]

theorem State.coreField_updCrew (s : State) (r : CrewRef) (f : Crew → Crew) (hp : ∀ (x : Core) cs, p { x with crews := cs } = p x) (d c : Nat) :
    p ((s.updCrew r f).coreOf d c) = p (s.coreOf d c) := by
  unfold State.updCrew
  split
  · rw [State.coreOf_setCrew, hp]
  · rfl

end CoreField

theorem State.coreOf_updCore_self (s : State) (d c : Nat) (f : Core → Core) : (s.updCore d c f).coreOf d c = f (s.coreOf d c) :=
  State.coreOf_setCore s d c _

/-! ## Scratch bytes and the cores -/

theorem State.coreField_putSpot {α : Type} (p : Core → α) (hp : ∀ (x : Core) v, p { x with valid := v } = p x) (s : State) (d : Nat) (q : Spot)
    (v : Byte) (d' c' : Nat) : p ((s.putSpot d q v).coreOf d' c') = p (s.coreOf d' c') := by
  unfold State.putSpot
  split
  · rfl
  · split
    · rfl
    · exact State.coreField_updCore p _ _ _ (fun x => hp x _) d' c'

theorem State.coreField_putScr {α : Type} (p : Core → α) (hp : ∀ (x : Core) v, p { x with valid := v } = p x) (s : State) (r : CrewRef) (cw : Crew)
    (sp : Space) (l off : Nat) (bs : List Byte) (d' c' : Nat) : p ((s.putScr r cw sp l off bs).coreOf d' c') = p (s.coreOf d' c') := by
  unfold State.putScr
  exact foldl_keeps (P := fun x : State => p (x.coreOf d' c') = p (s.coreOf d' c')) rfl fun x y hx => by
    rw [State.coreField_putSpot p hp, hx]

/-- Two states whose memories, and whose initialised words, are the same. -/
structure SameScratch (s t : State) : Prop where
  mem : t.mem = s.mem
  valid : ∀ d c, (t.coreOf d c).valid = (s.coreOf d c).valid

theorem SameScratch.putSpot {s t : State} (h : SameScratch s t) (d : Nat) (q : Spot) (v : Byte) :
    SameScratch (s.putSpot d q v) (t.putSpot d q v) := by
  have hat : t.validAt d q.word = s.validAt d q.word := by
    unfold State.validAt
    cases q.word with
    | none => rfl
    | some w => dsimp only; rw [h.valid]
  cases hv : s.validAt d q.word with
  | true =>
    rw [State.putSpot_valid v hv, State.putSpot_valid v (hat.trans hv)]
    exact ⟨congrArg (fun m => Memory.writeN m q.key [v]) h.mem, h.valid⟩
  | false =>
    match hw : q.word with
    | none => rw [hw] at hv; exact absurd hv (by simp [State.validAt])
    | some (c, w) =>
      rw [State.putSpot_invalid v hw hv, State.putSpot_invalid v hw (hat.trans hv)]
      refine ⟨congrArg (fun m => Memory.writeN (Memory.clear m (coreKey d c (4 * w)) 4) q.key [v]) h.mem, fun d' c' => ?_⟩
      by_cases hc : d' = d ∧ c' = c
      · obtain ⟨rfl, rfl⟩ := hc
        rw [State.coreOf_updCore_self, State.coreOf_updCore_self]
        exact congrArg (fun x : Tbl Bool => x.set w true) (h.valid d' c')
      · unfold State.updCore
        rw [State.coreOf_setCore_ne _ _ hc, State.coreOf_setCore_ne _ _ hc]
        exact h.valid d' c'

theorem SameScratch.putScr_core {s t : State} (h : SameScratch s t) (r : CrewRef) (cw : Crew) (off : Nat) (bs : List Byte) :
    SameScratch (s.putScr r cw .core 0 off bs) (t.putScr r cw .core 0 off bs) := by
  unfold State.putScr
  generalize (List.range bs.length).zip bs = l
  induction l generalizing s t with
  | nil => exact h
  | cons x xs ih => exact ih (h.putSpot r.die _ x.2)

/-! ## The steps of a running command: R206 and R210 -/

section Delivery
variable {s : State} {r : CrewRef} {cw : Crew} {ch : Nat} {k : CopyCmd} {t : TensorRec}

theorem State.copyStep_over (h : k.total t ≤ k.pos) : s.copyStep r cw ch k t = s.copyEnd r ch k k.status := by
  unfold State.copyStep
  exact if_pos h

/-- The elements that a step reads. -/
def CopyCmd.todo (k : CopyCmd) (t : TensorRec) : List Nat :=
  (List.range (min (k.total t) (k.pos / k.unit t * k.unit t + k.unit t) - (k.pos + k.buf.length))).map fun i => k.pos + k.buf.length + i

/-- Where they lie in the cluster's space. -/
def CopyCmd.todoOffs (k : CopyCmd) (t : TensorRec) : List Nat := (k.todo t).flatMap fun p => k.clusSource t (k.coords t p) p

/-- The state after the elements of a step have been read, and what has been read stands in the command. -/
def State.elementsRead (s : State) (r : CrewRef) (cw : Crew) (ch : Nat) (k : CopyCmd) (t : TensorRec) (bufs : List (List Byte)) (u : Option Nat) :
    State :=
  ((if (k.todoOffs t).isEmpty then s else s.mcLeaves r cw (k.eng r ch).reader (k.todoOffs t)).copyUninit r ch (if k.dir then k.dsp else t.at_)
    u).updHead r.die r.core ch fun x => { x with buf := bufs }

theorem State.copyStep_delivers {bs : List (List Byte)} {u : Option Nat} {s1 s3 : State} (hpos : k.pos < k.total t)
    (hheld : k.todoOffs t = [] ∨ s.mcHeld r cw (k.eng r ch).reader (k.todoOffs t) = none)
    (hread : s.copyReads (k.eng r ch) cw k t (k.todo t) = (bs, u, none, s1))
    (hdeliver : (s1.elementsRead r cw ch k t (k.buf ++ bs) u).copyDeliver r cw ch k t
      (((List.range (k.buf ++ bs).length).zip (k.buf ++ bs)).map fun x => (k.pos + x.1, x.2)) = (none, s3)) :
    s.copyStep r cw ch k t =
      if k.total t ≤ (s3.copyHead r ch k).pos then s3.copyEnd r ch (s3.copyHead r ch k) (s3.copyHead r ch k).status else s3 := by
  have hopen : (if (k.todoOffs t).isEmpty then none else s.mcHeld r cw (k.eng r ch).reader (k.todoOffs t)) = none := by
    rcases hheld with h | h
    · rw [h]; rfl
    · rw [h]; exact ite_self _
  unfold State.copyStep
  dsimp only
  rw [if_neg (Nat.not_le.2 hpos)]
  refine Eq.trans (b := match (generalizing := false) (if (k.todoOffs t).isEmpty then none else
      s.mcHeld r cw (k.eng r ch).reader (k.todoOffs t)) with
    | some s1 => s1
    | none => _) rfl ?_
  rw [hopen]
  dsimp only
  erw [hread]
  dsimp only
  erw [hdeliver]

end Delivery

/-! ## One element between two places of the core's scratchpad -/

section Element
variable {s : State} {d c ch : Nat} {k : CopyCmd} {rest : List CopyCmd} {cw : Crew} {t : TensorRec}

theorem State.updHead_copy (hk : (s.coreOf d c).copy.getD ch [] = k :: rest) (f : CopyCmd → CopyCmd) :
    ((s.updHead d c ch f).coreOf d c).copy.getD ch [] = f k :: rest := by
  unfold State.updHead
  rw [State.coreOf_updCore_self]
  rw [List.getD_eq_getElem?_getD] at hk ⊢
  cases hq : (s.coreOf d c).copy[ch]? with
  | none => rw [hq] at hk; exact absurd hk (by simp)
  | some q =>
    rw [hq] at hk
    have hq' : q = k :: rest := hk
    simp [hq, hq']

theorem State.crewOf_updHead (s : State) (d c ch : Nat) (f : CopyCmd → CopyCmd) (r : CrewRef) : (s.updHead d c ch f).crewOf r = s.crewOf r := by
  unfold State.updHead
  apply State.crewOf_updCore
  exact fun _ => rfl

theorem SameScratch.updHead (s : State) (d c ch : Nat) (f : CopyCmd → CopyCmd) : SameScratch s (s.updHead d c ch f) :=
  ⟨rfl, State.coreField_updCore Core.valid _ _ _ fun _ => rfl⟩

/-- The state of a channel and its crew while the engine delivers: the memory, the commands and the crew. -/
structure State.Channel (s : State) (r : CrewRef) (ch : Nat) (m : List Host.Cell) (q : List CopyCmd) (cw : Crew) : Prop where
  mem : s.mem = m
  queue : (s.coreOf r.die r.core).copy.getD ch [] = q
  crew : s.crewOf r = some cw

variable {r : CrewRef} {m : List Host.Cell} {q : List CopyCmd}

theorem State.Channel.of_fields {s' : State} (h : s.Channel r ch m q cw) (hmem : s'.mem = s.mem)
    (hcopy : (s'.coreOf r.die r.core).copy = (s.coreOf r.die r.core).copy) (hcrew : s'.crewOf r = s.crewOf r) : s'.Channel r ch m q cw :=
  ⟨hmem.trans h.mem, by rw [hcopy, h.queue], hcrew.trans h.crew⟩

theorem State.copy_forgetRemote (s : State) (d c : Nat) (a : Nat × Nat × Nat) (d' c' : Nat) :
    ((s.forgetRemote d c a).coreOf d' c').copy = (s.coreOf d' c').copy := by
  unfold State.forgetRemote
  split
  · rw [State.coreField_updCore Core.copy]
    exact fun _ => rfl
  · rfl

theorem State.crewOf_forgetRemote (s : State) (d c : Nat) (a : Nat × Nat × Nat) (r : CrewRef) : (s.forgetRemote d c a).crewOf r = s.crewOf r := by
  unfold State.forgetRemote
  split
  · apply State.crewOf_updCore
    exact fun _ => rfl
  · rfl

theorem State.Channel.engDone (h : s.Channel r ch m q cw) (g : Eng) : (s.engDone g).Channel r ch m q cw :=
  h.of_fields (State.forgetRemote_mem ..) (State.copy_forgetRemote ..) (State.crewOf_forgetRemote ..)

theorem State.Channel.putScr (h : s.Channel r ch m q cw) (off : Nat) (bs : List Byte) :
    (s.putScr r cw .core 0 off bs).Channel r ch (s.putScr r cw .core 0 off bs).mem q cw := by
  refine ⟨rfl, ?_, (State.crewOf_putScr ..).trans h.crew⟩
  rw [State.coreField_putScr Core.copy (fun _ _ => rfl), h.queue]

theorem State.Channel.updHead (h : s.Channel r ch m (k :: rest) cw) (f : CopyCmd → CopyCmd) :
    (s.updHead r.die r.core ch f).Channel r ch m (f k :: rest) cw :=
  ⟨h.mem, State.updHead_copy h.queue f, (State.crewOf_updHead ..).trans h.crew⟩

/-- What a delivered element leaves of its crew. -/
def Crew.counted (cw : Crew) (ch bytes : Nat) : Crew :=
  { cw with ctl := { cw.ctl with cpy := cw.ctl.cpy.modify ch fun x => { x with bytes := x.bytes + BitVec.ofNat 64 bytes } } }

theorem State.Channel.copyCount (h : s.Channel r ch m q cw) (k : CopyCmd) (hk : k.acnt = false) (w : Crew) (bytes rows : Nat) :
    (s.copyCount r w ch k bytes rows).Channel r ch m q (cw.counted ch bytes) := by
  have hcount : s.copyCount r w ch k bytes rows = s.updCrew r fun x => x.counted ch bytes := by
    unfold State.copyCount
    rw [hk]
    rfl
  rw [hcount]
  refine ⟨(State.updCrew_mem ..).trans h.mem, ?_, ?_⟩
  · rw [State.coreField_updCrew Core.copy _ _ _ (fun _ _ => rfl), h.queue]
  · rw [State.crewOf_updCrew, if_pos rfl, h.crew]
    rfl

end Element

end Sys2Proof.Machine
end

section
/-!
The element of a copy command between two places of the core's scratchpad, and the controls of a crew's channels.
-/
namespace Sys2Proof.Machine

section Element
variable {s : State} {r : CrewRef} {cw : Crew} {ch : Nat} {k : CopyCmd} {rest : List CopyCmd} {t : TensorRec}

theorem State.engRead_core {g : Eng} {need : W16 → Bool} {va n : Nat} (h : s.engScratch g.r cw .core va n = true)
    (hu : s.uninit g.r cw .core va n = none) :
    s.engRead g cw .core need va n = (.ok ⟨s.getScr g.r cw .core 0 va n, none⟩, s) := by
  simp [State.engRead, h, hu]

theorem State.engWrite_core {g : Eng} {need : W16 → Bool} {va : Nat} {bs : List Byte} (h : s.engScratch g.r cw .core va bs.length = true) :
    s.engWrite g cw .core need va bs = (.ok (), s.putScr g.r cw .core 0 va bs) := by
  simp [State.engWrite, h]

/-- The command copies single elements between two places of the core's scratchpad, and the next of them is in order. -/
structure CopyCmd.InCore (k : CopyCmd) (s : State) (r : CrewRef) (cw : Crew) (t : TensorRec) : Prop where
  op : k.op = .cpy
  acnt : k.acnt = false
  buf : k.buf = []
  tensor : t.at_ = .core
  dense : k.dsp = .core
  more : k.pos < k.total t
  dst : s.engScratch r cw .core (k.denseAt t k.pos) t.bytes = true
  dstInit : s.uninit r cw .core (k.denseAt t k.pos) t.bytes = none
  src : t.outside (boxCoords t k.origin k.pos) = false →
    s.engScratch r cw .core (t.addr (boxCoords t k.origin k.pos)) t.bytes = true ∧
      s.uninit r cw .core (t.addr (boxCoords t k.origin k.pos)) t.bytes = none

/-- The bytes of the next element. -/
def State.elementBytes (s : State) (r : CrewRef) (cw : Crew) (k : CopyCmd) (t : TensorRec) : List Byte :=
  if k.dir then s.getScr r cw .core 0 (k.denseAt t k.pos) t.bytes
  else if t.outside (boxCoords t k.origin k.pos) then List.replicate t.bytes (if t.pad = 2 then t.padb else 0)
  else s.getScr r cw .core 0 (t.addr (boxCoords t k.origin k.pos)) t.bytes

/-- The state once they are stored. -/
def State.elementStored (s : State) (r : CrewRef) (cw : Crew) (k : CopyCmd) (t : TensorRec) (bs : List Byte) : State :=
  if k.dir = true ∧ t.outside (boxCoords t k.origin k.pos) = true then s
  else s.putScr r cw .core 0 (if k.dir then t.addr (boxCoords t k.origin k.pos) else k.denseAt t k.pos) bs

theorem State.length_elementBytes (s : State) (r : CrewRef) (cw : Crew) (k : CopyCmd) (t : TensorRec) :
    (s.elementBytes r cw k t).length = t.bytes := by
  unfold State.elementBytes
  split
  · simp [State.getScr]
  · split
    · simp
    · simp [State.getScr]

section
variable (hk : k.InCore s r cw t)
include hk

theorem CopyCmd.InCore.gathers : k.gathers = false := by
  unfold CopyCmd.gathers
  rw [hk.op]
  rfl

theorem CopyCmd.InCore.coords : k.coords t k.pos = boxCoords t k.origin k.pos := by
  unfold CopyCmd.coords
  rw [hk.gathers]
  rfl

theorem CopyCmd.InCore.unit : k.unit t = 1 := by
  unfold CopyCmd.unit
  rw [hk.gathers]
  rfl

theorem CopyCmd.InCore.todo : k.todo t = [k.pos] := by
  have hmore := hk.more
  unfold CopyCmd.todo
  rw [hk.unit, hk.buf]
  have hone : min (k.total t) (k.pos / 1 * 1 + 1) - (k.pos + ([] : List (List Byte)).length) = 1 := by
    rw [Nat.div_one, Nat.mul_one, List.length_nil]
    omega
  rw [hone]
  rfl

theorem CopyCmd.InCore.todoOffs : k.todoOffs t = [] := by
  unfold CopyCmd.todoOffs CopyCmd.clusSource
  rw [hk.todo, hk.dense, hk.tensor]
  simp

theorem CopyCmd.InCore.copyRead :
    s.copyRead (k.eng r ch) cw k t (k.coords t k.pos) k.pos = (.ok ⟨s.elementBytes r cw k t, none⟩, s) := by
  have hdst := hk.dst
  have hdstInit := hk.dstInit
  unfold State.copyRead State.elementBytes
  rw [hk.coords, hk.dense, hk.tensor]
  cases hdir : k.dir with
  | true => exact State.engRead_core (need := attrR) hdst hdstInit
  | false =>
    cases hout : t.outside (boxCoords t k.origin k.pos) with
    | true => rfl
    | false =>
      obtain ⟨hsrc, hinit⟩ := hk.src hout
      exact State.engRead_core (need := attrR) hsrc hinit

theorem CopyCmd.InCore.copyReads :
    s.copyReads (k.eng r ch) cw k t (k.todo t) = ([s.elementBytes r cw k t], none, none, s) := by
  rw [hk.todo]
  unfold State.copyReads
  rw [hk.copyRead]
  rfl

/-- Scratch of the core lies where it lies in every state. -/
theorem CopyCmd.InCore.copyWrite (u : State) {bs : List Byte} (hbs : bs.length = t.bytes) :
    u.copyWrite (k.eng r ch) cw k t (k.coords t k.pos) k.pos bs = (.ok ⟨0, none⟩, u.elementStored r cw k t bs) := by
  have hdst : u.engScratch r cw .core (k.denseAt t k.pos) bs.length = true := by rw [hbs]; exact hk.dst
  unfold State.copyWrite State.elementStored
  rw [hk.coords, hk.dense, hk.tensor]
  cases hdir : k.dir with
  | false =>
    dsimp only
    rw [State.engWrite_core (g := k.eng r ch) (need := fun a => attrW a) hdst]
    rfl
  | true =>
    cases hout : t.outside (boxCoords t k.origin k.pos) with
    | true => rfl
    | false =>
      have hsrc : u.engScratch r cw .core (t.addr (boxCoords t k.origin k.pos)) bs.length = true := by
        rw [hbs]; exact (hk.src hout).1
      dsimp only
      rw [hk.op, State.engWrite_core (g := k.eng r ch) (need := fun a => attrW a) hsrc]
      rfl

end

/-- The command after one more element. -/
def CopyCmd.advanced (k : CopyCmd) : CopyCmd := { k with pos := k.pos + 1 }

theorem State.Channel.elementStored {u : State} (h : u.Channel r ch u.mem (k :: rest) cw) (k' : CopyCmd) (bs : List Byte) :
    (u.elementStored r cw k' t bs).Channel r ch (u.elementStored r cw k' t bs).mem (k :: rest) cw := by
  unfold State.elementStored
  split
  · exact h
  · exact h.putScr _ _

theorem State.mem_elementStored {u : State} (h : SameScratch s u) (k : CopyCmd) (bs : List Byte) :
    (u.elementStored r cw k t bs).mem = (s.elementStored r cw k t bs).mem := by
  unfold State.elementStored
  split
  · exact h.mem
  · exact (h.putScr_core r cw _ bs).mem

theorem State.copyUninit_none (s : State) (r : CrewRef) (ch : Nat) (sp : Space) : s.copyUninit r ch sp none = s := rfl

/-- The state once the next element has been delivered and counted. -/
def State.elementDelivered (s : State) (r : CrewRef) (cw : Crew) (ch : Nat) (k : CopyCmd) (t : TensorRec) (bs : List Byte) : State :=
  ((((s.updHead r.die r.core ch fun x => { x with buf := [bs] }).elementStored r cw k t bs).engDone (k.eng r ch)).copyCount r cw ch k t.bytes 1
    ).updHead r.die r.core ch fun x => { x with pos := k.pos + 1, buf := x.buf.drop 1, status := x.status ||| 0 }

theorem CopyCmd.InCore.elementsRead (hk : k.InCore s r cw t) (bs : List Byte) :
    s.elementsRead r cw ch k t (k.buf ++ [bs]) none = s.updHead r.die r.core ch fun x => { x with buf := [bs] } := by
  unfold State.elementsRead
  rw [hk.todoOffs, hk.buf, State.copyUninit_none]
  rfl

theorem CopyCmd.InCore.copyDeliver (hk : k.InCore s r cw t) {bs : List Byte} (hbs : bs.length = t.bytes) :
    (s.elementsRead r cw ch k t (k.buf ++ [bs]) none).copyDeliver r cw ch k t
      (((List.range (k.buf ++ [bs]).length).zip (k.buf ++ [bs])).map fun x => (k.pos + x.1, x.2)) =
      (none, s.elementDelivered r cw ch k t bs) := by
  have hone : ((List.range (k.buf ++ [bs]).length).zip (k.buf ++ [bs])).map (fun x => (k.pos + x.1, x.2)) = [(k.pos, bs)] := by
    rw [hk.buf]; rfl
  rw [hone, hk.elementsRead]
  unfold State.copyDeliver
  dsimp only
  rw [hk.copyWrite _ hbs, hk.unit, Nat.mod_one, if_pos rfl]
  rfl

/-- What the delivery of the next element leaves: the stored bytes, the command one element on, and the count of its crew. -/
theorem CopyCmd.InCore.delivered (h : s.Channel r ch s.mem (k :: rest) cw) (hk : k.InCore s r cw t) (bs : List Byte) :
    (s.elementDelivered r cw ch k t bs).Channel r ch (s.elementStored r cw k t bs).mem (k.advanced :: rest) (cw.counted ch t.bytes) := by
  have hread := h.updHead fun x => { x with buf := [bs] }
  have hmem := State.mem_elementStored (r := r) (cw := cw) (t := t)
    (SameScratch.updHead s r.die r.core ch fun x => { x with buf := [bs] }) k bs
  have hstored := State.Channel.elementStored (t := t) hread k bs
  rw [hmem] at hstored
  have hdone := ((hstored.engDone (k.eng r ch)).copyCount k hk.acnt cw t.bytes 1).updHead
    fun x => { x with pos := k.pos + 1, buf := x.buf.drop 1, status := x.status ||| 0 }
  have hnext : ({ k with pos := k.pos + 1, buf := [bs].drop 1, status := k.status ||| 0 } : CopyCmd) = k.advanced := by
    have hstatus : k.status ||| 0 = k.status := BitVec.or_zero
    unfold CopyCmd.advanced
    rw [hk.buf, hstatus]
    rfl
  rw [← hnext]
  exact hdone

theorem CopyCmd.InCore.copyStep (h : s.Channel r ch s.mem (k :: rest) cw) (hk : k.InCore s r cw t) : ∃ v : State,
    s.copyStep r cw ch k t = (if k.total t ≤ k.pos + 1 then v.copyEnd r ch k.advanced k.advanced.status else v) ∧
      v.Channel r ch (s.elementStored r cw k t (s.elementBytes r cw k t)).mem (k.advanced :: rest) (cw.counted ch t.bytes) := by
  have hdelivered := hk.delivered h (s.elementBytes r cw k t)
  refine ⟨_, ?_, hdelivered⟩
  have hhead : (s.elementDelivered r cw ch k t (s.elementBytes r cw k t)).copyHead r ch k = k.advanced := by
    unfold State.copyHead
    rw [hdelivered.queue]
  rw [State.copyStep_delivers hk.more (.inl hk.todoOffs) hk.copyReads (hk.copyDeliver (s.length_elementBytes r cw k t)), hhead]
  rfl

end Element

/-! ## The controls of a channel: R206 -/

section Control
variable {s : State} {cw : Crew}

theorem exec_cpyCtlReset_busy (h : (s.coreOf s.cur.crew.die s.cur.crew.core).copyOf s.cur.crew.slot s.unit ≠ []) :
    exec .cpyCtlReset s = .next s := by
  show Host.Outcome.next (s.cpyReset s.cur.crew s.unit) = _
  unfold State.cpyReset
  rw [if_neg (by simpa using h)]

theorem exec_cpyCtlReset_idle (hcw : s.crewOf s.cur.crew = some cw)
    (h : (s.coreOf s.cur.crew.die s.cur.crew.core).copyOf s.cur.crew.slot s.unit = []) :
    ∃ t, exec .cpyCtlReset s = .next t ∧ t.mem = s.mem ∧ t.crewOf s.cur.crew =
      some { cw with ctl := { cw.ctl with cpy := cw.ctl.cpy.modify s.unit fun x => { x with bytes := 0 } } } := by
  refine ⟨_, rfl, State.cpyReset_mem .., ?_⟩
  unfold State.cpyReset
  rw [if_pos (by simp [h]), State.crewOf_updCrew, if_pos rfl, hcw]
  rfl

theorem exec_cpyCtlClrerr_spec (hcw : s.crewOf s.cur.crew = some cw) :
    ∃ t, exec .cpyCtlClrerr s = .next t ∧ t.mem = s.mem ∧ t.crewOf s.cur.crew =
      some { cw with ctl := { cw.ctl with cpy := cw.ctl.cpy.modify s.unit fun x => { x with err := 0 } } } := by
  refine ⟨_, rfl, State.cpyClrerr_mem .., ?_⟩
  unfold State.cpyClrerr
  rw [State.crewOf_updCrew, if_pos rfl, hcw]
  rfl

end Control

end Sys2Proof.Machine
end

section
/-!
The passes of the Infuser: how an operation begins one, its sums, and a join of two streams of one tuple each.
-/
namespace Sys2Proof.Machine

/-! ## The step of an operation: R427 and R436 -/

section Step
variable {s u : State} {o : JOp} {cw : Crew} {d c : Nat}

/-- The state in which an operation places the sums of the pass that it has begun. -/
def State.passBegun (s1 : State) (d c : Nat) (o : JOp) (cw : Crew) (b : Begun) : State :=
  let o1 := { o with sums := b.sums.drop (if o.kind = .stream then 0 else o.keyPos), status := o.status ||| b.st, written := b.last,
                     fails := b.fails, readDone := o.readDone || b.last }
  let s2 := s1.updOp d c o.seq fun y => { o1 with logged := y.logged }
  (if b.last then s2.jReads d c o1 else s2).opPlace d c
    { o1 with logged := (s2.coreOf d c).jq.any fun y => y.seq == o.seq && y.logged } cw

variable {start : State → Nat → Nat → JOp → Crew → Except JStop Begun × State} {s1 : State} {b : Begun}

theorem State.opStep_underWay (hcw : s.crewOf (o.crew d c) = some cw) (h : o.sums ≠ []) :
    s.opStep d c o start = s.opPlace d c o cw := by
  unfold State.opStep
  rw [hcw]
  exact if_pos (by simpa using h)

theorem State.opStep_stopped (hcw : s.crewOf (o.crew d c) = some cw) (h : o.sums = []) {e : JStop} (hstart : start s d c o cw = (.error e, s1)) :
    s.opStep d c o start = s1.opStop d c o e := by
  unfold State.opStep
  rw [hcw]
  simp only [h, List.isEmpty_nil, Bool.not_true, Bool.false_eq_true, if_false, hstart]

theorem State.opStep_begun (hcw : s.crewOf (o.crew d c) = some cw) (h : o.sums = []) (hstart : start s d c o cw = (.ok b, s1)) :
    s.opStep d c o start = s1.passBegun d c o cw b := by
  unfold State.opStep
  rw [hcw]
  simp only [h, List.isEmpty_nil, Bool.not_true, Bool.false_eq_true, if_false, hstart]
  rfl

theorem infuserEvent_runs {kind : JOpKind} {run : State → Nat → Nat → JOp → State}
    (hnext : (s.jSettle s.cur.die s.cur.core).nextOp s.cur.die s.cur.core = some o) (hkind : o.kind = kind) :
    infuserEvent kind run s = .next (((run (s.jSettle s.cur.die s.cur.core) s.cur.die s.cur.core o).engRest (o.eng s.cur.die s.cur.core)).jSettle
      s.cur.die s.cur.core) := by
  simp only [infuserEvent, hnext, hkind, if_true]

end Step

/-! ## Operands in the core's own scratchpad hold no pass: R204 -/

section Windows
variable {s : State} {o : JOp} {cw : Crew} {d c : Nat}

theorem State.mcHeld_nil (s : State) (r : CrewRef) (cw : Crew) (me : Nat × Nat × Nat) : s.mcHeld r cw me [] = none := rfl

theorem State.jWindows_nil (s : State) (g : Eng) (cw : Crew) : s.jWindows g cw [] [] = none := rfl

theorem clusOnly_core (offs : List Nat) : clusOnly .core offs = [] := rfl

theorem State.maskFor_unmasked (h : o.masked = false) (is : List Nat) : s.maskFor d c o cw is = (.ok none, s) := by
  unfold State.maskFor
  rw [h]
  rfl

theorem State.quarterBegin_core (hm : o.masked = false) (ha : o.asp = .core) (hb : o.bsp = .core) :
    ∃ b s1, s.quarterBegin d c o cw = (.ok b, s1) := by
  unfold State.quarterBegin
  simp only [State.maskFor_unmasked hm, ha, hb, clusOnly_core, State.jWindows_nil]
  exact ⟨_, _, rfl⟩

theorem State.bitBegin_core (hm : o.masked = false) (ha : o.asp = .core) (hb : o.bsp = .core) :
    ∃ b s1, s.bitBegin d c o cw = (.ok b, s1) := by
  unfold State.bitBegin
  simp only [State.maskFor_unmasked hm, ha, hb, clusOnly_core, State.jWindows_nil, List.append_nil]
  exact ⟨_, _, rfl⟩

theorem State.streamBegin_core (ha : o.asp = .core) (hb : o.bsp = .core) : ∃ b s1, s.streamBegin d c o cw = (.ok b, s1) := by
  unfold State.streamBegin
  simp only [ha, hb, clusOnly_core, State.jWindows_nil]
  exact ⟨_, _, rfl⟩

end Windows

/-! ## The sums of a dense pass: R258 and R436 -/

section Dense

theorem mem_insertSum (m x : JSum) : ∀ l : List JSum, x ∈ insertSum m l ↔ x = m ∨ x ∈ l
  | [] => by simp [insertSum]
  | y :: ys => by
    unfold insertSum
    split
    · exact List.mem_cons
    · rw [List.mem_cons, mem_insertSum m x ys, List.mem_cons]
      exact or_left_comm

theorem mem_foldl_insertSum (x : JSum) (ms : List JSum) : ∀ l : List JSum, x ∈ ms.foldl (fun l m => insertSum m l) l ↔ x ∈ ms ∨ x ∈ l := by
  induction ms with
  | nil => simp
  | cons m ms ih =>
    intro l
    rw [List.foldl_cons, ih, mem_insertSum, List.mem_cons]
    exact or_left_comm.trans or_assoc.symm

theorem mem_sortSums (x : JSum) (ms : List JSum) : x ∈ sortSums ms ↔ x ∈ ms := by
  simp [sortSums, mem_foldl_insertSum]

variable {s : State} {o : JOp} {cw : Crew} {d c : Nat}

/-- The positions of a pass. -/
def JOp.passKs (o : JOp) (cw : Crew) : List Nat :=
  (List.range (passDepth cw.cfg.nbv.toNat o.afmt).1).map fun k => o.step * (passDepth cw.cfg.nbv.toNat o.afmt).1 + k

/-- An element of a row of A, and of a column of B. -/
def State.rowElem (s : State) (d c : Nat) (o : JOp) (cw : Crew) (off k : Nat) : Ivl × BitVec 6 :=
  elemIvl (cw.table o.tbl).fmt o.afmt o.ainf none (s.jNat (o.eng d c) cw .core (off + k * o.esz) o.esz)
def State.colElem (s : State) (d c : Nat) (o : JOp) (cw : Crew) (k col : Nat) : Ivl × BitVec 6 :=
  elemIvl (cw.table o.tbl).fmt o.bfmt o.binf none (s.jNat (o.eng d c) cw .core (o.ulo 0 + (16 * k + col) * o.esz) o.esz)

/-- The sum of a row and a column. -/
def State.denseSum (s : State) (d c : Nat) (o : JOp) (cw : Crew) (l : Nat × Nat) (col : Nat) : JSum :=
  let v := passSum (cw.table o.tbl).fmt (passDepth cw.cfg.nbv.toNat o.afmt).2
    ((o.passKs cw).map fun k => ivMul (s.rowElem d c o cw l.2 k).1 (s.colElem d c o cw k col).1)
  { key := jkey o.tbl (o.rowI l.1) (o.colJ col), val := ivlPair v.1, st := v.2, a := 0, pos := 0 }

theorem State.quarterBegin_dense (hm : o.masked = false) (hs : o.scaled = false) (ha : o.asp = .core) (hb : o.bsp = .core) :
    ∃ bg s1, s.quarterBegin d c o cw = (.ok bg, s1) ∧ bg.last = decide (32 ≤ (o.step + 1) * (passDepth cw.cfg.nbv.toNat o.afmt).1) ∧
      ∀ m, m ∈ bg.sums ↔ ∃ l ∈ o.laneRows, ∃ col < 16, m = s.denseSum d c o cw l col := by
  unfold State.quarterBegin
  simp only [State.maskFor_unmasked hm, hs, ha, hb, clusOnly_core, State.jWindows_nil, allowed, List.filter_true, Bool.false_eq_true, if_false]
  refine ⟨_, _, rfl, rfl, fun m => ?_⟩
  rw [mem_sortSums]
  have hproducts : ∀ (l : Nat × Nat) (col : Nat), (((o.passKs cw).map fun k => s.rowElem d c o cw l.2 k).zip
      ((o.passKs cw).map fun k => s.colElem d c o cw k col)).map (fun p => ivMul p.1.1 p.2.1) =
      (o.passKs cw).map fun k => ivMul (s.rowElem d c o cw l.2 k).1 (s.colElem d c o cw k col).1 := fun l col => by
    rw [List.zip_map', List.map_map]
    rfl
  simp only [List.mem_flatMap, List.mem_map, List.mem_filter, List.mem_range, exists_exists_and_eq_and]
  have hused : ∀ l ∈ o.laneRows, ((o.laneRows.filter fun _ => !(List.range 16).isEmpty).any fun _ => true) = true := fun l hl =>
    List.any_eq_true.2 ⟨l, List.mem_filter.2 ⟨hl, rfl⟩, rfl⟩
  constructor
  · rintro ⟨l, ⟨hl, -⟩, col, ⟨hcol, -⟩, rfl⟩
    exact ⟨l, hl, col, hcol, by unfold State.denseSum; rw [← hproducts]; rfl⟩
  · rintro ⟨l, hl, col, hcol, rfl⟩
    exact ⟨l, ⟨hl, rfl⟩, col, ⟨hcol, hused l hl⟩, by unfold State.denseSum; rw [← hproducts]; rfl⟩

theorem State.eq_denseSum_iff (m : JSum) (l : Nat × Nat) (col : Nat) : m = s.denseSum d c o cw l col ↔
    m.key = (s.denseSum d c o cw l col).key ∧ m.a = 0 ∧ m.pos = 0 ∧
      (m.val, m.st) = ((s.denseSum d c o cw l col).val, (s.denseSum d c o cw l col).st) := by
  constructor
  · rintro rfl
    exact ⟨rfl, rfl, rfl, rfl⟩
  · obtain ⟨key, val, st, a, pos⟩ := m
    rintro ⟨hkey, ha, hpos, hval⟩
    obtain ⟨hval, hst⟩ := Prod.mk.inj hval
    dsimp only at hkey ha hpos hval hst
    rw [hkey, ha, hpos, hval, hst]
    rfl

end Dense

end Sys2Proof.Machine
end

section
/-!
A join of two streams of one tuple each, R441; the placing of keys, R418; and a tile element of a drain.
-/
namespace Sys2Proof.Machine

/-! ## The join of two tuples -/

theorem fld_map_range (f : Nat → Byte) {N off n : Nat} (h : off + n ≤ N) :
    fld ((List.range N).map f) off n = leNat ((List.range n).map fun i => f (off + i)) := by
  unfold fld
  congr 1
  refine List.ext_getElem (by simp; omega) fun i h₁ h₂ => ?_
  simp

section Single
variable {w : Streams}

theorem tupleErr_first {t : Nat → STuple} (hc : (t 0).coord < 2 ^ 22) (hk : (t 0).k < 2 ^ 22) : tupleErr t false 0 = none := by
  unfold tupleErr
  rw [if_neg (by simp; omega), if_neg (by simp)]

theorem runEnd_end {k fuel i : Nat} (h : w.nb ≤ i) : runEnd w k fuel i = (i, none) := by
  cases fuel with
  | zero => rfl
  | succ n => exact if_pos h

theorem joinFrom_end {fuel ia ib : Nat} (h : w.na ≤ ia ∨ w.nb ≤ ib) (j : Joined) : joinFrom w fuel ia ib j = j := by
  cases fuel with
  | zero => rfl
  | succ n => exact if_pos h

/-- Two single tuples join where their `k` are equal. -/
theorem joinFrom_single (hna : w.na = 1) (hnb : w.nb = 1) (hea : tupleErr w.a w.point 0 = none) (heb : tupleErr w.b w.point 0 = none) :
    joinFrom w 2 0 0 ⟨[], 0, 0, 0⟩ = ⟨if (w.a 0).k = (w.b 0).k then [(0, 0, 0)] else [], 0, 1, 1⟩ := by
  have hmore : ¬(w.na ≤ 0 ∨ w.nb ≤ 0) := by omega
  unfold joinFrom
  rw [if_neg hmore]
  simp only [hea, heb]
  rcases Nat.lt_trichotomy (w.a 0).k (w.b 0).k with hlt | heq | hgt
  · rw [if_pos hlt, joinFrom_end (.inl hna.le), if_neg hlt.ne]
    rfl
  · rw [if_neg heq.not_lt, if_neg heq.not_gt, if_pos heq, runEnd_end hnb.le, joinFrom_end (.inl hna.le), hnb]
    rfl
  · rw [if_neg hgt.not_gt, if_pos hgt, joinFrom_end (.inr hnb.le), if_neg hgt.ne']
    rfl

end Single

section Stream
variable {s : State} {o : JOp} {cw : Crew} {d c : Nat}

/-- The only tuple of a stream in the core's scratchpad: its coordinate, its `k` and its value. -/
def State.tupleCoord (s : State) (d c : Nat) (o : JOp) (cw : Crew) (n : Nat) : Nat := s.jNat (o.eng d c) cw .core (o.ulo n) 4
def State.tupleK (s : State) (d c : Nat) (o : JOp) (cw : Crew) (n : Nat) : Nat := s.jNat (o.eng d c) cw .core (o.ulo n + 4) 4
def State.tupleValue (s : State) (d c : Nat) (o : JOp) (cw : Crew) (n : Nat) : Ivl × BitVec 6 :=
  elemIvl (cw.table o.tbl).fmt o.afmt false none (s.jNat (o.eng d c) cw .core (o.ulo n + 8) 8)

/-- The tuple's bytes. -/
def State.tupleBytes (s : State) (d c : Nat) (o : JOp) (cw : Crew) (base i : Nat) : List Byte :=
  (List.range 16).map fun k => s.jByte (o.eng d c) cw .core (base + 16 * i + k)
def State.tupleAt (s : State) (d c : Nat) (o : JOp) (cw : Crew) (base i : Nat) : STuple :=
  { coord := fld (s.tupleBytes d c o cw base i) 0 4, k := fld (s.tupleBytes d c o cw base i) 4 4, bytes := s.tupleBytes d c o cw base i }

theorem State.fld_tupleBytes (s : State) (d c : Nat) (o : JOp) (cw : Crew) (base off n : Nat) (h : off + n ≤ 16) :
    fld (s.tupleBytes d c o cw base 0) off n = s.jNat (o.eng d c) cw .core (base + off) n := by
  unfold State.tupleBytes State.jNat
  rw [fld_map_range _ h]
  refine congrArg leNat (List.map_congr_left fun i _ => ?_)
  rw [Nat.mul_zero, Nat.add_zero, Nat.add_assoc]

/-- What a join of one tuple with one tuple delivers. -/
def State.singleJoin (s : State) (d c : Nat) (o : JOp) (cw : Crew) : Begun :=
  { sums := if s.tupleK d c o cw 0 = s.tupleK d c o cw 1 then
      [{ key := jkey o.tbl (s.tupleCoord d c o cw 0) (s.tupleCoord d c o cw 1),
         val := ivlPair (ivMul (s.tupleValue d c o cw 0).1 (s.tupleValue d c o cw 1).1),
         st := (s.tupleValue d c o cw 0).2 ||| (s.tupleValue d c o cw 1).2, a := 0, pos := 0 }] else [],
    st := 0, last := true, fails := 0 }

theorem State.streamBegin_single (ha : o.asp = .core) (hb : o.bsp = .core) (hna : o.uhi 0 = 1) (hnb : o.uhi 1 = 1) (hstep : o.step = 0)
    (hpos : o.keyPos = 0) (hfmt : o.afmt ≠ 0x0A) (hca : s.tupleCoord d c o cw 0 < 2 ^ 22) (hcb : s.tupleCoord d c o cw 1 < 2 ^ 22)
    (hka : s.tupleK d c o cw 0 < 2 ^ 22) (hkb : s.tupleK d c o cw 1 < 2 ^ 22) :
    ∃ s1, s.streamBegin d c o cw = (.ok (s.singleJoin d c o cw), s1) := by
  have hcoord : ∀ n, (s.tupleAt d c o cw (o.ulo n) 0).coord = s.tupleCoord d c o cw n := fun n =>
    s.fld_tupleBytes d c o cw (o.ulo n) 0 4 (by omega)
  have hk : ∀ n, (s.tupleAt d c o cw (o.ulo n) 0).k = s.tupleK d c o cw n := fun n =>
    s.fld_tupleBytes d c o cw (o.ulo n) 4 4 (by omega)
  have hvalue : ∀ n, fld (s.tupleAt d c o cw (o.ulo n) 0).bytes 8 8 = s.jNat (o.eng d c) cw .core (o.ulo n + 8) 8 := fun n =>
    s.fld_tupleBytes d c o cw (o.ulo n) 8 8 (by omega)
  have hpoint : (o.afmt == 0x0A) = false := by simpa using hfmt
  have hjoin := joinFrom_single (w := { a := s.tupleAt d c o cw (o.ulo 0), b := s.tupleAt d c o cw (o.ulo 1), na := 1, nb := 1, point := false })
    rfl rfl (tupleErr_first (by rw [hcoord]; exact hca) (by rw [hk]; exact hka)) (tupleErr_first (by rw [hcoord]; exact hcb) (by rw [hk]; exact hkb))
  unfold State.streamBegin
  simp only [ha, hb, clusOnly_core, State.jWindows_nil, hna, hnb, hpoint, hstep, hpos]
  refine ⟨_, Prod.ext (congrArg Except.ok ?_) rfl⟩
  erw [hjoin]
  unfold State.singleJoin State.tupleValue
  rw [← hcoord 0, ← hcoord 1, ← hk 0, ← hk 1, ← hvalue 0, ← hvalue 1]
  by_cases heq : (s.tupleAt d c o cw (o.ulo 0) 0).k = (s.tupleAt d c o cw (o.ulo 1) 0).k
  · rw [if_pos heq, if_pos heq]
    rfl
  · rw [if_neg heq, if_neg heq]
    rfl

end Stream

/-! ## The placing of sums: R418 and R419 -/

section Place
variable {s s1 : State} {o : JOp} {cw : Crew} {d c : Nat} {st : BitVec 6}

/-- The operation once all the sums of its pass are placed. -/
def JOp.allPlaced (o : JOp) (st : BitVec 6) : JOp :=
  let o1 := { o with sums := [], status := o.status ||| st, st := .running }
  if o.kind = .stream then o1 else { o1 with keyPos := o.keyPos + (o.sums.length - 0) }

theorem JOp.allPlaced_seq (o : JOp) (st : BitVec 6) : (o.allPlaced st).seq = o.seq := by unfold JOp.allPlaced; split <;> rfl
theorem JOp.allPlaced_status (o : JOp) (st : BitVec 6) : (o.allPlaced st).status = o.status ||| st := by unfold JOp.allPlaced; split <;> rfl
theorem JOp.allPlaced_batch (o : JOp) (st : BitVec 6) : (o.allPlaced st).batch = o.batch := by unfold JOp.allPlaced; split <;> rfl

theorem State.opPlace_all (h : s.placeKeys (o.eng d c) cw o.tbl o.sums = ([], none, st, s1)) :
    s.opPlace d c o cw = if o.written then
        (if o.fails = 0 then s1.opDone d c (o.allPlaced st) else s1.opError d c (o.allPlaced st) o.fails)
      else s1.updOp d c o.seq fun _ => { o.allPlaced st with step := o.step + 1, keyPos := 0 } := by
  unfold State.opPlace JOp.allPlaced
  rw [h]
  cases hkind : o.kind <;> rfl

theorem State.opPlace_ends (h : s.placeKeys (o.eng d c) cw o.tbl o.sums = ([], none, st, s1)) (hw : o.written = true) (hf : o.fails = 0) :
    ∃ o2, o2.seq = o.seq ∧ o2.status = o.status ||| st ∧ o2.batch = o.batch ∧ s.opPlace d c o cw = s1.opDone d c o2 := by
  refine ⟨o.allPlaced st, o.allPlaced_seq st, o.allPlaced_status st, o.allPlaced_batch st, ?_⟩
  rw [State.opPlace_all h, if_pos hw, if_pos hf]

theorem State.opPlace_next (h : s.placeKeys (o.eng d c) cw o.tbl o.sums = ([], none, st, s1)) (hw : o.written = false) :
    s.opPlace d c o cw = s1.updOp d c o.seq fun _ =>
      { o with sums := [], status := o.status ||| st, st := .running, step := o.step + 1, keyPos := 0 } := by
  have hnext : ({ o.allPlaced st with step := o.step + 1, keyPos := 0 } : JOp) =
      { o with sums := [], status := o.status ||| st, st := .running, step := o.step + 1, keyPos := 0 } := by
    unfold JOp.allPlaced
    split <;> rfl
  rw [State.opPlace_all h, if_neg (ne_true_of_eq_false hw), hnext]

theorem State.table_of_crew {r : CrewRef} (hcw : s.crewOf r = some cw) (n : Nat) : s.table r n = cw.table n := by
  unfold State.table
  rw [hcw]

/-- The position of a key in a dense-direct table is the only one that is tried. -/
theorem firstPlace_single {entry : Nat → Option CEntry} {key p : Nat} (h : ∀ e, entry p = some e → e.key = key) :
    firstPlace entry key [p] = some (p, entry p) := by
  unfold firstPlace
  cases he : entry p with
  | none => rfl
  | some e => exact if_pos (h e he)

theorem State.placeKey_direct {m : JSum} {p : Nat} (hcw : s.crewOf (o.crew d c) = some cw) (hmode : (cw.table o.tbl).mode = 1)
    (hdirect : (cw.table o.tbl).direct m.key = some p)
    (hkey : ∀ e, (s.coreOf d c).caddy.find? ((cw.table o.tbl).slot cw p) = some e → e.key = m.key) :
    let x := cw.table o.tbl
    let res := x.added (((s.coreOf d c).caddy.find? (x.slot cw p)).map x.entryIvl) (ivlOf m.val)
    ∃ s1, s.placeKey (o.eng d c) cw o.tbl m = (none, m.st ||| res.st, s1) ∧ s1.mem = s.mem ∧
      (s1.coreOf d c).caddy = (s.coreOf d c).caddy.set (x.slot cw p) (x.entry m.key res.bits) := by
  intro x res
  have hprobes : x.probes m.key = [p] := by
    unfold JTable.probes
    rw [if_pos hmode, hdirect]
    rfl
  have htable : s.table (o.eng d c).r o.tbl = x := State.table_of_crew hcw o.tbl
  have hfirst : firstPlace (fun p => (s.coreOf d c).caddy.find? (x.slot cw p)) m.key (x.probes m.key) =
      some (p, (s.coreOf d c).caddy.find? (x.slot cw p)) := by
    rw [hprobes]
    exact firstPlace_single hkey
  refine ⟨s.updCore d c fun k => { k with caddy := k.caddy.set (x.slot cw p) (x.entry m.key res.bits) }, ?_, rfl, ?_⟩
  · unfold State.placeKey
    rw [htable]
    dsimp only
    erw [hfirst]
    rfl
  · exact congrArg Core.caddy (State.coreOf_setCore s d c _)

end Place

/-! ## The steps of a drain: R445 to R447 -/

section Drain
variable {s s1 : State} {o o1 : JOp} {cw : Crew} {d c : Nat} {t : TensorRec}

theorem State.drainStep_begins (hcw : s.crewOf (o.crew d c) = some cw) (hw : o.written = false) (hrcd : o.rcd = none)
    (h : s.drainBegin d c o cw = (.ok o1, s1)) : s.drainStep d c o = s1.updOp d c o.seq fun y => { o1 with logged := y.logged } := by
  unfold State.drainStep
  simp only [hcw, hw, hrcd, h, Bool.false_eq_true, if_false]

theorem State.drainStep_stops (hcw : s.crewOf (o.crew d c) = some cw) (hw : o.written = false) (hrcd : o.rcd = none) {e : DrainStop}
    (h : s.drainBegin d c o cw = (.error e, s1)) : s.drainStep d c o = s1.drainStopped d c o e := by
  unfold State.drainStep
  simp only [hcw, hw, hrcd, h, Bool.false_eq_true, if_false]

theorem State.drainStep_list (hcw : s.crewOf (o.crew d c) = some cw) (hw : o.written = false) (hrcd : o.rcd = some t) (hl : o.list = true) :
    s.drainStep d c o = s.listStep d c o cw := by
  unfold State.drainStep
  simp only [hcw, hw, hrcd, hl, Bool.false_eq_true, if_false, if_true]

theorem State.drainStep_tile (hcw : s.crewOf (o.crew d c) = some cw) (hw : o.written = false) (hrcd : o.rcd = some t) (hl : o.list = false) :
    s.drainStep d c o = s.tileStep d c o cw t := by
  unfold State.drainStep
  simp only [hcw, hw, hrcd, hl, Bool.false_eq_true, if_false]

/-- The value and the bits of the next element of a tile whose format has no scales. -/
def JOp.tileValue (o : JOp) (t : TensorRec) : Ivl × BitVec 6 := valueAt o.sums (o.tileKey (o.keyPos % t.sizeOf 0) (o.keyPos / t.sizeOf 0))
def JOp.tileElem (o : JOp) (cw : Crew) (t : TensorRec) : Nat × BitVec 6 :=
  drainElem (cw.table o.tbl).fmt cw.cfg.nbv.toNat o.ofmt o.oinf none (o.tileValue t).1
/-- Where it goes. -/
def JOp.tileAddr (o : JOp) (t : TensorRec) : Nat := t.addr [o.keyPos % t.sizeOf 0, o.keyPos / t.sizeOf 0]

theorem State.tileStep_core (hat : t.at_ = .core) (hfmt : isB8 o.ofmt = false)
    (hin : s.engScratch (o.crew d c) cw .core (o.tileAddr t) (leBytes t.bytes (o.tileElem cw t).1).length = true)
    (hmore : o.keyPos + 1 < t.sizeOf 0 * t.sizeOf 1) :
    s.tileStep d c o cw t =
      (s.putScr (o.crew d c) cw .core 0 (o.tileAddr t) (leBytes t.bytes (o.tileElem cw t).1)).updOp d c o.seq fun y =>
        { y with keyPos := o.keyPos + 1, status := o.status ||| (o.tileValue t).2 ||| (o.tileElem cw t).2, refused := o.refused } := by
  have hwrites : s.drainWrites d c cw o [(t.at_, o.tileAddr t, leBytes t.bytes (o.tileElem cw t).1)] =
      (none, o, s.putScr (o.crew d c) cw .core 0 (o.tileAddr t) (leBytes t.bytes (o.tileElem cw t).1)) := by
    unfold State.drainWrites
    rw [hat, State.engWrite_core (g := o.eng d c) (need := fun a => attrW a) hin]
    rfl
  unfold State.tileStep
  simp only [hfmt, Bool.false_eq_true, if_false, List.nil_append]
  erw [hwrites]
  exact if_pos hmore

end Drain

end Sys2Proof.Machine
end

section
/-!
The end of a drain, R450 and R451, and of a batch, R428.
-/
namespace Sys2Proof.Machine

/-! ## What the end of a wait leaves: memory, tables, entries and the Infuser's queue -/

/-- The memory, the tables of every crew, the saved crews, and the entries and the Infuser queue of every core are what they were. -/
structure SameInfuser (s t : State) : Prop where
  mem : t.mem = s.mem
  tables : ∀ r, (t.crewOf r).map Crew.tables = (s.crewOf r).map Crew.tables
  saved : ∀ d, (t.dieOf d).savedCrews = (s.dieOf d).savedCrews
  queue : ∀ d c, (t.coreOf d c).jq = (s.coreOf d c).jq
  caddy : ∀ d c, (t.coreOf d c).caddy = (s.coreOf d c).caddy

section Keeps
variable {s t u : State}

theorem SameInfuser.refl (s : State) : SameInfuser s s := ⟨rfl, fun _ => rfl, fun _ => rfl, fun _ _ => rfl, fun _ _ => rfl⟩

theorem SameInfuser.trans (h : SameInfuser s t) (k : SameInfuser t u) : SameInfuser s u :=
  ⟨k.mem.trans h.mem, fun r => (k.tables r).trans (h.tables r), fun d => (k.saved d).trans (h.saved d),
    fun d c => (k.queue d c).trans (h.queue d c), fun d c => (k.caddy d c).trans (h.caddy d c)⟩

theorem SameInfuser.foldl {α : Type} {f : State → α → State} (h : ∀ s x, SameInfuser s (f s x)) (l : List α) (s : State) :
    SameInfuser s (l.foldl f s) := foldl_keeps (P := fun t => SameInfuser s t) (.refl s) fun t x ht => ht.trans (h t x)

theorem SameInfuser.of_dies (hd : t.dies = s.dies) (hm : t.mem = s.mem) : SameInfuser s t :=
  have hcore : ∀ d c, t.coreOf d c = s.coreOf d c := fun d c => by unfold State.coreOf; rw [State.dieOf_of_dies hd]
  ⟨hm, fun r => by rw [State.crewOf_of_dies hd], fun d => by rw [State.dieOf_of_dies hd], fun d c => by rw [hcore], fun d c => by rw [hcore]⟩

theorem SameInfuser.updCrew (s : State) (r : CrewRef) {f : Crew → Crew} (hf : ∀ w, (f w).tables = w.tables) : SameInfuser s (s.updCrew r f) := by
  refine ⟨State.updCrew_mem .., fun q => ?_, fun d => State.savedCrews_of_rest (State.rest_updCrew ..), fun d c => ?_, fun d c => ?_⟩
  · rw [State.crewOf_updCrew]
    split
    · next h =>
      rw [h]
      cases s.crewOf r with
      | none => rfl
      | some w => exact congrArg some (hf w)
    · rfl
  · exact State.coreField_updCrew Core.jq s r f (fun _ _ => rfl) d c
  · exact State.coreField_updCrew Core.caddy s r f (fun _ _ => rfl) d c

theorem SameInfuser.updCore (s : State) (d c : Nat) {f : Core → Core} (hcrews : ∀ x, (f x).crews = x.crews) (hjq : ∀ x, (f x).jq = x.jq)
    (hcaddy : ∀ x, (f x).caddy = x.caddy) : SameInfuser s (s.updCore d c f) :=
  ⟨rfl, fun r => by rw [State.crewOf_updCore _ _ _ _ hcrews], fun k => State.savedCrews_updCore ..,
    fun d' c' => State.coreField_updCore Core.jq s d c hjq d' c', fun d' c' => State.coreField_updCore Core.caddy s d c hcaddy d' c'⟩

theorem SameInfuser.updDie (s : State) (k : Nat) {f : Die → Die} (hcores : ∀ x, (f x).cores = x.cores)
    (hsaved : (f (s.dieOf k)).savedCrews = (s.dieOf k).savedCrews) : SameInfuser s (s.updDie k f) := by
  have hcore : ∀ d c, (s.updDie k f).coreOf d c = s.coreOf d c := fun d c => by
    unfold State.coreOf
    by_cases h : d = k
    · rw [h, State.dieOf_updDie, hcores]
    · rw [State.dieOf_updDie_ne _ _ h]
  refine ⟨rfl, fun r => ?_, fun d => ?_, fun d c => by rw [hcore], fun d c => by rw [hcore]⟩
  · unfold State.crewOf
    rw [hcore]
  · by_cases h : d = k
    · rw [h, State.dieOf_updDie, hsaved]
    · rw [State.dieOf_updDie_ne _ _ h]

theorem SameInfuser.setThread (s : State) (t : ThreadRef) (b : Band) : SameInfuser s (s.setThread t b) :=
  .updCrew s t.crew fun w => by cases t.band <;> rfl

theorem SameInfuser.updThread (s : State) (t : ThreadRef) (f : Band → Band) : SameInfuser s (s.updThread t f) := by
  unfold State.updThread
  split
  · exact .setThread ..
  · exact .refl s

theorem SameInfuser.liveSub (s : State) (d : Nat) (h : Handle) (n : Nat) : SameInfuser s (s.liveSub d h n) := by
  unfold State.liveSub State.updGridDie State.updDisp
  apply SameInfuser.updDie
  · exact fun _ => rfl
  · rfl

theorem SameInfuser.performCsr (s : State) (r : CrewRef) (w : Nat × W64) : SameInfuser s (s.performCsr r w) := by
  unfold State.performCsr
  split
  · exact .updCrew s r fun _ => rfl
  · split
    · exact .updCrew s r fun _ => rfl
    · unfold State.writeCpyCtl
      refine SameInfuser.trans (.foldl (fun t ch => ?_) _ s) (.foldl (fun t ch => ?_) _ _)
      · split
        · unfold State.cpyReset
          split
          · exact .updCrew t r fun _ => rfl
          · exact .refl t
        · exact .refl t
      · split
        · exact .updCrew t r fun _ => rfl
        · exact .refl t

theorem SameInfuser.tasksEnd (s : State) (t : ThreadRef) : SameInfuser s (s.tasksEnd t) := by
  unfold State.tasksEnd
  split
  · dsimp only
    split
    · exact .refl s
    · exact (SameInfuser.setThread ..).trans (.liveSub ..)
  · exact .refl s

theorem SameInfuser.endBand (s : State) (t : ThreadRef) : SameInfuser s (s.endBand t) := by
  unfold State.endBand
  split
  · next cw b _ _ =>
    split
    · exact .setThread ..
    · have hcsr := SameInfuser.foldl (fun (x : State) w => SameInfuser.performCsr x t.crew w) (b.pends.filterMap fun p => p.csr) s
      exact ((hcsr.trans (.setThread ..)).trans (.tasksEnd ..)).trans (.of_dies (State.barNudge_dies ..) (State.barNudge_mem ..))
  · exact .refl s

theorem SameInfuser.endIfEmpty (s : State) (t : ThreadRef) : SameInfuser s (s.endIfEmpty t) := by
  unfold State.endIfEmpty
  split
  · split
    · exact .refl s
    · split
      · exact .endBand ..
      · exact .setThread ..
  · exact .refl s

theorem SameInfuser.dropLate (s : State) (t : ThreadRef) : SameInfuser s (s.dropLate t) := by
  unfold State.dropLate
  split
  · split
    · exact .updCrew s t.crew fun _ => rfl
    · exact .refl s
  · exact .refl s

theorem SameInfuser.settleEnd (s : State) (t : ThreadRef) : SameInfuser s (s.settleEnd t) :=
  ((SameInfuser.tasksEnd s t).trans (.endIfEmpty ..)).trans (.dropLate ..)

/-- No saved crew is the one that waits. -/
def State.NotSaved (s : State) (t : ThreadRef) : Prop := ∀ y ∈ (s.dieOf t.die).savedCrews, y.home ≠ t.crew

theorem State.NotSaved.of_same (h : s.NotSaved v) (k : SameInfuser s t) : t.NotSaved v := by
  unfold State.NotSaved
  rw [k.saved]
  exact h

theorem SameInfuser.updSaved (s : State) (d : Nat) {f : SavedCrew → SavedCrew} (hf : ∀ y ∈ (s.dieOf d).savedCrews, f y = y) :
    SameInfuser s (s.updSaved d f) := by
  have hnone : ((s.dieOf d).savedCrews.filter fun v => f v != v) = [] := by
    rw [List.filter_eq_nil_iff]
    exact fun y hy => by simp [hf y hy]
  unfold State.updSaved
  dsimp only
  rw [hnone]
  refine .updDie s d (fun _ => rfl) ?_
  exact (List.map_congr_left hf).trans (List.map_id' _)

theorem SameInfuser.updWaiting {v : ThreadRef} (h : s.NotSaved v) (id : Nat) (f : Band → Band) : SameInfuser s (s.updWaiting v id f) := by
  have hsaved : ∀ waits_ : Crew → Bool, SameInfuser s (State.updWaiting.saved v f s waits_) := fun waits_ => by
    refine .updSaved s v.die fun y hy => ?_
    have hhome : (y.home == v.crew) = false := by simpa using h y hy
    rw [hhome]
    rfl
  unfold State.updWaiting
  dsimp only
  split
  · split
    · exact .updThread ..
    · exact hsaved _
  · exact hsaved _

theorem SameInfuser.waitDone {v : ThreadRef} (h : s.NotSaved v) (id : Nat) : SameInfuser s (s.waitDone v id) := by
  have hwait := SameInfuser.updWaiting h id fun b => (b.dropWait id).acked s.free id
  unfold State.waitDone
  generalize s.updWaiting v id (fun b => (b.dropWait id).acked s.free id) = s1 at hwait
  have hfree : SameInfuser s1 { s1 with free := s.free + 65 } := .of_dies rfl rfl
  exact (hwait.trans hfree).trans (SameInfuser.settleEnd _ v)

theorem SameInfuser.engDone (s : State) (g : Eng) : SameInfuser s (s.engDone g) := by
  unfold State.engDone State.forgetRemote
  split
  · apply SameInfuser.updCore <;> exact fun _ => rfl
  · exact .refl s

theorem SameInfuser.engRest (s : State) (g : Eng) : SameInfuser s (s.engRest g) := by
  unfold State.engRest
  split
  · exact .refl s
  · exact .engDone s g

end Keeps

end Sys2Proof.Machine
end

section
/-!
A drain's last step empties its table, R450; a batch completes, R428.
-/
namespace Sys2Proof.Machine

/-! ## The last step of a drain -/

section Drained
variable {s : State} {o : JOp} {cw : Crew} {d c : Nat}

/-- A table that its drain has emptied. -/
def JOp.emptied (o : JOp) (x : JTable) : JTable :=
  { x with sphead := 0, sptail := 0, spcount := 0, spills := 0, outwin := min (2 ^ 32 - 1) (x.outwin + o.outside) }

/-- The table has no entries, and its drain is still in the queue. -/
def State.tableEmptied (s : State) (d c : Nat) (o : JOp) (x : JTable) : State :=
  (s.clearEntries (o.crew d c) x).setTable (o.crew d c) o.tbl (o.emptied x)

/-- The drain leaves the queue, and then its flag clears. -/
def State.drainOver (s : State) (d c : Nat) (o : JOp) (x : JTable) : State :=
  (((s.tableEmptied d c o x).opDone d c o).waitDone o.thread o.waitId).engRest (o.eng d c)

/-- An operation leaves the queue. -/
def State.dequeued (s : State) (d c seq : Nat) : State :=
  s.updCore d c fun k => { k with jq := k.jq.filter fun x => x.seq != seq }.parkedOnly

theorem State.tableEmptied_mem (s : State) (d c : Nat) (o : JOp) (x : JTable) : (s.tableEmptied d c o x).mem = s.mem := by
  unfold State.tableEmptied State.setTable State.clearEntries
  rw [State.updCrew_mem]
  cases s.crewOf (o.crew d c) <;> rfl

theorem State.clearEntries_some (hcw : s.crewOf (o.crew d c) = some cw) (x : JTable) : s.clearEntries (o.crew d c) x =
    s.updCore d c fun k => { k with caddy := k.caddy.filter fun e => !(decide (x.slot cw 0 ≤ e.1) && decide (e.1 < x.slot cw 0 + x.slots)) } := by
  unfold State.clearEntries
  rw [hcw]
  rfl

theorem State.tableEmptied_crew (hcw : s.crewOf (o.crew d c) = some cw) (x : JTable) : (s.tableEmptied d c o x).crewOf (o.crew d c) =
    some { cw with tables := cw.tables.set o.tbl (o.emptied x) } := by
  have hclear : (s.clearEntries (o.crew d c) x).crewOf (o.crew d c) = some cw := by
    rw [State.clearEntries_some hcw, State.crewOf_updCore, hcw]
    exact fun _ => rfl
  unfold State.tableEmptied State.setTable
  rw [State.crewOf_updCrew, if_pos rfl, hclear]
  rfl

theorem State.tableEmptied_saved (s : State) (d c : Nat) (o : JOp) (x : JTable) (k : Nat) :
    ((s.tableEmptied d c o x).dieOf k).savedCrews = (s.dieOf k).savedCrews := by
  unfold State.tableEmptied State.setTable
  rw [State.savedCrews_of_rest (State.rest_updCrew ..)]
  unfold State.clearEntries
  cases s.crewOf (o.crew d c) with
  | none => rfl
  | some cw => exact State.savedCrews_updCore ..

theorem State.tableEmptied_caddy (hcw : s.crewOf (o.crew d c) = some cw) (x : JTable) :
    ∀ e ∈ ((s.tableEmptied d c o x).coreOf d c).caddy, ¬(x.slot cw 0 ≤ e.1 ∧ e.1 < x.slot cw 0 + x.slots) := by
  have hcaddy : ((s.tableEmptied d c o x).coreOf d c).caddy =
      (s.coreOf d c).caddy.filter fun e => !(decide (x.slot cw 0 ≤ e.1) && decide (e.1 < x.slot cw 0 + x.slots)) := by
    unfold State.tableEmptied State.setTable
    rw [State.coreField_updCrew Core.caddy _ _ _ (fun _ _ => rfl), State.clearEntries_some hcw, State.coreOf_updCore_self]
  intro e he
  rw [hcaddy, List.mem_filter] at he
  have hout := he.2
  simp only [Bool.not_eq_true', Bool.and_eq_false_iff, decide_eq_false_iff_not] at hout
  exact fun h => hout.elim (fun h1 => h1 h.1) fun h2 => h2 h.2

theorem State.dequeued_jq (s : State) (d c seq : Nat) : ∀ q ∈ ((s.dequeued d c seq).coreOf d c).jq, q.seq ≠ seq := by
  intro q hq
  unfold State.dequeued at hq
  rw [State.coreOf_updCore_self] at hq
  have hmem : q ∈ (s.coreOf d c).jq.filter fun x => x.seq != seq := hq
  simpa using (List.mem_filter.1 hmem).2

theorem State.dequeued_caddy (s : State) (d c seq : Nat) : ((s.dequeued d c seq).coreOf d c).caddy = (s.coreOf d c).caddy := by
  unfold State.dequeued
  rw [State.coreOf_updCore_self]
  rfl

theorem State.dequeued_crew (s : State) (d c seq : Nat) (r : CrewRef) : (s.dequeued d c seq).crewOf r = s.crewOf r := by
  unfold State.dequeued
  apply State.crewOf_updCore
  exact fun _ => rfl

theorem SameInfuser.jReads (h : s.NotSaved o.thread) (d c : Nat) : SameInfuser s (s.jReads d c o) := by
  unfold State.jReads
  split
  · exact .refl s
  · exact .waitDone h o.waitId

theorem SameInfuser.opDone (h : s.NotSaved o.thread) (d c : Nat) : SameInfuser (s.dequeued d c o.seq) (s.opDone d c o) := by
  have hsaved : (s.dequeued d c o.seq).NotSaved o.thread := by
    unfold State.NotSaved State.dequeued
    rw [State.savedCrews_updCore]
    exact h
  unfold State.opDone
  change SameInfuser _ (State.jReads (if o.kind.batched then (s.dequeued d c o.seq).updThread o.thread _ else s.dequeued d c o.seq) d c o)
  split
  · have hst := SameInfuser.updThread (s.dequeued d c o.seq) o.thread
      fun b => { b with batchSt := b.batchSt.upd 0 (o.batch.getD 16) (fun st => st ||| o.status) }
    exact hst.trans (.jReads (hsaved.of_same hst) d c)
  · exact .jReads hsaved d c

theorem State.drainOver_spec (hcw : s.crewOf (o.crew d c) = some cw) (hns : s.NotSaved o.thread) (x : JTable) :
    (s.drainOver d c o x).mem = s.mem ∧ (s.drainOver d c o x).table (o.crew d c) o.tbl = o.emptied x ∧
      (∀ e ∈ ((s.drainOver d c o x).coreOf d c).caddy, ¬(x.slot cw 0 ≤ e.1 ∧ e.1 < x.slot cw 0 + x.slots)) ∧
      ∀ q ∈ ((s.drainOver d c o x).coreOf d c).jq, q.seq ≠ o.seq := by
  have hns1 : (s.tableEmptied d c o x).NotSaved o.thread := by
    unfold State.NotSaved
    rw [State.tableEmptied_saved]
    exact hns
  have hdone := SameInfuser.opDone hns1 d c
  have hns2 : ((s.tableEmptied d c o x).opDone d c o).NotSaved o.thread := by
    unfold State.NotSaved
    rw [hdone.saved]
    unfold State.dequeued
    rw [State.savedCrews_updCore]
    exact hns1
  have hsame : SameInfuser ((s.tableEmptied d c o x).dequeued d c o.seq) (s.drainOver d c o x) :=
    (hdone.trans (.waitDone hns2 o.waitId)).trans (.engRest ..)
  refine ⟨hsame.mem.trans (s.tableEmptied_mem d c o x), ?_, ?_, ?_⟩
  · have htables := hsame.tables (o.crew d c)
    rw [State.dequeued_crew, State.tableEmptied_crew hcw] at htables
    obtain ⟨w, hw, htbl⟩ := Option.map_eq_some_iff.1 htables
    rw [State.table_of_crew hw]
    unfold Crew.table
    rw [htbl]
    exact Tbl.get_set_self ..
  · rw [hsame.caddy, State.dequeued_caddy]
    exact State.tableEmptied_caddy hcw x
  · rw [hsame.queue]
    exact State.dequeued_jq _ d c o.seq

theorem exec_drainComplete_over (hnext : (s.jSettle s.cur.die s.cur.core).nextOp s.cur.die s.cur.core = some o)
    (hcw : (s.jSettle s.cur.die s.cur.core).crewOf (o.crew s.cur.die s.cur.core) = some cw) (hkind : o.kind = .drain) (hw : o.written = true) :
    exec .drainComplete s = .next (((s.jSettle s.cur.die s.cur.core).drainOver s.cur.die s.cur.core o (cw.table o.tbl)).jSettle
      s.cur.die s.cur.core) := by
  show execDrainComplete s = _
  unfold execDrainComplete
  rw [infuserEvent_runs hnext hkind]
  simp only [hw, Bool.not_true, Bool.false_eq_true, if_false, State.table_of_crew hcw]
  rfl

end Drained

/-! ## The end of a batch -/

section Batch
variable {s : State} {t : ThreadRef} {b : Band}

theorem exec_batchComplete_waits (hb : s.thread s.cur = some b) (h : b.batchPend.get false s.unit = false ∨ s.batchOver s.cur s.unit = false) :
    exec .batchComplete s = .next s := by
  show execBatchComplete s = _
  unfold execBatchComplete
  rw [hb]
  rcases h with h | h <;> simp [h]

/-- A band whose batch completes, before its `JBATCH` is told. -/
def Band.batchClosed (b : Band) (now n : Nat) : Band :=
  { b with batchPend := b.batchPend.set n false, batchSt := b.batchSt.set n 0 }.addStatus now (b.batchSt.get 0 n)

def Band.batchDone (b : Band) (now n : Nat) : Band :=
  match (b.batchClosed now n).waits.find? fun w => w.kind == .batch n with
  | some w => (b.batchClosed now n).dropWait w.id
  | none => b.batchClosed now n

theorem State.batchDone_eq (hb : s.thread t = some b) (n : Nat) : s.batchDone t n = s.setThread t (b.batchDone (s.cyc t.die) n) := by
  unfold State.batchDone State.updThread
  rw [hb]
  rfl

theorem exec_batchComplete_over (hb : s.thread s.cur = some b) (hpend : b.batchPend.get false s.unit = true)
    (hover : s.batchOver s.cur s.unit = true) :
    exec .batchComplete s = .next (s.setThread s.cur (b.batchDone (s.cyc s.cur.die) s.unit)) := by
  rw [← State.batchDone_eq hb]
  show execBatchComplete s = _
  unfold execBatchComplete
  rw [hb]
  simp [hpend, hover]

/-- What a batch leaves of its band, but for its flags and waits. -/
structure Band.BatchOver (b b' : Band) (n : Nat) : Prop where
  pend : b'.batchPend = b.batchPend.set n false
  r : b'.r = { b.r with status := b.r.status ||| b.batchSt.get 0 n }
  pc : b'.x.pc = b.x.pc
  phase : b'.x.phase = b.x.phase

theorem Band.batchClosed_over (b : Band) (now n : Nat) : b.BatchOver (b.batchClosed now n) n := by
  have hzero : ∀ x : BitVec 6, x ||| 0 = x := fun x => BitVec.or_zero
  unfold Band.batchClosed Band.addStatus
  split
  · next h => exact ⟨rfl, by rw [h, hzero], rfl, rfl⟩
  · exact ⟨rfl, rfl, rfl, rfl⟩

theorem Band.batchClosed_waits (b : Band) (now n : Nat) : (b.batchClosed now n).waits = b.waits := by
  unfold Band.batchClosed Band.addStatus
  split <;> rfl

theorem Band.BatchOver.dropWait {b b' : Band} {n : Nat} (h : b.BatchOver b' n) (id : Nat) : b.BatchOver (b'.dropWait id) n := by
  obtain ⟨hpend, hr, hpc, hphase⟩ := h
  unfold Band.dropWait
  split
  · next w _ =>
    cases hf : w.flag <;> exact ⟨hpend, hr, hpc, hphase⟩
  · exact ⟨hpend, hr, hpc, hphase⟩

theorem Band.batchDone_over (b : Band) (now n : Nat) : b.BatchOver (b.batchDone now n) n := by
  unfold Band.batchDone
  split
  · exact (b.batchClosed_over now n).dropWait _
  · exact b.batchClosed_over now n

theorem Band.waits_dropWait {b : Band} {w : Waiter} (h : w ∈ b.waits) : (b.dropWait w.id).waits = b.waits.filter fun y => y.id != w.id := by
  obtain ⟨v, hv⟩ := Option.isSome_iff_exists.1 (List.find?_isSome.2 ⟨w, h, (beq_self_eq_true w.id)⟩ :
    (b.waits.find? fun y => y.id == w.id).isSome = true)
  unfold Band.dropWait
  rw [hv]
  dsimp only
  cases v.flag <;> rfl

theorem Band.batchDone_waits (b : Band) (now n : Nat) {w : Waiter} (h : b.waits.find? (fun w => w.kind == .batch n) = some w) :
    (b.batchDone now n).waits = b.waits.filter fun y => y.id != w.id := by
  have hclosed := b.batchClosed_waits now n
  unfold Band.batchDone
  rw [hclosed, h]
  dsimp only
  rw [Band.waits_dropWait (by rw [hclosed]; exact List.mem_of_find?_eq_some h), hclosed]

end Batch

end Sys2Proof.Machine
end

section
/-!
The steps of the copy engine and of the Infuser, and the ends of batches.
-/
namespace Sys2Proof.Machine.Settled

/-- Settles O54, event by event: the cases of a copy command's start and delivery, of the Infuser's passes and drains, and of a batch's end. -/
theorem engineEvents : Obligations.EngineEvents := by
  unfold Obligations.EngineEvents
  refine ⟨?start, ?deliver, ?control, ?infuser, ?batch⟩
  case start =>
    intro s cw k rest d c r g ra run hk
    refine ⟨fun m hop => exec_copyCommandStart_fence hk hop, fun hop hcw hrcd hst => ?_⟩
    rw [exec_copyCommandStart_command hk hop hcw hrcd hst]
    refine ⟨fun hal => congrArg Host.Outcome.next (State.copyStart_misaligned hal), ?_⟩
    intro rd s0 hal hheld hread s1 t
    have hr : s.ReadsRecord r cw s.unit k rd s0 := ⟨hal, hheld, hread⟩
    refine ⟨fun hbad => congrArg Host.Outcome.next (State.copyStart_badRecord hr hbad), fun htensor hdense hcount => ?_⟩
    have hok : (s0.recordRead r cw s.unit k rd).RecordOk r cw k rd.bytes := ⟨htensor, hdense, hcount⟩
    refine ⟨fun hg hn => congrArg Host.Outcome.next (State.copyStart_tooMany hr hok hg hn), fun hg hadd => ?_, ?_⟩
    · rw [State.copyStart_single hr hok hg hadd]
      exact ⟨fun hout => congrArg Host.Outcome.next (if_pos hout), fun hout => congrArg Host.Outcome.next (if_neg hout)⟩
    · intro hg hn offs hlist hopen bs idx s2
      rw [State.copyStart_indexed hr hok hg hn hlist hopen]
      exact ⟨fun hout => congrArg Host.Outcome.next (if_pos hout), fun hout => congrArg Host.Outcome.next (if_neg hout)⟩
  case deliver =>
    intro s cw k rest t d c r g cs outside src dst held todo offs hk hcw hrcd hst
    rw [exec_copyCommandComplete_running hk hcw hrcd hst]
    refine ⟨fun hover => congrArg Host.Outcome.next (State.copyStep_over hover), ?_, ?_⟩
    · intro bs u s1 s3 hpos hheld hread bufs s2 hdeliver now
      exact congrArg Host.Outcome.next (State.copyStep_delivers hpos hheld hread hdeliver)
    intro hop hacnt hbuf hat hdsp hpos hdst hinit hsrc bytes k1
    have hin : k.InCore s r cw t := ⟨hop, hacnt, hbuf, hat, hdsp, hpos, hdst, hinit, hsrc⟩
    obtain ⟨v, hstep, hv⟩ := hin.copyStep (ch := s.unit) ⟨rfl, hk, hcw⟩
    exact ⟨v, congrArg Host.Outcome.next hstep, hv.mem, hv.queue, hv.crew⟩
  case control =>
    intro s cw r hcw
    exact ⟨exec_cpyCtlReset_busy, exec_cpyCtlReset_idle hcw, exec_cpyCtlClrerr_spec hcw⟩
  case infuser =>
    intro s o cw d c u x g read placed steps hnext hcw
    have hrun : ∀ (kind : JOpKind) (run : State → Nat → Nat → JOp → State), o.kind = kind →
        infuserEvent kind run s = .next (((run u d c o).engRest g).jSettle d c) := fun kind run hkind => infuserEvent_runs hnext hkind
    have hsteps : ∀ (i : Instr) (kind : JOpKind) (begin : State → Nat → Nat → JOp → Crew → Except JStop Begun × State),
        exec i s = infuserEvent kind (fun s d c o => s.opStep d c o begin) s → o.kind = kind →
        (o.kind = .stream ∨ o.masked = false → o.asp = .core → o.bsp = .core → ∃ b s1, begin u d c o cw = (.ok b, s1)) →
        steps i (begin u d c o cw) := by
      intro i kind begin hexec hkind hcore
      have hbegun : ∀ b s1, o.sums = [] → begin u d c o cw = (.ok b, s1) → exec i s = .next (placed b s1) := by
        intro b s1 hsums hok
        rw [hexec, hrun _ _ hkind, State.opStep_begun hcw hsums hok]
        rfl
      refine ⟨fun hsums => ?_, fun e s1 hsums herr => ?_, hbegun, fun hsums hform ha hb => ?_⟩
      · rw [hexec, hrun _ _ hkind, State.opStep_underWay hcw hsums]
      · rw [hexec, hrun _ _ hkind, State.opStep_stopped hcw hsums herr]
      · obtain ⟨b, s1, hok⟩ := hcore hform ha hb
        exact ⟨b, s1, hok, hbegun b s1 hsums hok⟩
    refine ⟨fun hkind => ?pass, fun hkind => ?bit, fun hkind => ?stream, ?dense, ?join, ?placing, ?direct, ?drain, ?emptied⟩
    case pass =>
      refine hsteps .quarterOperation .pass State.quarterBegin rfl hkind fun hform ha hb => ?_
      exact State.quarterBegin_core (hform.resolve_left (by rw [hkind]; decide)) ha hb
    case bit =>
      refine hsteps .bitmapStep .bit State.bitBegin rfl hkind fun hform ha hb => ?_
      exact State.bitBegin_core (hform.resolve_left (by rw [hkind]; decide)) ha hb
    case stream =>
      exact hsteps .streamJoin .stream State.streamBegin rfl hkind fun _ ha hb => State.streamBegin_core ha hb
    case dense =>
      intro _ hm hs ha hb dp ks a b
      obtain ⟨bg, s1, hbegin, hlast, hsums⟩ := u.quarterBegin_dense (d := d) (c := c) (cw := cw) hm hs ha hb
      refine ⟨bg, s1, hbegin, by rw [hlast, decide_eq_true_iff], fun m => (hsums m).trans ?_⟩
      constructor
      · rintro ⟨l, hl, col, hcol, hm⟩
        exact ⟨l.1, l.2, col, hl, hcol, (u.eq_denseSum_iff m l col).1 hm⟩
      · rintro ⟨l, off, col, hl, hcol, hm⟩
        exact ⟨(l, off), hl, col, hcol, (u.eq_denseSum_iff m (l, off) col).2 hm⟩
    case join =>
      intro _ ha hb hna hnb hstep hpos hfmt ca cb ka kb av bv hca hcb hka hkb
      exact State.streamBegin_single ha hb hna hnb hstep hpos hfmt hca hcb hka hkb
    case placing =>
      exact fun st s1 hplaced => ⟨State.opPlace_ends hplaced, State.opPlace_next hplaced⟩
    case direct =>
      intro m p hmode hdirect place old res hkey
      exact State.placeKey_direct hcw hmode hdirect hkey
    case drain =>
      intro hkind hw
      have hstep : exec .drainOperation s = .next (((u.drainStep d c o).engRest g).jSettle d c) := hrun .drain _ hkind
      rw [hstep]
      refine ⟨fun o1 s1 hrcd hok => ?_, fun e s1 hrcd herr => ?_, fun t hrcd hl => ?_, ?_⟩
      · rw [State.drainStep_begins hcw hw hrcd hok]
      · rw [State.drainStep_stops hcw hw hrcd herr]
      · rw [State.drainStep_list hcw hw hrcd hl]
      · intro t hrcd hl hat hfmt c0 c1 v m bs hin hmore
        rw [State.drainStep_tile hcw hw hrcd hl, State.tileStep_core hat hfmt hin hmore]
        rfl
    case emptied =>
      intro hkind hw hsaved
      obtain ⟨hmem, htable, hcaddy, hqueue⟩ := State.drainOver_spec hcw hsaved x
      exact ⟨u.drainOver d c o x, exec_drainComplete_over hnext hcw hkind hw, hmem, htable, hcaddy, hqueue⟩
  case batch =>
    intro s b hb n
    refine ⟨exec_batchComplete_waits hb, fun hpend hover => ?_⟩
    have hsome : (s.thread s.cur).isSome := by rw [hb]; rfl
    have hdone := b.batchDone_over (s.cyc s.cur.die) n
    exact ⟨_, b.batchDone (s.cyc s.cur.die) n, exec_batchComplete_over hb hpend hover,
      (State.thread_setThread _ _ _ _ hsome).trans (if_pos rfl), hdone.pend, hdone.r, hdone.pc, hdone.phase,
      fun w hw => b.batchDone_waits _ n hw, .setThread .., .setThread hsome _⟩

end Sys2Proof.Machine.Settled
end
